-- ==== Sys2Proof/Word.lean ====
section
/-!
DEFINITION. Sys2Proof/Word.lean: the word types of the VT-S4096-A and the sparse map that holds every keyed
collection of the state. Multi-byte values are little-endian and bit 0 is least significant (00_scope, Notation).
-/
namespace Sys2Proof

/-- One byte. -/
abbrev Byte := BitVec 8
/-- A 32-bit word: a scalar register, a lane of a vector register, a binary32 pattern. -/
abbrev W32 := BitVec 32
/-- A 64-bit word: a BAR0 register, a predicate register, a semaphore. -/
abbrev W64 := BitVec 64
/-- One 64 B descriptor as host software writes it (R502), byte 0 in bits [7:0]. -/
abbrev Desc := BitVec 512

/-- A collection keyed by number, kept with strictly rising keys. -/
abbrev Map (α : Type) := List (Nat × α)

end Sys2Proof
end

