-- ==== Sys2Proof/Syntax.lean ====
section
/-!
DEFINITION. Sys2Proof/Syntax.lean: the commands the device takes, one constructor per row of the operation table, with
the payloads they carry. A descriptor command carries the submitting job and well and the 64 B of the descriptor
(R502); a register command carries the job, index or function it addresses and the value written; an event carries
what the surroundings determined (a check that passed, a temperature that was measured, a packet that arrived); a
Fletegus word carries the core that issues it and the word's fields (R160); a microword carries its sequencer.
-/
namespace Sys2Proof

/-- Fields common to every Fletegus word (Table 6.1, OP fixed by the constructor): END, PR, PS. -/
structure Head where
  endBed : Bool
  pr : BitVec 3
  ps : Bool
deriving DecidableEq, Repr

/-- Format R (Table 6.2), FUNC fixed by the constructor. -/
structure FmtR where
  rd : BitVec 5
  ra : BitVec 5
  rb : BitVec 5
  rc : BitVec 5
  mask : BitVec 3
  ty : BitVec 2
  lf : Bool
  rsv : BitVec 5
  imm16 : BitVec 16
deriving DecidableEq, Repr

/-- Format I (Table 6.3). -/
structure FmtI where
  rd : BitVec 5
  ra : BitVec 5
  rsv : BitVec 5
  imm32 : W32
deriving DecidableEq, Repr

/-- Format M (Table 6.4). -/
structure FmtM where
  at_ : BitVec 2
  sa : BitVec 5
  sb : BitVec 5
  sc : BitVec 5
  nb : BitVec 8
  row : BitVec 5
  q : BitVec 5
  opf : BitVec 2
  pd : BitVec 3
  fl : Bool
  lf : Bool
  rsv : BitVec 7
deriving DecidableEq, Repr

/-- Format P (Table 6.5). -/
structure FmtP where
  rl : BitVec 5
  rt : BitVec 5
  rx : BitVec 5
  sem : BitVec 5
  semd : BitVec 5
  seg : BitVec 4
  len : BitVec 6
  rsv : BitVec 14
deriving DecidableEq, Repr

/-- Format B (branches): RC and TARGET, with the reserved bits between. -/
structure FmtB where
  rc : BitVec 5
  rsv : BitVec 24
  target : BitVec 20
deriving DecidableEq, Repr

/-- How a revived or transferred grain fares under R49: it passes, it passes on the second read, or it is damaged. -/
inductive Landing where
  | ok
  | secondOk
  | damaged
deriving DecidableEq, Repr

/-- What the edge ECC of R230 finds in the source rows of a row operation. -/
inductive RowEcc where
  | clean
  | correctable
  | uncorrectable
deriving DecidableEq, Repr

/-- The unit kinds of ERR_UNIT_CTL (R485): a core group, a bank, a logical port, a flash die. -/
inductive UnitKind where
  | group
  | bank
  | port
  | die
deriving DecidableEq, Repr

/-- The queues that carry a shaper (R340): a submission well, a job's pump queue, its egress on one logical port. -/
inductive ShaperKind where
  | well
  | pump
  | egress
deriving DecidableEq, Repr

/-- Who owns the data an error was found in (Table 18.2, R474 to R477). -/
inductive Owner where
  /-- Data that no work owns. -/
  | none
  /-- A grain on the working list of the request of this index. -/
  | working (reqIdx : Nat)
  /-- A committed grain of this session. -/
  | committed (session : Nat)
  /-- The cached session-table entry of this session (R13). -/
  | entry (session : Nat)
  /-- A weight-space copy in T0 (R475). -/
  | weightCopy (job : Nat)
  /-- The HBM copy of a model, or of a version of an adapter (R475). -/
  | model (handle : Nat)
  | adapter (job handle version : Nat)
  /-- Another loaded object (R476): its job, what it is, its handle. -/
  | object (job : Nat) (kind : Nat) (handle : Nat)
  /-- A job context area (R476). -/
  | context (job : Nat)
  /-- A running program, by its number; a search in flight, by its number (R307). -/
  | program (n : Nat)
  | search (n : Nat)
  /-- Critical state (R477), or a mesh packet that failed 16 replays. -/
  | critical
deriving DecidableEq, Repr

/-- An error as a store, link, monitor or firmware detects it (R469 to R473). -/
structure ErrInfo where
  corrected : Bool
  source : Nat
  unit : Nat
  code : Nat
  addr : W64
  detail : W64
  owner : Owner
deriving DecidableEq, Repr

/-- A topology record (R352): serial, node identifier (0xFFFF: none), generation, and each link's local port,
neighbour serial, neighbour port, version and width. -/
structure TopoLink where
  port : Nat
  peerSerial : Nat
  peerPort : Nat
  ver : Nat
  lanes : Nat
deriving DecidableEq, Repr

structure TopoRec where
  serial : Nat
  node : Nat
  gen : Nat
  links : List TopoLink
deriving DecidableEq, Repr

/-- A packet of the fabric (Table 13.2), with its payload. -/
structure Packet where
  dst : Nat
  src : Nat
  vc : Nat
  enc : Bool
  type : Nat
  tag : W32
  flow : Nat
  hops : Nat
  arg : W64
  seq : Nat
  data : List Byte
deriving DecidableEq, Repr

/-- A live slot of a key-value grain (Table 2.3): position identifier, H16 importance, L6 codes and exponents of the
key and the value. The sketch of R189 is a function of the key codes; VALID is the slot's presence. -/
structure KvSlot where
  pos : Nat
  imp : BitVec 16
  k : BitVec 768
  kexp : W32
  v : BitVec 768
  vexp : W32
deriving DecidableEq, Repr

/-- What the hidden state of one row of a serving step depends on before a layer (R187, R196, R245): the model image and adapter image, the token
fed and its position, and what each earlier layer's attention gave it: the L8 blocks (codes, exponent) of R195, or, where heads lie on several
devices, those of the sum of R210. The number of `outs` is the layer. -/
structure RowKey where
  model : BitVec 256
  adapter : List Byte
  tok : Nat
  pos : Nat
  outs : List (List (List Nat × Int))
deriving DecidableEq, Repr

/-- A grain of a session (R46, R47): logical index (a MAP grain: the first it covers), KIND, LEVEL of a MAP grain, its
grain address (Table 2.5), the owner epoch it was written at, the live slots of a KV grain, and what the slots after them still hold of positions
that were cleared (R190). -/
structure SGrain where
  lgn : Nat
  kind : Nat
  level : Nat
  addr : W64
  epoch : Nat
  slots : List KvSlot
  stale : List KvSlot := []
deriving DecidableEq, Repr

/-- The carry state of a session (Table 2.4): SAMPLER, DETOK and GRAMMAR grains. -/
structure Carry where
  lastToken : Nat := 0
  ringHead : Nat := 0
  ring : Map Nat := []
  pend : List Byte := []
  hold : List Byte := []
  gstate : Nat := 0
  gstack : List Nat := []
  ghandle : Nat := 0
deriving DecidableEq, Repr

/-- The session-entry image and the other contents of a HANDOFF_OUT message (R365, R366), and for a carried transfer the
request it brings (R371). -/
structure HandoffMsg where
  epoch : Nat
  sender : Nat
  tag : W32
  srcState : Nat
  toolp : Bool
  root : W64
  pinned : Bool
  conf : Bool
  prio : Nat
  eventWell : Nat
  adapter : Nat
  adapterVer : Nat
  len : Nat
  retained : Nat
  grammar : Nat
  seed : W64
  scounter : W32
  modelDigest : BitVec 256
  ttlLeftUs : Nat
  grains : Nat
  pairs : Nat
  carried : Bool
  cwell : Nat
  phaseUs : Nat
  ttlParked : Nat := 0
deriving DecidableEq, Repr

/-- What a grain of a transfer carries (R365): a KV grain with its slots, the carry state, or, last for a carried
transfer, the request's remaining text, deadline budget, parameters' block and flags (R371, R372). -/
inductive XferGrain where
  | kv (g : SGrain)
  | carry (c : Carry)
  | request (text : List Nat) (deadlineLeft : Nat) (maxNew spec prio flags toolMask ttlAfter share kind : Nat)
      (tag : W64) (scounter : W32) (params : List Byte)
deriving DecidableEq, Repr

/-- A collective packet (R361, R362): group digest, collective number, operation (0 all-reduce, 1 maximum, 2
broadcast), chunk, hops made, and the elements. -/
structure CollPacket where
  digest : BitVec 256
  seq : Nat
  op : Nat
  chunk : Nat
  hop : Nat
  elems : List (BitVec 48)
deriving DecidableEq, Repr

/-- A member's shard entry (Table 15.5). -/
structure ShardEntry where
  tensor : W64
  rank : Nat
  tier : Nat
  len : Nat
  addr : Nat
  digest : BitVec 256
deriving DecidableEq, Repr

/-- A member's session record (Table 15.5). -/
structure SessRecord where
  index : Nat
  grains : Nat
  rank : Nat
  tier : Nat
  addr : Nat
  modelDigest : BitVec 256
  edigest : BitVec 256
deriving DecidableEq, Repr

/-- The commands. -/
inductive Instr where
  | openSession (job well : Nat) (d : Desc)
  | submitTurn (job well : Nat) (d : Desc)
  | toolReturn (job well : Nat) (d : Desc)
  | park (job well : Nat) (d : Desc)
  | close (job well : Nat) (d : Desc)
  | endRequest (job well : Nat) (d : Desc)
  | migrate (job well : Nat) (d : Desc)
  | placeQuery (job well : Nat) (d : Desc)
  | registerT3 (job well : Nat) (d : Desc)
  | runProgram (job well : Nat) (d : Desc)
  | loadModel (job well : Nat) (d : Desc)
  | unloadModel (job well : Nat) (d : Desc)
  | loadAdapter (job well : Nat) (d : Desc)
  | loadVocab (job well : Nat) (d : Desc)
  | loadGrammar (job well : Nat) (d : Desc)
  | setOutput (job well : Nat) (d : Desc)
  | loadIndex (job well : Nat) (d : Desc)
  | loadFilter (job well : Nat) (d : Desc)
  | tombstone (job well : Nat) (d : Desc)
  | indexWrite (job well : Nat) (d : Desc)
  | indexWriteApply (job index : Nat)
  | search (job well : Nat) (d : Desc)
  | loadTable (job well : Nat) (d : Desc)
  | tableSwap (job well : Nat) (d : Desc)
  | embedLookup (job well : Nat) (d : Desc)
  | tableUpdate (job well : Nat) (d : Desc)
  | tableStep (job well : Nat) (d : Desc)
  | migrateRows (job well : Nat) (d : Desc)
  | embedDocs (job well : Nat) (d : Desc)
  | setGroup (job well : Nat) (d : Desc)
  | splitTurn (job well : Nat) (d : Desc)
  | checkpoint (job well : Nat) (d : Desc)
  | preemptNotice (job well : Nat) (d : Desc)
  | restore (job well : Nat) (d : Desc)
  | ckptFree (job well : Nat) (d : Desc)
  | attest (job well : Nat) (d : Desc)
  | installKeys (job well : Nat) (d : Desc)
  | fwUpdate (job well : Nat) (d : Desc)
  | badKind (job well : Nat) (d : Desc)
  | doorbell (job well : Nat) (tail : W32) (unreadable : Bool)
  | wellCfgWrite (job well : Nat) (completion : Bool) (v : W64)
  | cwHeadWrite (job well : Nat) (v : W32)
  | completionWriteFail (job well : Nat)
  | coalesceTimer (job well : Nat)
  | tokRingConsWrite (job well : Nat) (v : W64)
  | chunkWriteFail (req : Nat)
  | hciVerGo (fn : Nat) (v : W64)
  | resetReqCore (fn : Nat) (v : W64)
  | resetReqSystem (fn : Nat) (v : W64)
  | flr (fn : Nat)
  | d3hotEntry (fn : Nat)
  | hostWindowAccess (fn off len : Nat) (write : Option (List Byte))
  | registerWrite (fn off size : Nat) (v : W64)
  | stepBoundary (job model us : Nat)
  | sessionExpiry (session : Nat)
  | gracePeriodEnd (session : Nat)
  | idleDemotion (session : Nat)
  | t1PressureDemotion (job : Nat)
  | grainLand (req : Nat) (res : Landing)
  | tierLate (req : Nat)
  | tierError (req : Nat) (damaged : Bool)
  | moveComplete (session : Nat)
  | moveAbandon (session : Nat)
  | moveFailed (session code : Nat) (damaged : Bool)
  | pumpTakeUp (pump : Nat) (checkOk : Bool)
  | pumpDescriptorDone (pump : Nat)
  | engineCommandEnd (cls inst cyc : Nat) (fail : Bool) (remote : List (Nat × List Byte))
  | shaperToken (kind : ShaperKind) (job idx : Nat)
  | histSample
  | contextSwitch (group cyc : Nat)
  | nop (core : Nat) (h : Head) (f : FmtR)
  | add (core : Nat) (h : Head) (f : FmtR)
  | sub (core : Nat) (h : Head) (f : FmtR)
  | mul (core : Nat) (h : Head) (f : FmtR)
  | mulh (core : Nat) (h : Head) (f : FmtR)
  | and_ (core : Nat) (h : Head) (f : FmtR)
  | or_ (core : Nat) (h : Head) (f : FmtR)
  | xor_ (core : Nat) (h : Head) (f : FmtR)
  | shl (core : Nat) (h : Head) (f : FmtR)
  | shr (core : Nat) (h : Head) (f : FmtR)
  | sra (core : Nat) (h : Head) (f : FmtR)
  | min (core : Nat) (h : Head) (f : FmtR)
  | max (core : Nat) (h : Head) (f : FmtR)
  | minu (core : Nat) (h : Head) (f : FmtR)
  | maxu (core : Nat) (h : Head) (f : FmtR)
  | cmpeq (core : Nat) (h : Head) (f : FmtR)
  | cmpne (core : Nat) (h : Head) (f : FmtR)
  | cmplt (core : Nat) (h : Head) (f : FmtR)
  | cmpltu (core : Nat) (h : Head) (f : FmtR)
  | cmple (core : Nat) (h : Head) (f : FmtR)
  | cmpleu (core : Nat) (h : Head) (f : FmtR)
  | pand (core : Nat) (h : Head) (f : FmtR)
  | por (core : Nat) (h : Head) (f : FmtR)
  | pxor (core : Nat) (h : Head) (f : FmtR)
  | pandn (core : Nat) (h : Head) (f : FmtR)
  | addi (core : Nat) (h : Head) (f : FmtI)
  | andi (core : Nat) (h : Head) (f : FmtI)
  | ori (core : Nat) (h : Head) (f : FmtI)
  | xori (core : Nat) (h : Head) (f : FmtI)
  | shli (core : Nat) (h : Head) (f : FmtI)
  | shri (core : Nat) (h : Head) (f : FmtI)
  | srai (core : Nat) (h : Head) (f : FmtI)
  | li (core : Nat) (h : Head) (f : FmtI)
  | cmpeqi (core : Nat) (h : Head) (f : FmtI)
  | cmplti (core : Nat) (h : Head) (f : FmtI)
  | cmpltui (core : Nat) (h : Head) (f : FmtI)
  | vadd (core : Nat) (h : Head) (f : FmtR)
  | vsub (core : Nat) (h : Head) (f : FmtR)
  | vmul (core : Nat) (h : Head) (f : FmtR)
  | vfma (core : Nat) (h : Head) (f : FmtR)
  | vmin (core : Nat) (h : Head) (f : FmtR)
  | vmax (core : Nat) (h : Head) (f : FmtR)
  | vand (core : Nat) (h : Head) (f : FmtR)
  | vor (core : Nat) (h : Head) (f : FmtR)
  | vxor (core : Nat) (h : Head) (f : FmtR)
  | vshl (core : Nat) (h : Head) (f : FmtR)
  | vshr (core : Nat) (h : Head) (f : FmtR)
  | vsra (core : Nat) (h : Head) (f : FmtR)
  | vcmpeq (core : Nat) (h : Head) (f : FmtR)
  | vcmplt (core : Nat) (h : Head) (f : FmtR)
  | vcmple (core : Nat) (h : Head) (f : FmtR)
  | vsel (core : Nat) (h : Head) (f : FmtR)
  | vbcs (core : Nat) (h : Head) (f : FmtR)
  | vidx (core : Nat) (h : Head) (f : FmtR)
  | vext (core : Nat) (h : Head) (f : FmtR)
  | vins (core : Nat) (h : Head) (f : FmtR)
  | vredadd (core : Nat) (h : Head) (f : FmtR)
  | vredmax (core : Nat) (h : Head) (f : FmtR)
  | vredmin (core : Nat) (h : Head) (f : FmtR)
  | vredaddx (core : Nat) (h : Head) (f : FmtR)
  | vlog2 (core : Nat) (h : Head) (f : FmtR)
  | vexp2 (core : Nat) (h : Head) (f : FmtR)
  | vlog2c (core : Nat) (h : Head) (f : FmtR)
  | vcvtc (core : Nat) (h : Head) (f : FmtR)
  | vcvtw (core : Nat) (h : Head) (f : FmtR)
  | vcvtf (core : Nat) (h : Head) (f : FmtR)
  | vcvtif (core : Nat) (h : Head) (f : FmtR)
  | vcvtfi (core : Nat) (h : Head) (f : FmtR)
  | vrqf (core : Nat) (h : Head) (f : FmtR)
  | vrqw (core : Nat) (h : Head) (f : FmtR)
  | smxx (core : Nat) (h : Head) (f : FmtR)
  | smxe (core : Nat) (h : Head) (f : FmtR)
  | smxc (core : Nat) (h : Head) (f : FmtR)
  | smxl (core : Nat) (h : Head) (f : FmtR)
  | smxcl (core : Nat) (h : Head) (f : FmtR)
  | mout (core : Nat) (h : Head) (f : FmtM)
  | mrow (core : Nat) (h : Head) (f : FmtM)
  | mclr (core : Nat) (h : Head) (f : FmtM)
  | mrdw (core : Nat) (h : Head) (f : FmtM)
  | mrdr (core : Nat) (h : Head) (f : FmtM)
  | mrq (core : Nat) (h : Head) (f : FmtM)
  | mrfill (core : Nat) (h : Head) (f : FmtM)
  | mradd (core : Nat) (h : Head) (f : FmtM)
  | ldw (core : Nat) (h : Head) (f : FmtR)
  | stw (core : Nat) (h : Head) (f : FmtR)
  | vld (core : Nat) (h : Head) (f : FmtR)
  | vst (core : Nat) (h : Head) (f : FmtR)
  | rwr (core : Nat) (h : Head) (f : FmtP)
  | rwrv (core : Nat) (h : Head) (f : FmtP)
  | hld (core : Nat) (h : Head) (f : FmtP)
  | hst (core : Nat) (h : Head) (f : FmtP)
  | send (core : Nat) (h : Head) (f : FmtP)
  | put (core : Nat) (h : Head) (f : FmtP)
  | fenceL (core : Nat) (h : Head) (f : FmtI)
  | fenceM (core : Nat) (h : Head) (f : FmtI)
  | seminc (core : Nat) (h : Head) (f : FmtI)
  | semwait (core : Nat) (h : Head) (f : FmtI)
  | bar (core : Nat) (h : Head) (f : FmtI)
  | br (core : Nat) (h : Head) (f : FmtB)
  | call (core : Nat) (h : Head) (f : FmtB)
  | jr (core : Nat) (h : Head) (f : FmtB)
  | loop (core : Nat) (h : Head) (f : FmtB)
  | mfsr (core : Nat) (h : Head) (f : FmtI)
  | mtsr (core : Nat) (h : Head) (f : FmtI)
  | halt (core : Nat) (h : Head) (f : FmtI)
  | programTimeout (prog : Nat)
  | remoteWriteLand (src dst : Nat)
  | hbmCopyDone (core idx : Nat)
  | sendLand (p : Packet)
  | groupAutoRetain (g : Nat)
  | pwrGroupCtlWrite (g : Nat) (v : W64)
  | seqGo (n : Nat) (v : W64)
  | seqAbort (n : Nat)
  | microHalt (n : Nat) (dev : Bool)
  | microNop (n : Nat) (dev : Bool)
  | segend (n : Nat) (dev : Bool)
  | rop (n : Nat) (dev : Bool) (ecc : RowEcc)
  | maj (n : Nat) (dev : Bool) (ecc : RowEcc)
  | microFill (n : Nat) (dev : Bool)
  | popc (n : Nat) (dev : Bool) (ecc : RowEcc)
  | microIdx (n : Nat) (dev : Bool)
  | microLoop (n : Nat) (dev : Bool)
  | segmentEnd (n : Nat)
  | refreshDue (n : Nat)
  | hbmSelfRefresh (pc : Nat)
  | sesCacheFlush
  | sesPeek (fn : Nat) (v : W64)
  | sesRebuiltDrop (job : Nat)
  | create (job : Nat) (v : W64)
  | destroy (job : Nat)
  | recompose (job : Nat)
  | recomposeCommit (job : Nat)
  | shaperCfgWrite (kind : ShaperKind) (job idx : Nat) (v : W64)
  | snap (v : W64)
  | privSlotWrite (n : Nat) (v : W64)
  | jobTagWrite (job : Nat) (tag : W32)
  | portCtlWrite (n : Nat) (v : W64)
  | ftlSplitWrite (v : W32)
  | resume (job : Nat)
  | errWellTailWrite (fn : Nat) (v : W32)
  | overflowClear (fn : Nat)
  | release
  | unitOut (kind : UnitKind) (unit : Nat)
  | unitReturn (kind : UnitKind) (unit : Nat)
  | selfTestDone (kind : UnitKind) (unit : Nat) (pass : Bool)
  | fuseBurn (v : W64)
  | blockOffline (kind index : Nat) (on : Bool)
  | blockReset (kind index : Nat)
  | pwrStandbyEnter
  | clkLocalReadLow
  | commit
  | recWrite (v : W64) (chunk : List Byte) (spiError : Bool)
  | finish
  | powerEval (watts millivolts10 milliamps10 tC0 tC1 tH tHbm : Nat)
  | thermalTrip
  | powerApply
  | powerLoss
  | overVoltage
  | resetInFall
  | resetInRise
  | powerFailWarning (us : Nat)
  | powerFailClear
  | coreResetAccept
  | resetRelease
  | standby
  | wake (sensors : List Nat)
  | getIdent
  | getTelemetry (sensors : List Nat)
  | setCap (watts : Nat)
  | getCause
  | errorDetected (e : ErrInfo)
  | errorQueued
  | dumpComplete (fwOk : Bool)
  | dumpAbandon
  | linkUp (port ver lanes : Nat) (peerSerial peerNode peerPort : Nat)
  | linkDown (port : Nat) (failed : Bool)
  | probe (port : Nat) (serial node peerPort : Nat)
  | topologyRecord (r : TopoRec)
  | identifierAssignment (serial node : Nat)
  | acknowledgement (src vc seq : Nat)
  | retransmitTimer (dst vc : Nat)
  | unreachable (node : Nat)
  | handoffOut (xfer : Nat) (m : HandoffMsg)
  | ready (xfer : Nat)
  | refused (xfer reason : Nat)
  | handoffGrain (xfer n : Nat) (res : Landing) (g : XferGrain)
  | handoffIn (xfer epoch index : Nat)
  | relinquished (xfer epoch : Nat)
  | query (xfer epoch : Nat)
  | mine (xfer : Nat)
  | notMine (xfer : Nat)
  | reclaimed (xfer epoch : Nat)
  | abort (xfer : Nat)
  | peerFree (src : Nat) (addr : W64)
  | orphanTimer (xfer : Nat)
  | phaseTimer (xfer : Nat)
  | peerExtentExpiry (addr : W64)
  | collectivePacket (job group : Nat) (p : CollPacket)
  | collectiveTimeout (job group seq : Nat)
  | gatherRequest (node : Nat) (tag : W32) (table row : Nat)
  | updateItem (node : Nat) (tag : W32) (table step row : Nat) (lr : W32) (grad : List W32)
  | stepMark (node : Nat) (tag : W32) (table step : Nat)
  | stepBudgetTimer (job table step : Nat)
  | rowCopyDone (job table row : Nat) (ok : Bool)
  | v1Write (p : Packet)
  | ckptEntries (job rank : Nat) (shards : List ShardEntry) (sessions : List SessRecord)
  | commitNotice (job : Nat)
  | abortNotice (job code : Nat)
  | ckptBudget (job : Nat)
  | stripeClose (stream die : Nat)
  | stripePadTimer (stream die : Nat)
  | trimJournalWrite
  | garbageCollection
  | readRefresh (ch die plane block : Nat)
  | eraseFail (ch die plane block : Nat)
  | pageProgramFail (ch die plane block page : Nat)
  | dieFail (ch die : Nat)
  | osc25mLoss (present : Bool)
  | pcieLinkRetrain (gen width : Nat)
  | jtagInstruction (ir : Nat) (trace : Bool)
  | mctpControlMessage (msg : List Byte)
  | packetForward (p : Packet)
  | creditGrant (port vc units : Nat)
  | nack (dst vc seq : Nat)
  | peerTierGrains (node : Nat) (tag : W32) (write : Bool) (addr : W64) (grains : List (List Byte)) (ttlUs : Nat)
  | commitNoticeTimeout (job : Nat)
deriving DecidableEq, Repr

end Sys2Proof
end

