-- ==== Sys2Proof/WellFormed.lean ====
section
/-!
DEFINITION. Sys2Proof/WellFormed.lean: a command is well formed when every index lies in the range its table gives and a
descriptor carries the KIND of its row (Table 19.11).
-/
namespace Sys2Proof

/-- The KIND values of Table 19.11. -/
def kindTable : List Nat :=
  [0x0101, 0x0102, 0x0103, 0x0104, 0x0105, 0x0106, 0x0201, 0x0202, 0x0203, 0x0301, 0x0401, 0x0402, 0x0403,
    0x0501, 0x0502, 0x0503, 0x0601, 0x0602, 0x0603, 0x0604, 0x0605, 0x0606, 0x0607, 0x0608, 0x0609, 0x060A, 0x060B, 0x060C,
    0x0701, 0x0702, 0x0801, 0x0802, 0x0803, 0x0804, 0x0901, 0x0902, 0x0903]

/-- KIND of a descriptor (Table 19.10). -/
def kindOf (d : Desc) : Nat := d.toNat % 2 ^ 16

def kindIs (d : Desc) (k : Nat) : Bool := kindOf d == k
/-- KIND is not in Table 19.11. -/
def badKindOf (d : Desc) : Bool := !(kindTable.contains (kindOf d))
/-- Jobs are 0 to 63, wells 0 to 15. -/
def isDesc (job well : Nat) : Bool := decide (job < 64) && decide (well < 16)

/-- Is the command well formed? -/
def Instr.wf : Instr → Bool
  | .openSession job well d => isDesc job well && kindIs d 0x0101
  | .submitTurn job well d => isDesc job well && kindIs d 0x0102
  | .toolReturn job well d => isDesc job well && kindIs d 0x0103
  | .park job well d => isDesc job well && kindIs d 0x0104
  | .close job well d => isDesc job well && kindIs d 0x0105
  | .endRequest job well d => isDesc job well && kindIs d 0x0106
  | .migrate job well d => isDesc job well && kindIs d 0x0201
  | .placeQuery job well d => isDesc job well && kindIs d 0x0202
  | .registerT3 job well d => isDesc job well && kindIs d 0x0203
  | .runProgram job well d => isDesc job well && kindIs d 0x0301
  | .loadModel job well d => isDesc job well && kindIs d 0x0401
  | .unloadModel job well d => isDesc job well && kindIs d 0x0402
  | .loadAdapter job well d => isDesc job well && kindIs d 0x0403
  | .loadVocab job well d => isDesc job well && kindIs d 0x0501
  | .loadGrammar job well d => isDesc job well && kindIs d 0x0502
  | .setOutput job well d => isDesc job well && kindIs d 0x0503
  | .loadIndex job well d => isDesc job well && kindIs d 0x0601
  | .loadFilter job well d => isDesc job well && kindIs d 0x0602
  | .tombstone job well d => isDesc job well && kindIs d 0x0603
  | .indexWrite job well d => isDesc job well && kindIs d 0x0604
  | .indexWriteApply job _ => decide (job < 64)
  | .search job well d => isDesc job well && kindIs d 0x0605
  | .loadTable job well d => isDesc job well && kindIs d 0x0606
  | .tableSwap job well d => isDesc job well && kindIs d 0x0607
  | .embedLookup job well d => isDesc job well && kindIs d 0x0608
  | .tableUpdate job well d => isDesc job well && kindIs d 0x0609
  | .tableStep job well d => isDesc job well && kindIs d 0x060A
  | .migrateRows job well d => isDesc job well && kindIs d 0x060B
  | .embedDocs job well d => isDesc job well && kindIs d 0x060C
  | .setGroup job well d => isDesc job well && kindIs d 0x0701
  | .splitTurn job well d => isDesc job well && kindIs d 0x0702
  | .checkpoint job well d => isDesc job well && kindIs d 0x0801
  | .preemptNotice job well d => isDesc job well && kindIs d 0x0802
  | .restore job well d => isDesc job well && kindIs d 0x0803
  | .ckptFree job well d => isDesc job well && kindIs d 0x0804
  | .attest job well d => isDesc job well && kindIs d 0x0901
  | .installKeys job well d => isDesc job well && kindIs d 0x0902
  | .fwUpdate job well d => isDesc job well && kindIs d 0x0903
  | .badKind job well d => isDesc job well && badKindOf d
  | .doorbell job well _ _ => decide (job < 64) && decide (well < 16)
  | .wellCfgWrite job well _ _ => decide (job < 64) && decide (well < 16)
  | .cwHeadWrite job well _ => decide (job < 64) && decide (well < 16)
  | .completionWriteFail job well => decide (job < 64) && decide (well < 16)
  | .coalesceTimer job well => decide (job < 64) && decide (well < 16)
  | .tokRingConsWrite job well _ => decide (job < 64) && decide (well < 16)
  | .chunkWriteFail req => decide (req < 65536)
  | .hciVerGo fn _ => decide (fn < 64)
  | .resetReqCore fn _ => decide (fn < 64)
  | .resetReqSystem fn _ => decide (fn < 64)
  | .flr fn => decide (fn < 64)
  | .d3hotEntry fn => decide (fn < 64)
  | .hostWindowAccess fn _ _ _ => decide (fn < 64)
  | .registerWrite fn _ _ _ => decide (fn < 64)
  | .stepBoundary job _ _ => decide (job < 64)
  | .sessionExpiry session => decide (session < 16777216)
  | .gracePeriodEnd session => decide (session < 16777216)
  | .idleDemotion session => decide (session < 16777216)
  | .t1PressureDemotion job => decide (job < 64)
  | .grainLand req _ => decide (req < 65536)
  | .tierLate req => decide (req < 65536)
  | .tierError req _ => decide (req < 65536)
  | .moveComplete session => decide (session < 16777216)
  | .moveAbandon session => decide (session < 16777216)
  | .moveFailed session _ _ => decide (session < 16777216)
  | .pumpTakeUp pump _ => decide (pump < 64)
  | .pumpDescriptorDone pump => decide (pump < 64)
  | .engineCommandEnd cls inst _ _ _ => decide (cls < 8) && decide (inst < 64)
  | .shaperToken _ job _ => decide (job < 64)
  | .histSample => true
  | .contextSwitch group _ => decide (group < 64)
  | .nop core _ _ => decide (core < 4096)
  | .add core _ _ => decide (core < 4096)
  | .sub core _ _ => decide (core < 4096)
  | .mul core _ _ => decide (core < 4096)
  | .mulh core _ _ => decide (core < 4096)
  | .and_ core _ _ => decide (core < 4096)
  | .or_ core _ _ => decide (core < 4096)
  | .xor_ core _ _ => decide (core < 4096)
  | .shl core _ _ => decide (core < 4096)
  | .shr core _ _ => decide (core < 4096)
  | .sra core _ _ => decide (core < 4096)
  | .min core _ _ => decide (core < 4096)
  | .max core _ _ => decide (core < 4096)
  | .minu core _ _ => decide (core < 4096)
  | .maxu core _ _ => decide (core < 4096)
  | .cmpeq core _ _ => decide (core < 4096)
  | .cmpne core _ _ => decide (core < 4096)
  | .cmplt core _ _ => decide (core < 4096)
  | .cmpltu core _ _ => decide (core < 4096)
  | .cmple core _ _ => decide (core < 4096)
  | .cmpleu core _ _ => decide (core < 4096)
  | .pand core _ _ => decide (core < 4096)
  | .por core _ _ => decide (core < 4096)
  | .pxor core _ _ => decide (core < 4096)
  | .pandn core _ _ => decide (core < 4096)
  | .addi core _ _ => decide (core < 4096)
  | .andi core _ _ => decide (core < 4096)
  | .ori core _ _ => decide (core < 4096)
  | .xori core _ _ => decide (core < 4096)
  | .shli core _ _ => decide (core < 4096)
  | .shri core _ _ => decide (core < 4096)
  | .srai core _ _ => decide (core < 4096)
  | .li core _ _ => decide (core < 4096)
  | .cmpeqi core _ _ => decide (core < 4096)
  | .cmplti core _ _ => decide (core < 4096)
  | .cmpltui core _ _ => decide (core < 4096)
  | .vadd core _ _ => decide (core < 4096)
  | .vsub core _ _ => decide (core < 4096)
  | .vmul core _ _ => decide (core < 4096)
  | .vfma core _ _ => decide (core < 4096)
  | .vmin core _ _ => decide (core < 4096)
  | .vmax core _ _ => decide (core < 4096)
  | .vand core _ _ => decide (core < 4096)
  | .vor core _ _ => decide (core < 4096)
  | .vxor core _ _ => decide (core < 4096)
  | .vshl core _ _ => decide (core < 4096)
  | .vshr core _ _ => decide (core < 4096)
  | .vsra core _ _ => decide (core < 4096)
  | .vcmpeq core _ _ => decide (core < 4096)
  | .vcmplt core _ _ => decide (core < 4096)
  | .vcmple core _ _ => decide (core < 4096)
  | .vsel core _ _ => decide (core < 4096)
  | .vbcs core _ _ => decide (core < 4096)
  | .vidx core _ _ => decide (core < 4096)
  | .vext core _ _ => decide (core < 4096)
  | .vins core _ _ => decide (core < 4096)
  | .vredadd core _ _ => decide (core < 4096)
  | .vredmax core _ _ => decide (core < 4096)
  | .vredmin core _ _ => decide (core < 4096)
  | .vredaddx core _ _ => decide (core < 4096)
  | .vlog2 core _ _ => decide (core < 4096)
  | .vexp2 core _ _ => decide (core < 4096)
  | .vlog2c core _ _ => decide (core < 4096)
  | .vcvtc core _ _ => decide (core < 4096)
  | .vcvtw core _ _ => decide (core < 4096)
  | .vcvtf core _ _ => decide (core < 4096)
  | .vcvtif core _ _ => decide (core < 4096)
  | .vcvtfi core _ _ => decide (core < 4096)
  | .vrqf core _ _ => decide (core < 4096)
  | .vrqw core _ _ => decide (core < 4096)
  | .smxx core _ _ => decide (core < 4096)
  | .smxe core _ _ => decide (core < 4096)
  | .smxc core _ _ => decide (core < 4096)
  | .smxl core _ _ => decide (core < 4096)
  | .smxcl core _ _ => decide (core < 4096)
  | .mout core _ _ => decide (core < 4096)
  | .mrow core _ _ => decide (core < 4096)
  | .mclr core _ _ => decide (core < 4096)
  | .mrdw core _ _ => decide (core < 4096)
  | .mrdr core _ _ => decide (core < 4096)
  | .mrq core _ _ => decide (core < 4096)
  | .mrfill core _ _ => decide (core < 4096)
  | .mradd core _ _ => decide (core < 4096)
  | .ldw core _ _ => decide (core < 4096)
  | .stw core _ _ => decide (core < 4096)
  | .vld core _ _ => decide (core < 4096)
  | .vst core _ _ => decide (core < 4096)
  | .rwr core _ _ => decide (core < 4096)
  | .rwrv core _ _ => decide (core < 4096)
  | .hld core _ _ => decide (core < 4096)
  | .hst core _ _ => decide (core < 4096)
  | .send core _ _ => decide (core < 4096)
  | .put core _ _ => decide (core < 4096)
  | .fenceL core _ _ => decide (core < 4096)
  | .fenceM core _ _ => decide (core < 4096)
  | .seminc core _ _ => decide (core < 4096)
  | .semwait core _ _ => decide (core < 4096)
  | .bar core _ _ => decide (core < 4096)
  | .br core _ _ => decide (core < 4096)
  | .call core _ _ => decide (core < 4096)
  | .jr core _ _ => decide (core < 4096)
  | .loop core _ _ => decide (core < 4096)
  | .mfsr core _ _ => decide (core < 4096)
  | .mtsr core _ _ => decide (core < 4096)
  | .halt core _ _ => decide (core < 4096)
  | .programTimeout _ => true
  | .remoteWriteLand src dst => decide (src < 4096) && decide (dst < 4096)
  | .hbmCopyDone core _ => decide (core < 4096)
  | .sendLand _ => true
  | .groupAutoRetain g => decide (g < 64)
  | .pwrGroupCtlWrite g _ => decide (g < 64)
  | .seqGo n _ => decide (n < 1024)
  | .seqAbort n => decide (n < 1024)
  | .microHalt n _ => decide (n < 1024)
  | .microNop n _ => decide (n < 1024)
  | .segend n _ => decide (n < 1024)
  | .rop n _ _ => decide (n < 1024)
  | .maj n _ _ => decide (n < 1024)
  | .microFill n _ => decide (n < 1024)
  | .popc n _ _ => decide (n < 1024)
  | .microIdx n _ => decide (n < 1024)
  | .microLoop n _ => decide (n < 1024)
  | .segmentEnd n => decide (n < 1024)
  | .refreshDue n => decide (n < 1024)
  | .hbmSelfRefresh pc => decide (pc < 256)
  | .sesCacheFlush => true
  | .sesPeek fn _ => decide (fn < 64)
  | .sesRebuiltDrop job => decide (job < 64)
  | .create job _ => decide (job < 64)
  | .destroy job => decide (job < 64)
  | .recompose job => decide (job < 64)
  | .recomposeCommit job => decide (job < 64)
  | .shaperCfgWrite _ job _ _ => decide (job < 64)
  | .snap _ => true
  | .privSlotWrite n _ => decide (n < 16)
  | .jobTagWrite job _ => decide (job < 64)
  | .portCtlWrite n _ => decide (n < 16)
  | .ftlSplitWrite _ => true
  | .resume job => decide (job < 64)
  | .errWellTailWrite fn _ => decide (fn < 64)
  | .overflowClear fn => decide (fn < 64)
  | .release => true
  | .unitOut _ _ => true
  | .unitReturn _ _ => true
  | .selfTestDone _ _ _ => true
  | .fuseBurn _ => true
  | .blockOffline _ _ _ => true
  | .blockReset _ _ => true
  | .pwrStandbyEnter => true
  | .clkLocalReadLow => true
  | .commit => true
  | .recWrite _ _ _ => true
  | .finish => true
  | .powerEval _ _ _ _ _ _ _ => true
  | .thermalTrip => true
  | .powerApply => true
  | .powerLoss => true
  | .overVoltage => true
  | .resetInFall => true
  | .resetInRise => true
  | .powerFailWarning _ => true
  | .powerFailClear => true
  | .coreResetAccept => true
  | .resetRelease => true
  | .standby => true
  | .wake _ => true
  | .getIdent => true
  | .getTelemetry _ => true
  | .setCap _ => true
  | .getCause => true
  | .errorDetected _ => true
  | .errorQueued => true
  | .dumpComplete _ => true
  | .dumpAbandon => true
  | .linkUp port _ _ _ _ _ => decide (port < 32)
  | .linkDown port _ => decide (port < 32)
  | .probe port _ _ _ => decide (port < 32)
  | .topologyRecord _ => true
  | .identifierAssignment _ _ => true
  | .acknowledgement src vc _ => decide (src < 65536) && decide (vc < 8)
  | .retransmitTimer _ _ => true
  | .unreachable _ => true
  | .handoffOut _ _ => true
  | .ready _ => true
  | .refused _ _ => true
  | .handoffGrain _ _ _ _ => true
  | .handoffIn _ _ _ => true
  | .relinquished _ _ => true
  | .query _ _ => true
  | .mine _ => true
  | .notMine _ => true
  | .reclaimed _ _ => true
  | .abort _ => true
  | .peerFree src _ => decide (src < 65536)
  | .orphanTimer _ => true
  | .phaseTimer _ => true
  | .peerExtentExpiry _ => true
  | .collectivePacket job group _ => decide (job < 64) && decide (group < 256)
  | .collectiveTimeout job group _ => decide (job < 64) && decide (group < 256)
  | .gatherRequest _ _ _ _ => true
  | .updateItem _ _ _ _ _ _ _ => true
  | .stepMark _ _ _ _ => true
  | .stepBudgetTimer job _ _ => decide (job < 64)
  | .rowCopyDone job _ _ _ => decide (job < 64)
  | .v1Write _ => true
  | .ckptEntries job _ _ _ => decide (job < 64)
  | .commitNotice job => decide (job < 64)
  | .abortNotice job _ => decide (job < 64)
  | .ckptBudget job => decide (job < 64)
  | .stripeClose stream die => decide (stream < 3) && decide (die < 16)
  | .stripePadTimer stream die => decide (stream < 3) && decide (die < 16)
  | .trimJournalWrite => true
  | .garbageCollection => true
  | .readRefresh ch die plane _ => decide (ch < 32) && decide (die < 16) && decide (plane < 4)
  | .eraseFail ch die plane _ => decide (ch < 32) && decide (die < 16) && decide (plane < 4)
  | .pageProgramFail ch die plane _ _ => decide (ch < 32) && decide (die < 16) && decide (plane < 4)
  | .dieFail ch die => decide (ch < 32) && decide (die < 16)
  | .osc25mLoss _ => true
  | .pcieLinkRetrain _ _ => true
  | .jtagInstruction _ _ => true
  | .mctpControlMessage _ => true
  | .packetForward _ => true
  | .creditGrant port _ _ => decide (port < 32)
  | .nack _ _ _ => true
  | .peerTierGrains _ _ _ _ _ _ => true
  | .commitNoticeTimeout job => decide (job < 64)

end Sys2Proof
end

