-- ==== Sys2Proof/Decode.lean ====
section
/-!
DEFINITION. Sys2Proof/Decode.lean: the operation table gives no row a word, so no word spells a command; and the layout
of the Fletegus words (R160 to R165), encoder and decoder.
-/
namespace Sys2Proof

/-- No row of the table gives bits. -/
def decodeTableWord (_nbits _w : Nat) : Option Instr := none

/-- The fields every word has (Table 6.1): END [63], OP [62:57], PR [56:54], PS [53]. -/
def encCommon (op : Nat) (h : Head) : BitVec 11 :=
  BitVec.ofBool h.endBed ++ BitVec.ofNat 6 op ++ h.pr ++ BitVec.ofBool h.ps

/-- Format R (Table 6.2). -/
def encR (op fn : Nat) (h : Head) (f : FmtR) : W64 :=
  encCommon op h ++ BitVec.ofNat 6 fn ++ f.rd ++ f.ra ++ f.rb ++ f.rc ++ f.mask ++ f.ty ++ BitVec.ofBool f.lf ++ f.rsv ++ f.imm16

/-- Format I (Table 6.3). -/
def encI (op fn : Nat) (h : Head) (f : FmtI) : W64 :=
  encCommon op h ++ BitVec.ofNat 6 fn ++ f.rd ++ f.ra ++ f.rsv ++ f.imm32

/-- Format M (Table 6.4). -/
def encM (op fn : Nat) (h : Head) (f : FmtM) : W64 :=
  encCommon op h ++ BitVec.ofNat 4 fn ++ f.at_ ++ f.sa ++ f.sb ++ f.sc ++ f.nb ++ f.row ++ f.q ++ f.opf ++ f.pd ++
    BitVec.ofBool f.fl ++ BitVec.ofBool f.lf ++ f.rsv

/-- Format P (Table 6.5). -/
def encP (op fn : Nat) (h : Head) (f : FmtP) : W64 :=
  encCommon op h ++ BitVec.ofNat 4 fn ++ f.rl ++ f.rt ++ f.rx ++ f.sem ++ f.semd ++ f.seg ++ f.len ++ f.rsv

/-- Format B (Table 6.6). -/
def encB (op fn : Nat) (h : Head) (f : FmtB) : W64 :=
  encCommon op h ++ BitVec.ofNat 4 fn ++ f.rc ++ f.rsv ++ f.target

/-- The word of a Fletegus command (Tables 6.7 to 6.15); nothing for any other command. -/
def encodeFletegus : Instr → Option W64
  | .nop _ h f => some (encR 0x01 0x00 h f)
  | .add _ h f => some (encR 0x01 0x01 h f)
  | .sub _ h f => some (encR 0x01 0x02 h f)
  | .mul _ h f => some (encR 0x01 0x03 h f)
  | .mulh _ h f => some (encR 0x01 0x04 h f)
  | .and_ _ h f => some (encR 0x01 0x05 h f)
  | .or_ _ h f => some (encR 0x01 0x06 h f)
  | .xor_ _ h f => some (encR 0x01 0x07 h f)
  | .shl _ h f => some (encR 0x01 0x08 h f)
  | .shr _ h f => some (encR 0x01 0x09 h f)
  | .sra _ h f => some (encR 0x01 0x0A h f)
  | .min _ h f => some (encR 0x01 0x0B h f)
  | .max _ h f => some (encR 0x01 0x0C h f)
  | .minu _ h f => some (encR 0x01 0x0D h f)
  | .maxu _ h f => some (encR 0x01 0x0E h f)
  | .cmpeq _ h f => some (encR 0x01 0x10 h f)
  | .cmpne _ h f => some (encR 0x01 0x11 h f)
  | .cmplt _ h f => some (encR 0x01 0x12 h f)
  | .cmpltu _ h f => some (encR 0x01 0x13 h f)
  | .cmple _ h f => some (encR 0x01 0x14 h f)
  | .cmpleu _ h f => some (encR 0x01 0x15 h f)
  | .pand _ h f => some (encR 0x01 0x18 h f)
  | .por _ h f => some (encR 0x01 0x19 h f)
  | .pxor _ h f => some (encR 0x01 0x1A h f)
  | .pandn _ h f => some (encR 0x01 0x1B h f)
  | .addi _ h f => some (encI 0x02 0x01 h f)
  | .andi _ h f => some (encI 0x02 0x05 h f)
  | .ori _ h f => some (encI 0x02 0x06 h f)
  | .xori _ h f => some (encI 0x02 0x07 h f)
  | .shli _ h f => some (encI 0x02 0x08 h f)
  | .shri _ h f => some (encI 0x02 0x09 h f)
  | .srai _ h f => some (encI 0x02 0x0A h f)
  | .li _ h f => some (encI 0x02 0x0F h f)
  | .cmpeqi _ h f => some (encI 0x02 0x10 h f)
  | .cmplti _ h f => some (encI 0x02 0x12 h f)
  | .cmpltui _ h f => some (encI 0x02 0x13 h f)
  | .vadd _ h f => some (encR 0x08 0x01 h f)
  | .vsub _ h f => some (encR 0x08 0x02 h f)
  | .vmul _ h f => some (encR 0x08 0x03 h f)
  | .vfma _ h f => some (encR 0x08 0x04 h f)
  | .vmin _ h f => some (encR 0x08 0x05 h f)
  | .vmax _ h f => some (encR 0x08 0x06 h f)
  | .vand _ h f => some (encR 0x08 0x08 h f)
  | .vor _ h f => some (encR 0x08 0x09 h f)
  | .vxor _ h f => some (encR 0x08 0x0A h f)
  | .vshl _ h f => some (encR 0x08 0x0B h f)
  | .vshr _ h f => some (encR 0x08 0x0C h f)
  | .vsra _ h f => some (encR 0x08 0x0D h f)
  | .vcmpeq _ h f => some (encR 0x08 0x10 h f)
  | .vcmplt _ h f => some (encR 0x08 0x11 h f)
  | .vcmple _ h f => some (encR 0x08 0x12 h f)
  | .vsel _ h f => some (encR 0x08 0x14 h f)
  | .vbcs _ h f => some (encR 0x08 0x18 h f)
  | .vidx _ h f => some (encR 0x08 0x19 h f)
  | .vext _ h f => some (encR 0x08 0x1A h f)
  | .vins _ h f => some (encR 0x08 0x1B h f)
  | .vredadd _ h f => some (encR 0x08 0x1C h f)
  | .vredmax _ h f => some (encR 0x08 0x1D h f)
  | .vredmin _ h f => some (encR 0x08 0x1E h f)
  | .vredaddx _ h f => some (encR 0x08 0x1F h f)
  | .vlog2 _ h f => some (encR 0x09 0x01 h f)
  | .vexp2 _ h f => some (encR 0x09 0x02 h f)
  | .vlog2c _ h f => some (encR 0x09 0x03 h f)
  | .vcvtc _ h f => some (encR 0x09 0x04 h f)
  | .vcvtw _ h f => some (encR 0x09 0x05 h f)
  | .vcvtf _ h f => some (encR 0x09 0x06 h f)
  | .vcvtif _ h f => some (encR 0x09 0x07 h f)
  | .vcvtfi _ h f => some (encR 0x09 0x08 h f)
  | .vrqf _ h f => some (encR 0x09 0x09 h f)
  | .vrqw _ h f => some (encR 0x09 0x0A h f)
  | .smxx _ h f => some (encR 0x09 0x10 h f)
  | .smxe _ h f => some (encR 0x09 0x11 h f)
  | .smxc _ h f => some (encR 0x09 0x12 h f)
  | .smxl _ h f => some (encR 0x09 0x13 h f)
  | .smxcl _ h f => some (encR 0x09 0x14 h f)
  | .mout _ h f => some (encM 0x10 0x01 h f)
  | .mrow _ h f => some (encM 0x10 0x02 h f)
  | .mclr _ h f => some (encM 0x10 0x03 h f)
  | .mrdw _ h f => some (encM 0x10 0x04 h f)
  | .mrdr _ h f => some (encM 0x10 0x05 h f)
  | .mrq _ h f => some (encM 0x10 0x06 h f)
  | .mrfill _ h f => some (encM 0x10 0x07 h f)
  | .mradd _ h f => some (encM 0x10 0x08 h f)
  | .ldw _ h f => some (encR 0x18 0x01 h f)
  | .stw _ h f => some (encR 0x18 0x02 h f)
  | .vld _ h f => some (encR 0x18 0x03 h f)
  | .vst _ h f => some (encR 0x18 0x04 h f)
  | .rwr _ h f => some (encP 0x19 0x01 h f)
  | .rwrv _ h f => some (encP 0x19 0x02 h f)
  | .hld _ h f => some (encP 0x19 0x03 h f)
  | .hst _ h f => some (encP 0x19 0x04 h f)
  | .send _ h f => some (encP 0x19 0x05 h f)
  | .put _ h f => some (encP 0x20 0x01 h f)
  | .fenceL _ h f => some (encI 0x28 0x01 h f)
  | .fenceM _ h f => some (encI 0x28 0x02 h f)
  | .seminc _ h f => some (encI 0x28 0x03 h f)
  | .semwait _ h f => some (encI 0x28 0x04 h f)
  | .bar _ h f => some (encI 0x28 0x05 h f)
  | .br _ h f => some (encB 0x30 0x01 h f)
  | .call _ h f => some (encB 0x30 0x02 h f)
  | .jr _ h f => some (encB 0x30 0x03 h f)
  | .loop _ h f => some (encB 0x30 0x04 h f)
  | .mfsr _ h f => some (encI 0x31 0x01 h f)
  | .mtsr _ h f => some (encI 0x31 0x02 h f)
  | .halt _ h f => some (encI 0x31 0x03 h f)
  | _ => none

def decHead (w : W64) : Head :=
  { endBed := w.getLsbD 63, pr := w.extractLsb' 54 3, ps := w.getLsbD 53 }

def decR (w : W64) : FmtR :=
  { rd := w.extractLsb' 42 5, ra := w.extractLsb' 37 5, rb := w.extractLsb' 32 5, rc := w.extractLsb' 27 5,
    mask := w.extractLsb' 24 3, ty := w.extractLsb' 22 2, lf := w.getLsbD 21, rsv := w.extractLsb' 16 5,
    imm16 := w.extractLsb' 0 16 }

def decI (w : W64) : FmtI :=
  { rd := w.extractLsb' 42 5, ra := w.extractLsb' 37 5, rsv := w.extractLsb' 32 5, imm32 := w.extractLsb' 0 32 }

def decM (w : W64) : FmtM :=
  { at_ := w.extractLsb' 47 2, sa := w.extractLsb' 42 5, sb := w.extractLsb' 37 5, sc := w.extractLsb' 32 5,
    nb := w.extractLsb' 24 8, row := w.extractLsb' 19 5, q := w.extractLsb' 14 5, opf := w.extractLsb' 12 2,
    pd := w.extractLsb' 9 3, fl := w.getLsbD 8, lf := w.getLsbD 7, rsv := w.extractLsb' 0 7 }

def decP (w : W64) : FmtP :=
  { rl := w.extractLsb' 44 5, rt := w.extractLsb' 39 5, rx := w.extractLsb' 34 5, sem := w.extractLsb' 29 5,
    semd := w.extractLsb' 24 5, seg := w.extractLsb' 20 4, len := w.extractLsb' 14 6, rsv := w.extractLsb' 0 14 }

def decB (w : W64) : FmtB :=
  { rc := w.extractLsb' 44 5, rsv := w.extractLsb' 20 24, target := w.extractLsb' 0 20 }

/-- FUNC: six bits in formats R and I, four in formats M, P and B. -/
def funcOf (w : W64) : Nat :=
  let op := (w.extractLsb' 57 6).toNat
  if op = 0x10 ∨ op = 0x19 ∨ op = 0x20 ∨ op = 0x30 then (w.extractLsb' 49 4).toNat else (w.extractLsb' 47 6).toNat

/-- The command that a Fletegus word is, issued by a core; nothing for an OP outside Table 6.7 or a FUNC outside its class
table, which is ILLEGAL (R162). -/
def decodeFletegus (core : Nat) (w : W64) : Option Instr :=
  match (w.extractLsb' 57 6).toNat, funcOf w with
  | 0x01, 0x00 => some (.nop core (decHead w) (decR w))
  | 0x01, 0x01 => some (.add core (decHead w) (decR w))
  | 0x01, 0x02 => some (.sub core (decHead w) (decR w))
  | 0x01, 0x03 => some (.mul core (decHead w) (decR w))
  | 0x01, 0x04 => some (.mulh core (decHead w) (decR w))
  | 0x01, 0x05 => some (.and_ core (decHead w) (decR w))
  | 0x01, 0x06 => some (.or_ core (decHead w) (decR w))
  | 0x01, 0x07 => some (.xor_ core (decHead w) (decR w))
  | 0x01, 0x08 => some (.shl core (decHead w) (decR w))
  | 0x01, 0x09 => some (.shr core (decHead w) (decR w))
  | 0x01, 0x0A => some (.sra core (decHead w) (decR w))
  | 0x01, 0x0B => some (.min core (decHead w) (decR w))
  | 0x01, 0x0C => some (.max core (decHead w) (decR w))
  | 0x01, 0x0D => some (.minu core (decHead w) (decR w))
  | 0x01, 0x0E => some (.maxu core (decHead w) (decR w))
  | 0x01, 0x10 => some (.cmpeq core (decHead w) (decR w))
  | 0x01, 0x11 => some (.cmpne core (decHead w) (decR w))
  | 0x01, 0x12 => some (.cmplt core (decHead w) (decR w))
  | 0x01, 0x13 => some (.cmpltu core (decHead w) (decR w))
  | 0x01, 0x14 => some (.cmple core (decHead w) (decR w))
  | 0x01, 0x15 => some (.cmpleu core (decHead w) (decR w))
  | 0x01, 0x18 => some (.pand core (decHead w) (decR w))
  | 0x01, 0x19 => some (.por core (decHead w) (decR w))
  | 0x01, 0x1A => some (.pxor core (decHead w) (decR w))
  | 0x01, 0x1B => some (.pandn core (decHead w) (decR w))
  | 0x02, 0x01 => some (.addi core (decHead w) (decI w))
  | 0x02, 0x05 => some (.andi core (decHead w) (decI w))
  | 0x02, 0x06 => some (.ori core (decHead w) (decI w))
  | 0x02, 0x07 => some (.xori core (decHead w) (decI w))
  | 0x02, 0x08 => some (.shli core (decHead w) (decI w))
  | 0x02, 0x09 => some (.shri core (decHead w) (decI w))
  | 0x02, 0x0A => some (.srai core (decHead w) (decI w))
  | 0x02, 0x0F => some (.li core (decHead w) (decI w))
  | 0x02, 0x10 => some (.cmpeqi core (decHead w) (decI w))
  | 0x02, 0x12 => some (.cmplti core (decHead w) (decI w))
  | 0x02, 0x13 => some (.cmpltui core (decHead w) (decI w))
  | 0x08, 0x01 => some (.vadd core (decHead w) (decR w))
  | 0x08, 0x02 => some (.vsub core (decHead w) (decR w))
  | 0x08, 0x03 => some (.vmul core (decHead w) (decR w))
  | 0x08, 0x04 => some (.vfma core (decHead w) (decR w))
  | 0x08, 0x05 => some (.vmin core (decHead w) (decR w))
  | 0x08, 0x06 => some (.vmax core (decHead w) (decR w))
  | 0x08, 0x08 => some (.vand core (decHead w) (decR w))
  | 0x08, 0x09 => some (.vor core (decHead w) (decR w))
  | 0x08, 0x0A => some (.vxor core (decHead w) (decR w))
  | 0x08, 0x0B => some (.vshl core (decHead w) (decR w))
  | 0x08, 0x0C => some (.vshr core (decHead w) (decR w))
  | 0x08, 0x0D => some (.vsra core (decHead w) (decR w))
  | 0x08, 0x10 => some (.vcmpeq core (decHead w) (decR w))
  | 0x08, 0x11 => some (.vcmplt core (decHead w) (decR w))
  | 0x08, 0x12 => some (.vcmple core (decHead w) (decR w))
  | 0x08, 0x14 => some (.vsel core (decHead w) (decR w))
  | 0x08, 0x18 => some (.vbcs core (decHead w) (decR w))
  | 0x08, 0x19 => some (.vidx core (decHead w) (decR w))
  | 0x08, 0x1A => some (.vext core (decHead w) (decR w))
  | 0x08, 0x1B => some (.vins core (decHead w) (decR w))
  | 0x08, 0x1C => some (.vredadd core (decHead w) (decR w))
  | 0x08, 0x1D => some (.vredmax core (decHead w) (decR w))
  | 0x08, 0x1E => some (.vredmin core (decHead w) (decR w))
  | 0x08, 0x1F => some (.vredaddx core (decHead w) (decR w))
  | 0x09, 0x01 => some (.vlog2 core (decHead w) (decR w))
  | 0x09, 0x02 => some (.vexp2 core (decHead w) (decR w))
  | 0x09, 0x03 => some (.vlog2c core (decHead w) (decR w))
  | 0x09, 0x04 => some (.vcvtc core (decHead w) (decR w))
  | 0x09, 0x05 => some (.vcvtw core (decHead w) (decR w))
  | 0x09, 0x06 => some (.vcvtf core (decHead w) (decR w))
  | 0x09, 0x07 => some (.vcvtif core (decHead w) (decR w))
  | 0x09, 0x08 => some (.vcvtfi core (decHead w) (decR w))
  | 0x09, 0x09 => some (.vrqf core (decHead w) (decR w))
  | 0x09, 0x0A => some (.vrqw core (decHead w) (decR w))
  | 0x09, 0x10 => some (.smxx core (decHead w) (decR w))
  | 0x09, 0x11 => some (.smxe core (decHead w) (decR w))
  | 0x09, 0x12 => some (.smxc core (decHead w) (decR w))
  | 0x09, 0x13 => some (.smxl core (decHead w) (decR w))
  | 0x09, 0x14 => some (.smxcl core (decHead w) (decR w))
  | 0x10, 0x01 => some (.mout core (decHead w) (decM w))
  | 0x10, 0x02 => some (.mrow core (decHead w) (decM w))
  | 0x10, 0x03 => some (.mclr core (decHead w) (decM w))
  | 0x10, 0x04 => some (.mrdw core (decHead w) (decM w))
  | 0x10, 0x05 => some (.mrdr core (decHead w) (decM w))
  | 0x10, 0x06 => some (.mrq core (decHead w) (decM w))
  | 0x10, 0x07 => some (.mrfill core (decHead w) (decM w))
  | 0x10, 0x08 => some (.mradd core (decHead w) (decM w))
  | 0x18, 0x01 => some (.ldw core (decHead w) (decR w))
  | 0x18, 0x02 => some (.stw core (decHead w) (decR w))
  | 0x18, 0x03 => some (.vld core (decHead w) (decR w))
  | 0x18, 0x04 => some (.vst core (decHead w) (decR w))
  | 0x19, 0x01 => some (.rwr core (decHead w) (decP w))
  | 0x19, 0x02 => some (.rwrv core (decHead w) (decP w))
  | 0x19, 0x03 => some (.hld core (decHead w) (decP w))
  | 0x19, 0x04 => some (.hst core (decHead w) (decP w))
  | 0x19, 0x05 => some (.send core (decHead w) (decP w))
  | 0x20, 0x01 => some (.put core (decHead w) (decP w))
  | 0x28, 0x01 => some (.fenceL core (decHead w) (decI w))
  | 0x28, 0x02 => some (.fenceM core (decHead w) (decI w))
  | 0x28, 0x03 => some (.seminc core (decHead w) (decI w))
  | 0x28, 0x04 => some (.semwait core (decHead w) (decI w))
  | 0x28, 0x05 => some (.bar core (decHead w) (decI w))
  | 0x30, 0x01 => some (.br core (decHead w) (decB w))
  | 0x30, 0x02 => some (.call core (decHead w) (decB w))
  | 0x30, 0x03 => some (.jr core (decHead w) (decB w))
  | 0x30, 0x04 => some (.loop core (decHead w) (decB w))
  | 0x31, 0x01 => some (.mfsr core (decHead w) (decI w))
  | 0x31, 0x02 => some (.mtsr core (decHead w) (decI w))
  | 0x31, 0x03 => some (.halt core (decHead w) (decI w))
  | _, _ => none

end Sys2Proof
end

