-- ==== Sys2Proof/Config.lean ====
section
/-!
DEFINITION. Sys2Proof/Config.lean: what an implementation fixes and the FREE VALUES of the model. Every constant here
is opaque: it has no body a proof could look into, so a statement holds whatever its value. A constant whose first
argument is `n` is applied to the state's free-value counter (`State.freeCtr`), which every draw advances, so that two
draws are unrelated (log entry 4).
-/
namespace Sys2Proof.Config

/-- A value the spec leaves open and gives no other shape (a reference, an estimate, a placement). -/
opaque freeNat (n : Nat) : Nat
/-- A value the spec leaves open that is one of two. -/
opaque freeBool (n : Nat) : Bool

/-- R188: element `i` of the W32 readout of a projection before the layer of the key (`kind` 0 query, 1 key, 2 value) for a head, and its row exponent.
The manual gives no weight layout, so the model's numbers are free, but functions of what R187 and R245 name. -/
opaque proj (k : RowKey) (kind head i : Nat) : W32
opaque projExp (k : RowKey) (kind head : Nat) : BitVec 16
/-- R188: element `i` of a binary32 vector rotated by the model's rotary table at position `t`. -/
opaque rotated (model : BitVec 256) (t : Nat) (xs : List W32) (i : Nat) : W32
/-- R243, R99: W32 readout of the logit of token `tok` at a row, and its exponent. -/
opaque logitWord (k : RowKey) (tok : Nat) : W32
opaque logitExp (k : RowKey) : BitVec 16
/-- R246: the same of speculative head `h`. -/
opaque specLogitWord (k : RowKey) (h tok : Nat) : W32
opaque specLogitExp (k : RowKey) (h : Nat) : BitVec 16
/-- R210: raw element `i` of this device's part of a sharded layer's output projection, from its own attention output, under a row exponent; the
largest weight exponent of that projection, and the full reduction length N. -/
opaque outPart (k : RowKey) (own : List (List Nat × Int)) (er : Int) (i : Nat) : BitVec 48
opaque outWmax (model : BitVec 256) (layer : Nat) : BitVec 8
opaque outLen (model : BitVec 256) : Nat
/-- R209: the score of position `c` over the pairs that the other devices of a group hold, a finite H16 importance; `n` names the draw. -/
opaque peerScore (n c : Nat) : BitVec 15
/-- R320: element `i` of the W32 readout of a row's final hidden state, and its row exponent. -/
opaque finalWord (k : RowKey) (i : Nat) : W32
opaque finalExp (k : RowKey) : BitVec 16
/-- R320: the largest row exponent and the readout shift that mean pooling takes for EXP_CAP and Q of R312. -/
opaque poolCap (model : BitVec 256) : BitVec 8
opaque poolShift (model : BitVec 256) : Fin 17

/-- R424, R427: does an SLH-DSA-SHA2-192s signature verify (key, message, signature). -/
opaque slhVerify (key msg sig : List Byte) : Bool
/-- R412, R431: an SLH-DSA-SHA2-192f signature of the attestation key. -/
opaque slhSign (msg : List Byte) : List Byte
/-- R428: the AES-256-XTS keys of the cistern and of the general-object region, derived from the fused secret, 64 B each, data key first; the
device T3 key of draw `n`, 32 B. -/
opaque cisternKey : List Byte
opaque generalKey : List Byte
opaque t3Key (n : Nat) : List Byte
/-- R415: does a manifest's signature over its digest verify. -/
opaque manifestVerify (digest sig : List Byte) : Bool
/-- R6: what an error scoped unpredictable (job) leaves, named by draw `n`: byte `i` of what it touches, the slots of a grain, the tokens of a text,
and the bytes of the job's HBM that it changes. -/
opaque spoilNat (n i : Nat) : Nat
opaque spoilSlots (n i : Nat) (old : List KvSlot) : List KvSlot
opaque spoilText (n i : Nat) (old : List Nat) : List Nat
opaque spoilHbm (n : Nat) : List (Nat × Byte)
/-- R415: byte `i` of what another device's flash holds where a restore reads it; `n` names the read. -/
opaque peerByte (n i : Nat) : Byte
/-- R14, R326, R483: byte `i` of memory whose contents the manual leaves open, where the host reads it; `n` names the draw. -/
opaque openByte (n i : Nat) : Byte
/-- R432: the shared secret that an ML-KEM-1024 ciphertext decapsulates to under the held key of a report, named by its hash; none when it fails. -/
opaque decapsulate (report : Nat) (ciphertext : List Byte) : Option (List Byte)
/-- R431: a fresh ML-KEM-1024 encapsulation key. -/
opaque mlkemKey (n : Nat) : List Byte
/-- R430: the attestation certificate and identity chain, in DER. -/
opaque certChain : List Byte

/-- Fused and ROM-set identity: R430 SEC_SERIAL, R424 FW_KEY_HASH, R458 fuse map (shipped PIN 01, CRITICAL 01,
HOST_SYSTEM 01, HOST_CORE 00), R496 STEPPING, R425 rollback counter, the running firmware's SVN, digest, release. -/
opaque serial : BitVec 128
opaque fwKeyHash : BitVec 256
opaque stepping : BitVec 8
opaque rollbackFused : Nat
opaque fwSvn : Nat
opaque fwDigest : BitVec 256
opaque fwRelease : BitVec 32
/-- R423: byte `a` of the boot SPI flash as delivered, where nothing has been written since. -/
opaque spiByte (a : Nat) : Byte
/-- R430: the identity certificate is missing or its key differs. -/
opaque noIdentity : Bool
/-- R364: the start of the transfer counter, drawn by the security block. -/
opaque transferStart : Nat
/-- R511: the answer of the always-on domain to an MCTP control message is DSP0236's, outside this manual. -/
opaque mctpAnswer (msg : List Byte) : List Byte

/-- R376, R399: flash population, set by firmware from the parameter page: present at all, dies per channel, page size
(0: 16 KiB, 1: 32 KiB), cell type (0 TLC, 1 QLC), blocks per plane, pages per block, channel rate, rated cycles. -/
opaque flashPresent : Bool
opaque flashDies : Nat
opaque flashPage : Nat
opaque flashCell : Nat
opaque flashBlocks : Nat
opaque flashPages : Nat
opaque flashRate : Nat
opaque flashRatedPe : Nat
/-- R392: RD_LIMIT of a part that firmware's own part table holds; none for a part not in that table. -/
opaque partRdLimit : Option Nat

/-- R103: the exponential of a NaN; the q of an x whose x − lam is no finite number; the exponent byte of a block by the q of its valid positions,
where none is valid or the exponent does not fit. -/
opaque expOfNan (x : W32) : W32
opaque softQOpen (x lam : W32) : Int
opaque softExpOpen (qs : List (Option Int)) : Nat
/-- R100: IEEE 754 lets an implementation detect tininess before or after rounding; the manual does not say which. -/
opaque tinyBeforeRounding : Bool
/-- R167, R168: which of +0 and −0 a minimum or maximum of the two returns. -/
opaque minMaxZeroFirst : Bool
/-- R100: does infinity × zero + quiet NaN signal invalid; does a conversion to integer signal inexact. -/
opaque fmaInvalidQuietNan : Bool
opaque convertSignalsInexact : Bool

end Sys2Proof.Config
end

