-- ==== Sys2Proof/Machine/Bits.lean ====
section
/-!
DEFINITION. Sys2Proof/Machine/Bits.lean: bit fields, byte strings, checksums, keyed collections and byte memories: the
helpers every meaning is written with. Multi-byte values are little-endian, bit 0 least significant (00_scope, Notation).
-/
namespace Sys2Proof.Machine

open Sys2Proof

/-! ## Bit fields -/

/-- The field of width `w` at bit `lo`, as a number. -/
def fld {n : Nat} (x : BitVec n) (lo w : Nat) : Nat := (x.toNat >>> lo) % 2 ^ w

/-- Bit `i`. -/
def bit {n : Nat} (x : BitVec n) (i : Nat) : Bool := x.getLsbD i

/-- `x` with the field of width `w` at bit `lo` replaced by `v`. -/
def setFld {n : Nat} (x : BitVec n) (lo w v : Nat) : BitVec n :=
  let m : BitVec n := BitVec.ofNat n ((2 ^ w - 1) <<< lo)
  (x &&& ~~~m) ||| (BitVec.ofNat n ((v % 2 ^ w) <<< lo))

/-- The bits of `x` outside the listed fields (first bit, width) are all 0. -/
def onlyFields {n : Nat} (x : BitVec n) (fs : List (Nat × Nat)) : Bool :=
  (x &&& ~~~(BitVec.ofNat n (fs.foldl (fun m f => m ||| ((2 ^ f.2 - 1) <<< f.1)) 0))) == 0#n

/-- A Bool as 0 or 1. -/
def b2n (b : Bool) : Nat := if b then 1 else 0

/-- The field at byte `byte`, bit `lo` of that byte on, of width `w` of a descriptor (Table 19.10 and the kinds' tables). -/
def dfld (d : Desc) (byte lo w : Nat) : Nat := fld d (8 * byte + lo) w

/-- A signed reading of a `w`-bit number. -/
def sext (w v : Nat) : Int := if v % 2 ^ w < 2 ^ (w - 1) then (v % 2 ^ w : Nat) else ((v % 2 ^ w : Nat) : Int) - (2 ^ w : Nat)

/-- The number of ones of `x`. -/
def popcnt {n : Nat} (x : BitVec n) : Nat := (List.range n).foldl (fun a i => a + b2n (x.getLsbD i)) 0

/-- The places of the ones of `x`, lowest first. -/
def ones {n : Nat} (x : BitVec n) : List Nat := (List.range n).filter (fun i => x.getLsbD i)

/-- `a / b` rounded up. -/
def cdiv (a b : Nat) : Nat := (a + b - 1) / b

/-! ## Byte strings -/

/-- The `n` low bytes of `v`, lowest first. -/
def leBytes : Nat → Nat → List Byte
  | 0, _ => []
  | n + 1, v => BitVec.ofNat 8 v :: leBytes n (v / 256)

/-- The little-endian value of a byte string. -/
def leNat : List Byte → Nat
  | [] => 0
  | b :: bs => b.toNat + 256 * leNat bs

/-- The big-endian bytes of a wide word: highest byte first. -/
def beBytes (n v : Nat) : List Byte := (leBytes n v).reverse

/-- `n` zero bytes. -/
def zeros (n : Nat) : List Byte := List.replicate n 0

/-- Bytes `off` to `off + n - 1` of a string, 0 beyond its end. -/
def sub (bs : List Byte) (off n : Nat) : List Byte :=
  let t := (bs.drop off).take n
  t ++ zeros (n - t.length)

/-- The value of the `n` bytes at `off`. -/
def at_ (bs : List Byte) (off n : Nat) : Nat := leNat (sub bs off n)

/-- Is the run `off .. off + n` inside the string? -/
def inside (bs : List Byte) (off n : Nat) : Bool := off + n ≤ bs.length

/-- All bytes of the run are 0. -/
def zeroRun (bs : List Byte) (off n : Nat) : Bool := (sub bs off n).all (· == 0#8)

/-- `bs` with the bytes of `v` written at `off` (the string is not lengthened). -/
def patch (bs : List Byte) (off : Nat) (v : List Byte) : List Byte :=
  bs.take off ++ v ++ bs.drop (off + v.length)

/-- The string padded with zeros to a multiple of `m`. -/
def padTo (m : Nat) (bs : List Byte) : List Byte :=
  bs ++ zeros ((m - bs.length % m) % m)

/-! ## Checksums -/

/-- One byte of the CRC-16 of R13 (polynomial 0x1021, most significant bit first). -/
def crc16Byte (c : BitVec 16) (b : Byte) : BitVec 16 :=
  (List.range 8).foldl
    (fun r _ => if r.msb then (r <<< 1) ^^^ 0x1021#16 else r <<< 1)
    (c ^^^ (b.zeroExtend 16 <<< 8))

/-- CRC-16 of R13: initial value 0xFFFF, no reflection, no final XOR. -/
def crc16 (bs : List Byte) : BitVec 16 := bs.foldl crc16Byte 0xFFFF#16

/-- One byte of the reflected Castagnoli CRC of R48. -/
def crc32cByte (c : W32) (b : Byte) : W32 :=
  (List.range 8).foldl
    (fun r _ => if r.getLsbD 0 then (r >>> 1) ^^^ 0x82F63B78#32 else r >>> 1)
    (c ^^^ b.zeroExtend 32)

/-- CRC-32C of R48: polynomial 0x1EDC_6F41 reflected, initial value and final XOR 0xFFFF_FFFF. -/
def crc32c (bs : List Byte) : W32 := (bs.foldl crc32cByte 0xFFFFFFFF#32) ^^^ 0xFFFFFFFF#32

/-! ## Keyed collections -/

/-- What a collection holds under a key. -/
def mget {α : Type} : Map α → Nat → Option α
  | [], _ => none
  | (k, v) :: m, i => if i = k then some v else mget m i

/-- The collection with `v` under key `i`, keys kept strictly rising. -/
def mput {α : Type} : Map α → Nat → α → Map α
  | [], i, v => [(i, v)]
  | (k, w) :: m, i, v =>
    if i = k then (i, v) :: m else if i < k then (i, v) :: (k, w) :: m else (k, w) :: mput m i v

/-- The collection without key `i`. -/
def mdel {α : Type} (m : Map α) (i : Nat) : Map α := m.filter (fun e => e.1 != i)

/-- What a collection holds under a key, or a default. -/
def mgetD {α : Type} (m : Map α) (i : Nat) (d : α) : α := (mget m i).getD d

/-- The collection with its value under `i`, or the default, changed by `f`. -/
def mmod {α : Type} (m : Map α) (i : Nat) (d : α) (f : α → α) : Map α := mput m i (f (mgetD m i d))

/-- Change the entry of a collection if it has one. -/
def mchange {α : Type} (m : Map α) (k : Nat) (f : α → α) : Map α := match mget m k with
  | none => m
  | some x => mput m k (f x)

/-- The lowest key from `start` on, wrapping below `bound`, that the collection does not hold; none when all are held. -/
def mfree {α : Type} (m : Map α) (start bound : Nat) : Option Nat :=
  let cand := (List.range (m.length + 1)).map (fun i => (start + i) % bound)
  cand.find? (fun i => i < bound && (mget m i).isNone)

/-! ## Byte memories -/

/-- The canonical form of a memory: addresses strictly rising, no entry equal to what an unlisted address reads as. -/
def Memory.wf (dflt : Option Byte) : List Host.Cell → Bool
  | [] => true
  | [c] => some c.2 != dflt
  | c :: c' :: m => some c.2 != dflt && decide (c.1 < c'.1) && Memory.wf dflt (c' :: m)

/-- The byte listed at an address. -/
def Memory.find : List Host.Cell → Nat → Option Byte
  | [], _ => none
  | c :: m, a => if a = c.1 then some c.2 else if a < c.1 then none else Memory.find m a

/-- One byte of a memory whose unlisted bytes are 0. -/
def Memory.get (m : List Host.Cell) (a : Nat) : Byte := (Memory.find m a).getD 0

/-- Write one byte, keeping the canonical form for the default `dflt`. -/
def Memory.set (dflt : Option Byte) : List Host.Cell → Nat → Byte → List Host.Cell
  | [], a, b => if some b = dflt then [] else [(a, b)]
  | c :: m, a, b =>
    if a = c.1 then (if some b = dflt then m else (a, b) :: m)
    else if a < c.1 then (if some b = dflt then c :: m else (a, b) :: c :: m)
    else c :: Memory.set dflt m a b

/-- The bytes `a .. a + n - 1` of a memory whose unlisted bytes are 0. -/
def Memory.read (m : List Host.Cell) (a n : Nat) : List Byte := (List.range n).map (fun i => Memory.get m (a + i))

/-- Write a byte string at `a`, lowest address first. -/
def Memory.write (dflt : Option Byte) : List Host.Cell → Nat → List Byte → List Host.Cell
  | m, _, [] => m
  | m, a, b :: bs => Memory.write dflt (Memory.set dflt m a b) (a + 1) bs

/-- The bytes of a memory in which an unlisted byte cannot be read. -/
def Memory.readAll (m : List Host.Cell) (a n : Nat) : Option (List Byte) :=
  (List.range n).mapM (fun i => Memory.find m (a + i))

end Sys2Proof.Machine
end

