-- ==== Sys2Proof/Machine/Codes.lean ====
section
/-!
DEFINITION. Sys2Proof/Machine/Codes.lean: the status and event codes of the chapters' tables (R37, R80, R266, R293,
R321, R374, R400, R421, R445).
-/
namespace Sys2Proof.Machine.Code

/-! Table 1.8. -/
def ok := 0x0000
def noSession := 0x0101
def notOwnedByJob := 0x0102
def wrongState := 0x0103
def tableFull := 0x0104
def sessionQuota := 0x0105
def reqTableFull := 0x0106
def reqQuota := 0x0107
def lengthLimit := 0x0108
def staleRequest := 0x0109
def entryCorrupt := 0x010A
def modelNotLoaded := 0x010B
def adapterNotFound := 0x010C
def badTarget := 0x010D
def grammarNotFound := 0x010E
def stop := 0x0200
def maxTokens := 0x0201
def toolCall := 0x0202
def grammarDeadEnd := 0x0203
def hostEnded := 0x0204
def closed := 0x0205
def tierLate := 0x0206
def tierError := 0x0207
def dataError := 0x0208
def modelDamaged := 0x0209
def stateLost := 0x020A
def rolledBack := 0x020B
def resetEnded := 0x020C
def sessionExpired := 0x0301
def sessionParked := 0x0302
def parkFailed := 0x0303
/-! Table 2.13. -/
def badRegion := 0x0401
def regionBusy := 0x0402
def regionFull := 0x0403
def cisternFull := 0x0404
def noRoute := 0x0405
def tierFull := 0x0408
def moveAbandoned := 0x0409
def moveFailed := 0x0304
/-! Table 5.10. -/
def imageBad := 0x0501
def imageVersion := 0x0502
def imageDigest := 0x0503
def imageSignature := 0x0504
def groupsMismatch := 0x0505
def groupBusy := 0x0506
def segmentBad := 0x0507
def programFault := 0x0508
def programTimeout := 0x0509
/-! Table 9.5. -/
def shapeUnsupported := 0x0601
def modelImageBad := 0x0602
def modelTableFull := 0x0603
def handleBusy := 0x0604
def modelNoRoom := 0x0605
def pinLimit := 0x0606
def modelBusy := 0x0607
def badParams := 0x0608
def adapterBad := 0x0609
def adapterBusy := 0x060A
/-! Table 10.6. -/
def text := 0x0305
def vocabBad := 0x0701
def vocabNoRoom := 0x0702
def vocabBusy := 0x0703
def noVocab := 0x0704
def grammarBad := 0x0705
def grammarLimit := 0x0706
def grammarBusy := 0x0707
def badRing := 0x0708
def ringBusy := 0x0709
def noRing := 0x070A
/-! Table 11.10. -/
def indexBad := 0x0801
def indexNoRoom := 0x0802
def noIndex := 0x0803
def badSearch := 0x0804
def noFilter := 0x0805
def indexEpochFull := 0x0806
def tableBad := 0x0807
def noTable := 0x0808
def badLookup := 0x0809
def stepIncomplete := 0x080A
def stepStale := 0x080B
def rowBusy := 0x080C
def updateFull := 0x080D
def versionBusy := 0x080E
/-! Table 13.7. -/
def carried := 0x020D
def handoffArrived := 0x0306
def ownershipLost := 0x0307
def sessionReclaimed := 0x0308
def handoffRefused := 0x0901
def handoffFailed := 0x0902
def ownerUnsettled := 0x0903
def movedAway := 0x0904
def peerUnsupported := 0x0905
def badGroup := 0x0906
/-! Table 14.6. -/
def flashWorn := 0x0406
def noFlash := 0x0407
/-! Table 15.9. -/
def preempted := 0x020E
def ckptBusy := 0x0A01
def ckptBad := 0x0A02
def ckptNoRoom := 0x0A03
def ckptBudget := 0x0A04
def ckptStepMismatch := 0x0A05
def ckptGroupFailed := 0x0A06
def ckptManifestBad := 0x0A07
def ckptSignature := 0x0A08
def ckptShardBad := 0x0A09
def ckptMixedStep := 0x0A0A
def ckptGap := 0x0A0B
def preempting := 0x0A0C
/-! Table 16.7. -/
def notPermitted := 0x0B01
def fwBad := 0x0B02
def fwSignature := 0x0B03
def fwRollback := 0x0B04
def fwBusy := 0x0B05
def reportSpace := 0x0B06
def noIdentity := 0x0B07
def noReport := 0x0B08
def keysBad := 0x0B09
def keysLocked := 0x0B0A
def keyFull := 0x0B0B
def noKeys := 0x0B0C
def sealBad := 0x0B0D
def payloadBad := 0x0B0E
def confHostWrite := 0x0B0F
/-! Tables 18.9 and 19.14. -/
def damageNotice := 0x0309
def objectDamaged := 0x0C01
def badKind := 0x0D01
def kindUnsupported := 0x0D02
def hostDmaError := 0x0D03
def noWell := 0x0D04
def badAddress := 0x0D05

end Sys2Proof.Machine.Code
end

