-- ==== Sys2Proof/Machine/State.lean ====
section
/-!
DEFINITION. Sys2Proof/Machine/State.lean: the state of the device as plain data, everything the spec gives it, and the
reasons a step can stop. Plain read-write registers and statistics counters of BAR0 stand in `regs`, by offset; registers
with behaviour of their own stand in named fields. The queue of waiting commands is `pending`, first in, first out.
-/
namespace Sys2Proof.Machine

open Sys2Proof

/-! ## Why a step stops -/

/-- A step that the spec gives no effect. It is safe: the model stops where the spec says nothing. A host error scoped *unpredictable
(job)* stops nothing (R6): the job's data become free values, `State.spoil`. -/
inductive Fault where
  /-- Raised by a register or window write that is *unpredictable (device)* (R7, R9, R513). Safe: stops. -/
  | unpredictableDevice
deriving DecidableEq, Repr

/-- Commands the model turns away. -/
inductive Refusal where
  /-- Raised by the arm of a command that has no meaning yet, with its mnemonic. Safe: stops. -/
  | notModelled (mnemonic : String)
  /-- Raised by V1_WRITE (R348), whose effect the VT-L1024's own manual gives, and by REGISTER_WRITE into the open DBG block, whose layout
  Table 19.3 leaves to a supplement (log entry 45). Safe: stops. -/
  | otherManual
deriving DecidableEq, Repr

/-! ## Wells, records, descriptors in progress -/

/-- What a descriptor in progress keeps of itself: who submitted it, where its records go, its TAG and KIND. -/
structure DescCtx where
  job : Nat
  sw : Nat
  cw : Nat
  tag : W64
  kind : Nat
deriving DecidableEq, Repr

/-- A completion record (Table 19.12). `sub` tells a record of a descriptor from an event: its submission well's count of
unfinished descriptors falls when the record is FINAL (R502). -/
structure Rec where
  tag : W64
  status : Nat
  kind : Nat
  swell : Nat
  final : Bool
  result : W64
  req : Nat
  session : Nat
  sub : Bool
deriving DecidableEq, Repr

/-- Submission well (Tables 19.8, 19.9): SW_BASE, SW_CFG, SW_TAIL, SW_HEAD, CFG_ERR, FETCH_ERR, and the number of its
descriptors that have been taken up and have not posted their FINAL record (R502), and when each waiting one arrived. -/
structure SubWell where
  base : W64 := 0
  cfg : W64 := 0
  tail : W32 := 0
  head : W32 := 0
  cfgErr : Bool := false
  fetchErr : Bool := false
  unfinished : Nat := 0
  arrivals : List Nat := []
deriving DecidableEq, Repr

/-- The output ring of a completion well (R289): base, size exponent, consumed and producer offsets. -/
structure OutRing where
  iova : W64
  log2 : Nat
  cons : Nat
  prod : Nat
deriving DecidableEq, Repr

/-- Completion well (Tables 19.8, 19.9): CW_BASE, CW_CFG, CW_TAIL, CW_HEAD, CFG_ERR, WRITE_ERR, the records that wait
(R507), the records since the last signal and the time of the oldest of them (R508), and the output ring (R289). -/
structure CompWell where
  base : W64 := 0
  cfg : W64 := 0
  tail : W32 := 0
  head : W32 := 0
  cfgErr : Bool := false
  writeErr : Bool := false
  waiting : List Rec := []
  unsignalled : Nat := 0
  oldest : Nat := 0
  ring : Option OutRing := none
deriving DecidableEq, Repr

/-! ## Sessions and requests -/

/-- Session states (Table 1.2, R17). -/
inductive SState where
  | free
  | open
  | running
  | paused
  | toolWait
  | parked
  | moving
  | ending
deriving DecidableEq, Repr

/-- Request states (Table 1.4, RSTATE). -/
inductive RState where
  | free
  | queued
  | reviving
  | prefill
  | decode
  | paused
  | ending
deriving DecidableEq, Repr

/-- Where a move takes a session. -/
inductive MoveKind where
  /-- PARK without AFTER_GRACE, MIGRATE of a parked session to T2 or T3. -/
  | park
  /-- A PARK whose grace period ended, or a device-initiated demotion: reports by event. -/
  | demote
  /-- MIGRATE to T0 or T1 of an OPEN or TOOL_WAIT session, or promotion of a PARKED one. -/
  | migrate
  /-- The promotion that a TOOL_RETURN with CANCEL asks for: it ends in OPEN (Table 1.3). -/
  | cancel
  /-- MIGRATE to peer with HANDOFF 0. -/
  | peer
  /-- Ownership transfer (R365); its record is in the transfer table. -/
  | handoff
deriving DecidableEq, Repr

/-- A move in progress (R59): its kind, target tier, region or node, time to live, whether it evicts, the descriptor that
waits for it, the source state, whether it is promised to a TOOL_RETURN with CANCEL (Table 1.3), whether it has
been abandoned and waits for the next grain boundary, the destination grains with their retained count (R201), and the T1 grains it
waits for while demotions make room (R72; 0: it has its places). -/
structure Move where
  kind : MoveKind
  tier : Nat
  place : Nat
  dest : W64
  ttl : Nat
  evict : Bool
  ctx : Option DescCtx
  src : SState
  abandoned : Bool
  grains : List SGrain := []
  retained : Nat := 0
  needT1 : Nat := 0
deriving DecidableEq, Repr

/-- A pending PARK with AFTER_GRACE (R67, R68): when its grace period ends, target, region, time to live, EVICT. -/
structure GracePark where
  due : Nat
  tier : Nat
  region : Nat
  ttl : Nat
  evict : Bool
deriving DecidableEq, Repr

/-- A session: its table entry (Table 1.1, R15, R30) and what its grain map reaches (R55 to R59). `len` is the committed length;
LENGTH and LEN_FULL are its two images. `expWait` and `waitFrom` give the expected tool wait of R73. `bound` is false for
a rebuilt session that no job holds yet (R42), which then keeps the tag and key set of its META grain. -/
structure Session where
  state : SState := .free
  pinned : Bool := false
  conf : Bool := false
  toolp : Bool := false
  job : Nat := 0
  model : Nat := 0
  prio : Nat := 0
  eventWell : Nat := 0
  ownerEpoch : Nat := 0
  adapter : Nat := 0
  adapterVer : Nat := 0
  len : Nat := 0
  retained : Nat := 0
  root : W64 := 0
  expiry : Nat := 0
  lastActive : Nat := 0
  curReq : Nat := 0
  grammar : Nat := 0
  seed : W64 := 0
  scounter : W32 := 0
  level : Nat := 0
  grains : List SGrain := []
  carry : Carry := {}
deriving DecidableEq, Repr

/-- What the session-table engine holds of a session beside its entry: the pending grace park, the move in progress, the
CLOSEs that wait for FREE, oldest first, damage (R474), an entry whose copy in HBM fails its CRC at its next fill (R13), META values of a parked
extent (R51) with the entry image of the last park or move (empty before it), binding (R42), an unsettled inbound
transfer (R369), the peer extent behind it (R370, R372), trim or peer releases that must become durable before FREE (R387, R370), the
expected tool wait of R73, and STATUS and DONE of the pump descriptors of its last move (Table 2.7, R79). -/
structure SessAux where
  grace : Option GracePark := none
  move : Option Move := none
  closing : List DescCtx := []
  damaged : Bool := false
  corrupt : Bool := false
  ttlParked : Nat := 0
  layers : Nat := 0
  kvh : Nat := 0
  modelDigest : BitVec 256 := 0
  unbound : Bool := false
  jobTag : W32 := 0
  keyset : BitVec 256 := 0
  unsettled : Bool := false
  peerExtent : Option W64 := none
  waitTrim : Bool := false
  waitPeer : Bool := false
  expWait : Nat := 0
  waitFrom : Nat := 0
  metaEntry : List Byte := []
  pumpStat : Nat × Nat := (0, 0)
deriving DecidableEq, Repr

/-- Sampler and stop settings of a request (Table 9.1). -/
structure Params where
  temp : BitVec 16 := 0x3C00
  topP : BitVec 16 := 0x3C00
  topK : Nat := 256
  repPen : BitVec 16 := 0x3C00
  repWin : Nat := 0
  grammar : Nat := 0
  selB : Nat := 64
  selW : Nat := 1024
  selS : Nat := 4
  stopTok : List Nat := []
  stops : List (List Byte) := []
deriving DecidableEq, Repr

/-- A request (Table 1.4, R29), FREE until allocated; the generation of an index stays when the request is gone. -/
structure Req where
  gen : Nat := 0
  rstate : RState := .free
  prio : Nat := 0
  spec : Nat := 0
  job : Nat := 0
  session : Nat := 0
  cwell : Nat := 0
  deadline : Nat := 0
  startLen : Nat := 0
  curLen : Nat := 0
  maxNew : Nat := 0
  stopRef : Nat := 0
  gramRef : Nat := 0
  shareGroup : Nat := 0
  adapterVer : Nat := 0
  tokEmitted : Nat := 0
  toolMask : BitVec 16 := 0
  flags : Byte := 0
  engineCyc : W64 := 0
  selB : Nat := 0
  selS : Nat := 0
  selW : Nat := 0
  arrival : Nat := 0
  ttlAfter : Nat := 0
  pauses : Nat := 0
deriving DecidableEq, Repr

/-- What the device holds of a live request beside its table entry: the descriptor whose FINAL record it owes, the idle
state to return to, parameters, bindings, text not yet prefilled, the working list (R57) with the carry copies and the
retained count, revival progress (R75): grains landed and in all, those whose reads are issued and that have not landed, in revival order, and when
the reads were issued, when its tier budget ends (R76), the T1 grains it waits for (R71), drafts (R246), the end that has been reached (code, and
whether it commits), an end that waits for the boundary of the step the request is in (R240), output bytes not yet in a chunk, the next chunk number, whether the LAST chunk is written (R290,
R291), the state it was paused in (R252), a pending closing row (R242), and for a split turn its transfer (R371). -/
structure ReqAux where
  ctx : DescCtx
  prior : SState
  toolp : Bool
  params : Params := {}
  vocabVer : Nat := 0
  grammarHandle : Nat := 0
  grammarVer : Nat := 0
  text : List Nat := []
  work : List SGrain := []
  carry : Carry := {}
  scounter : W32 := 0
  retained : Nat := 0
  landed : Nat := 0
  extent : Nat := 0
  revive : List SGrain := []
  readAt : Nat := 0
  budget : Nat := 0
  freshRow : Bool := false
  drafts : List Nat := []
  ended : Option (Nat × Bool) := none
  endAsk : Option (Nat × Bool) := none
  closing : Bool := false
  out : List Byte := []
  seq : Nat := 0
  lastDone : Bool := false
  chunkFailed : Bool := false
  pausedIn : RState := .free
  needT1 : Nat := 0
  xfer : Nat := 0
deriving DecidableEq, Repr

/-- An entry of the step that runs (Tables 7.1, 7.2): request index, the tokens of its rows, the first row's position,
rows NEW, speculative rows, CTX, ROW0, whether its last row samples, and whether it is a closing row or writes none. -/
structure StepEntry where
  req : Nat
  tokens : List Nat
  pos : Nat
  spec : Nat
  sel : Bool
  ctx : Nat
  row0 : Nat
  samples : Bool
  closing : Bool
  noKv : Bool
  /-- Encoder mode of the embedding path (BIDIR). -/
  bidir : Bool := false
  /-- A TRAIN entry's statistics buffer, an HBM address (R206); none with TRAIN at 0. -/
  train : Option Nat := none
deriving DecidableEq, Repr

/-- The serving loop of one model: the step that runs, its length table as it stands in HBM (Tables 7.1, 7.2), the recent step times (EST_US,
Table 9.8), and for a sharded model the group's largest exponents of the layer at hand and the layers reduced so far (R210). -/
structure Serving where
  entries : List StepEntry := []
  running : Bool := false
  times : List Nat := []
  table : List Byte := []
  sharded : Bool := false
  amax : List (BitVec 48) := []
  layers : List (List (BitVec 48) × List (BitVec 48)) := []
deriving DecidableEq, Repr

/-! ## Loaded objects -/

/-- A loaded model (R254 to R260): owner, header fields, digest, image length in grains, pooling mode, residency. -/
structure Model where
  job : Nat
  encoder : Bool
  layers : Nat
  kvh : Nat
  qpk : Nat
  specHeads : Nat
  width : Nat
  ffn : Nat
  vocab : Nat
  scale : W32
  eos : List Nat
  pooling : Nat
  digest : BitVec 256
  len : Nat
  swap : Bool
  pinned : Bool
  costW : Nat
  resident : Bool
  lastStep : Nat
  damaged : Bool
  repairs : Nat
deriving DecidableEq, Repr

/-- One version of an adapter (R262 to R265). -/
structure AdapterVer where
  ver : Nat
  model : Nat
  rank : Nat
  targets : Nat
  scale : W32
  image : List Byte
  users : Nat
  damaged : Bool
  resident : Bool
  lastStep : Nat
deriving DecidableEq, Repr

/-- An adapter handle: its current version, the last version number given, its live versions. -/
structure Adapter where
  current : Option Nat
  last : Nat
  versions : List AdapterVer
deriving DecidableEq, Repr

/-- A version of a byte object, a vocabulary (R268) or a grammar (R276), as its image; `classes` counts the class bitmaps
that a grammar keeps in the sieve area. -/
structure ByteVer where
  ver : Nat
  model : Nat
  image : List Byte
  classes : Nat
  users : Nat
  damaged : Bool
deriving DecidableEq, Repr

/-- A vocabulary of a model, or a grammar handle: current version, last number, live versions. -/
structure ByteObj where
  current : Option Nat
  last : Nat
  versions : List ByteVer
deriving DecidableEq, Repr

/-- A version of an index (R295 to R302): its image with records as they now stand, hot nodes, index epoch, searches in
flight, the INDEX_WRITEs that wait, which hold new searches back, and the flash grains of the other nodes (first, count). -/
structure IndexVer where
  ver : Nat
  image : List Byte
  hot : Nat
  epoch : Nat
  users : Nat
  damaged : Bool
  writes : List (DescCtx × List (Nat × List Byte)) := []
  cold : Option (Nat × Nat) := none
deriving DecidableEq, Repr

/-- An index handle. -/
structure Index where
  current : Option Nat
  last : Nat
  versions : List IndexVer
deriving DecidableEq, Repr

/-- A version of a filter bitmap (R303), and the bank its row 0 lies in: row k lies in the k-th bank from there, alike for every bitmap of an index. -/
structure FilterVer where
  ver : Nat
  bits : List Byte
  users : Nat
  damaged : Bool
  bank : Nat := 0
deriving DecidableEq, Repr

/-- A filter handle, bound to an index handle. -/
structure Filter where
  index : Nat
  current : Option Nat
  last : Nat
  versions : List FilterVer
deriving DecidableEq, Repr

/-- A row-map entry of a table (R309) with the row's bytes: tier, region, offset; while it is migrating, the target with the MIG_LOG
in force at its start, the offset held there, and how many steps its log holds (R317). -/
structure TableRow where
  tier : Nat
  region : Nat
  offset : Nat
  bytes : List Byte
  migrating : Option (Nat × Nat × Nat) := none
  dest : Nat := 0
  log : Nat := 0
deriving DecidableEq, Repr

/-- A version of an embedding table (R308 to R310), whether it waits for TABLE_SWAP, the runs of grains its rows have in T2 and T3 (tier, region, first, count), and the old copies of migrated rows that
lookups in flight may still read (tier, region, offset, the number of the first lookup that reads the new one). -/
structure TableVer where
  ver : Nat
  dim : Nat
  rows : Nat
  expCap : Int
  nodes : List Nat
  rowMap : Map TableRow
  users : Nat
  damaged : Bool
  areas : List (Nat × Nat × Nat × Nat) := []
  olds : List (Nat × Nat × Nat × Nat) := []
  fresh : Bool := true
deriving DecidableEq, Repr

/-- A buffered gradient item (R314): source node, step, the version it is bound to, local row, learning rate, gradient, and the
UPD_BUF in force when its step started. -/
structure UpdItem where
  node : Nat
  step : Nat
  row : Nat
  lr : W32
  grad : List W32
  ver : Nat
  cap : Nat
deriving DecidableEq, Repr

/-- A table handle: versions, buffered items, marks received per step (node, step), steps marked failed, the last step applied or
discarded, the last applied, the TABLE_STEP that waits (descriptor, step, deadline; none once it is being applied), the
MIGRATE_ROWS that wait (descriptor, version, rows left, whether a row was skipped, whether a copy failed), and MIG_EPOCH. -/
structure Table where
  current : Option Nat
  last : Nat
  versions : List TableVer
  items : List UpdItem
  marks : List (Nat × Nat)
  failed : List Nat
  doneStep : Option Nat
  stepWait : Option (DescCtx × Nat × Option Nat)
  applied : Option Nat := none
  migWait : List (DescCtx × Nat × List Nat × Bool × Bool)
  migEpoch : Nat
deriving DecidableEq, Repr

/-- A T3 region (R61): base, grains, SEAL, and the runs of grains in use (first, count). -/
structure T3Region where
  iova : W64
  grains : Nat
  sealed : Bool
  used : List (Nat × Nat)
deriving DecidableEq, Repr

/-! ## Jobs -/

/-- The composition of a slice (Table 12.1). -/
structure Slice where
  groups : W64 := 0
  serve : W64 := 0
  pc : BitVec 256 := 0
  ports : W32 := 0
  slots : BitVec 48 := 0xFFFFFFFFFFFF#48
  dedicate : List W64 := [0, 0, 0, 0, 0]
deriving DecidableEq, Repr

/-- The keys of a job (R428 to R433): the locked set with its digest, weight keys by handle, held decapsulation keys by
REPORT_ID with the report hash, and the nonce count of R429. Key values are 32 B or 48 B. -/
structure Keys where
  locked : Bool := false
  keyset : BitVec 256 := 0
  job : List Byte := []
  fabric : List Byte := []
  program : List Byte := []
  weight : Map (List Byte) := []
  held : List (Nat × BitVec 256) := []
  nonce : Nat := 1
deriving DecidableEq, Repr

/-- A group of devices (R361): members, budget, digest of the list, next collective number, whether it failed (R419). -/
structure FabGroup where
  nodes : List Nat
  collUs : Nat
  digest : BitVec 256
  next : Nat
  failed : Bool
deriving DecidableEq, Repr

/-- A checkpoint in progress (R405, R411): descriptor, identifier, step, target, destination, T3_OFF and MAN_GRAINS, group and this
device's rank in it, deadline, SIGN; what is still to be read: RUN_PROGRAMs it waits for, tensor-list entries, tables; the next free
grain of a T3 target; shard entries and session records so far (rank 0: those received too), the runs written here (grain, length),
members whose entries have arrived, when the entries were sent to rank 0, where the manifest lies once written, and what a peer has stored. -/
structure Ckpt where
  ctx : DescCtx
  id : W64
  step : W64
  target : Nat
  dest : Nat
  off : Nat
  man : Nat
  group : Nat
  rank : Nat
  deadline : Option Nat
  sign : Bool
  progs : List Nat
  list : List (List Byte)
  tables : List Nat
  next : Nat
  shards : List ShardEntry
  sessions : List SessRecord
  objects : List (Nat × Nat)
  ranks : List Nat
  sentAt : Option Nat
  manifest : Option Nat
  peerDone : Bool
deriving DecidableEq, Repr

/-- A restore whose cistern and general-object copies are being written (R415 to R418): descriptor, the manifest's place (tier, node or
region, first grain), the runs written, and what becomes current when they are durable: adapters, tables and sessions (old index, new
index, entry), the places of the report and of the mapping, and how many records were skipped. -/
structure Restore where
  ctx : DescCtx
  place : Nat × Nat × Nat
  objects : List (Nat × Nat)
  adapters : List (Nat × AdapterVer)
  tables : List (Nat × TableVer × Nat)
  sessions : List (Nat × Nat × Session × SessAux)
  report : Option (Bool × Nat)
  mapping : Option (Bool × Nat)
  skipped : Nat
deriving DecidableEq, Repr

/-- A job (R323): state, function, slice in force, recomposition in progress with what it asks for, ERR, IGNORED, EPOCH,
wells, objects, T3 regions, device groups, keys, quiescing (R407), checkpoint, restores, pass bitmaps built (R303), and SCH_JOB_SERVE and
SCH_JOB_SLACK as the last step boundary took them (R267). -/
structure Job where
  active : Bool := false
  conf : Bool := false
  func : Nat := 0
  slice : Slice := {}
  want : Option Slice := none
  ignored : Bool := false
  err : Nat := 0
  epoch : W32 := 0
  sw : Map SubWell := []
  cw : Map CompWell := []
  adapters : Map Adapter := []
  vocabs : Map ByteObj := []
  grammars : Map ByteObj := []
  indexes : Map Index := []
  filters : Map Filter := []
  tables : Map Table := []
  regions : Map T3Region := []
  fabGroups : Map FabGroup := []
  keys : Keys := {}
  quiesced : Bool := false
  ckpt : Option Ckpt := none
  restores : List Restore := []
  passMaps : List (List (Nat × Nat) × List Nat) := []
  serve : W64 := 0
  slack : W64 := 0
deriving DecidableEq, Repr

/-! ## Engines, shapers, pumps -/

/-- What a queued or running engine command does when it ends. -/
inductive Work where
  /-- Tokenizing a piece of a descriptor's text, `left` pieces before its last: already reflected in the request's tokens; the command charges
  cycles. -/
  | lane (left : Nat)
  /-- Masks of a request's positions in a step. -/
  | sieve
  /-- A slice of a session move or of a revival. -/
  | move (session : Nat)
  /-- Copies of attended T1 grains into scratch slots for a step (R194). -/
  | copy
  /-- A pump descriptor of a program, by its number in `pumpDescs`. -/
  | pump (n : Nat)
  /-- A search, by its number; a pass-bitmap build. -/
  | search (n : Nat)
  | passMap
  /-- Bag `b` of a lookup, by its number; the rows of a step application. -/
  | bag (n b : Nat)
  | apply (job table : Nat)
  /-- A collective, an egress packet, a turn. -/
  | coll
  | packet (dst vc seq : Nat)
  | turn
deriving DecidableEq, Repr

/-- An engine command (R334): job, share group, request index plus one (0: none), when it was queued, its cost to a shaper,
its work, and whether it runs on an instance of the pool. -/
structure EngCmd where
  job : Nat
  share : Nat
  req : Nat
  since : Nat
  cost : Nat
  work : Work
  pooled : Bool := true
deriving DecidableEq, Repr

/-- One engine class (R335): current job, deficits, estimates, the share group each job served last, the queue oldest
first, and the command on each busy instance. -/
structure Pool where
  cur : Nat := 0
  deficit : Map Int := []
  est : Map Nat := []
  lastShare : Map Nat := []
  queue : List EngCmd := []
  busy : Map EngCmd := []
deriving DecidableEq, Repr

/-- A token bucket (R340): CFG, balance, the clock of the last addition, and the fraction of a token in thousandths. -/
structure Shaper where
  cfg : W64 := 0
  bal : BitVec 32 := 0
  last : Nat := 0
  frac : Nat := 0
deriving DecidableEq, Repr

/-- A pump descriptor handed over by PUT (R178): issuing core, program, where its 32 B lie, progress, whether a pump has taken it up, and whether its
next access to HBM has already waited for a segment (R228). -/
structure PumpDesc where
  core : Nat
  prog : Nat
  addr : Nat
  status : Nat
  done : Nat
  taken : Bool
  waited : Bool := false
deriving DecidableEq, Repr

/-- A search in flight (R299): descriptor, index handle and version, epoch, filters with versions, parameters, query, and how many INDEX_WRITEs of
the version hold it back (R302). -/
structure Search where
  ctx : DescCtx
  index : Nat
  ver : Nat
  epoch : Nat
  k : Nat
  l : Nat
  ops : Nat
  filters : List (Nat × Nat)
  expandMax : Nat
  query : List Byte
  resAddr : Nat
  resHbm : Bool
  held : Nat
deriving DecidableEq, Repr

/-- A lookup in flight (R311): descriptor, table handle and version, indices, offsets, weights, output, bags left. -/
structure Lookup where
  ctx : DescCtx
  table : Nat
  ver : Nat
  idx : List Nat
  off : List Nat
  weights : List Byte
  fmt : Nat
  q : Nat
  outAddr : Nat
  outHbm : Bool
  left : Nat
  failed : Bool
deriving DecidableEq, Repr

/-! ## Cores and programs -/

/-- An accumulator tile (R89): 32 × 32 elements of 48 bits, row by row, and 32 row exponents. -/
structure Tile where
  elems : Map (BitVec 48) := []
  exps : Map (BitVec 16) := []
deriving DecidableEq, Repr

/-- The registers of a core that a bed may change (Table 5.1), as they stand. Registers not listed hold 0. -/
structure CoreRegs where
  s : Map W32 := []
  v : Map (BitVec 2048) := []
  p : Map W64 := []
  tiles : Map Tile := []
  vstat : W32 := 0
  tstat : W32 := 0
deriving DecidableEq, Repr

/-- What a core waits for before it issues again (R139, R141, R142, R144, R146, R177, R179). -/
inductive CoreWait where
  | none
  | sem (n k : Nat)
  | fenceL
  | fenceM
  | bar (k : Nat)
  | inflight
  | puts
deriving DecidableEq, Repr

/-- Work a core has issued that has not landed (R176, R177), oldest first; what lands in one store from one core lands in that order, and no other
order holds (R116, R117). -/
inductive Flight where
  /-- A remote write of bytes to the core `dst` at an address; a remote semaphore increment. -/
  | write (dst addr : Nat) (data : List Byte)
  | inc (dst sem amount : Nat)
  /-- HBM to store and store to HBM, with the run's HBM address, store address, length and semaphore; for a read that a segment holds, how many
  writes its bank set held before it (R228), and then what it has read, store address and semaphore. -/
  | load (hbm addr len sem : Nat) (waited : Option Nat)
  | loaded (addr : Nat) (data : List Byte) (sem : Nat)
  | store (hbm : Nat) (data : List Byte) (sem : Nat)
  /-- A SEND on its way, by node and virtual-channel sequence number, with its program and the fault record its refusal writes (R147, R157). -/
  | send (node seq prog : Nat) (record : List Byte)
deriving DecidableEq, Repr

/-- What a word of a bed does beside the registers: all of it happens when the bed issues, at its last word (R138, R139). -/
inductive Late where
  /-- Bytes written to the core's own store by the memory unit or a tile readout. -/
  | store (addr : Nat) (data : List Byte)
  | flight (f : Flight)
  /-- A SEND (R147): node, physical core, address, its semaphore there and here, the run, and the fault record its refusal writes. -/
  | send (node core addr semd sem : Nat) (data record : List Byte)
  /-- Own semaphores: an increment, and the subtraction of a SEMWAIT. -/
  | inc (n amount : Nat)
  | dec (n amount : Nat)
  /-- Pump descriptors handed over (R178): first address, how many. -/
  | put (addr count : Nat)
  | fenceL
  | fenceM
  | bar (k : Nat)
  /-- CALL's link register: the address of the next bed. -/
  | link (r : Nat)
  | halt (exit : W32)
deriving DecidableEq, Repr

/-- A core (R129): registers, PC, semaphores, store, and issue state: the program it runs (0: none), its logical number,
whether it halted, the bed in progress (words seen, slots used, registers written, the registers as they stood at its start,
what it does when it issues, branch target), beds issued, what it waits for, work in flight, barrier counts. -/
structure Core where
  regs : CoreRegs := {}
  pc : Nat := 0
  sems : Map W64 := []
  store : List Host.Cell := []
  prog : Nat := 0
  lcore : Nat := 0
  halted : Bool := true
  bedPos : Nat := 0
  bedSlots : List Nat := []
  bedWrites : List Nat := []
  snap : CoreRegs := {}
  late : List Late := []
  target : Option Nat := none
  beds : Nat := 0
  wait : CoreWait := .none
  flight : List Flight := []
  bars : Map Nat := []
deriving DecidableEq, Repr

/-- A declared segment with its binding (R134): HBM base, SIZE, READ, WRITE. -/
structure Seg where
  base : Nat
  size : Nat
  rd : Bool
  wr : Bool
deriving DecidableEq, Repr

/-- A RUN_PROGRAM (R148 to R157): descriptor, version, groups, code range, entry, data, arguments, segments, limit, fault
address, whether it has started, when its first bed was taken up, its exit value, and once it is being stopped its code and fault record (R157). -/
structure Prog where
  ctx : DescCtx
  minor : Nat
  mask : W64
  entry : Nat
  codeBase : Nat
  code : List Byte
  dataBase : Nat
  data : List Byte
  argBase : Nat
  args : List Byte
  segs : List Seg
  limit : Nat
  faultAddr : W64
  started : Bool
  startAt : Option Nat
  exit : W32
  stopping : Option (Nat × List Byte) := none
deriving DecidableEq, Repr

/-- A core group (R121 to R126): PWR_GROUP_CTL, current state (0 RUN, 1 RETAIN, 2 OFF), DENIED, and the job whose context
its cores hold (R338), with the contexts of the suspended jobs by core. -/
structure Group where
  ctl : W64 := 0x0000006400002106
  state : Nat := 2
  denied : Bool := false
  haltedSince : Nat := 0
  job : Nat := 64
  lastJob : Nat := 64
  saved : Map (Map Core) := []
deriving DecidableEq, Repr

/-! ## Bank sequencers -/

/-- One context of a sequencer (R216 to R231): index registers, microwords, pattern and list stores, PC, readout destination,
notification, state bits and CAUSE, the microword at which it stopped, readouts since GO. -/
structure SeqCtx where
  idx : Map (BitVec 16) := []
  words : Map W32 := []
  pats : Map (BitVec 128) := []
  list : Map (BitVec 16) := []
  dest : W64 := 0
  noteReg : W64 := 0
  pc : Nat := 0
  busy : Bool := false
  done : Bool := false
  fault : Bool := false
  aborted : Bool := false
  cause : Nat := 0
  stopPc : Nat := 0
  readouts : Nat := 0
deriving DecidableEq, Repr

/-- A bank sequencer (R213 to R234): its two contexts, SEQ_CTL, SEQ_WIN, SEQ_OUT slots, BUSYGO, BUSYWR, the context whose
segment runs, the one that ran last, whether a boundary's work is due (R227), time spent in the segment, segments run,
refreshes postponed, SEQ_REF, and ordinary writes held (R228). -/
structure Seq where
  user : SeqCtx := {}
  dev : SeqCtx := {}
  ctl : W64 := 0
  win : W64 := 0
  out : Map (List Byte) := []
  busyGo : Bool := false
  busyWr : Bool := false
  running : Option Bool := none
  lastDev : Bool := false
  boundary : Bool := false
  segNs : Nat := 0
  segs : W32 := 0
  postponed : Nat := 0
  ref : W64 := 0
  held : List (Nat × List Byte) := []
deriving DecidableEq, Repr

/-! ## Fabric -/

/-- A logical port (Tables 13.10, 13.11): state, version, lanes, the neighbour, replays, credits per virtual channel in
64 B units, packets that wait on each. -/
structure Port where
  state : Nat := 0
  ver : Nat := 0
  lanes : Nat := 0
  peer : Nat := 0
  peerSerial : Nat := 0
  peerPort : Nat := 0
  credits : Map Nat := []
  queue : List Packet := []
deriving DecidableEq, Repr

/-- A packet sent and not yet acknowledged (R351): itself, when it was first and last sent. -/
structure OutPkt where
  pkt : Packet
  share : Nat := 0
  first : Nat
  last : Nat
deriving DecidableEq, Repr

/-- A transfer record (R364): direction, session, epoch, peer, phase, times, and what arrived so far. -/
inductive XferPhase where
  | offered
  | sending
  | sent
  | receiving
  | entered
  | refused
  | reclaimed
deriving DecidableEq, Repr

structure Xfer where
  outbound : Bool
  session : Nat
  epoch : Nat
  peer : Nat
  phase : XferPhase
  since : Nat
  offeredAt : Nat
  queries : Nat
  waitIn : Bool
  total : Nat
  got : Nat
  msg : Option HandoffMsg
  grains : List SGrain
  carry : Carry
  reqGrain : Option XferGrain
  job : Nat
  req : Nat
  ctx : Option DescCtx
  turn : Option Desc
  phaseUs : Nat
  root : W64 := 0
deriving DecidableEq, Repr

/-- A peer extent this device holds for another (R370): owner, its own job and the extent's place here, job tag, KV grains and carry,
expiry on its own clock. -/
structure HeldExtent where
  owner : Nat
  job : Nat
  root : W64
  count : Nat
  tag : W32
  grains : List (List Byte)
  expiry : Option Nat
deriving DecidableEq, Repr

/-- A PEER_FREE that its holder has not acknowledged (R370): the extent, the session that gave it up, its job, when it was last sent. -/
structure PeerFree where
  addr : W64
  session : Nat
  job : Nat
  sent : Nat
deriving DecidableEq, Repr

/-- A collective in progress (R361 to R363): job, group, number, operation, this device's part, the chunks that are complete, the deadline. -/
structure Coll where
  job : Nat
  group : Nat
  seq : Nat
  op : Nat
  part : List (BitVec 48)
  done : Map (List (BitVec 48))
  deadline : Nat
deriving DecidableEq, Repr

/-- The fabric manager's and the collective engine's state (13_nolmus_fabric): own identifier, records changed, TAG_CONFLICT, ports, topology, routes, own
record's generation, sequence numbers sent and received, packets not acknowledged, unreachable nodes, transfer records and their counter,
peer extents held, PEER_FREEs not acknowledged, collectives, and packets of collectives not joined yet. -/
structure Fabric where
  node : Nat := 0xFFFF
  changes : W32 := 0
  tagConflict : Bool := false
  ports : Map Port := []
  topo : List TopoRec := []
  routes : Map (List Nat) := []
  gen : Nat := 0
  sendSeq : Map Nat := []
  recvSeq : Map Nat := []
  unacked : List OutPkt := []
  unreachable : List Nat := []
  xfers : Map Xfer := []
  nextXfer : Nat := 0
  held : Map HeldExtent := []
  peerFrees : List PeerFree := []
  colls : List Coll := []
  early : List (Nat × Nat × CollPacket) := []
deriving DecidableEq, Repr

/-! ## Flash -/

/-- What is known of a NAND block: erases, reads since the last, retired, the superblock that owns it. -/
structure Block where
  erases : Nat := 0
  reads : Nat := 0
  retired : Bool := false
  owner : Nat := 0
deriving DecidableEq, Repr

/-- A reverse record with its place (R379): logical grain, kind, region, padding, stripe sequence. -/
structure RevRec where
  lgn : Nat
  kind : Nat
  gen : Bool
  pad : Bool
  seq : Nat
deriving DecidableEq, Repr

/-- A superblock (R381): die index, stream, its blocks, the grains written stripe by stripe, closed, last sequence. -/
structure SuperBlock where
  die : Nat
  stream : Nat
  blocks : List Nat
  stripe : Nat
  fill : List (Nat × Nat × Nat)
  filledAt : Nat
  closed : Bool
  lastSeq : Nat
deriving DecidableEq, Repr

/-- A parked extent or another object as flash keeps it: its grains as they are programmed, enciphered (R380); for an extent also the session entry and
what META, SAMPLER, DETOK, GRAMMAR and the KV grains hold. `complete`: META is reported (R386). -/
structure FlashObj where
  count : Nat
  session : Option (Nat × Session × SessAux)
  bytes : List Byte
  complete : Bool
  queued : Bool
  job : Nat
deriving DecidableEq, Repr

/-- The flash translation layer (R376 to R399): STATE, PF_SEEN, DENIED, EXPORT, CISTERN, the map by logical grain, reverse
records by physical grain, objects by first logical grain, blocks, superblocks, the stripe sequence, trim records not yet
durable and durable (first, count, SEQ), failed dies by channel, writes stopped by a power-fail warning, its statistics,
blocks retired, grains that wait per stream (logical grain, kind, old map entry plus one for a relocation), the die each
stream fills next, superblocks and blocks whose valid grains are being relocated before an erase. -/
structure Ftl where
  state : Nat := 0
  pfSeen : Bool := false
  denied : Bool := false
  cap : Nat := 0
  cistern : Nat := 0
  map : Map W32 := []
  phys : Map RevRec := []
  objects : Map FlashObj := []
  blocks : Map Block := []
  supers : Map SuperBlock := []
  nextSuper : Nat := 1
  seq : Nat := 0
  trims : List (Nat × Nat × Nat) := []
  durable : List (Nat × Nat × Nat) := []
  failedDies : Map (BitVec 16) := []
  stopped : Bool := false
  pfCount : Nat := 0
  pfUs : Nat := 0
  retired : Nat := 0
  queue : Map (List (Nat × Nat × Nat)) := []
  turn : Map Nat := []
  victims : List Nat := []
  eraseBlocks : List Nat := []
deriving DecidableEq, Repr

/-! ## Errors, security, power -/

/-- An error record as kept (Table 18.1). -/
structure ErrRec where
  seq : Nat
  time : Nat
  cls : Nat
  escalated : Bool
  queued : Bool
  source : Nat
  unit : Nat
  code : Nat
  job : Option Nat
  conf : Bool
  req : Nat
  session : Nat
  addr : W64
  count : Nat
  outcome : Nat
  handle : Nat
  detail : W64
deriving DecidableEq, Repr

/-- An error well (R469, R510): slots by number, head, tail, lost counts, OVERFLOW, and for a function its control. -/
structure ErrWell where
  slots : Map ErrRec := []
  head : W32 := 0
  tail : W32 := 0
  overflow : Bool := false
  lost : List Nat := [0, 0, 0, 0]
  ctl : W64 := 0
deriving DecidableEq, Repr

/-- A unit that is not in service (R485, R486): 1 OUT, 2 PROBATION; TEST_FAILED. -/
structure UnitState where
  state : Nat
  failed : Bool
deriving DecidableEq, Repr

/-- The fatal dump (R480 to R484): VALID, PARTIAL, SKIPPED, FW_OK, DUMP_SEQ, header contents, the groups of confidential slices; the error well, the request
entries and the entries of the session cache as the dump holds them; `free` names the free values that stand for the bytes of its other sections. -/
structure Dump where
  valid : Bool := false
  partial_ : Bool := false
  skipped : Bool := false
  fwOk : Bool := false
  seq : W32 := 0
  time : Nat := 0
  cause : W64 := 0
  trigger : Option ErrRec := none
  confExcluded : Bool := false
  confGroups : W64 := 0
  well : Map ErrRec := []
  reqs : Map (List Byte) := []
  cache : List (List Byte) := []
  free : Option Nat := none
deriving DecidableEq, Repr

/-- An error being handled (R478): its source, unit and class, the requests it ended, by identifier, and the models whose running
step held them, until that step has ended. -/
structure Handling where
  source : Nat
  unit : Nat
  cls : Nat
  reqs : List Nat
  models : List Nat
deriving DecidableEq, Repr

/-- The error unit (R469 to R486): the well, the last SEQ, the functions' wells, errors being handled (the newest first), errors
queued with their times of detection, FATAL_PENDING, DUMPING, the dump, units not in service, REFUSED, and the times of
corrected errors by unit. -/
structure ErrState where
  well : ErrWell := {}
  seq : Nat := 0
  fnWells : Map ErrWell := []
  handling : List Handling := []
  queued : List (ErrInfo × Nat) := []
  fatal : Bool := false
  dumping : Bool := false
  dump : Dump := {}
  units : Map UnitState := []
  unitRefused : Bool := false
  corrected : Map (List Nat) := []
deriving DecidableEq, Repr

/-- The security block (R423 to R441): BOOT, confidential mode, debug, boot cause, the boot SPI flash as far as it has been written and
whether the next boot may use it, fuses burnt by COMMIT, the recovery engine and its buffer, the FW_UPDATE being written, SVN,
DIGEST and release of the running firmware (none: as delivered), the nonce count of the device T3 key, and the draw that names this key. -/
structure Sec where
  boot : Nat := 0
  confActive : Bool := false
  debugSeen : Bool := false
  debugLock : Bool := false
  bootCause : Nat := 0
  bootMs : Nat := 0
  spi : List Host.Cell := []
  spiGood : Bool := true
  rollback : Nat := 0
  recDone : Bool := false
  recFail : Bool := false
  recCause : Nat := 0
  recBuf : List Host.Cell := []
  fwWrite : Option (DescCtx × List Byte) := none
  running : Option (Nat × BitVec 256 × W32) := none
  t3Nonce : Nat := 1
  t3Key : Nat := 0
deriving DecidableEq, Repr

/-- Power states (Table 17.3). -/
inductive PowerState where
  | off
  | standby
  | active
deriving DecidableEq, Repr

/-- Power, clock and reset. `level` is the level of the reset in progress (0 core, 1 system, 3 power-on); `prep` holds the source
bits of a core reset that is being prepared; `raise0` and `raise1` are when each die's clamp may rise next. -/
structure Power where
  state : PowerState := .active
  clock : Nat := 0
  latchHigh : Option W32 := none
  cause : W64 := 0x301
  level : Option Nat := some 3
  acceptedAt : Nat := 0
  pinSource : Bool := false
  stepDone : Nat := 0
  ready : Bool := false
  draining : Bool := false
  drainAt : Nat := 0
  prep : W64 := 0
  hbmClean : Bool := false
  fuse : Byte := 0x15
  clampC0 : Nat := 33
  clampC1 : Nat := 33
  raise0 : Nat := 0
  raise1 : Nat := 0
  capMgmt : Nat := 0
  powerLim : Bool := false
  thermLim : Bool := false
  capMiss : Bool := false
  missSince : Option Nat := none
  input : W64 := 0
  temps : W64 := 0
deriving DecidableEq, Repr

/-- Pins and the link. `resetIn`, `resetOut` and `pwrFail` are true while the pin is high; `straps` holds SMBA [2:0], SRIS [3] and
TEST [4] as the pins stand, `sampled` as the last release read them (R521). -/
structure Pins where
  osc : Bool := true
  pcieClk : Bool := true
  nlmClk : Bool := true
  resetIn : Bool := true
  resetOut : Bool := false
  pwrFail : Bool := true
  linkGen : Nat := 5
  linkWidth : Nat := 8
  linkUp : Bool := false
  straps : BitVec 5 := 0
  sampled : BitVec 5 := 0
deriving DecidableEq, Repr

/-- A function's host-interface registers (Tables 19.5 to 19.7): HCI_VER_CTL, WIN_BASE, version in force, sticky bits, statistics,
the MSI-X vectors signalled, newest first, and SES_PEEK_CTL with what it read. -/
structure Func where
  verCtl : W64 := 0
  winBase : W64 := 0
  agreed : Bool := false
  minor : Nat := 0
  major : Nat := 0
  refused : Bool := false
  busy : Bool := false
  badAccess : W32 := 0
  dmaFail : W32 := 0
  signals : List Nat := []
  peekCtl : W64 := 0
  peek : List Byte := []
deriving DecidableEq, Repr

/-- Histograms of a queue (R342): depth and delay bins. -/
structure Hist where
  depth : Map Nat := []
  delay : Map Nat := []
deriving DecidableEq, Repr

/-! ## The state -/

structure State where
  /-- The commands that wait, first in, first out. -/
  pending : List Instr := []
  /-- The model's own counter of free values drawn (log entry 4); no field of the device. -/
  freeCtr : Nat := 0
  power : Power := {}
  pins : Pins := {}
  sec : Sec := {}
  errs : ErrState := {}
  funcs : Map Func := []
  jobs : Map Job := []
  regs : Map W64 := []
  sessions : Map Session := []
  sessAux : Map SessAux := []
  /-- The entries the on-die cache of the session table holds, most recently used first, and one that a bypass has yet to write back (R12). -/
  sesCache : List Nat := []
  sesBypass : Option Nat := none
  reqs : Map Req := []
  reqAux : Map ReqAux := []
  serving : Map Serving := []
  models : Map Model := []
  pools : Map Pool := []
  shapers : Map Shaper := []
  hists : Map Hist := []
  /-- First-grain latencies of the last 256 revivals by tier, newest first (PMP_TIER_LAT). -/
  tierLat : Map (List Nat) := []
  snapshot : List Nat := []
  pumpDescs : Map PumpDesc := []
  searches : Map Search := []
  lookups : Map Lookup := []
  nextWork : Nat := 1
  progs : Map Prog := []
  nextProg : Nat := 1
  cores : Map Core := []
  groups : Map Group := []
  seqs : Map Seq := []
  hbm : List Host.Cell := []
  /-- Host memory as far as it has been placed or written (log entry 6). -/
  host : List Host.Cell := []
  refreshing : List Nat := []
  /-- Reads of the host window that a segment holds (R228): function, HBM address, length, and how many writes its bank set held before it. -/
  winHeld : List (Nat × Nat × Nat × Nat) := []
  fabric : Fabric := {}
  ftl : Ftl := {}
  privSlots : Map (Nat × Nat) := []
  blockOff : List Nat := []
  blockRefused : Bool := false
  /-- What the last host read, sideband command or JTAG access answered. -/
  busOut : List Byte := []
deriving DecidableEq, Repr

/-- The device right after power application (R447, R455, R462): power-on reset in progress, the local clock at 0, every
register at its reset value, nothing listed in any memory. -/
def State.reset : State := {}

end Sys2Proof.Machine
end

