-- ==== Sys2Proof/Machine/Ops.lean ====
section
/-!
DEFINITION. Sys2Proof/Machine/Ops.lean: the named operations over the state: its keyed parts, HBM and host memory, the
taking up of descriptors (R501, R531), and completion records and their signals (R505 to R508).
-/
namespace Sys2Proof.Machine

open Sys2Proof

/-- What a command answers. -/
abbrev Res := Host.Outcome State Fault Refusal

/-! ## Keyed parts of the state -/

/-- The local clock (R455). -/
def State.now (s : State) : Nat := s.power.clock
def State.job (s : State) (j : Nat) : Job := mgetD s.jobs j {}
def State.setJob (s : State) (j : Nat) (x : Job) : State := { s with jobs := mput s.jobs j x }
def State.modJob (s : State) (j : Nat) (f : Job → Job) : State := s.setJob j (f (s.job j))
def State.sess (s : State) (i : Nat) : Session := mgetD s.sessions i {}
def State.setSess (s : State) (i : Nat) (x : Session) : State := { s with sessions := mput s.sessions i x }
def State.modSess (s : State) (i : Nat) (f : Session → Session) : State := s.setSess i (f (s.sess i))
def State.aux (s : State) (i : Nat) : SessAux := mgetD s.sessAux i {}
def State.setAux (s : State) (i : Nat) (x : SessAux) : State := { s with sessAux := mput s.sessAux i x }
def State.modAux (s : State) (i : Nat) (f : SessAux → SessAux) : State := s.setAux i (f (s.aux i))
def State.req (s : State) (i : Nat) : Req := mgetD s.reqs i {}
def State.setReq (s : State) (i : Nat) (x : Req) : State := { s with reqs := mput s.reqs i x }
def State.modReq (s : State) (i : Nat) (f : Req → Req) : State := s.setReq i (f (s.req i))
def State.raux? (s : State) (i : Nat) : Option ReqAux := mget s.reqAux i
def State.setRaux (s : State) (i : Nat) (x : ReqAux) : State := { s with reqAux := mput s.reqAux i x }
def State.modRaux (s : State) (i : Nat) (f : ReqAux → ReqAux) : State :=
  match s.raux? i with
  | none => s
  | some x => s.setRaux i (f x)
def State.func (s : State) (n : Nat) : Func := mgetD s.funcs n {}
def State.modFunc (s : State) (n : Nat) (f : Func → Func) : State := { s with funcs := mmod s.funcs n {} f }
def State.core (s : State) (c : Nat) : Core := mgetD s.cores c {}
def State.setCore (s : State) (c : Nat) (x : Core) : State := { s with cores := mput s.cores c x }
def State.group (s : State) (g : Nat) : Group := mgetD s.groups g {}
def State.setGroup (s : State) (g : Nat) (x : Group) : State := { s with groups := mput s.groups g x }
def State.seq (s : State) (n : Nat) : Seq := mgetD s.seqs n {}
def State.setSeq (s : State) (n : Nat) (x : Seq) : State := { s with seqs := mput s.seqs n x }
def State.pool (s : State) (c : Nat) : Pool := mgetD s.pools c {}
def State.setPool (s : State) (c : Nat) (x : Pool) : State := { s with pools := mput s.pools c x }
def State.port (s : State) (l : Nat) : Port := mgetD s.fabric.ports l {}
def State.setPort (s : State) (l : Nat) (x : Port) : State :=
  { s with fabric := { s.fabric with ports := mput s.fabric.ports l x } }
def Job.subWell (j : Job) (w : Nat) : SubWell := mgetD j.sw w {}
def Job.compWell (j : Job) (w : Nat) : CompWell := mgetD j.cw w {}
def Job.setSub (j : Job) (w : Nat) (x : SubWell) : Job := { j with sw := mput j.sw w x }
def Job.setComp (j : Job) (w : Nat) (x : CompWell) : Job := { j with cw := mput j.cw w x }

/-- Draw a free value: the number that names it, and the state with the counter advanced. -/
def State.draw (s : State) : Nat × State := (s.freeCtr, { s with freeCtr := s.freeCtr + 1 })

/-! ## Errors scoped unpredictable (job) (R6) -/

/-- Do the second after the first, unless the first stops. -/
def Res.andThen (r : Res) (f : State → Res) : Res := match r with
  | .next s => f s
  | r => r

/-- The slots of a grain, free but for their number. -/
def spoiledSlots (n i : Nat) (old : List KvSlot) : List KvSlot :=
  let new := Config.spoilSlots n i old
  if new.length = old.length then new else old

/-- The carry state with its tokens free. -/
def spoiledCarry (n i : Nat) (c : Carry) : Carry :=
  { c with lastToken := Config.spoilNat n (4 * i) % 2 ^ 32
           ring := c.ring.map (fun (e : Nat × Nat) => (e.1, Config.spoilNat n (2 ^ 40 + 2048 * i + e.1) % 2 ^ 32)) }

def spoiledGrain (n : Nat) (g : SGrain) : SGrain := { g with slots := spoiledSlots n g.addr.toNat g.slots }

/-- What R6 leaves of a session's data: sampler state, times and the contents of its grains are free values; its place in the tables
and in the tiers is the device's own. -/
def Session.spoiled (n i : Nat) (x : Session) : Session :=
  { x with seed := BitVec.ofNat 64 (Config.spoilNat n (4 * i + 1)), scounter := BitVec.ofNat 32 (Config.spoilNat n (4 * i + 2))
           expiry := Config.spoilNat n (4 * i + 3) % 2 ^ 48, carry := spoiledCarry n i x.carry, grains := x.grains.map (spoiledGrain n) }

/-- The same of a live request. -/
def ReqAux.spoiled (n i : Nat) (a : ReqAux) : ReqAux :=
  { a with text := Config.spoilText n (3 * i) a.text, drafts := Config.spoilText n (3 * i + 1) a.drafts
           out := (Config.spoilText n (3 * i + 2) (a.out.map (·.toNat))).map (BitVec.ofNat 8)
           carry := spoiledCarry n (2 ^ 24 + i) a.carry, work := a.work.map (spoiledGrain n), revive := a.revive.map (spoiledGrain n) }

/-! ## Registers kept by offset -/

/-- Reset values of the plain registers, by offset in the physical function's BAR0 (each block's register map). -/
def regReset (off : Nat) : W64 :=
  if off = 0x200000 + 0x1010 then 0x64
  else if 0x201200 ≤ off ∧ off < 0x201240 then (if off = 0x201238 then 0x672 else 0x40)
  else if 0x206000 ≤ off ∧ off < 0x207000 then 0x100
  else if 0x200100 ≤ off ∧ off < 0x200300 then 0x0000000008000020
  else if 0x202000 ≤ off ∧ off < 0x206000 then (if off % 0x100 = 0x48 then 0x0000FFFFFFFFFFFF else 0)
  else if 0x300300 ≤ off ∧ off < 0x300500 then 0x00000E1000000E10
  else if 0x300700 ≤ off ∧ off < 0x300900 then 0x0000040000040000
  else if 0x400100 ≤ off ∧ off < 0x400300 then 0x00020000271007D0
  else if 0x400300 ≤ off ∧ off < 0x400500 then 0x009C40186A004E20
  else if 0x500200 ≤ off ∧ off < 0x500400 then 0x0000000000000007
  else if 0x600100 ≤ off ∧ off < 0x600300 then 0x0000100001000000
  else if off = 0x900018 then 0x000000080000C350
  else if 0x900100 ≤ off ∧ off < 0x900180 then 0x1
  else if off = 0x30028 then 0x0000000003E80000
  else if off = 0x30030 then 0x0000000001000400
  else if off = 0x800050 then BitVec.ofNat 64 (200 <<< 32)
  else 0

/-- A plain register. -/
def State.reg (s : State) (off : Nat) : W64 := mgetD s.regs off (regReset off)

/-- Set a plain register; a register at its reset value is not listed. -/
def State.setReg (s : State) (off : Nat) (v : W64) : State :=
  { s with regs := if v = regReset off then mdel s.regs off else mput s.regs off v }

/-- Add to the field of width `w` at bit `lo` of a counter register, wrapping within the field. -/
def State.countReg (s : State) (off lo w n : Nat) : State :=
  s.setReg off (setFld (s.reg off) lo w (fld (s.reg off) lo w + n))

/-! Offsets of registers the meanings read. -/
def Reg.hotStat := 0x200018
def Reg.stepStat := 0x200008
def Reg.specStat := 0x200010
def Reg.jobServe (j : Nat) := 0x200100 + 8 * j
def Reg.jobPause (j : Nat) := 0x200300 + 8 * j
def Reg.jobSlack (j : Nat) := 0x200500 + 8 * j
def Reg.histCtl := 0x201010
def Reg.quant (c : Nat) := 0x201200 + 8 * c
def Reg.slice (j : Nat) := 0x202000 + 0x100 * j
def Reg.share (j c : Nat) := 0x206000 + 8 * (8 * j + c)
def Reg.dedicate (j c : Nat) := 0x207000 + 8 * (8 * j + c)
def Reg.acct (j c : Nat) := 0x208000 + 8 * (8 * j + c)
def Reg.sgAcct (j : Nat) := 0x209000 + 8 * j
def Reg.cacheStat := 0x300018
def Reg.rebuilt := 0x3000D0
def Reg.attStat := 0x3000C0
def Reg.evictStat := 0x3000C8
def Reg.jobQuota (j : Nat) := 0x300100 + 8 * j
def Reg.jobTtl (j : Nat) := 0x300300 + 8 * j
def Reg.jobEvict (j : Nat) := 0x300700 + 8 * j
def Reg.checkStat := 0x400010
def Reg.tierLat := 0x400018
def Reg.jobPolicy (j : Nat) := 0x400100 + 8 * j
def Reg.jobBudget (j : Nat) := 0x400300 + 8 * j
def Reg.jobT1 (j : Nat) := 0x400500 + 8 * j
def Reg.tokCache := 0x500010
def Reg.sivStat := 0x500018
def Reg.jobText (j : Nat) := 0x500200 + 8 * j
def Reg.wlkStat := 0x600010
def Reg.wlkDist := 0x600018
def Reg.wlkCache := 0x600020
def Reg.embStat := 0x600030
def Reg.embUpd := 0x600038
def Reg.wlkJob (j : Nat) := 0x600100 + 8 * j
def Reg.ftlWrites := 0x800030
def Reg.ftlNand := 0x800038
def Reg.ftlRdCtl := 0x800050
def Reg.ftlRebuild := 0x800060
def Reg.ftlCh (c : Nat) := 0x800100 + 8 * c
def Reg.nlmOwn := 0x900018
def Reg.nlmDrop := 0x900020
def Reg.portCtl (n : Nat) := 0x900100 + 8 * n
def Reg.portStat (l : Nat) := 0x900200 + 8 * l
def Reg.jobTag (j : Nat) := 0x900400 + 8 * j
def Reg.ckpStat := 0xA00008
def Reg.ckpJob (j : Nat) := 0xA00100 + 8 * j
def Reg.ckpJobStat (j : Nat) := 0xA00300 + 8 * j
def Reg.errCtl := 0x30028
def Reg.errThresh := 0x30030
def Reg.errClass (c : Nat) := 0x30040 + 8 * c
def Reg.dumpCtl := 0x30060
def Reg.unitCtl := 0x30080
def Reg.capHost := 0x20018
def Reg.blockCtl := 0x10030
def Reg.recCtl := 0x41000

/-- NLM_JOB_TAG[j] (R358). -/
def State.jobTag (s : State) (j : Nat) : W32 := (s.reg (Reg.jobTag j)).setWidth 32

/-! ## HBM and host memory -/

/-- Raw grains of the flash (R326, R388). -/
def rawGrains : Nat :=
  32 * Config.flashDies * Config.flashBlocks * 4 * Config.flashPages * (if Config.flashPage = 0 then 1 else 2)

/-- Row groups of the device region (R326): 16, and one per 2^26 raw grains while flash is present. -/
def State.devRg (s : State) : Nat := if s.ftl.state = 0 then 16 else 16 + cdiv rawGrains (2 ^ 26)

/-- The first address beyond the end of HBM (R528). -/
def hbmEnd : Nat := 0x5960000000

/-- Does the run of `n` bytes at HBM address `a` lie in the HBM of job `j` (R326)? Each 1 MiB unit of it must lie in a
row group from DEV_RG to 1,429 and a pseudo-channel of the job's slice. -/
def State.inJobHbm (s : State) (j a n : Nat) : Bool :=
  if n = 0 then true
  else
    let first := a / 2 ^ 20
    let last := (a + n - 1) / 2 ^ 20
    (a + n ≤ hbmEnd) &&
      (List.range (last - first + 1)).all (fun i =>
        let u := first + i
        decide (s.devRg ≤ u / 256) && (s.job j).slice.pc.getLsbD (u % 256))

/-- An error of job `j` scoped unpredictable (job) (R6, R9, R513): the command runs on, and the job's data become free values: its sessions, its
requests and bytes of its HBM. No other job's data change, and the device stays in service. DESIGN CHOICE (log entry 5): what the error
leaves is free in these data; the tables and places of the job's sessions, requests and objects stay the device's own. -/
def State.spoil (s : State) (j : Nat) : State :=
  let (n, s) := s.draw
  { s with
    sessions := s.sessions.map (fun (e : Nat × Session) =>
      (e.1, if e.2.job = j ∧ (s.aux e.1).unbound = false then e.2.spoiled n e.1 else e.2))
    reqAux := s.reqAux.map (fun (e : Nat × ReqAux) => (e.1, if (s.req e.1).job = j then e.2.spoiled n e.1 else e.2))
    hbm := ((Config.spoilHbm n).filter (fun c => s.inJobHbm j c.1 1)).foldl (fun m c => Memory.set (some 0) m c.1 c.2) s.hbm }

/-- The command's own effect, and then what R6 says of its error, where there is one. -/
def Res.spoilIf (r : Res) (on : Bool) (j : Nat) : Res := if on then r.andThen (fun s => .next (s.spoil j)) else r

/-- Read `n` bytes at an address: of HBM always, of host memory only where it has been placed. -/
def State.rd (s : State) (hbm : Bool) (a n : Nat) : Option (List Byte) :=
  if hbm then some (Memory.read s.hbm a n) else Memory.readAll s.host a n

/-- The sequencer that serves the bank of an HBM address (R212, R528). -/
def seqOf (a : Nat) : Nat := 128 * ((a >>> 25) % 8) + 4 * ((a >>> 20) % 32) + ((a >>> 14) % 64) / 16

/-- Does a segment hold the bank set: it runs, or its boundary's work is still due (R227, R228)? -/
def Seq.holds (q : Seq) : Bool := q.running.isSome || q.boundary
def State.inSegment (s : State) (a : Nat) : Bool := (s.seq (seqOf a)).holds

/-- Write bytes to HBM: at once, or, row by row, held while a segment runs on the bank set (R228). Traffic
wakes a pseudo-channel from self-refresh (R449). -/
def State.wrHbm (s : State) (a : Nat) (bs : List Byte) : State :=
  let s := { s with refreshing := s.refreshing.filter (fun p => !(decide (a / 2 ^ 20 ≤ p + a / 2 ^ 28 * 256) &&
    decide (p + a / 2 ^ 28 * 256 ≤ (a + bs.length - 1) / 2 ^ 20))) }
  if s.seqs.all (fun e => !e.2.holds) then { s with hbm := Memory.write (some 0) s.hbm a bs }
  else
    let rows := (List.range (bs.length / 1024 + 2)).map (fun i =>
      let lo := max a ((a / 1024 + i) * 1024)
      let hi := min (a + bs.length) ((a / 1024 + i + 1) * 1024)
      (lo, (bs.drop (lo - a)).take (hi - lo)))
    rows.foldl (fun s r =>
      if r.2.isEmpty then s
      else if s.inSegment r.1 then
        let q := s.seq (seqOf r.1)
        s.setSeq (seqOf r.1) { q with held := q.held ++ [r], ref := setFld q.ref 32 16 (fld q.ref 32 16 + 1) }
      else { s with hbm := Memory.write (some 0) s.hbm r.1 r.2 }) s

/-- Write bytes at an address of HBM (default 0) or of host memory. -/
def State.wr (s : State) (hbm : Bool) (a : Nat) (bs : List Byte) : State :=
  if hbm then s.wrHbm a bs else { s with host := Memory.write none s.host a bs }

/-- The address in bits [62:0] and the HBM flag in bit 63 of the descriptor field at byte `b`. -/
def daddr (d : Desc) (b : Nat) : Nat := dfld d b 0 63
def dhbm (d : Desc) (b : Nat) : Bool := dfld d b 63 1 == 1

/-- R504: an HBM-flagged run lies outside the job's HBM. -/
def State.badAddr (s : State) (j : Nat) (hbm : Bool) (a n : Nat) : Bool := hbm && !s.inJobHbm j a n

/-- A device access to host memory of a function failed (HCI_FN_STAT [63:32]). -/
def State.dmaFailed (s : State) (j : Nat) : State :=
  s.modFunc (s.job j).func (fun f => { f with dmaFail := f.dmaFail + 1 })

/-! ## Completion wells -/

/-- ENABLE of SW_CFG and CW_CFG (Table 19.9). -/
def SubWell.enabled (w : SubWell) : Bool := bit w.cfg 6
def CompWell.enabled (w : CompWell) : Bool := bit w.cfg 6
/-- The entries of a ring. -/
def CompWell.depth (w : CompWell) : Nat := 2 ^ fld w.cfg 0 5
def SubWell.depth (w : SubWell) : Nat := 2 ^ fld w.cfg 0 5
/-- Records written and not consumed. -/
def CompWell.unread (w : CompWell) : Nat := (w.tail - w.head).toNat
/-- Can the next record be written at once (R507)? -/
def CompWell.room (w : CompWell) : Bool := w.enabled && w.unread < w.depth && w.waiting.isEmpty
/-- FULL of CW_STAT. -/
def CompWell.full (w : CompWell) : Bool := (w.enabled && w.depth ≤ w.unread) || !w.waiting.isEmpty

/-- The 32 B of a record with its PHASE (Table 19.12). -/
def Rec.bytes (r : Rec) (phase : Bool) : List Byte :=
  leBytes 8 r.tag.toNat ++ leBytes 2 r.status ++ leBytes 2 r.kind ++
    [BitVec.ofNat 8 (r.swell % 16 + 16 * b2n r.final + 128 * b2n phase), 0, 0, 0] ++
    leBytes 8 r.result.toNat ++ leBytes 4 r.req ++ leBytes 3 r.session ++ [0]

/-- PHASE of record `n`: 1 on the first pass through the ring, then alternating. -/
def phaseOf (n log2 : Nat) : Bool := (n >>> log2) % 2 == 0

/-- Signal MSI-X vector `v` of function `fn`. -/
def State.signal (s : State) (fn v : Nat) : State := s.modFunc fn (fun f => { f with signals := v :: f.signals })

/-- R508: signal the vector of a completion well once COAL_N records have been written since the last signal. -/
def State.coalesce (s : State) (j w : Nat) : State :=
  let c := (s.job j).compWell w
  if bit c.cfg 7 && c.unread ≠ 0 && decide (max 1 (fld c.cfg 24 8) ≤ c.unsignalled) then
    (s.modJob j (fun x => x.setComp w { c with unsignalled := 0 })).signal (s.job j).func (fld c.cfg 8 11)
  else s

/-- R505: write the waiting records of a completion well while it is enabled and has room, oldest first. -/
def State.drain : Nat → State → Nat → Nat → State
  | 0, s, _, _ => s
  | n + 1, s, j, w =>
    let c := (s.job j).compWell w
    match c.waiting with
    | [] => s
    | r :: rest =>
      if c.enabled && c.unread < c.depth then
        let slot := c.tail.toNat % c.depth
        let s := s.wr (bit c.cfg 5) (c.base.toNat + 32 * slot) (r.bytes (phaseOf c.tail.toNat (fld c.cfg 0 5)))
        let c := { c with waiting := rest, tail := c.tail + 1, unsignalled := c.unsignalled + 1,
                          oldest := if c.unsignalled = 0 then s.now else c.oldest }
        let s := s.modJob j (fun x =>
          let x := x.setComp w c
          if r.sub && r.final then
            let q := x.subWell r.swell
            x.setSub r.swell { q with unfinished := q.unfinished - 1 }
          else x)
        State.drain n (s.coalesce j w) j w
      else s

/-- Hand a record to a completion well: it is written at once, or waits in order (R507). -/
def State.post (s : State) (j w : Nat) (r : Rec) : State :=
  let c := (s.job j).compWell w
  let s := s.modJob j (fun x => x.setComp w { c with waiting := c.waiting ++ [r] })
  State.drain (c.waiting.length + 1) s j w

/-- A record of a descriptor to its completion well. -/
def State.record (s : State) (c : DescCtx) (status : Nat) (final : Bool) (result : Nat) (req session : Nat) : State :=
  s.post c.job c.cw
    { tag := c.tag, status := status, kind := c.kind, swell := c.sw, final := final, result := BitVec.ofNat 64 result,
      req := req, session := session, sub := decide (c.sw < 16) }

/-- The FINAL record of a descriptor. -/
def State.complete (s : State) (c : DescCtx) (status : Nat) (result : Nat := 0) (req session : Nat := 0) : State :=
  s.record c status true result req session

/-- An event of a session, or of a job, to a completion well (R506). -/
def State.event (s : State) (j w status : Nat) (result : Nat := 0) (session : Nat := 0) : State :=
  s.post j w { tag := 0, status := status, kind := 0, swell := 0, final := true, result := BitVec.ofNat 64 result,
               req := 0, session := session, sub := false }

/-- Complete a descriptor when there is one that waits. -/
def State.complete? (s : State) (c : Option DescCtx) (status : Nat) (result : Nat := 0) (req session : Nat := 0) : State :=
  match c with
  | none => s
  | some c => s.complete c status result req session

/-! ## Shapers -/

/-- The key of a shaper (Table 12.4). -/
def shaperKey : ShaperKind → Nat → Nat → Nat
  | .well, j, w => 0x10000 + 16 * (16 * j + w)
  | .pump, j, _ => 0x14000 + 16 * j
  | .egress, j, n => 0x18000 + 16 * (32 * j + n)

def State.shaper (s : State) (k : Nat) : Shaper := mgetD s.shapers k {}

/-- R340: a queue may start an item while it is not shaped or its balance is at least 1. -/
def Shaper.may (x : Shaper) : Bool := !(bit x.cfg 63) || decide (1 ≤ x.bal.toInt)

/-- R340: the item's cost is subtracted when it starts. -/
def Shaper.charge (x : Shaper) (cost : Nat) : Shaper :=
  if bit x.cfg 63 then { x with bal := x.bal - BitVec.ofNat 32 cost } else x

def State.chargeShaper (s : State) (k cost : Nat) : State := { s with shapers := mmod s.shapers k {} (fun x => x.charge cost) }

/-! ## Taking up a descriptor -/

/-- What R531 and the kind's table say of a descriptor kind: KIND, the HCI version that has it (0: 2.4, 1: 3.0, 2: 3.1,
3: 3.2), the first bit of CWELL if the layout has one, whether R433 and R407 refuse it, and the fields that are not
reserved as (first bit, width). -/
structure Kind where
  code : Nat
  since : Nat
  cwell : Option Nat
  keys : Bool
  preempt : Bool
  fields : List (Nat × Nat)

/-- The fields of the common header that are not reserved (Table 19.10). -/
def headerFields : List (Nat × Nat) := [(0, 16), (16, 1), (32, 64)]

/-- The version in force of a function as its place in the list of versions (R497). -/
def Func.verIndex (f : Func) : Nat := if f.major = 2 then 0 else f.minor + 1

/-- The device serves: ACTIVE, READY, and neither a core reset being prepared (R463) nor a fatal sequence (R480) has stopped it. -/
def State.works (s : State) : Bool := decide (s.power.state = .active) && s.power.ready && !s.power.draining && !s.errs.fatal

/-- Registers can be reached (R465, R481): in firmware, and not during a system or power-on reset. -/
def State.regsUp (s : State) : Bool := decide (s.power.state = .active) && s.sec.boot == 2 && (s.power.level.isNone || s.power.level == some 0)
/-- A register write, a link or the flash controller acts only then; other work only while READY, outside every reset (R462, R465). -/
def State.ifUp (s : State) (r : Res) : Res := if s.regsUp then r else .next s
def State.ifReady (s : State) (r : Res) : Res := if s.power.ready then r else .next s

/-- OFFLINE of a unit of Table 17.8, by KIND and INDEX (R466). -/
def unitOf (kind index : Nat) : Nat := kind <<< 16 + index
def State.offline (s : State) (kind index : Nat) : Bool := s.blockOff.contains (unitOf kind index)

/-- R501, R530: may submission well `w` of job `j` take up its next descriptor `d`? -/
def State.mayTake (s : State) (j w : Nat) (d : Desc) : Bool :=
  let q := (s.job j).subWell w
  s.works && q.enabled && (q.head != q.tail) && (s.shaper (shaperKey .well j w)).may &&
    (!(bit d 16) || q.unfinished == 0) && ((s.job j).compWell w).enabled

/-- R531: the first check a descriptor of this kind fails, if any. `cw` is the completion well its records go to. -/
def State.commonCheck (s : State) (k : Kind) (j : Nat) (d : Desc) : Option Nat :=
  let x := s.job j
  if (s.func x.func).verIndex < k.since then some Code.kindUnsupported
  else if (match k.cwell with
      | none => false
      | some b => !(x.compWell (fld d b 4)).enabled) then some Code.noWell
  else if k.keys && x.conf && !x.keys.locked then some Code.noKeys
  else if k.preempt && x.quiesced then some Code.preempting
  else none

/-- SW_HEAD rises past the descriptor, which counts as unfinished until its FINAL record, and the well's shaper is charged (R501, R502,
R340). -/
def State.takenUp (s : State) (j w : Nat) : State :=
  let q := (s.job j).subWell w
  (s.modJob j (fun x => x.setSub w { q with head := q.head + 1, unfinished := q.unfinished + 1, arrivals := q.arrivals.drop 1 })).chargeShaper
    (shaperKey .well j w) 1

/-- What a descriptor keeps of itself: its records go to the completion well that its CWELL names, or to the one paired with its
submission well (R505). -/
def descCtx (k : Kind) (j w : Nat) (d : Desc) : DescCtx :=
  { job := j, sw := w, cw := match k.cwell with
      | none => w
      | some b => fld d b 4
    tag := BitVec.ofNat 64 (dfld d 4 0 64), kind := k.code }

/-- Take up a descriptor (R501, R502, R531): nothing happens while its well may not take one up; otherwise SW_HEAD rises
past it, the well's shaper is charged, and the kind's own effect follows unless a common check fails. A reserved field that is not 0 is
unpredictable (job) (R9): the fields that are not reserved have their effect, and the job's data become free values. -/
def State.takeUp (k : Kind) (j w : Nat) (d : Desc) (s : State) (body : DescCtx → State → Res) : Res :=
  if !s.mayTake j w d then .next s
  else
    let s := s.takenUp j w
    Res.spoilIf (match s.commonCheck k j d with
      | some c => .next (s.complete { descCtx k j w d with cw := w } c)
      | none => body (descCtx k j w d) s) (!onlyFields d (headerFields ++ k.fields)) j

/-- The first check of a list that fails: its code. -/
def firstFail (cs : List (Bool × Nat)) : Option Nat := (cs.find? (fun c => !c.1)).map (·.2)

/-- A HBM-flagged address field of a descriptor lies in the job's HBM (R504). -/
def State.addrOk (s : State) (j : Nat) (d : Desc) (b n : Nat) : Bool := !s.badAddr j (dhbm d b) (daddr d b) n

/-- Read the run a descriptor field names; a failed host access is counted, and gives none. -/
def State.fetch (s : State) (d : Desc) (b n : Nat) : Option (List Byte) := s.rd (dhbm d b) (daddr d b) n

/-! ## Grain addresses -/

/-- TIER, NODE and ADDR of a grain address (Table 2.5). -/
def gTier (a : W64) : Nat := fld a 0 4
def gNode (a : W64) : Nat := fld a 4 16
def gAddr (a : W64) : Nat := fld a 20 44

/-- A grain address from its fields. -/
def gMake (tier node addr : Nat) : W64 := BitVec.ofNat 64 (tier % 16 + (node % 2 ^ 16) <<< 4 + (addr % 2 ^ 44) <<< 20)

/-- The absent grain address. -/
def gAbsent : W64 := 15

/-- ADDR of a T1 grain: row group, bank, pseudo-channel of the device (32 × stack + pseudo-channel). -/
def t1Addr (rg bank pc : Nat) : Nat := rg + bank <<< 11 + (pc % 32) <<< 17 + (pc / 32) <<< 22

/-- Where a T1 grain lies: row group, bank, pseudo-channel of the device; and its first HBM address (R528). -/
def t1Rg (a : W64) : Nat := fld a 20 11
def t1Bank (a : W64) : Nat := fld a 31 6
def t1Pc (a : W64) : Nat := 32 * fld a 42 3 + fld a 37 5
def t1Hbm (a : W64) : Nat := t1Rg a <<< 28 + fld a 42 3 <<< 25 + fld a 37 5 <<< 20 + t1Bank a <<< 14

/-- Core and slot of a T0 grain. -/
def t0Core (a : W64) : Nat := fld a 20 12
def t0Slot (a : W64) : Nat := fld a 32 6

/-- A grain address `i` grains on, in its ADDR field. -/
def gPlus (a : W64) (i : Nat) : W64 := gMake (gTier a) (gNode a) (gAddr a + i)

/-! ## Core groups, and the cores of jobs (R106, R337 to R339) -/

/-- The core group of a core identifier. -/
def coreGroup (c : Nat) : Nat := 32 * (c >>> 11) + 8 * ((c >>> 6) % 32 / 8) + c % 64 / 8
/-- The core at place `i` (0 to 63) of a group. -/
def groupCore (g i : Nat) : Nat := (g / 32) <<< 11 + (8 * (g % 32 / 8) + i / 8) <<< 6 + 8 * (g % 8) + i % 8
def groupCores (g : Nat) : List Nat := (List.range 64).map (groupCore g)

/-- Grain slots of a store that other jobs on the group share with job `j`. -/
def State.sharedSlots (s : State) (j g : Nat) : BitVec 48 :=
  (s.jobs.filter (fun e => e.1 != j && e.2.active && e.2.slice.groups.getLsbD g)).foldl
    (fun m e => m ||| e.2.slice.slots) 0 &&& (s.job j).slice.slots

/-- A store with the bytes of `mine` in the slots `take`, those of `cur` elsewhere. -/
def mergeStore (take : BitVec 48) (mine cur : List Host.Cell) : List Host.Cell :=
  let inS (a : Nat) : Bool := take.getLsbD (a / 0x4000)
  (mine.filter (fun e => inS e.1)).foldl (fun m e => Memory.set (some 0) m e.1 e.2) (cur.filter (fun e => !inS e.1))

/-- The core as job `j` has it: live, or saved in its context area (R338, R339); of the store, the slots that no other job shares stay in
place. -/
def State.jobCore (s : State) (j c : Nat) : Core :=
  let g := s.group (coreGroup c)
  if g.job = j then s.core c
  else
    let k := mgetD (mgetD g.saved j []) c {}
    { k with store := mergeStore (s.sharedSlots j (coreGroup c)) k.store (s.core c).store }
def State.setJobCore (s : State) (j c : Nat) (k : Core) : State :=
  let n := coreGroup c
  let g := s.group n
  if g.job = j then s.setCore c k
  else
    let own := (s.job j).slice.slots &&& ~~~(s.sharedSlots j n)
    (s.setGroup n { g with saved := mmod g.saved j [] (fun m => mput m c k) }).setCore c
      { s.core c with store := mergeStore own k.store (s.core c).store }

/-- Work that reaches a group wakes it (R122). -/
def State.wakeFor (s : State) (c : Nat) : State :=
  let g := coreGroup c
  if (s.group g).state = 0 then s else s.setGroup g { s.group g with state := 0 }

end Sys2Proof.Machine
end

