-- ==== Sys2Proof/Machine/Errors.lean ====
section
/-!
DEFINITION. Sys2Proof/Machine/Errors.lean: error records and the wells that keep them (18_errors_and_dump, R469 to R471, R479;
19_host_interface, R510).
-/
namespace Sys2Proof.Machine

open Sys2Proof

/-- Records of a well that are not consumed. -/
def ErrWell.unread (w : ErrWell) : Nat := (w.head - w.tail).toNat

/-- Write a record into a well of `cap` slots (R469, R479): the well, and whether the vector is signalled. -/
def ErrWell.push (w : ErrWell) (cap : Nat) (r : ErrRec) : ErrWell × Bool :=
  if cap ≤ w.unread then
    ({ w with overflow := true, lost := w.lost.set r.cls (min 0xFFFF (w.lost.getD r.cls 0 + 1)) }, false)
  else ({ w with slots := mput w.slots (w.head.toNat % cap) r, head := w.head + 1 }, w.tail == w.head)

/-- VEC and MSI of ERR_CTL: signal the physical function. -/
def State.errSignal (s : State) : State :=
  if bit (s.reg Reg.errCtl) 11 then s.signal 0 (fld (s.reg Reg.errCtl) 0 11) else s

/-- The fields of a record that its job's confidentiality decides (Table 18.1). -/
def State.errMask (s : State) (r : ErrRec) : ErrRec :=
  match r.job with
  | none => r
  | some j => if (s.job j).conf then { r with conf := true, addr := 0, detail := 0 } else r

/-- The copy of a record in the well of its job's virtual function (R510). -/
def State.errMirror (s : State) (r : ErrRec) : State :=
  match r.job with
  | none => s
  | some j =>
    let fn := (s.job j).func
    if fn = 0 then s
    else
      let (w, sig) := (mgetD s.errs.fnWells fn {}).push 64 { r with cls := r.cls }
      let s := { s with errs := { s.errs with fnWells := mput s.errs.fnWells fn w } }
      if sig && bit w.ctl 6 then s.signal fn (fld w.ctl 0 6) else s

/-- Record an error: its time of detection, the next SEQ, the class's counter, the device's well, the function's well. The record as written is
answered with the state. -/
def State.logErr (s : State) (r : ErrRec) : ErrRec × State :=
  let r := s.errMask { r with seq := s.errs.seq + 1, time := if r.queued then r.time else s.now }
  let s := s.countReg (Reg.errClass r.cls) 0 64 1
  let (w, sig) := s.errs.well.push 256 r
  let s := { s with errs := { s.errs with seq := r.seq, well := w } }
  let s := if sig then s.errSignal else s
  (r, s.errMirror r)

/-- A record with every field 0 but those that say what was detected. -/
def errRec (cls source unit code : Nat) (addr : W64) : ErrRec :=
  { seq := 0, time := 0, cls := cls, escalated := false, queued := false, source := source, unit := unit, code := code,
    job := none, conf := false, req := 0, session := 0, addr := addr, count := 1, outcome := 0, handle := 0, detail := 0 }

/-! ## Corrected errors (R471, R473) -/

/-- The key of a unit in the error unit's tables: its KIND and number. -/
def unitIndex : UnitKind → Nat
  | .group => 0 | .bank => 1 | .port => 2 | .die => 3
def unitKey (k : UnitKind) (u : Nat) : Nat := unitIndex k <<< 16 + u
/-- The unit of ERR_UNIT_CTL that an error names, by its source. -/
def errUnit (source unit : Nat) : Option (UnitKind × Nat) :=
  if source = 0 ∨ source = 1 then some (.group, unit)
  else if source = 3 ∨ source = 4 then some (.bank, unit)
  else if source = 10 then some (.port, unit)
  else if source = 9 then some (.die, unit)
  else none

/-- The times of corrected errors that lie within the last hour. -/
def recent (now : Nat) (ts : List Nat) : List Nat := ts.filter (fun t => decide (now < t + 3600000000))

/-- A corrected error counts against its unit's threshold (Table 18.10). -/
def State.noteCorrected (s : State) (source unit : Nat) : State :=
  match errUnit source unit with
  | none => s
  | some (k, u) => { s with errs := { s.errs with
      corrected := mput s.errs.corrected (unitKey k u) (recent s.now (mgetD s.errs.corrected (unitKey k u) []) ++ [s.now]) } }

/-- The slot of the newest record that a CORRECTED error merges into (R471). -/
def State.mergeSlot (s : State) (source unit code : Nat) : Option Nat :=
  let w := s.errs.well
  let same := (List.range (min 256 w.head.toNat)).findSome? (fun i =>
    let n := w.head.toNat - 1 - i
    match mget w.slots (n % 256) with
    | none => none
    | some r => if r.source = source ∧ r.unit = unit ∧ r.code = code then some (n, r) else none)
  match same with
  | none => none
  | some (n, r) =>
    if r.cls = 0 ∧ r.code ≠ 3 ∧ w.tail.toNat ≤ n ∧ s.now ≤ r.time + fld (s.reg Reg.errCtl) 16 16 then some (n % 256) else none

/-- Merge an error into a record: COUNT rises, in its function's copy too. -/
def State.mergeErr (s : State) (slot : Nat) : State :=
  let up (seq : Nat) (w : ErrWell) : ErrWell := { w with slots := w.slots.map (fun (x : Nat × ErrRec) =>
    if x.2.seq = seq then (x.1, { x.2 with count := x.2.count + 1 }) else x) }
  match mget s.errs.well.slots slot with
  | none => s
  | some r =>
    let s := s.countReg (Reg.errClass 0) 0 64 1
    { s with errs := { s.errs with well := up r.seq s.errs.well, fnWells := s.errs.fnWells.map (fun (f : Nat × ErrWell) => (f.1, up r.seq f.2)) } }

/-- The global bank that holds an HBM address (Table 18.1, R528). -/
def bankOf (a : Nat) : Nat := 2048 * ((a >>> 25) % 8) + 64 * ((a >>> 20) % 32) + (a >>> 14) % 64

/-- The bank edge corrected an error in the row at `a` (R230, R473): merged or recorded, and counted against the bank. A unit that passes its
threshold is taken out with the next error or ERROR_QUEUED (DESIGN CHOICE, log entry 53). -/
def State.edgeCorrected (s : State) (a : Nat) : State :=
  (match s.mergeSlot 4 (bankOf a) 1 with
    | some slot => s.mergeErr slot
    | none => (s.logErr (errRec 0 4 (bankOf a) 1 (BitVec.ofNat 64 a))).2).noteCorrected 4 (bankOf a)

/-- Table 18.1: the 64 B of a record. -/
def ErrRec.bytes (r : ErrRec) : List Byte :=
  let b := leBytes 8 r.seq ++ leBytes 8 r.time ++ [BitVec.ofNat 8 (r.cls % 4 + 4 * b2n r.escalated + 8 * b2n r.queued), BitVec.ofNat 8 r.source] ++
    leBytes 2 r.unit ++ [BitVec.ofNat 8 r.code, BitVec.ofNat 8 (r.job.getD 0 % 64 + 64 * b2n r.job.isSome + 128 * b2n r.conf)] ++ zeros 2 ++
    leBytes 4 r.req ++ leBytes 3 r.session ++ [0] ++ leBytes 8 r.addr.toNat ++ leBytes 4 r.count ++ leBytes 2 r.outcome ++ leBytes 2 r.handle ++
    leBytes 8 r.detail.toNat ++ zeros 6
  b ++ leBytes 2 (crc16 b).toNat

/-! ## The fatal dump (R480 to R484) -/

/-- Table 18.7: KIND, offset and size of each section: after the 64 KiB header, each aligned to 64 KiB. -/
def dumpSections : List (Nat × Nat × Nat) :=
  [(1, 0x10000, 20480), (2, 0x20000, 2 ^ 20), (3, 0x120000, 2 ^ 23), (4, 0x920000, 4718592), (5, 0xDA0000, 2 ^ 22), (6, 0x11A0000, 167772160),
   (7, 0xB1A0000, 2 ^ 21), (8, 0xB3A0000, 2 ^ 20), (9, 0xB4A0000, 2 ^ 26), (10, 0xF4A0000, 2 ^ 23)]

/-- ERR_DUMP_BASE and the size of the region (R482). -/
def dumpBase : Nat := 0x40000000
def dumpSize : Nat := 2 ^ 28

/-- Was a section written? How far an abandoned dump came is a free value. -/
def Dump.written (d : Dump) (kind : Nat) : Bool :=
  if d.partial_ then decide (kind ≤ Config.freeNat (d.free.getD 0) % 11) else decide (kind < 10) || d.fwOk

/-- Byte `k` of a section that was written (R483, R484), at place `i` of the dump. Section 1 begins with the slots of the error well, section 3 holds the
request entries, 128 B each, and section 4 the entries of the session cache, 64 B each with 8 B of tag (DEDUCED from their sizes, log
entry 42). The rest is free, but 0 in the core state of a confidential slice. -/
def Dump.sectionByte (d : Dump) (kind k i : Nat) : Byte :=
  let free := Config.openByte (d.free.getD 0) i
  if kind = 1 ∧ k < 0x4000 then (((mget d.well (k / 64)).map ErrRec.bytes).getD []).getD (k % 64) 0
  else if kind = 3 then ((mget d.reqs (k / 128)).getD []).getD (k % 128) 0
  else if kind = 4 then (if d.cache.length ≤ k / 72 then 0 else if k % 72 < 64 then (d.cache.getD (k / 72) []).getD (k % 72) 0 else free)
  else if kind = 6 ∧ d.confGroups.getLsbD (coreGroup (k / 40960)) = true then 0
  else free

/-- The CRC-32C of a section (Table 18.6): 0 where it was not written. -/
@[irreducible] def Dump.sectionCrc (d : Dump) (x : Nat × Nat × Nat) : W32 :=
  if d.written x.1 then crc32c ((List.range x.2.2).map (fun k => d.sectionByte x.1 k (x.2.1 + k))) else 0

/-- Table 18.6: the header. -/
def Dump.header (d : Dump) (fw : BitVec 256) : List Byte :=
  let trigger := match d.trigger with
    | some r => r.bytes
    | none => zeros 64
  leBytes 4 0x504D5544 ++ [1, BitVec.ofNat 8 (b2n d.partial_ + 2 * b2n d.fwOk + 4 * b2n d.confExcluded), 0, 0] ++ leBytes 8 d.seq.toNat ++ leBytes 8 d.time ++
    leBytes 8 d.cause.toNat ++ trigger ++ leBytes 4 10 ++ leBytes 32 fw.toNat ++ zeros 124 ++
    dumpSections.flatMap (fun s => leBytes 2 s.1 ++ [BitVec.ofNat 8 (b2n (d.written s.1)), 0] ++ zeros 4 ++ leBytes 8 s.2.1 ++ leBytes 8 s.2.2 ++
      leBytes 4 (d.sectionCrc s).toNat ++ zeros 4)

/-- The header is written and VALID set: at the end of the dump, or when it is abandoned with PARTIAL. -/
def State.writeDump (s : State) (fw : BitVec 256) (abandoned fwOk : Bool) : State :=
  let (n, s) := s.draw
  let d := { s.errs.dump with valid := true, partial_ := abandoned, fwOk := fwOk && !abandoned, free := some n }
  let d := { d with fwOk := d.written 10 }
  { s with hbm := Memory.write (some 0) s.hbm dumpBase (d.header fw), errs := { s.errs with dump := d, dumping := false } }

end Sys2Proof.Machine
end

