-- ==== Sys2Proof/Machine/Float.lean ====
section
/-!
DEFINITION. Sys2Proof/Machine/Float.lean: IEEE 754 binary16 and binary32 as the vector unit has them (R100 to R102): exact
dyadic numbers, one rounding to nearest with ties to even, sticky exception flags, and correctly rounded LOG2 and EXP2.
-/
namespace Sys2Proof.Machine

open Sys2Proof

/-! ## Formats and flags -/

/-- A binary format: fraction bits and exponent bits. -/
structure Fmt where
  frac : Nat
  exp : Nat
deriving DecidableEq, Repr

def binary32 : Fmt := ⟨23, 8⟩
def binary16 : Fmt := ⟨10, 5⟩

/-- The flags of VSTAT [4:0] (Table 5.3), as a mask. -/
def fInvalid := 1
def fDivZero := 2
def fOverflow := 4
def fUnderflow := 8
def fInexact := 16
/-- SAT of VSTAT. -/
def fSat := 32

/-- What a pattern stands for. A finite number is ±m · 2^e. -/
inductive FVal where
  | nan (signaling : Bool)
  | inf (neg : Bool)
  | fin (neg : Bool) (m : Nat) (e : Int)
deriving DecidableEq, Repr

/-- The exponent of one unit in the last place of a subnormal number. -/
def Fmt.qmin (f : Fmt) : Int := 2 - 2 ^ (f.exp - 1) - f.frac
/-- The exponent field of infinities and NaNs. -/
def Fmt.emax (f : Fmt) : Nat := 2 ^ f.exp - 1
def Fmt.signBit (f : Fmt) (neg : Bool) : Nat := if neg then 2 ^ (f.frac + f.exp) else 0
/-- The default quiet NaN: 0x7E00, 0x7FC0_0000 (R100). -/
def Fmt.nan (f : Fmt) : Nat := f.emax * 2 ^ f.frac + 2 ^ (f.frac - 1)
def Fmt.inf (f : Fmt) (neg : Bool) : Nat := f.signBit neg + f.emax * 2 ^ f.frac
/-- The largest finite magnitude as significand and exponent. -/
def Fmt.maxFin (f : Fmt) : Nat × Int := (2 ^ (f.frac + 1) - 1, f.qmin + ((f.emax : Int) - 2))

/-- Read a pattern. -/
def Fmt.decode (f : Fmt) (x : Nat) : FVal :=
  let neg := x.testBit (f.frac + f.exp)
  let e := (x >>> f.frac) % 2 ^ f.exp
  let m := x % 2 ^ f.frac
  if e = f.emax then (if m = 0 then .inf neg else .nan (!m.testBit (f.frac - 1)))
  else if e = 0 then .fin neg m f.qmin
  else .fin neg (m + 2 ^ f.frac) (f.qmin + (e : Int) - 1)

/-- The number of bits of `m`. -/
def bitLen (m : Nat) : Nat := if m = 0 then 0 else m.log2 + 1

/-- ±m · 2^e, plus a positive amount below one unit of m where `sticky`, cut to a multiple of 2^q and rounded to nearest,
ties to even; and whether that lost anything. -/
def roundTo (m : Nat) (e q : Int) (sticky : Bool) : Nat × Bool :=
  if q ≤ e then (m <<< (e - q).toNat, sticky)
  else
    let d := (q - e).toNat
    let t := m >>> d
    let rem := m % 2 ^ d
    let half := 2 ^ (d - 1)
    let up := decide (half < rem) || (rem == half && (sticky || t % 2 == 1))
    (if up then t + 1 else t, sticky || rem != 0)

/-- Round a non-zero magnitude to a format (R100), with the flags overflow, underflow and inexact. Where IEEE 754 leaves
open when tininess is detected, Config says (log entry 10). -/
def Fmt.round (f : Fmt) (neg : Bool) (m : Nat) (e : Int) (sticky : Bool := false) : Nat × Nat :=
  if m = 0 ∧ sticky = false then (f.signBit neg, 0)
  else
    let top := (bitLen m : Int) + e
    let qn := top - (f.frac + 1)
    let q := max qn f.qmin
    let (sig, inex) := roundTo m e q sticky
    let (sig, q) := if sig = 2 ^ (f.frac + 1) then (2 ^ f.frac, q + 1) else (sig, q)
    let bits := (q - f.qmin).toNat * 2 ^ f.frac + sig
    if f.emax * 2 ^ f.frac ≤ bits then (f.inf neg, fOverflow + fInexact)
    else
      let small : Int := f.qmin + f.frac
      let tiny :=
        if Config.tinyBeforeRounding then decide (top ≤ small)
        else
          let (g, _) := roundTo m e qn sticky
          decide ((bitLen g : Int) + qn ≤ small)
      (f.signBit neg + bits, (if inex then fInexact else 0) + (if tiny && inex then fUnderflow else 0))

/-- Invalid where an operand is a signalling NaN. -/
def FVal.sig (a : FVal) : Bool := a = .nan true
def FVal.isNan : FVal → Bool
  | .nan _ => true
  | _ => false

/-- The result of an operation with a NaN operand: the default quiet NaN (R100). -/
def Fmt.nanOf (f : Fmt) (invalid : Bool) : Nat × Nat := (f.nan, if invalid then fInvalid else 0)

/-- The signed integer value of a finite number over 2^q. -/
def scaled (neg : Bool) (m : Nat) (e q : Int) : Int :=
  let v : Int := ((m <<< (e - q).toNat : Nat) : Int)
  if neg then -v else v

/-- Sum of two finite numbers: an exact zero sum is +0 unless both are negative. -/
def Fmt.addFin (f : Fmt) (n1 : Bool) (m1 : Nat) (e1 : Int) (n2 : Bool) (m2 : Nat) (e2 : Int) : Nat × Nat :=
  let q := min e1 e2
  let v := scaled n1 m1 e1 q + scaled n2 m2 e2 q
  if v = 0 then (f.signBit (n1 && n2), 0) else f.round (decide (v < 0)) v.natAbs q

def Fmt.addV (f : Fmt) (a b : FVal) : Nat × Nat :=
  match a, b with
  | .nan _, _ => f.nanOf (a.sig || b.sig)
  | _, .nan _ => f.nanOf (a.sig || b.sig)
  | .inf x, .inf y => if x = y then (f.inf x, 0) else f.nanOf true
  | .inf x, _ => (f.inf x, 0)
  | _, .inf y => (f.inf y, 0)
  | .fin n1 m1 e1, .fin n2 m2 e2 => f.addFin n1 m1 e1 n2 m2 e2

def FVal.negate : FVal → FVal
  | .nan s => .nan s
  | .inf x => .inf (!x)
  | .fin n m e => .fin (!n) m e

def Fmt.add (f : Fmt) (x y : Nat) : Nat × Nat := f.addV (f.decode x) (f.decode y)
def Fmt.sub (f : Fmt) (x y : Nat) : Nat × Nat := f.addV (f.decode x) (f.decode y).negate

/-- Product and sum with one rounding; a multiplication is the case without a third operand. An infinity times zero plus a
quiet NaN may or may not signal (IEEE 754); Config says (log entry 10). -/
def Fmt.fma (f : Fmt) (x y z : Nat) : Nat × Nat :=
  let a := f.decode x; let b := f.decode y; let c := f.decode z
  let sig := a.sig || b.sig || c.sig
  match a, b with
  | .nan _, _ => f.nanOf sig
  | _, .nan _ => f.nanOf sig
  | .inf n1, .inf n2 => f.addV (.inf (n1 != n2)) c
  | .inf n1, .fin n2 m _ => if m = 0 then f.nanOf (sig || !c.isNan || Config.fmaInvalidQuietNan) else f.addV (.inf (n1 != n2)) c
  | .fin n1 m _, .inf n2 => if m = 0 then f.nanOf (sig || !c.isNan || Config.fmaInvalidQuietNan) else f.addV (.inf (n1 != n2)) c
  | .fin n1 m1 e1, .fin n2 m2 e2 => f.addV (.fin (n1 != n2) (m1 * m2) (e1 + e2)) c

def Fmt.mul (f : Fmt) (x y : Nat) : Nat × Nat :=
  match f.decode x, f.decode y with
  | .fin n1 m1 e1, .fin n2 m2 e2 => f.round (n1 != n2) (m1 * m2) (e1 + e2)
  | .inf n1, .fin n2 m _ => if m = 0 then f.nanOf true else (f.inf (n1 != n2), 0)
  | .fin n1 m _, .inf n2 => if m = 0 then f.nanOf true else (f.inf (n1 != n2), 0)
  | .inf n1, .inf n2 => (f.inf (n1 != n2), 0)
  | a, b => f.nanOf (a.sig || b.sig)

/-- Order of two numbers: none when unordered. -/
def FVal.cmp (a b : FVal) : Option Ordering :=
  match a, b with
  | .nan _, _ => none
  | _, .nan _ => none
  | .inf x, .inf y => some (if x = y then .eq else if x then .lt else .gt)
  | .inf x, _ => some (if x then .lt else .gt)
  | _, .inf y => some (if y then .gt else .lt)
  | .fin n1 m1 e1, .fin n2 m2 e2 =>
    let q := min e1 e2
    some (compare (scaled n1 m1 e1 q) (scaled n2 m2 e2 q))

/-- R167: VCMPEQ is quiet; the ordered compares signal on any NaN. The result and the flags. -/
def Fmt.eq (f : Fmt) (x y : Nat) : Bool × Nat :=
  let a := f.decode x; let b := f.decode y
  (a.cmp b == some .eq, if a.sig || b.sig then fInvalid else 0)
def Fmt.lt (f : Fmt) (x y : Nat) : Bool × Nat :=
  let o := (f.decode x).cmp (f.decode y)
  (o == some .lt, if o.isNone then fInvalid else 0)
def Fmt.le (f : Fmt) (x y : Nat) : Bool × Nat :=
  let o := (f.decode x).cmp (f.decode y)
  (o == some .lt || o == some .eq, if o.isNone then fInvalid else 0)

/-- R167: minimum and maximum; a NaN gives way to the other operand, two NaNs give the default NaN, and a signalling NaN
signals. Which zero a minimum of +0 and −0 returns is open (log entry 10). -/
def Fmt.minMax (f : Fmt) (isMax : Bool) (x y : Nat) : Nat × Nat :=
  let a := f.decode x; let b := f.decode y
  let fl := if a.sig || b.sig then fInvalid else 0
  match a.isNan, b.isNan with
  | true, true => (f.nan, fl)
  | true, false => (y, fl)
  | false, true => (x, fl)
  | false, false =>
    match a.cmp b with
    | some .lt => (if isMax then y else x, fl)
    | some .gt => (if isMax then x else y, fl)
    | _ => (if Config.minMaxZeroFirst then x else y, fl)

/-! ## Conversions -/

/-- R100: from one format to another. -/
def Fmt.convert (src dst : Fmt) (x : Nat) : Nat × Nat :=
  match src.decode x with
  | .nan s => dst.nanOf s
  | .inf n => (dst.inf n, 0)
  | .fin n m e => dst.round n m e

/-- Binary32 to H16 toward +∞, a magnitude above 65,504 clamped to ±65,504 (R205). -/
def h16Up (x : W32) : BitVec 16 :=
  match binary32.decode x.toNat with
  | .nan _ => 0x7E00
  | .inf neg => if neg then 0xFBFF else 0x7BFF
  | .fin neg m e =>
    let q := max ((bitLen m : Int) + e - 11) binary16.qmin
    let (t, lost) := if q ≤ e then (m <<< (e - q).toNat, false) else (m >>> (q - e).toNat, m % 2 ^ (q - e).toNat != 0)
    let mag := if m = 0 then 0 else (q - binary16.qmin).toNat * 2 ^ 10 + t + (if lost && !neg then 1 else 0)
    BitVec.ofNat 16 (binary16.signBit neg + min mag 0x7BFF)

/-- A signed integer times 2^e (R99). -/
def Fmt.ofInt (f : Fmt) (x e : Int) : Nat × Nat := f.round (decide (x < 0)) x.natAbs e

/-- Round a dyadic number to the nearest integer, ties to even; and whether that was inexact. -/
def rneInt (neg : Bool) (m : Nat) (e : Int) (sticky : Bool := false) : Int × Bool :=
  let (v, i) := roundTo m e 0 sticky
  (if neg then -(v : Int) else v, i)

/-- VCVTFI: to signed I32, saturating, NaN giving 0; both set INVALID. Whether an inexact conversion signals is open in
IEEE 754, which has both operations (log entry 10). -/
def Fmt.toI32 (f : Fmt) (x : Nat) : W32 × Nat :=
  match f.decode x with
  | .nan _ => (0, fInvalid)
  | .inf n => (if n then 0x80000000#32 else 0x7FFFFFFF#32, fInvalid)
  | .fin n m e =>
    if 40 < (bitLen m : Int) + e then (if n then 0x80000000#32 else 0x7FFFFFFF#32, fInvalid)
    else
      let (v, i) := rneInt n m e
      if v < -(2 ^ 31) then (0x80000000#32, fInvalid)
      else if 2 ^ 31 - 1 < v then (0x7FFFFFFF#32, fInvalid)
      else (BitVec.ofInt 32 v, if i && Config.convertSignalsInexact then fInexact else 0)

/-! ## LOG2 and EXP2 (R102) -/

/-- `n` binary digits of log2 y for y in [1, 2), y given over 2^p, appended to `acc`: squaring doubles the logarithm, so
each digit says whether the square reached 2. -/
def logDigits : Nat → Nat → Nat → Nat → Nat
  | 0, _, _, acc => acc
  | n + 1, p, y, acc =>
    let z := (y * y) >>> p
    if 2 ^ (p + 1) ≤ z then logDigits n p (z >>> 1) (2 * acc + 1) else logDigits n p z (2 * acc)

/-- log2 of m · 2^e, m > 0, as (sign, magnitude, exponent, more digits follow): exact for a power of two, else 192 binary
digits after the point, which decide every rounding to 24 bits. -/
def log2Of (m : Nat) (e : Int) : Bool × Nat × Int × Bool :=
  let l := m.log2
  let i : Int := (l : Int) + e
  if m = 2 ^ l then (decide (i < 0), i.natAbs, 0, false)
  else
    let d := logDigits 192 640 (m <<< (640 - l)) 0
    let v : Int := i * 2 ^ 192 + d
    if 0 ≤ v then (false, v.toNat, -192, true) else (true, (-v).toNat - 1, -192, true)

/-- ln 2 over 2^320: the sum of 2^320 / (k · 2^k). -/
def ln2Fixed : Nat := (List.range 330).foldl (fun a k => a + 2 ^ 320 / ((k + 1) * 2 ^ (k + 1))) 0

/-- exp2 of a fraction given over 2^320, over 2^320: the exponential series of y = fraction · ln 2. -/
def exp2Frac (x : Nat) : Nat :=
  let y := (x * ln2Fixed) >>> 320
  ((List.range 70).foldl (fun (a : Nat × Nat) k =>
    let t := (a.2 * y) / (2 ^ 320 * (k + 1))
    (a.1 + t, t)) (2 ^ 320, 2 ^ 320)).1

/-- exp2 of ±m · 2^e as (magnitude, exponent, more digits follow). Far beyond every format the exponent is cut. -/
def exp2Of (neg : Bool) (m : Nat) (e : Int) : Nat × Int × Bool :=
  if m = 0 then (1, 0, false)
  else if 12 < (bitLen m : Int) + e then (1, if neg then -4096 else 4096, !(decide (0 ≤ e)))
  else if 0 ≤ e then (1, scaled neg m e 0, false)
  else
    let d := (-e).toNat
    let v : Int := scaled neg m 0 0
    let i := v / (2 ^ d : Nat)
    let r := (v % (2 ^ d : Nat)).toNat
    if r = 0 then (1, i, false)
    else (exp2Frac ((r * 2 ^ 320) >>> d), i - 320, true)

def Fmt.log2 (f : Fmt) (x : Nat) : Nat × Nat :=
  match f.decode x with
  | .nan s => f.nanOf s
  | .inf n => if n then f.nanOf true else (f.inf false, 0)
  | .fin n m e =>
    if m = 0 then (f.inf true, fDivZero)
    else if n then f.nanOf true
    else
      let (sn, v, q, st) := log2Of m e
      f.round sn v q st

def Fmt.exp2 (f : Fmt) (x : Nat) : Nat × Nat :=
  match f.decode x with
  | .nan s => f.nanOf s
  | .inf n => (if n then 0 else f.inf false, 0)
  | .fin n m e =>
    let (v, q, st) := exp2Of n m e
    f.round false v q st

end Sys2Proof.Machine
end

