-- ==== Sys2Proof/Machine/Lns.lean ====
section
/-!
DEFINITION. Sys2Proof/Machine/Lns.lean: the logarithmic number system (03_log_number_system): products, terms, readouts,
re-quantization, conversions and softmax to codes, as R82 to R104 compute them.
-/
namespace Sys2Proof.Machine

open Sys2Proof

/-! ## Codes, products and terms -/

/-- K[k] of Table 3.2. -/
def fracConst (k : Nat) : Nat := [32768, 35734, 38968, 42495, 46341, 50535, 55109, 60097].getD k 0
/-- Table 3.3 and Table 3.4. -/
def eighthBounds : List Nat := [2902, 9096, 15850, 23216, 31249, 40009, 49562, 59979]
def quarterBounds : List Nat := [5932, 19454, 35534, 54658]

/-- R86: the L8 byte of an L6 code, its sign moved from bit 5 to bit 7. -/
def lift (c : Nat) : Nat := if c % 32 = 0 then c / 32 % 2 * 128 else 2 * (c % 32) + 32 + c / 32 % 2 * 128

/-- Code `d` of a packed L6 run (R50). -/
def l6Code (bs : List Byte) (d : Nat) : Nat := (at_ bs (3 * (d / 4)) 3 >>> (6 * (d % 4))) % 64

/-- Pack L6 codes, four to three bytes (R50). -/
def l6Pack (codes : List Nat) : List Byte :=
  (List.range (codes.length / 4)).flatMap (fun g =>
    leBytes 3 ((List.range 4).foldl (fun v i => v + (codes.getD (4 * g + i) 0 % 64) <<< (6 * i)) 0))

/-- R88: the product of two L8 bytes with their block exponents, as sign, K[k] and n; none when it is zero. -/
def product (ca : Nat) (ba : Int) (cx : Nat) (bx : Int) : Option (Bool × Nat × Int) :=
  if ca % 128 = 0 ∨ cx % 128 = 0 then none
  else
    let t : Int := 8 * (ba + bx) + (ca % 128 : Nat) + (cx % 128 : Nat) - 128
    some ((ca / 128 % 2 != cx / 128 % 2), fracConst (t % 8).toNat, t / 8)

/-- R90: the term of a product in a row of exponent `er`, and whether it raises RANGE (R92). -/
def term (neg : Bool) (kk : Nat) (n er : Int) : Int × Bool :=
  let s := n - 15 - er
  let m : Nat :=
    if 0 ≤ s then kk <<< (min s.toNat 64)
    else
      let d := (-s).toNat
      if 18 ≤ d then 0
      else
        let m := kk >>> d
        let rem := kk % 2 ^ d
        let half := 2 ^ (d - 1)
        if half < rem ∨ (rem = half ∧ m % 2 = 1) then m + 1 else m
  (if neg then -(m : Int) else m, decide (15 < s))

/-- R88, R90, R91: what one pair of codes adds to an element of a row, and RANGE. -/
def termOf (ca : Nat) (ba : Int) (cx : Nat) (bx er : Int) : BitVec 48 × Bool :=
  match product ca ba cx bx with
  | none => (0, false)
  | some (neg, kk, n) =>
    let (v, r) := term neg kk n er
    (BitVec.ofInt 48 v, r)

/-- R94: a W32 readout of an element with shift `q`: the word, and whether it saturated. -/
def readout (a : BitVec 48) (q : Nat) : W32 × Bool :=
  let x := a.toInt
  let (v, _) := rneInt (decide (x < 0)) x.natAbs (-(q : Int))
  if v < -(2 ^ 31) then (0x80000000#32, true)
  else if 2 ^ 31 - 1 < v then (0x7FFFFFFF#32, true)
  else (BitVec.ofInt 32 v, false)

/-! ## Re-quantization (R97) -/

/-- Steps above 2^p of a magnitude with its leading one at bit p. -/
def roundSteps (bounds : List Nat) (m : Nat) : Nat :=
  let p := m.log2
  let f := if 16 ≤ p then (m >>> (p - 16)) % 65536 else (m <<< (16 - p)) % 65536
  let rest := decide (16 < p) && m % 2 ^ (p - 16) != 0
  let j := (bounds.takeWhile (fun t => decide (t < f) || (f == t && rest))).length
  let tie := decide (j < bounds.length) && bounds.getD j 0 == f && !rest
  if tie && j % 2 == 1 then j + 1 else j

/-- What R97 answers: the codes, the block exponent, and whether SAT is set. -/
structure CodeBlock where
  codes : List Nat
  exp : Int
  sat : Bool
deriving DecidableEq, Repr

/-- R97 over inputs (x, e), with a largest block exponent of `bmax` (127, or EXP_CAP in R315). -/
def requantTo (bmax : Int) (l8 : Bool) (xs : List (Int × Int)) : CodeBlock :=
  let bounds := if l8 then eighthBounds else quarterBounds
  let st := bounds.length
  let top : Int := if l8 then 7 else 3
  let mid : Int := if l8 then 64 else 16
  let cmax : Int := if l8 then 127 else 31
  let sign := if l8 then 128 else 32
  let pr := xs.map (fun x => (x.1, (x.1.natAbs.log2 : Int) + x.2, roundSteps bounds x.1.natAbs))
  let best := (pr.filter (fun x => x.1 != 0)).foldl
    (fun (b : Option (Int × Nat)) x =>
      match b with
      | none => some (x.2.1, x.2.2)
      | some (l, r) => if l < x.2.1 ∨ (x.2.1 = l ∧ r < x.2.2) then some (x.2.1, x.2.2) else b) none
  match best with
  | none => ⟨xs.map (fun _ => 0), 0, false⟩
  | some (lmax, rmax) =>
    let b0 := lmax - top + (if rmax = st then 1 else 0)
    let b := if bmax < b0 then bmax else if b0 < -128 then -128 else b0
    let cs := pr.map (fun x =>
      if x.1 = 0 then (0, false)
      else
        let c := mid + st * (x.2.1 - b) + x.2.2
        if c < 1 then (0, false)
        else
          let v := if cmax < c then cmax else c
          (v.toNat + (if x.1 < 0 then sign else 0), decide (cmax < c)))
    ⟨cs.map Prod.fst, b, decide (bmax < b0) || cs.any Prod.snd⟩

/-- R97. -/
def requant (l8 : Bool) (xs : List (Int × Int)) : CodeBlock := requantTo 127 l8 xs

/-- R98: a float pattern as an input of R97, with the flags it raises. -/
def requantInput (f : Fmt) (x : Nat) : (Int × Int) × Nat :=
  match f.decode x with
  | .nan _ => ((0, 0), fInvalid)
  | .inf n => ((scaled n f.maxFin.1 f.maxFin.2 f.maxFin.2, f.maxFin.2), fSat)
  | .fin n m e => ((scaled n m e e, e), 0)

/-! ## Conversions (R99, R102) -/

/-- R99: an L8 byte with its block exponent in a float format. DESIGN CHOICE (log entry 53): the zero of a code 0 with its sign bit set is +0; R99 says
only that it is zero. -/
def codeToFloat (f : Fmt) (c : Nat) (b : Int) : Nat × Nat :=
  if c % 128 = 0 then (0, 0)
  else
    let t : Int := 8 * b + (c % 128 : Nat) - 64
    f.round (c / 128 % 2 == 1) (fracConst (t % 8).toNat) (t / 8 - 15)

/-- R102: the exact logarithm of an L8 or L6 code as binary32; code 0 gives −∞ and DIVZERO (Table 6.10). -/
def codeLog2 (l8 : Bool) (c : Nat) (b : Int) : Nat × Nat :=
  if l8 then
    if c % 128 = 0 then (binary32.inf true, fDivZero) else binary32.ofInt (8 * b + (c % 128 : Nat) - 64) (-3)
  else
    if c % 32 = 0 then (binary32.inf true, fDivZero) else binary32.ofInt (4 * b + (c % 32 : Nat) - 16) (-2)

/-! ## Softmax (R103) -/

/-- ex = rne_int(exp2(x) · 2^30) of a binary32 x; none for a NaN, which R103 never meets. Saturation sets INVALID. DESIGN CHOICE (log entry 53): of the
roundings of R103 to an integer, here and in q, none sets INEXACT; R103 names no flag but INVALID. -/
def softExp (x : Nat) : Option (W32 × Nat) :=
  match binary32.decode x with
  | .nan _ => none
  | .inf n => some (if n then (0, 0) else (0xFFFFFFFF#32, fInvalid))
  | .fin n m e =>
    let (v, q, st) := exp2Of n m e
    if 64 < (bitLen v : Int) + q + 30 then some (0xFFFFFFFF#32, fInvalid)
    else
      let (r, _) := rneInt false v (q + 30) st
      if 2 ^ 32 - 1 < r then some (0xFFFFFFFF#32, fInvalid) else some (BitVec.ofInt 32 r, 0)

/-- lam = fl32(log2(sum) − 30), rounded once; 0 for a sum of 0. DESIGN CHOICE (log entry 53): the fl32 roundings of R103, of x, lam and x − lam, set the
flags of R100; R103 names none of them. -/
def softLam (sum : Nat) : Nat × Nat :=
  if sum = 0 then (0, 0)
  else
    let (n, m, e, st) := log2Of sum (-30)
    binary32.round n m e st

/-- q = rne_int(8 · fl32(x − lam)): none where x − lam is no finite number, for which R103 states no q. -/
def softQ (x lam : Nat) : Option Int × Nat :=
  let (d, fl) := binary32.sub x lam
  match binary32.decode d with
  | .fin n m e => (some (rneInt n m (e + 3)).1, fl)
  | _ => (none, fl)

/-- Codes and exponent of one block of 32 positions of R103, by the q of each valid position; no exponent where no position
is valid, or where it does not fit the byte: there the manual states none. -/
def softBlock (qs : List (Option Int)) : List Nat × Option Int :=
  match (qs.filterMap id).max? with
  | none => (qs.map (fun _ => 0), none)
  | some qmax =>
    let b0 := -((63 - qmax) / 8)
    let b := if b0 < -128 then -128 else b0
    (qs.map (fun q => match q with
      | none => 0
      | some q => let c := 64 + q - 8 * b; if c < 1 then 0 else c.toNat),
     if 127 < b then none else some b)

end Sys2Proof.Machine
end

