-- ==== Sys2Proof/Machine/Flags.lean ====
section
/-!
DEFINITION. Sys2Proof/Machine/Flags.lean: the flags of a core: VSTAT (Table 5.3), TSTAT (Table 5.4).
-/
namespace Sys2Proof.Machine

open Sys2Proof

/-- Set sticky flags of VSTAT. -/
def CoreRegs.raise (r : CoreRegs) (flags : Nat) : CoreRegs := { r with vstat := r.vstat ||| BitVec.ofNat 32 (flags % 64) }
/-- Set RANGE or SAT of a tile (R92, R94). -/
def CoreRegs.raiseRange (r : CoreRegs) (t : Nat) (on : Bool) : CoreRegs :=
  if on then { r with tstat := r.tstat ||| BitVec.ofNat 32 (2 ^ t) } else r
def CoreRegs.raiseSat (r : CoreRegs) (t : Nat) (on : Bool) : CoreRegs :=
  if on then { r with tstat := r.tstat ||| BitVec.ofNat 32 (2 ^ (4 + t)) } else r
/-- Clearing a tile clears its flags (Table 5.4). -/
def CoreRegs.clearTile (r : CoreRegs) (t : Nat) : CoreRegs :=
  { r with tstat := r.tstat &&& ~~~(BitVec.ofNat 32 (2 ^ t + 2 ^ (4 + t))) }
/-- R174: what FL writes to a predicate: is RANGE or SAT of the tile 1? -/
def CoreRegs.tileFlag (r : CoreRegs) (t : Nat) : Bool := bit r.tstat t || bit r.tstat (4 + t)
/-- Write 1 to clear (R183). -/
def w1c (old v : W32) : W32 := old &&& ~~~v

end Sys2Proof.Machine
end

