-- ==== Sys2Proof/Machine/Crypto.lean ====
section
/-!
DEFINITION. Sys2Proof/Machine/Crypto.lean: the ciphers and the hash that the spec names by their standards: SHA-256 (FIPS 180-4; R153, R254,
R408), AES-256 (FIPS 197), AES-256-GCM (SP 800-38D; R66, R359, R434, R437) and AES-256-XTS (IEEE 1619; R380).
-/
namespace Sys2Proof.Machine

open Sys2Proof

/-! ## SHA-256 -/

/-- The round constants, sixteen at a time. -/
def shaK0 : List Nat := [0x428A2F98, 0x71374491, 0xB5C0FBCF, 0xE9B5DBA5, 0x3956C25B, 0x59F111F1, 0x923F82A4, 0xAB1C5ED5, 0xD807AA98, 0x12835B01, 0x243185BE, 0x550C7DC3, 0x72BE5D74, 0x80DEB1FE, 0x9BDC06A7, 0xC19BF174]
def shaK1 : List Nat := [0xE49B69C1, 0xEFBE4786, 0x0FC19DC6, 0x240CA1CC, 0x2DE92C6F, 0x4A7484AA, 0x5CB0A9DC, 0x76F988DA, 0x983E5152, 0xA831C66D, 0xB00327C8, 0xBF597FC7, 0xC6E00BF3, 0xD5A79147, 0x06CA6351, 0x14292967]
def shaK2 : List Nat := [0x27B70A85, 0x2E1B2138, 0x4D2C6DFC, 0x53380D13, 0x650A7354, 0x766A0ABB, 0x81C2C92E, 0x92722C85, 0xA2BFE8A1, 0xA81A664B, 0xC24B8B70, 0xC76C51A3, 0xD192E819, 0xD6990624, 0xF40E3585, 0x106AA070]
def shaK3 : List Nat := [0x19A4C116, 0x1E376C08, 0x2748774C, 0x34B0BCB5, 0x391C0CB3, 0x4ED8AA4A, 0x5B9CCA4F, 0x682E6FF3, 0x748F82EE, 0x78A5636F, 0x84C87814, 0x8CC70208, 0x90BEFFFA, 0xA4506CEB, 0xBEF9A3F7, 0xC67178F2]
def shaK : List W32 := (shaK0 ++ shaK1 ++ shaK2 ++ shaK3).map (BitVec.ofNat 32)
/-- The initial hash value. -/
def shaInit : List W32 := [0x6A09E667, 0xBB67AE85, 0x3C6EF372, 0xA54FF53A, 0x510E527F, 0x9B05688C, 0x1F83D9AB, 0x5BE0CD19]

/-- A message padded to whole blocks of 64 B: a one bit, zeros, the length in bits, highest byte first. -/
def shaPad (m : List Byte) : List Byte :=
  m ++ [0x80] ++ zeros ((119 - m.length % 64) % 64) ++ beBytes 8 (8 * m.length)

/-- The big-endian word of four bytes. -/
def beWord (b : List Byte) : W32 := BitVec.ofNat 32 (leNat b.reverse)

/-- The message schedule, newest word first: `n` more words. -/
def shaSchedule : Nat → List W32 → List W32
  | 0, w => w
  | n + 1, w =>
    let at_ (i : Nat) : W32 := w.getD (i - 1) 0
    let s0 := (at_ 15).rotateRight 7 ^^^ (at_ 15).rotateRight 18 ^^^ at_ 15 >>> 3
    let s1 := (at_ 2).rotateRight 17 ^^^ (at_ 2).rotateRight 19 ^^^ at_ 2 >>> 10
    shaSchedule n ((at_ 16 + s0 + at_ 7 + s1) :: w)

/-- One round on the eight working words. -/
def shaRound (h : List W32) (kw : W32 × W32) : List W32 :=
  let v (i : Nat) : W32 := h.getD i 0
  let s1 := (v 4).rotateRight 6 ^^^ (v 4).rotateRight 11 ^^^ (v 4).rotateRight 25
  let ch := (v 4 &&& v 5) ^^^ (~~~(v 4) &&& v 6)
  let t1 := v 7 + s1 + ch + kw.1 + kw.2
  let s0 := (v 0).rotateRight 2 ^^^ (v 0).rotateRight 13 ^^^ (v 0).rotateRight 22
  let maj := (v 0 &&& v 1) ^^^ (v 0 &&& v 2) ^^^ (v 1 &&& v 2)
  [t1 + s0 + maj, v 0, v 1, v 2, v 3 + t1, v 4, v 5, v 6]

/-- One block of 64 B. -/
def shaBlock (h : List W32) (b : List Byte) : List W32 :=
  let w := shaSchedule 48 ((List.range 16).map (fun i => beWord (sub b (4 * i) 4))).reverse
  (h.zip ((shaK.zip w.reverse).foldl shaRound h)).map (fun e => e.1 + e.2)

/-- SHA-256. The 32 B of the digest, in the order of the standard, are bytes 0 to 31 of a field that holds it. -/
@[irreducible] def sha256 (m : List Byte) : BitVec 256 :=
  let p := shaPad m
  let h := (List.range (p.length / 64)).foldl (fun h i => shaBlock h (sub p (64 * i) 64)) shaInit
  BitVec.ofNat 256 (leNat (h.flatMap (fun x => beBytes 4 x.toNat)))

/-! ## AES-256 -/

/-- Multiplication in the field of AES, polynomial 0x11B. -/
def gmul (a b : Byte) : Byte :=
  ((List.range 8).foldl (fun (r : Byte × Byte) i =>
    (if b.getLsbD i then r.1 ^^^ r.2 else r.1, if r.2.msb then (r.2 <<< 1) ^^^ 0x1B else r.2 <<< 1)) (0, a)).1

/-- The inverse of a byte, 0 for 0: its 254th power. -/
def ginv (a : Byte) : Byte :=
  let a2 := gmul a a; let a4 := gmul a2 a2; let a8 := gmul a4 a4; let a16 := gmul a8 a8
  let a32 := gmul a16 a16; let a64 := gmul a32 a32; let a128 := gmul a64 a64
  gmul (gmul (gmul a2 a4) (gmul a8 a16)) (gmul (gmul a32 a64) a128)

/-- The substitution box. -/
def sbox (a : Byte) : Byte :=
  let x := ginv a
  x ^^^ x.rotateLeft 1 ^^^ x.rotateLeft 2 ^^^ x.rotateLeft 3 ^^^ x.rotateLeft 4 ^^^ 0x63

def xorBytes (a b : List Byte) : List Byte := List.zipWith (· ^^^ ·) a b

/-- The key schedule, newest word first: `n` more words of four bytes after `i` of them. -/
def aesSchedule : Nat → Nat → Byte → List (List Byte) → List (List Byte)
  | 0, _, _, w => w
  | n + 1, i, rcon, w =>
    let prev := w.headD []
    let t := if i % 8 = 0 then xorBytes ((prev.drop 1 ++ prev.take 1).map sbox) [rcon, 0, 0, 0]
      else if i % 8 = 4 then prev.map sbox else prev
    aesSchedule n (i + 1) (if i % 8 = 0 then gmul rcon 2 else rcon) (xorBytes (w.getD 7 []) t :: w)

/-- The fifteen round keys of a 256-bit key. -/
def aesKeys (key : List Byte) : List (List Byte) :=
  let w := (aesSchedule 52 8 1 ((List.range 8).map (fun i => sub key (4 * i) 4)).reverse).reverse
  (List.range 15).map (fun r => ((w.drop (4 * r)).take 4).flatten)

/-- SubBytes and ShiftRows on a state of four columns. -/
def aesShift (s : List Byte) : List Byte :=
  (List.range 16).map (fun k => sbox (s.getD (4 * ((k / 4 + k % 4) % 4) + k % 4) 0))

/-- MixColumns. -/
def aesMix (s : List Byte) : List Byte :=
  (List.range 16).map (fun k =>
    let c (r : Nat) : Byte := s.getD (k / 4 * 4 + (k + r) % 4) 0
    gmul (c 0) 2 ^^^ gmul (c 1) 3 ^^^ c 2 ^^^ c 3)

/-- One block under expanded round keys. -/
def aesBlock (keys : List (List Byte)) (b : List Byte) : List Byte :=
  let s := ((keys.drop 1).take 13).foldl (fun s k => xorBytes (aesMix (aesShift s)) k) (xorBytes b (keys.headD []))
  xorBytes (aesShift s) (keys.getD 14 [])

/-- The inverse of the substitution box: the affine map undone, then the inverse in the field. -/
def unsbox (b : Byte) : Byte := ginv (b.rotateLeft 1 ^^^ b.rotateLeft 3 ^^^ b.rotateLeft 6 ^^^ 0x05)

/-- ShiftRows and SubBytes undone. -/
def aesUnshift (s : List Byte) : List Byte :=
  (List.range 16).map (fun k => unsbox (s.getD (4 * ((k / 4 + 4 - k % 4) % 4) + k % 4) 0))

/-- MixColumns undone. -/
def aesUnmix (s : List Byte) : List Byte :=
  (List.range 16).map (fun k =>
    let c (r : Nat) : Byte := s.getD (k / 4 * 4 + (k + r) % 4) 0
    gmul (c 0) 14 ^^^ gmul (c 1) 11 ^^^ gmul (c 2) 13 ^^^ gmul (c 3) 9)

/-- One block deciphered under expanded round keys. -/
def aesUnblock (keys : List (List Byte)) (b : List Byte) : List Byte :=
  let s := ((keys.drop 1).take 13).reverse.foldl (fun s k => aesUnshift (aesUnmix (xorBytes s k))) (aesUnshift (xorBytes b (keys.getD 14 [])))
  xorBytes s (keys.headD [])

/-! ## AES-256-GCM -/

/-- A block as the polynomial of GHASH: its first bit is the most significant. -/
def ghashBlock (b : List Byte) : BitVec 128 := BitVec.ofNat 128 (leNat (sub b 0 16).reverse)

/-- The product in the field of GHASH. -/
def ghashMul (x y : BitVec 128) : BitVec 128 :=
  ((List.range 128).foldl (fun (r : BitVec 128 × BitVec 128) i =>
    (if x.getLsbD (127 - i) then r.1 ^^^ r.2 else r.1,
     if r.2.getLsbD 0 then (r.2 >>> 1) ^^^ 0xE1000000000000000000000000000000#128 else r.2 >>> 1)) (0, y)).1

def ghash (h : BitVec 128) (bs : List Byte) : BitVec 128 :=
  (List.range (cdiv bs.length 16)).foldl (fun y i => ghashMul (y ^^^ ghashBlock (sub bs (16 * i) 16)) h) 0

/-- Counter mode from counter value `c` on. -/
def gcmStream (keys : List (List Byte)) (nonce : List Byte) (c : Nat) (bs : List Byte) : List Byte :=
  (List.range (cdiv bs.length 16)).flatMap (fun i =>
    xorBytes ((bs.drop (16 * i)).take 16) (aesBlock keys (nonce ++ beBytes 4 (c + i))))

/-- The tag over additional data and ciphertext. -/
def gcmTag (keys : List (List Byte)) (nonce aad cipher : List Byte) : BitVec 128 :=
  let h := ghashBlock (aesBlock keys (zeros 16))
  let s := ghash h (padTo 16 aad ++ padTo 16 cipher ++ beBytes 8 (8 * aad.length) ++ beBytes 8 (8 * cipher.length))
  let t := xorBytes (beBytes 16 s.toNat) (aesBlock keys (nonce ++ beBytes 4 1))
  BitVec.ofNat 128 (leNat t)

/-- Seal: ciphertext and tag. Nonce and tag are fields of little-endian bytes. -/
@[irreducible] def gcmSeal (key : List Byte) (nonce : BitVec 96) (aad plain : List Byte) : List Byte × BitVec 128 :=
  let keys := aesKeys key; let n := leBytes 12 nonce.toNat
  let c := gcmStream keys n 2 plain
  (c, gcmTag keys n aad c)

/-- Open: the plaintext, or nothing when the tag fails. -/
@[irreducible] def gcmOpen (key : List Byte) (nonce : BitVec 96) (aad cipher : List Byte) (tag : BitVec 128) : Option (List Byte) :=
  let keys := aesKeys key; let n := leBytes 12 nonce.toNat
  if gcmTag keys n aad cipher = tag then some (gcmStream keys n 2 cipher) else none

/-! ## AES-256-XTS (R380) -/

/-- The next tweak of a data unit: times α, lowest byte first. -/
def xtsNext (t : List Byte) : List Byte :=
  let v := leNat t
  leBytes 16 (if 2 ^ 127 ≤ v then Nat.xor (2 * v % 2 ^ 128) 0x87 else 2 * v)

/-- Put the blocks of a data unit through `f`, each between its running tweak. -/
def xtsBlocks (f : List Byte → List Byte) : Nat → List Byte → List Byte → List Byte
  | 0, _, _ => []
  | n + 1, t, bs => xorBytes (f (xorBytes (sub bs 0 16) t)) t ++ xtsBlocks f n (xtsNext t) (bs.drop 16)

/-- A data unit of 4 KiB under a 512-bit key, data key first, and its tweak: enciphered, or deciphered. -/
@[irreducible] def xtsUnit (open_ : Bool) (key : List Byte) (tweak : Nat) (unit : List Byte) : List Byte :=
  let keys := aesKeys (key.take 32)
  xtsBlocks (if open_ then aesUnblock keys else aesBlock keys) 256 (aesBlock (aesKeys (key.drop 32)) (leBytes 16 tweak)) unit

/-- A grain as the flash controller programs it, or, with `open_`, as it reads it: four units, unit `u` with tweak 4 × LGN + u (R380). -/
def xtsGrain (open_ : Bool) (key : List Byte) (lgn : Nat) (g : List Byte) : List Byte :=
  (List.range 4).flatMap (fun u => xtsUnit open_ key (4 * lgn + u) (sub g (4096 * u) 4096))

end Sys2Proof.Machine
end

