-- ==== Sys2Proof/Machine/Kv.lean ====
section
/-!
DEFINITION. Sys2Proof/Machine/Kv.lean: key-value grains as sequences of slots, sketches, the attended set, importance, and
eviction (07_attention_and_kv, R188 to R202; 02_grains_and_tiers, R50, R55).
-/
namespace Sys2Proof.Machine

open Sys2Proof

/-! ## Sorting -/

/-- Insert before the first element that may follow. -/
def insertBy {α : Type} (le : α → α → Bool) (x : α) : List α → List α
  | [] => [x]
  | y :: ys => if le x y then x :: y :: ys else y :: insertBy le x ys

/-- Stable sort. -/
def sortBy {α : Type} (le : α → α → Bool) (xs : List α) : List α := xs.foldr (insertBy le) []

/-! ## Grains by logical index -/

/-- The data grain of a logical index. -/
def gFind (gs : List SGrain) (lgn : Nat) : Option SGrain := gs.find? (fun g => g.lgn == lgn && g.kind != 2)
/-- The grains with the data grain of the same logical index replaced, or added. -/
def gPut (gs : List SGrain) (g : SGrain) : List SGrain := gs.filter (fun x => x.lgn != g.lgn || x.kind == 2) ++ [g]
/-- The logical index of block `j` of pair `p` (R55). -/
def blockLgn (pairs p j : Nat) : Nat := 16 + j * pairs + p
/-- A request sees its working list over the committed grains (R57). -/
def gView (work base : List SGrain) (lgn : Nat) : Option SGrain := (gFind work lgn).orElse (fun _ => gFind base lgn)

/-- The retained slots of a pair in compacted order (R50). -/
def pairSlots (work base : List SGrain) (pairs retained p : Nat) : List KvSlot :=
  (List.range (cdiv retained 64)).flatMap (fun j => match gView work base (blockLgn pairs p j) with
    | some g => g.slots
    | none => [])

/-- A sequence of slots cut into blocks of 64. -/
def blocks64 (xs : List KvSlot) : List (List KvSlot) :=
  (List.range (cdiv xs.length 64)).map (fun j => (xs.drop (64 * j)).take 64)

/-! ## The attended set (R189, R192) -/

/-- The sketch of a key: bit `d` is 1 when the L6 code of dimension `d` is not 0 and its sign bit is 0. -/
def sketchOf (k : BitVec 768) : BitVec 128 :=
  BitVec.ofNat 128 ((List.range 128).foldl (fun a d => let c := fld k (6 * d) 6; if 0 < c ∧ c < 32 then a + 2 ^ d else a) 0)

/-- The best count of a block: over the query heads and the block's live slots. -/
def blockScore (seq : List KvSlot) (qs : List (BitVec 128)) (live : List Nat) : Nat :=
  qs.foldl (fun m q => live.foldl (fun m c => match seq[c]? with
    | none => m
    | some x => max m (popcnt (~~~(q ^^^ sketchOf x.k)) % 256)) m) 0

/-- Compacted indices that the query at compacted index `x` attends: every one in full mode; in selective mode with (B, W, S)
sinks, window, and the best B other blocks, ties to the lower block. -/
def attended (seq : List KvSlot) (x : Nat) (sel : Option (Nat × Nat × Nat)) (qs : List (BitVec 128)) : List Nat :=
  match sel with
  | none => List.range (x + 1)
  | some (b, w, sinks) =>
    let fixed (c : Nat) : Bool := decide (c < sinks) || decide (x < c + w)
    let live (j : Nat) := ((List.range 64).map (64 * j + ·)).filter (· ≤ x)
    let cand := (List.range (x / 64 + 1)).filter (fun j => (live j).any (fun c => !fixed c))
    let ranked := sortBy (fun (a c : Nat × Nat) => decide (c.1 ≤ a.1)) (cand.map (fun j => (blockScore seq qs (live j), j)))
    let chosen := (ranked.take b).flatMap (fun e => live e.2)
    (List.range (x + 1)).filter (fun c => fixed c || chosen.contains c)

/-! ## Importance (R197) -/

/-- Add a decoded probability to an importance: nearest, ties to even, saturating at 65,504. -/
def addImportance (imp : BitVec 16) (code : Nat) (e : Int) : BitVec 16 :=
  let r := (binary16.add imp.toNat (codeToFloat binary16 code e).1).1
  BitVec.ofNat 16 (if 0x7C00 ≤ r % 0x8000 then 0x7BFF else r)

/-! ## Eviction (R198 to R202) -/

/-- The score of each retained position: its largest importance over the pairs. -/
def evictScores (seqs : List (List KvSlot)) (retained : Nat) : List Nat :=
  (List.range retained).map (fun c => seqs.foldl (fun m s => max m ((s[c]?).map (fun x => x.imp.toNat) |>.getD 0)) 0)

/-- The scores of all the pairs of a head-sharded model: the other devices of its group send theirs to the session's owner, which decides one set for
all (R209). The manual gives no message for it: what they hold is free (log entry 52). -/
def State.groupScores (s : State) (j model : Nat) (scores : List Nat) : List Nat × State :=
  if (mget (s.job j).fabGroups model).isNone then (scores, s)
  else
    let (n, s) := s.draw
    (scores.zipIdx.map (fun e => max e.1 (Config.peerScore n e.2).toNat), s)

/-- BUDGET in force: at least what the protected positions need (R202). -/
def budgetOf (first last budget : Nat) : Nat := if budget = 0 then 0 else max budget (cdiv (first + last) 64)

/-- The compacted indices an eviction keeps. `budget` 0 evicts by threshold alone. -/
def evictKeep (scores : List Nat) (first last thresh budget : Nat) : List Nat :=
  let n := scores.length
  let prot (c : Nat) : Bool := decide (c < first) || decide (n ≤ c + last)
  let score (c : Nat) := scores.getD c 0
  let low (c : Nat) : Bool := decide (0 < thresh) && decide (thresh ≤ 0x7C00) && decide (score c < thresh)
  let kept := (List.range n).filter (fun c => prot c || !low c)
  if budget = 0 then kept
  else
    let excess := kept.length - 64 * budget
    let loose := sortBy (fun (a c : Nat × Nat) => decide (a.1 ≤ c.1)) ((kept.filter (fun c => !prot c)).map (fun c => (score c, c)))
    let out := (loose.take excess).map (·.2)
    kept.filter (fun c => !out.contains c)

/-- The slots at kept indices. -/
def keepSlots (keep : List Nat) (seq : List KvSlot) : List KvSlot := keep.filterMap (fun c => seq[c]?)

/-- The first block an eviction changes. -/
def firstAffected (keep : List Nat) (n : Nat) : Nat :=
  (((List.range n).find? (fun c => !keep.contains c)).getD n) / 64

/-- SES_JOB_EVICT of a job as it stands when an eviction starts (Table 7.5, R204): THRESH, KEEP_FIRST, KEEP_LAST, BUDGET. -/
def State.evictPolicy (s : State) (j : Nat) : Nat × Nat × Nat × Nat :=
  let r := s.reg (Reg.jobEvict j)
  (fld r 0 16, fld r 16 8, fld r 32 16, fld r 48 16)

/-- SES_EVICT_STAT (Table 7.4). -/
def State.countEvict (s : State) (positions grains : Nat) : State :=
  (s.countReg Reg.evictStat 0 32 positions).countReg Reg.evictStat 32 32 grains

end Sys2Proof.Machine
end

