-- ==== Sys2Proof/Machine/GrainBytes.lean ====
section
/-!
DEFINITION. Sys2Proof/Machine/GrainBytes.lean: the bytes of session-table entries (Table 1.1) and of grains (Tables 2.1 to 2.4, R46 to R51,
R56), the checks of R49, sealing (R66), and what the rows of HBM and the slots of core stores hold where the grains of sessions lie (R53).
-/
namespace Sys2Proof.Machine

open Sys2Proof

/-! ## Table 1.1 -/

/-- STATE of Table 1.2. -/
def SState.code : SState → Nat
  | .free => 0 | .open => 1 | .running => 2 | .paused => 3 | .toolWait => 4 | .parked => 5 | .moving => 6 | .ending => 7
/-- RSTATE of Table 1.4. -/
def RState.code : RState → Nat
  | .free => 0 | .queued => 1 | .reviving => 2 | .prefill => 3 | .decode => 4 | .paused => 5 | .ending => 6

/-- Table 1.1: the 64 B of an entry, CRC16 included. -/
def Session.image (x : Session) : List Byte :=
  let b : List Byte :=
    [BitVec.ofNat 8 (x.state.code + 16 * b2n (x.len == 2 ^ 20) + 32 * b2n x.pinned + 64 * b2n x.conf + 128 * b2n x.toolp),
     BitVec.ofNat 8 x.job, BitVec.ofNat 8 x.model, BitVec.ofNat 8 (x.prio + 8 * x.eventWell)] ++
    leBytes 4 x.ownerEpoch ++ leBytes 2 x.adapter ++ leBytes 2 x.adapterVer ++ leBytes 4 (x.len % 2 ^ 20) ++
    leBytes 4 x.retained ++ leBytes 8 x.root.toNat ++ leBytes 6 x.expiry ++ leBytes 6 x.lastActive ++ leBytes 4 x.curReq ++
    leBytes 2 x.grammar ++ leBytes 4 2 ++ leBytes 8 x.seed.toNat ++ leBytes 4 x.scounter.toNat
  b ++ leBytes 2 (crc16 b).toNat

/-! ## Places -/

/-- KIND of a grain by its logical index (Table 2.1). -/
def kindOfLgn (lgn : Nat) : Nat := if lgn < 4 then 3 + lgn else 1

/-- The grains of a parked extent in revival order (R58): the place of logical index `lgn` in it. -/
def extentIndex (pairs nb lgn : Nat) : Nat :=
  if lgn < 16 then lgn else 4 + (lgn - 16) % max 1 pairs * nb + (lgn - 16) / max 1 pairs

/-- The grains of an extent at a root, from the slot sequences of the pairs. -/
def extentGrains (pairs epoch : Nat) (root : W64) (seqs : List (List KvSlot)) (retained : Nat) : List SGrain :=
  let nb := cdiv retained 64
  (List.range 4).map (fun i => { lgn := i, kind := kindOfLgn i, level := 0, addr := gPlus root i, epoch := epoch, slots := [] }) ++
    (List.range pairs).flatMap (fun p => ((blocks64 (seqs.getD p [])).zipIdx).map (fun e =>
      let lgn := blockLgn pairs p e.2
      { lgn := lgn, kind := 1, level := 0, addr := gPlus root (extentIndex pairs nb lgn), epoch := epoch, slots := e.1 }))

/-- The root of a map: the MAP grain of the highest level, or absent. -/
def mapRoot (gs : List SGrain) : W64 :=
  match (gs.filter (fun g => g.kind == 2)).foldl (fun (b : Option SGrain) g => match b with
      | none => some g
      | some c => if c.level < g.level then some g else b) none with
  | none => gAbsent
  | some g => g.addr

/-! ## Bytes (Tables 2.2 to 2.4) -/

/-- The 64 B header of a grain with its CRC, NONCE and TAG at 0 (Table 2.2). -/
def grainHeader (kind i j : Nat) (sealed_ : Bool) (layer head level epoch lgn : Nat) : List Byte :=
  [BitVec.ofNat 8 kind, 1] ++ leBytes 3 i ++ [BitVec.ofNat 8 (j + 64 * b2n sealed_)] ++ leBytes 2 layer ++
    [BitVec.ofNat 8 head, BitVec.ofNat 8 level, 0, 0] ++ leBytes 4 epoch ++ leBytes 4 lgn ++ zeros 44

/-- A plaintext grain with its CRC32C, NONCE and TAG read as zero (R48). -/
def grainBlank (g : List Byte) : List Byte := patch (patch g 16340 (zeros 4)) 16352 (zeros 28)

/-- The grain with its CRC made valid (R48). -/
def withCrc (g : List Byte) : List Byte := patch g 16340 (leBytes 4 (crc32c (grainBlank g)).toNat)

/-- A whole grain of 16,384 B: payload, header, CRC (R46, R48). -/
def wholeGrain (payload header : List Byte) : List Byte := withCrc (sub payload 0 16320 ++ header)

/-- REHEAD (Table 2.7): OWNER_EPOCH replaced and the CRC made again. -/
def rehead (epoch : Nat) (g : List Byte) : List Byte := withCrc (patch g 16332 (leBytes 4 epoch))

/-- The payload of a KV grain (Table 2.3): its live slots, and behind them what cleared slots still hold (R190). -/
def kvPayload (ss stale : List KvSlot) : List Byte :=
  let all := ss ++ stale.map (fun x => { x with imp := 0 })
  let col (w : Nat) (f : KvSlot → Nat) := sub (all.flatMap (fun x => leBytes w (f x))) 0 (64 * w)
  col 96 (fun x => x.k.toNat) ++ col 96 (fun x => x.v.toNat) ++ col 16 (fun x => (sketchOf x.k).toNat) ++ col 4 (fun x => x.kexp.toNat) ++
    col 4 (fun x => x.vexp.toNat) ++ col 4 (fun x => x.pos) ++ col 2 (fun x => x.imp.toNat) ++ leBytes 8 (2 ^ ss.length - 1)

/-- META, SAMPLER, DETOK and GRAMMAR (Table 2.4). `entry` is the entry's image as of the last park or move. -/
def metaPayload (entry : List Byte) (x : Session) (a : SessAux) : List Byte :=
  sub entry 0 64 ++ leBytes 4 a.ttlParked ++ leBytes 2 a.layers ++ [BitVec.ofNat 8 a.kvh, 0] ++ leBytes 32 a.modelDigest.toNat ++
    leBytes 4 (cdiv x.retained 64) ++ leBytes 4 a.jobTag.toNat ++ [BitVec.ofNat 8 (b2n x.conf)] ++ zeros 15 ++
    leBytes 32 (if x.conf then a.keyset.toNat else 0)
def samplerPayload (c : Carry) : List Byte :=
  leBytes 4 c.lastToken ++ leBytes 4 c.ringHead ++ (List.range 2048).flatMap (fun k => leBytes 4 (mgetD c.ring k 0))
def detokPayload (c : Carry) : List Byte :=
  sub c.pend 0 4 ++ [BitVec.ofNat 8 c.pend.length, BitVec.ofNat 8 c.hold.length, 0, 0] ++ c.hold
def grammarPayload (c : Carry) : List Byte :=
  leBytes 2 c.gstate ++ [BitVec.ofNat 8 c.gstack.length, 0] ++ sub (c.gstack.reverse.flatMap (leBytes 2)) 0 128 ++ leBytes 2 c.ghandle

/-- The child of a MAP grain under entry `k` (R56): a data grain for a leaf, a MAP grain one level lower otherwise. -/
def mapChild (gs : List SGrain) (g : SGrain) (k : Nat) : W64 :=
  let at_ := g.lgn + k * 2040 ^ (g.level - 1)
  ((if g.level ≤ 1 then gFind gs at_ else gs.find? (fun x => x.kind == 2 && x.level + 1 == g.level && x.lgn == at_)).map (·.addr)).getD gAbsent

/-- The payload of a MAP grain among the grains of its map (Table 2.4). -/
def mapPayload (gs : List SGrain) (g : SGrain) : List Byte := (List.range 2040).flatMap (fun k => leBytes 8 (mapChild gs g k).toNat)

/-- A grain of session `i` in plaintext (R46), among the grains `all` of its map. -/
def grainBytes (i : Nat) (sealed_ : Bool) (entry : List Byte) (x : Session) (a : SessAux) (c : Carry) (all : List SGrain) (g : SGrain) : List Byte :=
  let pairs := a.layers * a.kvh
  let p := (g.lgn - 16) % max 1 pairs
  let head (layer hd : Nat) := grainHeader g.kind i x.job sealed_ layer hd g.level g.epoch g.lgn
  match g.kind with
  | 1 => wholeGrain (kvPayload g.slots g.stale) (head (p / max 1 a.kvh) (p % max 1 a.kvh))
  | 2 => wholeGrain (mapPayload all g) (head 0xFFFF 0xFF)
  | 3 => wholeGrain (metaPayload entry x a) (head 0xFFFF 0xFF)
  | 4 => wholeGrain (samplerPayload c) (head 0xFFFF 0xFF)
  | 5 => wholeGrain (detokPayload c) (head 0xFFFF 0xFF)
  | _ => wholeGrain (grammarPayload c) (head 0xFFFF 0xFF)

/-- The plaintext grains of a parked session in extent order (R58). -/
def extentBytes (i : Nat) (sealed_ : Bool) (x : Session) (a : SessAux) : List (List Byte) :=
  let pairs := a.layers * a.kvh
  let one (g : SGrain) := grainBytes i sealed_ x.image x a x.carry [] g
  (List.range 4).map (fun l => one { lgn := l, kind := kindOfLgn l, level := 0, addr := 0, epoch := x.ownerEpoch, slots := [] }) ++
    (List.range pairs).flatMap (fun p => (List.range (cdiv x.retained 64)).map (fun b =>
      let lgn := blockLgn pairs p b
      one { lgn := lgn, kind := 1, level := 0, addr := 0, epoch := x.ownerEpoch, slots := ((gFind x.grains lgn).map (·.slots)).getD [] }))

/-! ## Checks (R49) -/

/-- What a grain map or an extent expects of a grain. -/
structure GrainWant where
  kind : Nat
  session : Nat
  job : Nat
  lgn : Nat
  epoch : Nat
  sealed_ : Bool
deriving DecidableEq, Repr

/-- CRC, FMT and reserved SEALED of any plaintext grain. -/
def grainSound (sealed_ : Bool) (g : List Byte) : Bool :=
  g.length == 16384 && at_ g 16340 4 == (crc32c (grainBlank g)).toNat && at_ g 16321 1 == 1 && (at_ g 16325 1).testBit 6 == sealed_

/-- R49: every check on a plaintext grain. -/
def GrainWant.ok (w : GrainWant) (g : List Byte) : Bool :=
  grainSound w.sealed_ g && at_ g 16320 1 == w.kind && at_ g 16322 3 == w.session && at_ g 16325 1 % 64 == w.job && at_ g 16336 4 == w.lgn &&
    decide (at_ g 16332 4 ≤ w.epoch)

/-- PMP_CHECK_STAT counts check failures and second reads that passed (Table 2.14). -/
def State.countChecks (s : State) (failures passed : Nat) : State :=
  (s.countReg Reg.checkStat 0 32 failures).countReg Reg.checkStat 32 32 passed

/-- What an extent of session `i` expects of its grain `k` (R58). -/
def extentWant (i : Nat) (sealed_ : Bool) (x : Session) (pairs nb k : Nat) : GrainWant :=
  let lgn := if k < 4 then k else blockLgn pairs ((k - 4) / max 1 nb) ((k - 4) % max 1 nb)
  { kind := kindOfLgn lgn, session := i, job := x.job, lgn := lgn, epoch := x.ownerEpoch, sealed_ := sealed_ }

/-! ## Sealing (R66, R429) -/

/-- Seal a grain: bytes 0 to 16,319 encrypted, NONCE and TAG filled in. -/
def sealGrain (key : List Byte) (nonce : BitVec 96) (g : List Byte) : List Byte :=
  let (c, t) := gcmSeal key nonce (sub g 16320 32) (sub g 0 16320)
  sub c 0 16320 ++ patch (patch (sub g 16320 64) 32 (leBytes 12 nonce.toNat)) 44 (leBytes 16 t.toNat)

/-- Unseal a grain, NONCE and TAG read as 0 again; none when the tag fails. -/
def unsealGrain (key : List Byte) (g : List Byte) : Option (List Byte) :=
  let h := sub g 16320 64
  (gcmOpen key (BitVec.ofNat 96 (at_ h 32 12)) (sub h 0 32) (sub g 0 16320) (BitVec.ofNat 128 (at_ h 44 16))).map (fun p =>
    sub p 0 16320 ++ patch h 32 (zeros 28))

/-- Does R66 seal the grains of job `j` in T3 region `n`? -/
def State.t3Sealed (s : State) (j n : Nat) : Bool := (s.job j).conf || ((mget (s.job j).regions n).map (·.sealed)).getD false

/-- The key that seals them: the job key, or the device T3 key. -/
def State.t3KeyOf (s : State) (j : Nat) : List Byte := if (s.job j).conf then (s.job j).keys.job else Config.t3Key s.sec.t3Key

/-- Host address of grain `g` of a T3 region (R61). -/
def T3Region.at_ (r : T3Region) (g : Nat) : Nat := r.iova.toNat + 16384 * g

/-! ## Reading grains back -/

/-- The live slots of a KV grain's payload. -/
def readSlots (g : List Byte) : List KvSlot :=
  (List.range 64).filterMap (fun k =>
    if (at_ g 14208 8).testBit k then
      some { pos := at_ g (13824 + 4 * k) 4 % 2 ^ 20, imp := BitVec.ofNat 16 (at_ g (14080 + 2 * k) 2), k := BitVec.ofNat 768 (at_ g (96 * k) 96),
             kexp := BitVec.ofNat 32 (at_ g (13312 + 4 * k) 4), v := BitVec.ofNat 768 (at_ g (6144 + 96 * k) 96),
             vexp := BitVec.ofNat 32 (at_ g (13568 + 4 * k) 4) }
    else none)

/-- The carry state of SAMPLER, DETOK and GRAMMAR grains of a session of `len` positions. A slot of RING that no committed position has
reached holds 0 and stays unlisted (Table 2.4, R243). -/
def readCarry (len : Nat) (sm dt gr : List Byte) : Carry :=
  { lastToken := at_ sm 0 4, ringHead := at_ sm 4 4 % 2048,
    ring := (List.range (min len 2048)).map (fun k => (k, at_ sm (8 + 4 * k) 4)),
    pend := sub dt 0 (at_ dt 4 1 % 8), hold := sub dt 8 (at_ dt 5 1 % 128), gstate := at_ gr 0 2,
    gstack := ((List.range (at_ gr 2 1 % 128)).map (fun k => at_ gr (4 + 2 * k) 2)).reverse, ghandle := at_ gr 132 2 }

/-! ## Where grains lie (R53) -/

/-- Every grain that sessions, requests, moves and inbound transfers of the device hold, with the job that holds it. -/
def State.allGrains (s : State) : List (Nat × SGrain) :=
  s.sessions.flatMap (fun e => e.2.grains.map (fun g => (e.2.job, g))) ++
    s.reqAux.flatMap (fun e => (e.2.work ++ e.2.revive).map (fun g => ((s.req e.1).job, g))) ++
    s.sessAux.flatMap (fun e => match e.2.move with
      | none => []
      | some m => m.grains.map (fun g => ((s.sess e.1).job, g))) ++
    s.fabric.xfers.flatMap (fun e => if e.2.outbound then [] else e.2.grains.map (fun g => (e.2.job, g)))

/-- A grain of a session's map or of a request's working list, with what its bytes depend on. -/
structure HeldGrain where
  session : Nat
  entry : Session
  aux : SessAux
  carry : Carry
  all : List SGrain
  grain : SGrain

/-- Its bytes, CRC made valid (R48). -/
def HeldGrain.bytes (h : HeldGrain) : List Byte :=
  grainBytes h.session false (if h.aux.metaEntry.isEmpty then h.entry.image else h.aux.metaEntry) h.entry h.aux h.carry h.all h.grain

/-- The grains of sessions and live requests that lie in T0 or T1. -/
def State.heldGrains (s : State) : List HeldGrain :=
  (s.sessions.flatMap (fun (e : Nat × Session) => e.2.grains.map (fun g =>
      ({ session := e.1, entry := e.2, aux := s.aux e.1, carry := e.2.carry, all := e.2.grains, grain := g } : HeldGrain))) ++
    s.reqAux.flatMap (fun (e : Nat × ReqAux) =>
      let n := (s.req e.1).session
      e.2.work.map (fun g => ({ session := n, entry := s.sess n, aux := s.aux n, carry := e.2.carry, all := e.2.work, grain := g } : HeldGrain)))).filter
    (fun h => decide (gTier h.grain.addr ≤ 1))

/-- `bs` stands at `a`; the run `p` lies over it where the two meet. -/
def overlay (a : Nat) (bs : List Byte) (p : Nat × List Byte) : List Byte :=
  let lo := max a p.1; let hi := min (a + bs.length) (p.1 + p.2.length)
  if lo < hi then bs.take (lo - a) ++ (p.2.drop (lo - p.1)).take (hi - lo) ++ bs.drop (hi - a) else bs

/-- Two runs meet. -/
def meets (a n b m : Nat) : Bool := decide (a < b + m) && decide (b < a + n)

/-- The T1 grains that meet a run of HBM; the T0 grains of job `j` that meet a run of a core's store. -/
def State.t1Held (s : State) (a n : Nat) : List (Nat × HeldGrain) :=
  (s.heldGrains.filter (fun h => gTier h.grain.addr == 1 && meets a n (t1Hbm h.grain.addr) 0x4000)).map (fun h => (t1Hbm h.grain.addr, h))
def State.t0Held (s : State) (j c a n : Nat) : List (Nat × HeldGrain) :=
  (s.heldGrains.filter (fun h => gTier h.grain.addr == 0 && h.entry.job == j && t0Core h.grain.addr == c &&
    meets a n (0x4000 * t0Slot h.grain.addr) 0x4000)).map (fun h => (0x4000 * t0Slot h.grain.addr, h))

/-- What `n` bytes of HBM at `a` hold: the grains of sessions that lie there, and what is written elsewhere. -/
def State.hbmRead (s : State) (a n : Nat) : List Byte :=
  (s.t1Held a n).foldl (fun bs h => overlay a bs (h.1, h.2.bytes)) (Memory.read s.hbm a n)

/-- What the store of core `c` reads as for job `j`: the T0 grains of its sessions lie over it. -/
def State.storeView (s : State) (j c : Nat) (store : List Host.Cell) : List Host.Cell :=
  (s.t0Held j c 0 0xC0000).foldl (fun m h => Memory.write (some 0) m h.1 h.2.bytes) store

/-- R64: work of job `j` that writes over a grain of one of its sessions is unpredictable (job). -/
def State.spoilIf (s : State) (on : Bool) (j : Nat) : State := if on then s.spoil j else s

end Sys2Proof.Machine
end

