-- ==== Sys2Proof/Machine/Engine.lean ====
section
/-!
DEFINITION. Sys2Proof/Machine/Engine.lean: engine pools, shares, shapers and histograms (12_jobs_slices_sharing, R334 to
R342). A command of a class waits in the class's queue until an instance that may run it is free.
-/
namespace Sys2Proof.Machine

open Sys2Proof

/-- Engine classes of Table 12.2. -/
def Cls.pump := 0
def Cls.lane := 1
def Cls.sieve := 2
def Cls.walker := 3
def Cls.gather := 4
def Cls.coll := 5
def Cls.nlm := 6
def Cls.cgrp := 7

/-- Instances of a class. -/
def instances (c : Nat) : Nat := [64, 64, 16, 32, 16, 1, 32, 1].getD c 0

/-- SCH_SHARE and SCH_QUANT, with 0 acting as 1. -/
def State.share (s : State) (j c : Nat) : Nat := max 1 (fld (s.reg (Reg.share j c)) 0 16)
def State.quant (s : State) (c : Nat) : Nat := max 1 (fld (s.reg (Reg.quant c)) 0 32)

/-- Instance `i` of a class is dedicated to job `j` in the composition in force (R331, R334). -/
def Job.dedicated (x : Job) (c i : Nat) : Bool := decide (c < 5) && (x.slice.dedicate.getD c 0).getLsbD i

/-- The job an instance is dedicated to. -/
def State.owner (s : State) (c i : Nat) : Option Nat :=
  (s.jobs.find? (fun e => e.2.active && e.2.dedicated c i)).map (·.1)

/-- last[j] of a pool: 256 × quant until the job's first command ended. -/
def State.estimate (s : State) (c j : Nat) : Nat := mgetD (s.pool c).est j (256 * s.quant c)

/-! ## Who may run what -/

/-- Credits a packet needs, in 64 B units of its header, payload and tag (R350, DEDUCED). -/
def packetUnits (p : Packet) : Nat := cdiv (32 + p.data.length) 64

/-- Payload bytes of a packet, its tag apart. -/
def payloadLen (p : Packet) : Nat := p.data.length - (if p.enc then 16 else 0)

/-- The packet that waits on a logical port with this destination, virtual channel and number. -/
def State.waitingPacket (s : State) (l dst vc seq : Nat) : Option Packet :=
  (s.port l).queue.find? (fun p => p.dst == dst && p.vc == vc && p.seq == seq)

/-- R339 step 2: the store that holds a pump descriptor, and those of the T0 grains it moves next, are its job's now. -/
def State.pumpLive (s : State) (n : Nat) : Bool :=
  match mget s.pumpDescs n with
  | none => true
  | some x =>
    match mget s.progs x.prog with
    | none => true
    | some p =>
      let j := p.ctx.job
      let bs := Memory.read (s.jobCore j x.core).store x.addr 32
      let away (c : Nat) := (s.job j).slice.groups.getLsbD (coreGroup c) && (s.group (coreGroup c)).job != j
      let m := min 64 ((if at_ bs 2 2 = 0 then 65536 else at_ bs 2 2) - x.done)
      !away x.core && [8, 16].all (fun o => (List.range m).all (fun i =>
        let a := gPlus (BitVec.ofNat 64 (at_ bs o 8)) (x.done + i)
        gTier a != 0 || !away (t0Core a)))

/-- May a job's work run on an instance (R334): its own dedicated ones, and those of the pool; a confidential job's in classes 0 to 4 runs on no
pool? -/
def State.mayOwn (s : State) (c i j : Nat) : Bool := !(decide (c < 5) && s.offline (c + 1) i) && match s.owner c i with
  | some o => o == j
  | none => decide (5 ≤ c) || !(s.job j).conf

/-- May instance `i` of class `c` run this command now? `cost` of a lane command is the lane that serves its text plus one, or 0 while any of T0
to T59 may take it (R273); a text whose lane has gone from the job moves to one of those. A pump needs its job's shaper (R340); a packet needs to wait on the port
that `i` names, at the head of its virtual channel, with credits and its shaper (R350, R360). -/
def State.canRun (s : State) (c i : Nat) (x : EngCmd) : Bool :=
  s.mayOwn c i x.job && (s.works || c == Cls.nlm) && match x.work with
    | .lane _ => if x.cost = 0 ∨ s.mayOwn c (x.cost - 1) x.job = false then decide (i < 60) else x.cost == i + 1
    | .packet dst vc seq =>
      match (s.port i).queue.find? (fun p => p.vc == vc) with
      | none => false
      | some p => p.dst == dst && p.seq == seq && decide (packetUnits p ≤ mgetD (s.port i).credits vc 0) &&
          (s.shaper (shaperKey .egress x.job i)).may
    | .pump n => (s.shaper (shaperKey .pump x.job 0)).may && s.pumpLive n
    | _ => if c = Cls.pump then (s.shaper (shaperKey .pump x.job 0)).may else true

/-! ## Picking (R335, R336) -/

/-- The first job after `j`, ascending and wrapping, that `has` a command. -/
def nextJob (has : Nat → Bool) (j : Nat) : Nat :=
  ((List.range 64).map (fun i => (j + 1 + i) % 64)).find? has |>.getD j

/-- The loop of pick: the job that is served, with the pool's deficits and current job. -/
def Pool.serve (has : Nat → Bool) (share quant : Nat → Nat) (est : Nat → Nat) : Nat → Pool → Option (Nat × Pool)
  | 0, _ => none
  | n + 1, p =>
    let j := p.cur
    let d := mgetD p.deficit j 0
    if has j && decide (0 < d) then some (j, { p with deficit := mput p.deficit j (d - est j) })
    else
      let p := if !has j && decide (0 < d) then { p with deficit := mput p.deficit j 0 } else p
      let k := nextJob has j
      Pool.serve has share quant est n
        { p with cur := k, deficit := mput p.deficit k (mgetD p.deficit k 0 + (share k * quant k : Nat)) }

/-- R336: the share group after the last one served, ascending and wrapping, then its oldest command; its place in the
queue. -/
def takeIdx (q : List EngCmd) (ok : EngCmd → Bool) (last : Option Nat) : Option Nat :=
  let groups := (q.filter ok).map (·.share)
  let after := match last with
    | none => groups.min?
    | some l => match (groups.filter (fun g => decide (l < g))).min? with
      | some g => some g
      | none => groups.min?
  match after with
  | none => none
  | some g => q.findIdx? (fun x => ok x && x.share == g)

/-- Let instance `i` of class `c` take its next command, if it is free and one may run on it. -/
def State.pick (s : State) (c i : Nat) : State :=
  let p := s.pool c
  if (mget p.busy i).isSome then s
  else
    let ok (x : EngCmd) := s.canRun c i x
    let has (j : Nat) := p.queue.any (fun x => x.job == j && ok x)
    if !p.queue.any ok then s
    else
      let own := s.owner c i
      let chosen : Option (Nat × Pool) := match own with
        | some j => some (j, p)
        | none =>
          let deep := (p.deficit.map (fun e => e.2.natAbs)).foldl max 0
          p.serve has (fun j => s.share j c) (fun _ => s.quant c) (fun j => s.estimate c j) (64 * (deep + 2) + 64)
      match chosen with
      | none => s
      | some (j, p) =>
        match takeIdx p.queue (fun x => x.job == j && ok x) (mget p.lastShare j) with
        | none => s
        | some n =>
          match p.queue[n]? with
          | none => s
          | some x =>
            let s := s.setPool c { p with queue := p.queue.eraseIdx n, lastShare := mput p.lastShare j x.share,
                                          busy := mput p.busy i { x with pooled := own.isNone } }
            if c = Cls.pump then s.chargeShaper (shaperKey .pump j 0) x.cost else s

/-- Let every free instance of a class take a command, lowest instance first. Pumps take up theirs on PUMP_TAKE_UP, ports
theirs when a packet leaves. -/
def State.dispatch (s : State) (c : Nat) : State :=
  if c = Cls.pump ∨ c = Cls.nlm then s else (List.range (instances c)).foldl (fun s i => s.pick c i) s

/-- Queue a command of a class. -/
def State.enqueue (s : State) (c : Nat) (x : EngCmd) : State :=
  let p := s.pool c
  (s.setPool c { p with queue := p.queue ++ [{ x with since := s.now }] }).dispatch c

/-- The share group of a session's live request, or 0 (R325). -/
def State.shareOf (s : State) (session : Nat) : Nat :=
  match s.reqs.find? (fun e => e.2.rstate != .free && e.2.session == session) with
  | none => 0
  | some (_, r) => r.shareGroup

/-- The place of a session's live request plus one, or 0. -/
def State.liveReq (s : State) (session : Nat) : Nat :=
  match s.reqs.find? (fun e => e.2.rstate != .free && e.2.session == session) with
  | none => 0
  | some (i, _) => i + 1

/-- The pump commands of a session's move or revival that have not started are cancelled (R77, R79). -/
def State.dropMoveWork (s : State) (i : Nat) : State :=
  let p := s.pool Cls.pump
  s.setPool Cls.pump { p with queue := p.queue.filter (fun x => x.work != .move i) }

/-! ## Accounting (R335, R336) -/

/-- Add cycles to a job's account of a class, a request's ENGINE_CYC, and the share-group table. -/
def State.account (s : State) (c j share req cyc : Nat) : State :=
  let s := s.countReg (Reg.acct j c) 0 64 cyc
  let s := if req = 0 then s else s.modReq (req - 1) (fun r => { r with engineCyc := r.engineCyc + BitVec.ofNat 64 cyc })
  let base := (s.reg (Reg.sgAcct j)).toNat
  if base = 0 ∨ s.inJobHbm j base (8 * 65536) = false then s
  else
    let a := base + 8 * (share % 65536)
    let v := leNat (Memory.read s.hbm a 8)
    s.wr true a (leBytes 8 (v + cyc))

/-- ended() of R335: the command of an instance has ended after `cyc` cycles; it is answered with the state. -/
def State.ended (s : State) (c i cyc : Nat) : Option (EngCmd × State) :=
  let p := s.pool c
  match mget p.busy i with
  | none => none
  | some x =>
    let d := mgetD p.deficit x.job 0
    let p' := { p with busy := mdel p.busy i }
    let p' := if x.pooled then
        { p' with deficit := mput p'.deficit x.job (d + (s.estimate c x.job : Int) - (cyc : Int)), est := mput p'.est x.job cyc }
      else p'
    some (x, (s.setPool c p').account c x.job x.share x.req cyc)

/-! ## Shapers and histograms -/

/-- RATE and BURST of a shaper (Table 12.8). -/
def Shaper.rate (x : Shaper) : Nat := fld x.cfg 0 32
def Shaper.burst (x : Shaper) : Nat := fld x.cfg 32 24

/-- SHAPER_TOKEN (R340): tokens of the elapsed clock are added, never beyond BURST; with ENABLE 0 the balance is frozen. -/
def execShaperToken (kind : ShaperKind) (job idx : Nat) (s : State) : Res := s.ifReady <|
  let k := shaperKey kind job idx
  let x := s.shaper k
  if !bit x.cfg 63 then .next { s with shapers := mput s.shapers k { x with last := s.now, frac := 0 } }
  else
    let t := (s.now - x.last) * x.rate + x.frac
    let b := max (min (x.bal.toInt + (t / 1000 : Nat)) (x.burst : Nat)) x.bal.toInt
    .next { s with shapers := mput s.shapers k { x with bal := BitVec.ofInt 32 b, last := s.now, frac := t % 1000 } }

/-- SHAPER_CFG_WRITE (R341): takes effect at once; the balance becomes BURST with FILL, else 0. FILL is not stored. -/
def execShaperCfgWrite (kind : ShaperKind) (job idx : Nat) (v : W64) (s : State) : Res := s.ifUp <|
  if fld v 56 6 ≠ 0 then .fault .unpredictableDevice
  else
    let bal : W32 := if bit v 62 then BitVec.ofNat 32 (fld v 32 24) else 0
    .next { s with shapers := mput s.shapers (shaperKey kind job idx) { cfg := setFld v 62 1 0, bal := bal, last := s.now, frac := 0 } }

/-- The bin of a count (R342). -/
def histBin (n : Nat) : Nat := if n = 0 then 0 else min 15 (n.log2 + 1)

/-- Depth of a sampled queue and the age of its oldest item: kind, job and index as QID names them (Table 12.9). -/
def State.queueSample (s : State) (kind j i : Nat) : Nat × Nat :=
  let of (xs : List EngCmd) := (xs.length, match xs with | [] => 0 | x :: _ => s.now - x.since)
  match kind with
  | 0 =>
    let q := (s.job j).subWell i
    ((q.tail - q.head).toNat, match q.arrivals with | [] => 0 | t :: _ => s.now - t)
  | 1 => of ((s.pool Cls.pump).queue.filter (fun x => x.job == j))
  | 2 => of ((s.pool Cls.nlm).queue.filter (fun x => x.job == j && (match x.work with
      | .packet d v q => (s.waitingPacket i d v q).isSome
      | _ => false)))
  | _ => of ((s.pool i).queue.filter (fun x => x.job == j))

/-- QID of a queue. -/
def qid (kind j i : Nat) : Nat := kind <<< 14 + j <<< 8 + i

/-- Indices of a queue kind. -/
def queueCount (kind : Nat) : Nat := [16, 1, 32, 8].getD kind 0

/-- HIST_SAMPLE (R342): every queue of every active job is sampled, but for those of a confidential job. -/
def execHistSample (s : State) : Res := s.ifReady <|
  if fld (s.reg Reg.histCtl) 0 16 = 0 then .next s
  else
    .next ((s.jobs.filter (fun e => e.2.active && !e.2.conf)).foldl (fun s e =>
      (List.range 4).foldl (fun s kind =>
        (List.range (queueCount kind)).foldl (fun s i =>
          let (d, t) := s.queueSample kind e.1 i
          let h := mgetD s.hists (qid kind e.1 i) {}
          let bump (m : Map Nat) (b : Nat) := mmod m b 0 (fun n => (n + 1) % 2 ^ 64)
          { s with hists := mput s.hists (qid kind e.1 i) { depth := bump h.depth (histBin d), delay := bump h.delay (histBin t) } })
          s) s) s)

/-- SNAP (R342, Table 12.9): a write of SCH_HIST_CTL with SNAP copies the queue's counters, and clears them with CLEAR. -/
def execSnap (v : W64) (s : State) : Res := s.ifUp <|
  if fld v 34 30 ≠ 0 ∨ fld v 21 3 ≠ 0 then .fault .unpredictableDevice
  else
    let s := s.setReg Reg.histCtl (BitVec.ofNat 64 (fld v 0 32))
    if !bit v 32 then .next s
    else
      let kind := fld v 30 2; let j := fld v 24 6; let i := fld v 16 5
      let seen := decide (i < queueCount kind) && !(s.job j).conf
      let h := if seen then mgetD s.hists (qid kind j i) {} else {}
      let s := { s with snapshot := (List.range 16).map (fun b => mgetD h.depth b 0) ++ (List.range 16).map (fun b => mgetD h.delay b 0) }
      .next (if bit v 33 && seen then { s with hists := mdel s.hists (qid kind j i) } else s)

end Sys2Proof.Machine
end

