-- ==== Sys2Proof/Machine/Net.lean ====
section
/-!
DEFINITION. Sys2Proof/Machine/Net.lean: packets on their way into the fabric (13_nolmus_fabric, R349 to R360): numbering,
sealing, the choice of a port, credits, egress shaping and accounting.
-/
namespace Sys2Proof.Machine

open Sys2Proof

/-! Labels of the packet types. The manual gives TYPE no numbers; these are the model's own (log entry 11). -/
def Msg.probe := 1
def Msg.topology := 2
def Msg.assignment := 3
def Msg.handoffOut := 16
def Msg.ready := 17
def Msg.refused := 18
def Msg.handoffIn := 19
def Msg.relinquished := 20
def Msg.query := 21
def Msg.mine := 22
def Msg.notMine := 23
def Msg.reclaimed := 24
def Msg.abort := 25
def Msg.peerFree := 26
def Msg.collective := 32
def Msg.send := 48
def Msg.grain := 64
def Msg.peerGrain := 65
def Msg.peerRead := 66
def Msg.gather := 80
def Msg.update := 81
def Msg.mark := 82
def Msg.ack := 96
def Msg.nack := 97
def Msg.response := 98
def Msg.checkpoint := 112

/-- Own node identifier (R354). -/
def State.node (s : State) : Nat := s.fabric.node
/-- The job that holds a tag (R358). -/
def State.jobOfTag (s : State) (tag : W32) : Option Nat :=
  if tag = 0 then none else (s.jobs.find? (fun e => e.2.active && s.jobTag e.1 == tag)).map (·.1)
/-- A packet this device sends for one of its jobs. -/
def State.ownPacket (s : State) (p : Packet) : Bool := p.src == s.node && (s.jobOfTag p.tag).isSome

/-- Add to a 16-bit field of NLM_DROP_STAT, wrapping. -/
def State.dropped (s : State) (lo : Nat) : State := s.countReg Reg.nlmDrop lo 16 1

/-- Listed ports to a node (R356). At its source, a job's packet uses the ports of the job's slice (R327, log entry 12). -/
def State.portsTo (s : State) (n : Nat) (job : Option Nat) : List Nat :=
  let all := mgetD s.fabric.routes n []
  match job with
  | none => all
  | some j => all.filter (fun l => (s.job j).slice.ports.getLsbD l)

/-- Why a node cannot be reached by a job, if it cannot: NO_ROUTE while NODE is not valid or the node is unknown (R355),
PEER_UNSUPPORTED where no v2 path leads there (R348). -/
def State.routeErr (s : State) (j n : Nat) : Option Nat :=
  if s.node = 0xFFFF ∨ s.fabric.topo.any (fun r => r.node == n) = false ∨ n = s.node then some Code.noRoute
  else if (s.portsTo n (some j)).isEmpty then some Code.peerUnsupported
  else none

/-- Packets of one virtual channel that wait on a port. -/
def State.vcDepth (s : State) (l vc : Nat) : Nat := ((s.port l).queue.filter (fun p => p.vc == vc)).length

/-- R357: the port of an earlier packet of the flow that waits; else, while fewer than 8,192 flows wait, the listed port with
the shortest queue on the channel, lowest first; else listed port FLOW mod count. -/
def State.choosePort (s : State) (listed : List Nat) (p : Packet) : Option Nat :=
  let same (q : Packet) := q.src == p.src && q.dst == p.dst && q.vc == p.vc && q.flow == p.flow
  match (List.range 32).find? (fun l => (s.port l).queue.any same) with
  | some l => some l
  | none =>
    let waiting := (List.range 32).foldl (fun (fs : List (Nat × Nat × Nat × Nat)) l =>
      (s.port l).queue.foldl (fun fs q =>
        let k := (q.src, q.dst, q.vc, q.flow)
        if fs.contains k then fs else k :: fs) fs) []
    if waiting.length < 8192 then
      listed.foldl (fun b l => match b with
        | none => some l
        | some c => if s.vcDepth l p.vc < s.vcDepth c p.vc then some l else some c) none
    else listed[p.flow % max 1 listed.length]?

/-- A packet leaves a port: its credits are spent. -/
def State.leave (s : State) (l : Nat) (p : Packet) : State :=
  let o := s.port l
  s.setPort l { o with
    queue := o.queue.erase p
    credits := mput o.credits p.vc (mgetD o.credits p.vc 0 - packetUnits p) }

/-- Let packets leave a port: those of no job of this device while credits cover the first of their channel, and one of a
job's when the NLM pool picks it (R334 class 6, R360). -/
def State.egress : Nat → State → Nat → State
  | 0, s, _ => s
  | n + 1, s, l =>
    let o := s.port l
    let head (vc : Nat) := o.queue.find? (fun p => p.vc == vc)
    let free := (List.range 8).findSome? (fun vc =>
      match head vc with
      | none => none
      | some p => if !s.ownPacket p && decide (packetUnits p ≤ mgetD o.credits vc 0) then some p else none)
    match free with
    | some p => State.egress n (s.leave l p) l
    | none =>
      if (mget (s.pool Cls.nlm).busy l).isSome then s
      else
        let s' := s.pick Cls.nlm l
        match mget (s'.pool Cls.nlm).busy l with
        | some { work := .packet d v q, job := j, .. } =>
          match s'.waitingPacket l d v q with
          | some p => (s'.leave l p).chargeShaper (shaperKey .egress j l) (cdiv (payloadLen p) 64)
          | none => s'
        | _ => s

/-- Put a packet into the queue of a chosen port, or drop it as unroutable (R356). -/
def State.place (s : State) (p : Packet) (job : Option Nat) (share : Nat) : State :=
  match s.choosePort (s.portsTo p.dst job) p with
  | none => s.dropped 32
  | some l =>
    let o := s.port l
    let s := s.setPort l { o with queue := o.queue ++ [p] }
    let s := match job with
      | none => s
      | some j => s.enqueue Cls.nlm { job := j, share := share, req := 0, since := 0, cost := 0, work := .packet p.dst p.vc p.seq }
    State.egress (o.queue.length + 2) s l

/-- The nonce of R359: SEQ, then SRC and DST. -/
def packetNonce (p : Packet) : BitVec 96 := BitVec.ofNat 96 (p.seq + p.src <<< 64 + p.dst <<< 80)

/-- Header bytes 0 to 31 with HOPS read as 0 (Table 13.2). -/
def packetHeader (p : Packet) : List Byte :=
  leBytes 2 p.dst ++ leBytes 2 p.src ++ [BitVec.ofNat 8 (p.vc + 8 * b2n p.enc), BitVec.ofNat 8 p.type] ++
    leBytes 2 p.data.length ++ leBytes 4 p.tag.toNat ++ leBytes 2 p.flow ++ [0, 0] ++ leBytes 8 p.arg.toNat ++ leBytes 8 p.seq

/-- A job's fabric key (R359). -/
def fabricKey (x : Job) : List Byte := x.keys.fabric

/-- Send a packet of a job: SEQ counts from 1 per destination and channel, with VC in its top bits; packets of channels 1 to
5 wait for their acknowledgement (R351); a confidential job's payload is sealed (R359). A job with tag 0 sends nothing
(R358). The answer names the packet's number. -/
def State.send (s : State) (j vc type dst flow : Nat) (arg : W64) (data : List Byte) (share : Nat := 0) : State × Nat :=
  let tag := s.jobTag j
  if tag = 0 then (s, 0)
  else
    let key := dst * 8 + vc
    let n := mgetD s.fabric.sendSeq key 0 + 1
    let p : Packet := { dst := dst, src := s.node, vc := vc, enc := (s.job j).conf, type := type, tag := tag, flow := flow % 65536,
                        hops := 32, arg := arg, seq := vc <<< 61 + n % 2 ^ 61, data := data }
    let p := if p.enc then
        let (c, t) := gcmSeal (fabricKey (s.job j)) (packetNonce p) (packetHeader p) data
        { p with data := c ++ leBytes 16 t.toNat }
      else p
    let f := { s.fabric with sendSeq := mput s.fabric.sendSeq key n }
    let f := if 1 ≤ vc ∧ vc ≤ 5 then { f with unacked := f.unacked ++ [{ pkt := p, share := share, first := s.now, last := s.now }] } else f
    (({ s with fabric := f }).place p (some j) share, p.seq)

/-- Answer a packet on VC 6 (Table 13.3): an acknowledgement, or a NACK. ARG repeats the number it answers. -/
def State.reply (s : State) (p : Packet) (type : Nat) : State :=
  let key := p.src * 8 + 6
  let n := mgetD s.fabric.sendSeq key 0 + 1
  let q : Packet := { dst := p.src, src := s.node, vc := 6, enc := false, type := type, tag := p.tag, flow := p.flow, hops := 32,
                      arg := BitVec.ofNat 64 p.seq, seq := 6 <<< 61 + n % 2 ^ 61, data := [] }
  ({ s with fabric := { s.fabric with sendSeq := mput s.fabric.sendSeq key n } }).place q (s.jobOfTag p.tag) 0

/-- What becomes of a packet of channels 1 to 5 that arrives (R351, R358, R359): dropped, answered, or delivered to a job with
its payload and the state that has acknowledged it. -/
inductive Arrival where
  | drop (s : State)
  | deliver (j : Nat) (data : List Byte) (s : State)

def State.arrive (s : State) (p : Packet) : Arrival :=
  let key := p.src * 8 + p.vc
  let want := mgetD s.fabric.recvSeq key 0 + 1
  let n := p.seq % 2 ^ 61
  if n < want then .drop (s.reply p Msg.ack)
  else if want < n then .drop s
  else
    match s.jobOfTag p.tag with
    | none => .drop (({ s with fabric := { s.fabric with recvSeq := mput s.fabric.recvSeq key n } }.dropped 0).reply p Msg.nack)
    | some j =>
      let data : Option (List Byte) :=
        if (s.job j).conf then
          if !p.enc then none
          else
            let body := p.data.take (payloadLen p)
            let tag := BitVec.ofNat 128 (leNat (p.data.drop (payloadLen p)))
            gcmOpen (fabricKey (s.job j)) (packetNonce p) (packetHeader { p with data := body }) body tag
        else some p.data
      match data with
      | none => .drop (s.dropped 16)
      | some d =>
        .deliver j d { s with fabric := { s.fabric with recvSeq := mput s.fabric.recvSeq key n } }

/-- FLOW of a packet (R357): of SEND from the two core identifiers, of grains and ownership from the transfer. -/
def flowOfCores (src dst : Nat) : Nat := fld (crc32c (leBytes 2 src ++ leBytes 2 dst)) 0 16
def flowOfTransfer (x : Nat) : Nat := fld (crc32c (leBytes 6 x)) 0 16

/-- ARG of a grain packet: the transfer in bits [47:0] and the grain's number in [63:48], the model's places (log entry 11). -/
def grainArg (x k : Nat) : W64 := BitVec.ofNat 64 (x % 2 ^ 48 + k <<< 48)

/-- Send a grain in packets of 4,096 B in order, on VC 4, or on VC 6 in answer to a read (R349, R365). -/
def State.sendGrain (s : State) (j vc type dst flow : Nat) (arg : W64) (g : List Byte) (share : Nat) : State :=
  (List.range 4).foldl (fun s p => (s.send j vc type dst flow arg (sub g (4096 * p) 4096) share).1) s

/-- ARG of SEND: the core, store address and semaphores of R147. Table 13.2 gives no places; these are the model's own (log
entry 11): core [11:0], address [31:12], semaphore [36:32], source core [48:37]. -/
def sendArg (core addr sem src : Nat) : W64 := BitVec.ofNat 64 (core + addr <<< 12 + sem <<< 32 + src <<< 37)

end Sys2Proof.Machine
end

