-- ==== Sys2Proof/Machine/Operands.lean ====
section
/-!
DEFINITION. Sys2Proof/Machine/Operands.lean: what a Fletegus word works on: registers, store addresses, beds, predicates and
program faults (05_fletegus_programming, 06_fletegus_encodings). A bed's words arrive one by one; the bed issues at its last.
-/
namespace Sys2Proof.Machine

open Sys2Proof

/-! ## Registers (R129, R163) -/

def CoreRegs.sreg (r : CoreRegs) (n : BitVec 5) : W32 := mgetD r.s n.toNat 0
def CoreRegs.setS (r : CoreRegs) (n : BitVec 5) (v : W32) : CoreRegs := { r with s := mput r.s n.toNat v }
def CoreRegs.vreg (r : CoreRegs) (n : BitVec 5) : BitVec 2048 := mgetD r.v n.toNat 0
def CoreRegs.setV (r : CoreRegs) (n : BitVec 5) (v : BitVec 2048) : CoreRegs := { r with v := mput r.v n.toNat v }
/-- p0 reads as all ones, and writes to it are ignored. -/
def CoreRegs.preg (r : CoreRegs) (n : Nat) : W64 := if n % 8 = 0 then BitVec.allOnes 64 else mgetD r.p (n % 8) 0
def CoreRegs.setP (r : CoreRegs) (n : Nat) (v : W64) : CoreRegs := if n % 8 = 0 then r else { r with p := mput r.p (n % 8) v }
/-- A scalar pair (R163). -/
def CoreRegs.pair (r : CoreRegs) (n : BitVec 5) : W64 := (r.sreg (n + 1)) ++ (r.sreg n)
def CoreRegs.setPair (r : CoreRegs) (n : BitVec 5) (v : W64) : CoreRegs :=
  (r.setS n (v.setWidth 32)).setS (n + 1) ((v >>> 32).setWidth 32)
def CoreRegs.tile (r : CoreRegs) (t : Nat) : Tile := mgetD r.tiles t {}
def CoreRegs.setTile (r : CoreRegs) (t : Nat) (x : Tile) : CoreRegs := { r with tiles := mput r.tiles t x }
def Tile.at (x : Tile) (r j : Nat) : BitVec 48 := mgetD x.elems (32 * r + j) 0
def Tile.row (x : Tile) (r : Nat) : Int := (mgetD x.exps r 0).toInt

/-- Lane `i`. -/
def lane (v : BitVec 2048) (i : Nat) : W32 := v.extractLsb' (32 * i) 32
/-- A vector register from its lanes. -/
def ofLanes (xs : List W32) : BitVec 2048 := BitVec.ofNat 2048 (xs.foldr (fun x a => x.toNat + a <<< 32) 0)
/-- The 256 bytes of a vector register, and back. -/
def vecBytes (v : BitVec 2048) : List Byte := leBytes 256 v.toNat
def ofBytes (bs : List Byte) : BitVec 2048 := BitVec.ofNat 2048 (leNat bs)

/-- Names of registers in the list of what a bed writes (R137). -/
def wS (n : BitVec 5) : Nat := n.toNat
def wV (n : BitVec 5) : Nat := 32 + n.toNat
def wP (n : Nat) : Nat := 64 + n % 8

/-! ## The cores of a program (R106, R147) -/

/-- The physical core of a logical core number of a program. -/
def Prog.core (p : Prog) (l : Nat) : Nat := groupCore ((ones p.mask).getD (l / 64) 0) (l % 64)
def Prog.ncores (p : Prog) : Nat := 64 * popcnt p.mask
def Prog.cores (p : Prog) : List Nat := (ones p.mask).flatMap (fun g => (List.range 64).map (groupCore g))

/-! ## Store addresses (R107, R164, R328) -/

/-- Causes of a program fault (Table 5.11). -/
inductive Cause where
  | illegal
  | bed
  | address
  | align
  | segment
  | coreset
  | codeWrite
  | fabric
deriving DecidableEq, Repr

def Cause.code : Cause → Nat
  | .illegal => 1
  | .bed => 2
  | .address => 3
  | .align => 4
  | .segment => 5
  | .coreset => 6
  | .codeWrite => 7
  | .fabric => 8

/-- A run of the core's own store lies in the data range and in slots of the job. -/
def runOk (slots : BitVec 48) (a n : Nat) : Bool :=
  decide (a + n ≤ 0xC0000) &&
    (List.range ((a + n - 1) / 0x4000 - a / 0x4000 + 1)).all (fun i => slots.getLsbD (a / 0x4000 + i))

/-- The address checks of one access (R132, R158): ADDRESS and ALIGN, each with the offending address. -/
def accessFaults (slots : BitVec 48) (a n align : Nat) : List (Cause × Nat) :=
  (if runOk slots a n then [] else [(Cause.address, a)]) ++ (if a % align = 0 then [] else [(Cause.align, a)])

/-- A register value plus a sign-extended offset, modulo 2^32 (R164). -/
def addrOf (x : W32) (off : BitVec 16) : Nat := (x + off.signExtend 32).toNat

/-! ## Words of a bed -/

/-- What a word sees: its core's number, job, program, slots, what the core's store reads as, and the state. -/
structure Env where
  core : Nat
  job : Nat
  prog : Prog
  slots : BitVec 48
  mem : List Host.Cell
  s : State

/-- What a word answers: the core with its effect, the faults its bed may stop with, or what the bed waits for. -/
inductive Word where
  | ok (k : Core)
  | fault (cands : List (Cause × Nat))
  | wait (w : CoreWait)

/-- Remote writes, HBM copies and sends in flight (R177); semaphore increments are not counted. -/
def Core.inFlight (k : Core) : Nat := (k.flight.filter (fun f => match f with | .inc .. => false | _ => true)).length

/-- Is the core held by what it waits for (R141, R142, R144, R146, R177, R179)? -/
def State.held (s : State) (p : Prog) (c : Nat) (k : Core) : Bool :=
  match k.wait with
  | .none => false
  | .sem n v => decide ((mgetD k.sems n 0).toNat < v)
  | .fenceL => s.pumpDescs.any (fun e => e.2.core == c)
  | .fenceM => !k.flight.isEmpty
  | .bar b => p.cores.any (fun d => decide (mgetD (s.jobCore p.ctx.job d).bars b 0 < mgetD k.bars b 0))
  | .inflight => decide (32 ≤ k.inFlight)
  | .puts => decide (64 ≤ (s.pumpDescs.filter (fun e => e.2.core == c && !e.2.taken)).length)

/-- The program whose next word this core may issue. A program runs or is suspended as a whole (R338): every group of it is its job's. -/
def State.running (s : State) (c : Nat) : Option Prog :=
  let k := s.core c
  match mget s.progs k.prog with
  | none => none
  | some p =>
    if p.started && p.stopping.isNone && !k.halted && (s.group (coreGroup c)).state == 0 &&
        (ones p.mask).all (fun g => (s.group g).job == p.ctx.job) &&
        (s.works || (k.bedPos != 0 && s.power.level.isNone)) && !s.held p c k then some p else none

/-- The bed is given up: its registers are as at its start. -/
def Core.rollback (k : Core) : Core :=
  if k.bedPos = 0 then k
  else { k with regs := k.snap, bedPos := 0, bedSlots := [], bedWrites := [], late := [], target := none }

/-! ## Groups and the start of a program (R121, R122, R148) -/

/-- Bring a group to RUN for work of a job (R122). A group that no job holds becomes the job's. -/
def State.claimGroup (s : State) (g j : Nat) : State :=
  let x := s.group g
  s.setGroup g { x with state := 0, job := if x.job = 64 then j else x.job }

/-- Set one core for the start of a program (R148): sections and arguments copied, registers, semaphores and PC set. Other
store bytes stay as the job's previous program left them, and are 0 when the group last held another job's work. What an earlier program of the
core issued is still on its way (R116). -/
def Prog.initCore (p : Prog) (n l : Nat) (keep : Bool) (k : Core) : Core :=
  let store := if keep then k.store else []
  let store := Memory.write (some 0) store p.codeBase p.code
  let store := Memory.write (some 0) store p.dataBase p.data
  let store := Memory.write (some 0) store p.argBase p.args
  { regs := { s := [(1, BitVec.ofNat 32 l), (2, BitVec.ofNat 32 p.ncores)] }, pc := p.entry, store := store, prog := n, lcore := l,
    halted := false, flight := k.flight }

/-- Start a program on its groups. -/
def State.startProg (s : State) (n : Nat) (p : Prog) : State :=
  let j := p.ctx.job
  let s := (ones p.mask).foldl (fun s g => s.claimGroup g j) s
  let s := (List.range p.ncores).foldl (fun s l =>
    let c := p.core l
    let keep := (s.group (coreGroup c)).lastJob == j
    s.setJobCore j c (p.initCore n l keep (s.jobCore j c))) s
  let s := (ones p.mask).foldl (fun s g => if (s.group g).job = j then s.setGroup g { s.group g with lastJob := j } else s) s
  { s with progs := mput s.progs n { p with started := true } }

/-- R150, R403: start every waiting program whose groups are free of earlier programs of its job; one accepted while a checkpoint is
reading its tensor list waits until the list has been read. -/
def State.startProgs (s : State) : State :=
  s.progs.foldl (fun s e =>
    let waits := s.progs.any (fun o => decide (o.1 < e.1) && o.2.ctx.job == e.2.ctx.job && (o.2.mask &&& e.2.mask) != 0) ||
      (s.job e.2.ctx.job).ckpt.any (fun k => !k.list.isEmpty && !k.progs.contains e.1) || (ones e.2.mask).any (s.offline 0)
    if e.2.started || waits then s else s.startProg e.1 e.2) s

/-- The fault record (Table 5.11). -/
def faultRecord (k : Core) (word : Nat) (cause : Cause) (addr : Nat) : List Byte :=
  [BitVec.ofNat 8 cause.code, BitVec.ofNat 8 word] ++ leBytes 2 k.lcore ++ leBytes 4 k.pc ++ leBytes 8 addr ++
    leBytes 8 k.beds ++ zeros 40

/-- The bound values of a LIMIT_US of 0 (Table 5.9). -/
def Prog.limitUs (p : Prog) : Nat := if p.limit = 0 then 10000000 else p.limit

/-- Does a stopped program wait for this (R157 step 2)? Remote writes and increments go on by themselves (R116). -/
def Flight.copies : Flight → Bool
  | .write .. => false
  | .inc .. => false
  | _ => true

/-- Has everything a stopped program issued completed (R157 step 2): its pump descriptors, HBM copies and sends? -/
def State.progQuiet (s : State) (n : Nat) (p : Prog) : Bool :=
  p.cores.all (fun c => !(s.jobCore p.ctx.job c).flight.any Flight.copies) && s.pumpDescs.all (fun e => e.2.prog != n)

/-- R157: stop every core of a program at a bed boundary, with the code it will end with and the record to write. -/
def State.stopProg (s : State) (n status : Nat) (record : List Byte) : State :=
  match mget s.progs n with
  | none => s
  | some p =>
    if p.stopping.isSome then s
    else
      let s := p.cores.foldl (fun s c =>
        s.setJobCore p.ctx.job c { (s.jobCore p.ctx.job c).rollback with halted := true, wait := .none }) s
      let s := (ones p.mask).foldl (fun s g => s.setGroup g { s.group g with haltedSince := s.now }) s
      { s with progs := mput s.progs n { p with stopping := some (status, record) } }

/-- The four slots (Table 5.6). -/
def Slot.scalar := 0
def Slot.vector := 1
def Slot.matrix := 2
def Slot.memory := 3

/-- Where the bed goes (R182, R184). -/
def Core.nextBed (k : Core) : Nat := k.pc + 8 * (k.bedPos + 1)

/-- One thing a bed does when it issues. A store into a grain of one of the job's sessions corrupts that job's results (R64). -/
def State.issueLate (s : State) (e : Env) : Late → State
  | .store a d =>
    let k := s.core e.core
    (s.setCore e.core { k with store := Memory.write (some 0) k.store a d }).spoilIf (!(s.t0Held e.job e.core a d.length).isEmpty) e.job
  | .flight f => let k := s.core e.core; s.setCore e.core { k with flight := k.flight ++ [f] }
  | .inc n v => let k := s.core e.core; s.setCore e.core { k with sems := mput k.sems n (mgetD k.sems n 0 + BitVec.ofNat 64 v) }
  | .dec n v => let k := s.core e.core; s.setCore e.core { k with sems := mput k.sems n (mgetD k.sems n 0 - BitVec.ofNat 64 v) }
  | .fenceL => let k := s.core e.core; s.setCore e.core { k with wait := .fenceL }
  | .fenceM => let k := s.core e.core; s.setCore e.core { k with wait := .fenceM }
  | .bar b => let k := s.core e.core; s.setCore e.core { k with bars := mput k.bars b (mgetD k.bars b 0 + 1), wait := .bar b }
  | .link r => let k := s.core e.core; s.setCore e.core { k with regs := k.regs.setS (BitVec.ofNat 5 r) (BitVec.ofNat 32 k.nextBed) }
  | .put a n =>
    let k := s.core e.core
    (List.range n).foldl (fun s d =>
      let x : PumpDesc := { core := e.core, prog := k.prog, addr := a + 32 * d, status := 0, done := 0, taken := false }
      let n := s.nextWork
      let s := { s with pumpDescs := mput s.pumpDescs n x, nextWork := n + 1 }
      let count := leNat (Memory.read k.store (a + 32 * d + 2) 2)
      s.enqueue Cls.pump { job := e.job, share := 0, req := 0, since := 0, cost := min 64 (if count = 0 then 65536 else count),
                           work := .pump n }) s
  | .send node pc addr semd sem data record =>
    let (s, seq) := s.send e.job 3 Msg.send node (flowOfCores e.core pc) (sendArg pc addr semd e.core) data
    let k := s.core e.core
    s.setCore e.core { k with flight := k.flight ++ [.send node seq k.prog record], sems := mput k.sems sem (mgetD k.sems sem 0 + 1) }
  | .halt x =>
    let k := s.core e.core
    let s := s.setCore e.core { k with halted := true }
    let s := s.setGroup (coreGroup e.core) { s.group (coreGroup e.core) with haltedSince := s.now }
    if k.lcore = 0 then { s with progs := mmod s.progs k.prog e.prog (fun p => { p with exit := x }) } else s

/-- The bed issues: every late effect, then the PC moves on. When every core of the program has halted, it ends with OK
(R149). -/
def State.issueBed (s : State) (e : Env) : State :=
  let late := (s.core e.core).late
  let s := late.foldl (fun s x => s.issueLate e x) s
  let k := s.core e.core
  let s := s.setCore e.core { k with
    pc := k.target.getD k.nextBed % 2 ^ 20, bedPos := 0, bedSlots := [], bedWrites := [], late := [], target := none,
    beds := (k.beds + 1) % 2 ^ 64 }
  if late.any (fun x => match x with | .halt _ => true | _ => false) && e.prog.cores.all (fun d => (s.jobCore e.job d).halted) then
    match mget s.progs k.prog with
    | none => s
    | some p => { s with progs := mput s.progs k.prog { p with stopping := some (Code.ok, []) } }
  else s

/-- A program that was stopped ends once all it issued has completed: the fault record is written at FAULT_ADDR, and
RUN_PROGRAM completes, with the exit value when every core halted (R149, R157). -/
def State.endProg (s : State) (n : Nat) : State :=
  match mget s.progs n with
  | none => s
  | some p =>
    match p.stopping with
    | none => s
    | some (status, record) =>
      if status ≠ Code.ok && !s.progQuiet n p then s
      else
        let s := if p.faultAddr.toNat = 0 ∨ record = [] then s else s.wr false p.faultAddr.toNat record
        let s := p.cores.foldl (fun s c => s.setJobCore p.ctx.job c { s.jobCore p.ctx.job c with prog := 0, halted := true }) s
        let s := ({ s with progs := mdel s.progs n } : State).startProgs
        s.complete p.ctx status (if status = Code.ok then p.exit.toNat else 0)

/-- Stop a program at a fault (R157). When a bed meets several faults, the manual does not say which is reported: the choice
is a free value (log entry 13). -/
def State.wordFault (s : State) (c : Nat) (cands : List (Cause × Nat)) : State :=
  let k := s.core c
  let (n, s) := if cands.length ≤ 1 then (0, s) else s.draw
  let pick := if cands.length ≤ 1 then 0 else Config.freeNat n % cands.length
  let (cause, addr) := cands.getD pick (Cause.illegal, 0)
  (s.stopProg k.prog Code.programFault (faultRecord k k.bedPos cause addr)).endProg k.prog

/-- Past a word that did not stop its bed: the core stands as the word left it; the last word issues the bed (R138, R139). -/
def State.advance (s : State) (h : Head) (e : Env) (k : Core) : State :=
  if h.endBed then ((s.setCore e.core k).issueBed e).endProg k.prog
  else s.setCore e.core { k with bedPos := k.bedPos + 1 }

/-- A core as its next word finds it: at the first word of a bed the registers are kept as the bed's operands (R138). -/
def State.startWord (s : State) (c : Nat) : Core :=
  let k := { s.core c with wait := .none }
  if k.bedPos = 0 then { k with snap := k.regs } else k

/-- Where a core's next word stands in its store. -/
def Core.wordAt (k : Core) : Nat := k.pc + 8 * k.bedPos

/-- The word stands in the program's code range. -/
def Prog.covers (p : Prog) (a : Nat) : Bool := decide (p.codeBase ≤ a) && decide (a < p.codeBase + p.code.length)

/-- The bed may take a word of this slot that writes these registers (R136, R137). -/
def Core.admits (k : Core) (h : Head) (slot : Nat) (writes : List Nat) : Bool :=
  !k.bedSlots.contains slot && !writes.any (fun w => k.bedWrites.contains w) && (k.bedPos != 3 || h.endBed)

/-- The core with a word counted to its bed. -/
def Core.joined (k : Core) (slot : Nat) (writes : List Nat) : Core :=
  { k with bedSlots := slot :: k.bedSlots, bedWrites := writes ++ k.bedWrites }

/-- The word's predicate lets it take effect: bit 0 of p[PR] differs from PS (R161). -/
def Core.takes (k : Core) (h : Head) : Bool := (k.snap.preg h.pr.toNat).getLsbD 0 != h.ps

/-- What a word of core `c` in program `p` sees. -/
def State.wordEnv (s : State) (c : Nat) (p : Prog) : Env :=
  { core := c, job := p.ctx.job, prog := p, slots := (s.job p.ctx.job).slice.slots
    mem := s.storeView p.ctx.job c (s.core c).store, s := s }

/-- The time limit counts from a program's first bed (R155). -/
def State.firstBed (s : State) (n : Nat) (p : Prog) : State :=
  if p.startAt.isSome then s else { s with progs := mput s.progs n { p with startAt := some s.now } }

/-- The word that stands where a core's next word does (R135). -/
def State.fetched (s : State) (c : Nat) (p : Prog) : W64 :=
  BitVec.ofNat 64 (leNat (Memory.read (s.storeView p.ctx.job c (s.core c).store) (s.core c).wordAt 8))

/-- The issue slot of a word with no meaning: that of its class (Table 5.6); a word of an OP outside Table 6.7 meets no other word's slot. -/
def wildSlot (w : W64) (bedPos : Nat) : Nat := match fld w 57 6 with
  | 0x01 | 0x02 | 0x30 | 0x31 => Slot.scalar
  | 0x08 | 0x09 => Slot.vector
  | 0x10 => Slot.matrix
  | 0x18 | 0x19 | 0x20 | 0x28 => Slot.memory
  | _ => 4 + bedPos

/-- Give a word to the bed of core `c`, which runs `p` and stands as `k`. The bed's structure is checked (R137), then the word's fields when it takes
effect (R161, R162), then its operands; the last word of the bed issues it. -/
def State.joinBed (s : State) (c : Nat) (p : Prog) (k : Core) (h : Head) (slot : Nat) (writes : List Nat) (legal : Bool)
    (body : Env → Core → Word) : State :=
  if !k.admits h slot writes then s.wordFault c [(.bed, k.pc)]
  else
    let env := s.wordEnv c p
    let r : Word :=
      if !k.takes h then .ok (k.joined slot writes)
      else if !legal then .fault [(.illegal, k.pc)]
      else body env (k.joined slot writes)
    match r with
    | .fault cands => s.wordFault c cands
    | .wait w => s.setCore c { k.rollback with wait := w }
    | .ok k => s.advance h env k

/-- The next word of core `c`. Nothing happens while the core may not issue, or where the word that stands at its PC is another one than `i`. A word
that is no instruction is ILLEGAL (R162, R165). -/
def State.word (i : Instr) (c : Nat) (h : Head) (slot : Nat) (writes : List Nat) (legal : Prog → Bool) (body : Env → Core → Word)
    (s : State) : Res :=
  match s.running c with
  | none => .next s
  | some p =>
    let k := s.startWord c
    let t := (s.firstBed k.prog p).setCore c k
    if !p.covers k.wordAt then .next (t.wordFault c [(.address, k.wordAt)])
    else
      let w := s.fetched c p
      if encodeFletegus i = some w then .next (t.joinBed c p k h slot writes (legal p) body)
      else if (decodeFletegus c w).isNone then
        .next (t.joinBed c p k (decHead w) (wildSlot w k.bedPos) [] false (fun _ k => .ok k))
      else .next s

/-- A word that takes effect with one change of registers and no other fault. -/
def regsOnly (f : CoreRegs → CoreRegs → CoreRegs) : Env → Core → Word := fun _ k => .ok { k with regs := f k.snap k.regs }

/-- Add something a bed does when it issues. -/
def Core.later (k : Core) (x : Late) : Core := { k with late := k.late ++ [x] }

/-! ## Fields that must be 0 (R162; log entry 14) -/

/-- Format R outside VEC and MEM: the reserved bits, MK, TY, LF and IMM16. -/
def plainR (f : FmtR) : Bool := f.rsv == 0 && f.mask == 0 && f.ty == 0 && !f.lf && f.imm16 == 0
/-- A field that names a predicate has its two high bits 0. -/
def isP (r : BitVec 5) : Bool := decide (r.toNat < 8)
/-- A field that names a pair is even. -/
def isPair (r : BitVec 5) : Bool := !r.getLsbD 0

end Sys2Proof.Machine
end

