-- ==== Sys2Proof/Machine/Bank.lean ====
section
/-!
DEFINITION. Sys2Proof/Machine/Bank.lean: the sequencers in the HBM banks (08_bank_logic): the command register area, microwords,
row operations, edge counts, segments, refresh. Rows beyond the grain rows lie in the HBM memory above every HBM address.
-/
namespace Sys2Proof.Machine

open Sys2Proof

def Seq.ctx (q : Seq) (dev : Bool) : SeqCtx := if dev then q.dev else q.user
def Seq.setCtx (q : Seq) (dev : Bool) (x : SeqCtx) : Seq := if dev then { q with dev := x } else { q with user := x }
/-- JOB, OWNED, LO and HI of SEQ_WIN (Table 8.7). -/
def Seq.winJob (q : Seq) : Nat := fld q.win 0 6
def Seq.owned (q : Seq) : Bool := bit q.win 6

/-! Causes of SEQ_STAT (Table 8.4). -/
def SeqCause.illegal := 1
def SeqCause.operand := 2
def SeqCause.window := 3
def SeqCause.list := 4
def SeqCause.pc := 5
def SeqCause.segmentLong := 6
def SeqCause.data := 7
def SeqCause.dest := 8

/-! ## Rows (R213, R528) -/

/-- First byte of a row: row group, row within it, of a bank of a sequencer's set. -/
def rowAt (n bank rg off : Nat) : Nat :=
  rg <<< 28 + (n / 128) <<< 25 + (n % 128 / 4) <<< 20 + (16 * (n % 4) + bank) <<< 14 + off <<< 10

def State.row (s : State) (a : Nat) : List Byte := s.hbmRead a 1024
/-- A microword writes whole rows directly: it runs inside the segment. -/
def State.setRow (s : State) (a : Nat) (bs : List Byte) : State := { s with hbm := Memory.write (some 0) s.hbm a bs }

/-- The rows that a microword of job `j` writes; one that meets a grain of a session is unpredictable (job) (R233). -/
def State.setRows (s : State) (j : Nat) (as : List Nat) (bs : List Byte) : State :=
  (as.foldl (fun s a => s.setRow a bs) s).spoilIf (as.any (fun a => !(s.t1Held a 1024).isEmpty)) j

/-! ## Notifications and stops (R231, R232) -/

/-- A core lies in a core group of a job's slice. -/
def State.coreOfJob (s : State) (j c : Nat) : Bool := (s.job j).slice.groups.getLsbD (coreGroup c)

/-- The job whose core a context's readouts and notification reach: that of SEQ_WIN for the user context, for the device context the one that runs
on the core's group (R216). -/
def State.ctxJob (s : State) (q : Seq) (dev : Bool) (c : Nat) : Nat := if dev then (s.group (coreGroup c)).job else q.winJob

/-- The end notification: the semaphore of SEQ_NOTE, of a core that may be named (R220), and the MSI-X vector of the owning job's function. -/
def State.seqNotify (s : State) (q : Seq) (dev : Bool) (x : SeqCtx) : State :=
  let c := fld x.noteReg 6 12
  let j := s.ctxJob q dev c
  let s := if bit x.noteReg 0 && s.coreOfJob j c then
      let k := s.jobCore j c
      s.setJobCore j c { k with sems := mput k.sems (fld x.noteReg 1 5) (mgetD k.sems (fld x.noteReg 1 5) 0 + 1) }
    else s
  if bit x.noteReg 18 then s.signal (s.job j).func (fld x.noteReg 19 11) else s

/-- A context ends: HALT, a fault or an abort. Its segment ends with it, and a boundary is due. -/
def State.seqEnd (s : State) (n : Nat) (dev : Bool) (f : SeqCtx → SeqCtx) : State :=
  let q := s.seq n
  let x := { f (q.ctx dev) with busy := false }
  let q' := q.setCtx dev x
  let q' := if q.running = some dev then { q' with running := none, boundary := true, segs := q.segs + 1 } else q'
  (s.setSeq n q').seqNotify q' dev x

def State.seqFault (s : State) (n : Nat) (dev : Bool) (cause : Nat) : State :=
  s.seqEnd n dev (fun x => { x with fault := true, cause := cause, stopPc := x.pc })

/-- The segment ends: a boundary is due (R226). -/
def Seq.endSegment (q : Seq) (dev : Bool) : Seq :=
  if q.running = some dev then { q with running := none, boundary := true, segs := q.segs + 1 } else q

/-- Start a segment when none runs and no boundary is due: both contexts with work take turns (R218). -/
def Seq.startSegment (q : Seq) : Seq :=
  if q.running.isSome || q.boundary then q
  else
    let go (d : Bool) : Seq := { q with running := some d, lastDev := d, segNs := 0 }
    match q.user.busy, q.dev.busy with
    | true, true => go (!q.lastDev)
    | true, false => go false
    | false, true => go true
    | false, false => q

/-! ## The command register area (R219 to R222) -/

/-- GO (R220): ignored with BUSYGO while running; refused with WINDOW when no job owns the context, with DEST when a named core
is not of the job's slice. -/
def State.seqStart (s : State) (n : Nat) : State :=
  let q := s.seq n
  let x := q.user
  if x.busy then s.setSeq n { q with busyGo := true }
  else if s.offline 6 n then s
  else if !q.owned then s.setSeq n { q with user := { x with fault := true, cause := SeqCause.window } }
  else if (!bit x.dest 0 && !s.coreOfJob q.winJob (fld x.dest 4 12)) || (bit x.noteReg 0 && !s.coreOfJob q.winJob (fld x.noteReg 6 12)) then
    s.seqFault n false SeqCause.dest
  else
    s.setSeq n ({ q with user := { x with busy := true, pc := fld q.ctl 0 8, readouts := 0 } } : Seq).startSegment

/-- SEQ_STAT (Table 8.4). -/
def Seq.stat (q : Seq) : Nat :=
  let x := q.user
  b2n x.busy + 2 * b2n x.done + 4 * b2n x.fault + 8 * b2n x.aborted + 16 * b2n q.busyGo + 32 * b2n q.busyWr + 256 * x.cause +
    65536 * x.stopPc

/-- The 1 KiB of the area as it reads (Table 8.2). -/
def Seq.image (q : Seq) : List Byte :=
  let x := q.user
  leBytes 8 0x00010000 ++ leBytes 8 q.ctl.toNat ++ leBytes 8 q.stat ++ leBytes 8 x.dest.toNat ++ leBytes 8 x.noteReg.toNat ++
    leBytes 8 q.win.toNat ++ leBytes 8 (x.readouts % 2 ^ 32 + q.segs.toNat <<< 32) ++ leBytes 8 q.ref.toNat ++
    (List.range 8).flatMap (fun k => leBytes 8 (mgetD x.idx k 0).toNat) ++
    (List.range 16).flatMap (fun k => leBytes 4 (mgetD x.words (16 * fld q.ctl 10 4 + k) 0).toNat) ++ zeros 64 ++
    (List.range 16).flatMap (fun k => leBytes 16 (mgetD x.pats k 0).toNat) ++
    (List.range 128).flatMap (fun k => leBytes 2 (mgetD x.list k 0).toNat) ++
    (List.range 4).flatMap (fun k => (mgetD q.out k (zeros 64)))

/-- Write a run of the area as a whole (R220): every register first, then GO or ABORT. A write other than ABORT while the
context runs is ignored. None: a reserved field was written with a value other than 0 (R9). SEQ_WIN is RWL (R10): it is written only until firmware
locks it. DESIGN CHOICE (log entry 53): firmware has locked it once it is ready, until the next reset. -/
def State.areaWrite (s : State) (n off : Nat) (bs : List Byte) : Option State :=
  let q := s.seq n
  let hit (o len : Nat) : Bool := decide (o < off + bs.length) && decide (off < o + len)
  let img := patch q.image off bs
  let raw := patch (zeros 1024) off bs
  let u (o len : Nat) : Nat := at_ img o len
  let ctl := BitVec.ofNat 64 (u 8 8); let dest := BitVec.ofNat 64 (u 0x18 8); let note := BitVec.ofNat 64 (u 0x20 8)
  let ok := (!hit 8 8 || onlyFields ctl [(0, 14)]) && (!hit 0x10 8 || onlyFields (BitVec.ofNat 64 (at_ raw 0x10 8)) [(0, 6), (8, 4), (16, 8)]) &&
    (!hit 0x18 8 || onlyFields dest [(0, 1), (4, 26)]) && (!hit 0x20 8 || onlyFields note [(0, 30)]) &&
    (List.range 8).all (fun k => !hit (0x40 + 8 * k) 8 || decide (u (0x40 + 8 * k) 8 < 65536)) &&
    (List.range 128).all (fun k => !hit (0x200 + 2 * k) 2 || decide (u (0x200 + 2 * k) 2 < 32768)) &&
    onlyFields (BitVec.ofNat 64 (at_ raw 0x28 8)) [(0, 7), (8, 22)] && onlyFields (BitVec.ofNat 64 (at_ raw 0x38 8)) [(0, 20), (32, 16)] &&
    zeroRun raw 0xC0 64
  let abort := hit 9 1 && bit ctl 9
  let go := hit 9 1 && bit ctl 8
  if !ok then none
  else if q.user.busy then
    if abort then some (s.seqEnd n false (fun x => { x with aborted := true, stopPc := x.pc }))
    else if go then some (s.setSeq n { q with busyGo := true, busyWr := true })
    else some (s.setSeq n { q with busyWr := true })
  else
    let w := at_ raw 0x10 8
    let x := q.user
    let x := { x with
      dest := dest, noteReg := note
      done := x.done && !w.testBit 1, fault := x.fault && !w.testBit 2, aborted := x.aborted && !w.testBit 3
      idx := (List.range 8).foldl (fun m k => if hit (0x40 + 8 * k) 8 then mput m k (BitVec.ofNat 16 (u (0x40 + 8 * k) 2)) else m) x.idx
      words := (List.range 16).foldl (fun m k =>
        if hit (0x80 + 4 * k) 4 then mput m (16 * fld q.ctl 10 4 + k) (BitVec.ofNat 32 (u (0x80 + 4 * k) 4)) else m) x.words
      pats := (List.range 16).foldl (fun m k => if hit (0x100 + 16 * k) 16 then mput m k (BitVec.ofNat 128 (u (0x100 + 16 * k) 16)) else m) x.pats
      list := (List.range 128).foldl (fun m k => if hit (0x200 + 2 * k) 2 then mput m k (BitVec.ofNat 16 (u (0x200 + 2 * k) 2)) else m) x.list }
    let q := { q with user := x, win := if s.power.ready then q.win else BitVec.ofNat 64 (u 0x28 8), ctl := BitVec.ofNat 64 (fld ctl 0 8 + fld ctl 10 4 <<< 10), busyGo := q.busyGo && !w.testBit 4,
                      busyWr := q.busyWr && !w.testBit 5 }
    let s := s.setSeq n q
    some (if go then s.seqStart n else s)

/-- R222: while a confidential job owns the context, the host's writes are ignored. -/
def State.areaClosed (s : State) (n : Nat) : Bool := (s.seq n).owned && (s.job (s.seq n).winJob).conf

/-- SEQ_GO (R220): a host write of SEQ_CTL with GO. -/
def execSeqGo (n : Nat) (v : W64) (s : State) : Res := s.ifUp <|
  if s.areaClosed n then .next s
  else match s.areaWrite n 8 (leBytes 8 v.toNat) with
    | none => .fault .unpredictableDevice
    | some s => .next s

/-- SEQ_ABORT (R231): the context stops at a microword boundary; one that does not run is not aborted. -/
def execSeqAbort (n : Nat) (s : State) : Res := s.ifUp <|
  if s.areaClosed n || !(s.seq n).user.busy then .next s
  else .next (s.seqEnd n false (fun x => { x with aborted := true, stopPc := x.pc }))

/-! ## Microwords (R223 to R226) -/

/-- The row of Table 8.8 a word belongs to; none for a word that breaks the table. -/
inductive Micro where
  | halt
  | nop
  | segend
  | rop
  | maj
  | fill
  | popc
  | idx
  | loop
deriving DecidableEq, Repr

def microOf (w : W32) : Option Micro :=
  let only (fs : List (Nat × Nat)) : Bool := onlyFields w ((28, 4) :: fs)
  match fld w 28 4 with
  | 0 => if !only [(24, 4)] then none else match fld w 24 4 with
    | 0 => some .halt
    | 1 => some .nop
    | 2 => some .segend
    | _ => none
  | 1 => if only [(26, 2), (25, 1), (18, 7), (11, 7), (4, 7), (0, 3)] && (fld w 26 2 != 3 || fld w 4 7 == 0) then some .rop else none
  | 2 => if only [(18, 7), (11, 7), (4, 7), (0, 3)] then some .maj else none
  | 3 => if only [(18, 7), (14, 4), (13, 1), (10, 3), (0, 3)] then some .fill else none
  | 4 => if only [(11, 7), (0, 3)] then some .popc else none
  | 5 => if only [(26, 2), (23, 3), (20, 3), (0, 16)] && fld w 26 2 != 3 then some .idx else none
  | 6 => if only [(22, 3), (0, 8)] then some .loop else none
  | _ => none

/-- Cost in ns (Table 8.9). -/
def microCost (w : W32) : Micro → Nat
  | .fill => 20
  | .popc => 25
  | .maj => 40
  | .rop => if fld w 26 2 = 3 then 35 else 50
  | _ => 2

/-- What a row operand names (R224): a temporary row, a grain row, or the cause it faults with. -/
inductive RowOp where
  | temp (a : Nat)
  | grain (a : Nat)
  | bad (cause : Nat)

def Seq.operand (q : Seq) (n : Nat) (dev : Bool) (bank o : Nat) : RowOp :=
  if o < 64 then
    if 16 ≤ o then .bad SeqCause.illegal
    else if decide (o < 8) = dev then .temp (rowAt n bank 1430 o)
    else .bad SeqCause.operand
  else
    let rg := fld (mgetD (q.ctx dev).idx (o / 16 % 4) 0) 0 11
    if 1429 < rg then .bad SeqCause.operand
    else if !dev && !(q.owned && decide (fld q.win 8 11 ≤ rg) && decide (rg ≤ fld q.win 19 11)) then .bad SeqCause.window
    else .grain (rowAt n bank rg (o % 16))

/-- An operand that must be a temporary row. -/
def RowOp.onlyTemp : RowOp → RowOp
  | .grain _ => .bad SeqCause.operand
  | x => x

/-- The addresses of several operands, or the first cause. -/
def rowAddrs : List RowOp → Except Nat (List Nat)
  | [] => .ok []
  | .bad c :: _ => .error c
  | .temp a :: r => (rowAddrs r).map (a :: ·)
  | .grain a :: r => (rowAddrs r).map (a :: ·)

/-- The bank that BR selects: bits [14:11] of an index register. -/
def Seq.bank (q : Seq) (dev : Bool) (w : W32) : Nat := fld (mgetD (q.ctx dev).idx (fld w 0 3) 0) 11 4

/-- Advance to the next address; running past 255 faults with PC. -/
def State.seqNext (s : State) (n : Nat) (dev : Bool) (cost : Nat) : State :=
  let q := s.seq n
  let x := q.ctx dev
  let q := { q with segNs := q.segNs + cost }
  if x.pc = 255 then (s.setSeq n q).seqFault n dev SeqCause.pc else s.setSeq n (q.setCtx dev { x with pc := x.pc + 1 })

/-- Issue the microword at a context's PC when its segment runs and the word is of this row of Table 8.8. A word of no row
faults with ILLEGAL; one that would take the segment above 2,000 ns faults with SEGMENT_LONG (R226). -/
def State.micro (n : Nat) (dev : Bool) (m : Micro) (s : State) (body : W32 → SeqCtx → State → State) : Res :=
  let q := s.seq n
  let x := q.ctx dev
  if q.running ≠ some dev ∨ x.busy = false ∨ s.power.level.isSome = true then .next s
  else
    let w := mgetD x.words x.pc 0
    match microOf w with
    | none => .next (s.seqFault n dev SeqCause.illegal)
    | some m' =>
      if m' ≠ m then .next s
      else if 2000 < q.segNs + microCost w m then .next (s.seqFault n dev SeqCause.segmentLong)
      else .next (body w x s)

/-- What the edge ECC finds before an operation on row `a` (R230): an uncorrectable error faults; a correctable one ends the segment before the
microword, which is issued again in a new segment, and is reported (R473). -/
def State.withEcc (s : State) (n : Nat) (dev : Bool) (ecc : RowEcc) (a : Nat) (body : State → State) : State :=
  match ecc with
  | .clean => body s
  | .correctable => (s.setSeq n ((s.seq n).endSegment dev)).edgeCorrected a
  | .uncorrectable => s.seqFault n dev SeqCause.data

/-- MICRO_HALT: the context ends, and the end notification follows (R232). -/
def execMicroHalt (n : Nat) (dev : Bool) (s : State) : Res :=
  s.micro n dev .halt fun _ _ s => s.seqEnd n dev (fun x => { x with done := true })

def execMicroNop (n : Nat) (dev : Bool) (s : State) : Res := s.micro n dev .nop fun _ _ s => s.seqNext n dev 2

/-- SEGEND: the segment ends. -/
def execSegend (n : Nat) (dev : Bool) (s : State) : Res :=
  s.micro n dev .segend fun _ _ s =>
    let s := s.seqNext n dev 2
    s.setSeq n ((s.seq n).endSegment dev)

/-- Bytes of a row operation (R214). -/
def rowOp (fn : Nat) (inv : Bool) (a b : List Byte) : List Byte :=
  let op (x y : Byte) : Byte := match fn with
    | 0 => x &&& y
    | 1 => x ||| y
    | 2 => x ^^^ y
    | _ => x
  (a.zip b).map (fun p => if inv then ~~~(op p.1 p.2) else op p.1 p.2)

/-- ROP: DST = SRCA FN SRCB, inverted when INV is 1. -/
def execRop (n : Nat) (dev : Bool) (ecc : RowEcc) (s : State) : Res :=
  s.micro n dev .rop fun w _ s =>
    let q := s.seq n
    let b := q.bank dev w
    let copy := fld w 26 2 == 3
    let ops := [q.operand n dev b (fld w 18 7), q.operand n dev b (fld w 11 7)] ++ (if copy then [] else [q.operand n dev b (fld w 4 7)])
    match rowAddrs ops with
    | .error c => s.seqFault n dev c
    | .ok as =>
      s.withEcc n dev ecc (as.getD 1 0) fun s =>
        let src := s.row (as.getD 1 0)
        let src2 := if copy then src else s.row (as.getD 2 0)
        (s.setRows q.winJob (as.take 1) (rowOp (fld w 26 2) (bit w 25) src src2)).seqNext n dev (microCost w .rop)

/-- MAJ: A, B and C each become their bitwise majority; all three are temporary rows. -/
def execMaj (n : Nat) (dev : Bool) (ecc : RowEcc) (s : State) : Res :=
  s.micro n dev .maj fun w _ s =>
    let q := s.seq n
    let b := q.bank dev w
    match rowAddrs ([18, 11, 4].map (fun lo => (q.operand n dev b (fld w lo 7)).onlyTemp)) with
    | .error c => s.seqFault n dev c
    | .ok as =>
      s.withEcc n dev ecc (as.getD 0 0) fun s =>
        let x := s.row (as.getD 0 0); let y := s.row (as.getD 1 0); let z := s.row (as.getD 2 0)
        let m := (x.zip (y.zip z)).map (fun p => (p.1 &&& p.2.1) ||| (p.1 &&& p.2.2) ||| (p.2.1 &&& p.2.2))
        (s.setRows q.winJob as m).seqNext n dev 40

/-- FILL: a 16 B pattern 64 times into a temporary row. -/
def execMicroFill (n : Nat) (dev : Bool) (s : State) : Res :=
  s.micro n dev .fill fun w x s =>
    let q := s.seq n
    let p := if bit w 13 then fld (mgetD x.idx (fld w 10 3) 0) 0 4 else fld w 14 4
    match rowAddrs [(q.operand n dev (q.bank dev w) (fld w 18 7)).onlyTemp] with
    | .error c => s.seqFault n dev c
    | .ok as =>
      let bs := leBytes 16 (mgetD x.pats p 0).toNat
      (s.setRows q.winJob (as.take 1) ((List.replicate 64 bs).flatten)).seqNext n dev 20

/-- R215: byte k counts the ones of bits [128k + 127:128k]. -/
def edgeCount (row : List Byte) : List Byte :=
  (List.range 64).map (fun k => BitVec.ofNat 8 ((sub row (16 * k) 16).foldl (fun a b => a + popcnt b) 0))

/-- POPC: a readout to its core's store, checked first (R232), or to the ring of SEQ_OUT. -/
def execPopc (n : Nat) (dev : Bool) (ecc : RowEcc) (s : State) : Res :=
  s.micro n dev .popc fun w x s =>
    let q := s.seq n
    match rowAddrs [q.operand n dev (q.bank dev w) (fld w 11 7)] with
    | .error c => s.seqFault n dev c
    | .ok as =>
      let at_ := 64 * fld x.dest 16 14 + 64 * x.readouts
      if !bit x.dest 0 && decide (0xC0000 < at_ + 64) then s.seqFault n dev SeqCause.dest
      else
        s.withEcc n dev ecc (as.getD 0 0) fun s =>
          let r := edgeCount (s.row (as.getD 0 0))
          let q := (s.seq n).setCtx dev { x with readouts := x.readouts + 1 }
          let q := if bit x.dest 0 && !dev then { q with out := mput q.out (x.readouts % 4) r } else q
          let s := s.setSeq n q
          let s := if bit x.dest 0 then s
            else
              let c := fld x.dest 4 12
              let j := s.ctxJob q dev c
              let k := s.jobCore j c
              s.setJobCore j c { k with store := Memory.write (some 0) k.store at_ r }
          s.seqNext n dev 25

/-- IDX: SET, MOV, LDL. -/
def execMicroIdx (n : Nat) (dev : Bool) (s : State) : Res :=
  s.micro n dev .idx fun w x s =>
    let d := fld w 23 3
    let imm := BitVec.ofNat 16 (fld w 0 16)
    let src := mgetD x.idx (fld w 20 3) 0 + imm
    let put (v : BitVec 16) : State := (s.setSeq n ((s.seq n).setCtx dev { x with idx := mput x.idx d v })).seqNext n dev 2
    match fld w 26 2 with
    | 0 => put imm
    | 1 => put src
    | _ => if 127 < src.toNat then s.seqFault n dev SeqCause.list else put (mgetD x.list src.toNat 0)

/-- LOOP: the segment ends either way. -/
def execMicroLoop (n : Nat) (dev : Bool) (s : State) : Res :=
  s.micro n dev .loop fun w x s =>
    let r := fld w 22 3
    let v := mgetD x.idx r 0 - 1
    let x := { x with idx := mput x.idx r v }
    let s := if v = 0 then (s.setSeq n ((s.seq n).setCtx dev x)).seqNext n dev 2
      else
        let q := (s.seq n).setCtx dev { x with pc := fld w 0 8 }
        s.setSeq n { q with segNs := q.segNs + 2 }
    s.setSeq n ((s.seq n).endSegment dev)

/-! ## Boundaries and refresh (R227, R228) -/

/-- REFRESH_DUE: a refresh that falls due during a segment is postponed, at most four of a bank set; otherwise it is issued. -/
def execRefreshDue (n : Nat) (s : State) : Res := s.ifReady <|
  let q := s.seq n
  if q.running.isNone || decide (4 ≤ q.postponed) then .next s
  else
    let p := q.postponed + 1
    let r := setFld q.ref 0 16 (fld q.ref 0 16 + 1)
    let r := if fld r 16 4 < p then setFld r 16 4 p else r
    .next (s.setSeq n { q with postponed := p, ref := r })

/-- HBM_SELF_REFRESH (R449): a pseudo-channel enters self-refresh, which keeps its contents. -/
def execHbmSelfRefresh (pc : Nat) (s : State) : Res := s.ifReady <|
  if s.refreshing.contains pc then .next s else .next { s with refreshing := pc :: s.refreshing }

end Sys2Proof.Machine
end

