-- ==== Sys2Proof/Machine/Flash.lean ====
section
/-!
DEFINITION. Sys2Proof/Machine/Flash.lean: the flash translation layer (14_flash_cistern): streams, stripes, superblocks,
collection, trim journal, wear, power-fail close, start-up rebuild.
-/
namespace Sys2Proof.Machine

open Sys2Proof

/-! ## Geometry -/

/-- Grains per page (14_flash, Physical grains). -/
def grainsPerPage : Nat := if Config.flashPage = 0 then 1 else 2
/-- Stripes of a superblock: page `s >> 2` of plane `s & 3` (R381). -/
def stripesPerSuper : Nat := 4 * Config.flashPages
/-- The last stripes hold the summary, 16 B a grain (R382). -/
def summaryStripes : Nat := cdiv stripesPerSuper 1025
def dataStripes : Nat := stripesPerSuper - summaryStripes
/-- Grains a stripe holds beside its parity page. -/
def stripeGrains : Nat := 31 * grainsPerPage
/-- The key of a NAND block. -/
def blockKey (ch die plane block : Nat) : Nat := ((ch * 16 + die) * 4 + plane) * 2 ^ 20 + block
/-- The key of a physical grain: channel, die and grain number. -/
def physKey (ch die g : Nat) : Nat := (ch * 16 + die) * 2 ^ 23 + g
/-- A map entry (Table 14.2), and the physical grain it names. -/
def mapEntry (ch die g : Nat) : W32 := BitVec.ofNat 32 (ch + die <<< 5 + g <<< 9)
def entryPhys (e : W32) : Nat := physKey (fld e 0 5) (fld e 5 4) (fld e 9 23)
/-- The number of a grain of a die. -/
def grainNo (block page plane k : Nat) : Nat := ((block * Config.flashPages + page) * 4 + plane) * grainsPerPage + k
/-- EXPORT under R388. -/
def exportGrains : Nat := rawGrains * 88 * 31 / (100 * 32)
/-- CISTERN at format under R388. -/
def cisternAtFormat : Nat := exportGrains - min (2 ^ 26) (exportGrains / 16)
/-- Blocks of the whole population, and those of the reserve that are left (R388, R391). -/
def totalBlocks : Nat := 32 * Config.flashDies * 4 * Config.flashBlocks
def Ftl.reserveLeft (f : Ftl) : Nat := totalBlocks * 12 / 100 - f.retired

def Ftl.block (f : Ftl) (k : Nat) : Block := mgetD f.blocks k {}
def Ftl.dieFailed (f : Ftl) (ch die : Nat) : Bool := (mgetD f.failedDies ch 0).getLsbD die
/-- A die index on which no channel's die has failed (R393). -/
def Ftl.dieUsable (f : Ftl) (die : Nat) : Bool := (List.range 32).all (fun ch => !f.dieFailed ch die)

/-! ## Superblocks -/

/-- The free block of a die and plane with the lowest erase count, the lowest number among equals (R381). -/
def Ftl.freeBlock (f : Ftl) (ch die plane : Nat) : Option Nat :=
  (List.range Config.flashBlocks).foldl
    (fun best b =>
      let x := f.block (blockKey ch die plane b)
      if x.retired || x.owner != 0 then best
      else match best with
        | none => some b
        | some c => if x.erases < (f.block (blockKey ch die plane c)).erases then some b else best) none

/-- The 128 blocks of a new superblock of die index `die`, channel by channel, plane by plane; none when one is missing. -/
def Ftl.newBlocks (f : Ftl) (die : Nat) : Option (List Nat) :=
  if die < Config.flashDies ∧ f.dieUsable die = true then
    (List.range 128).mapM (fun i => (f.freeBlock (i / 4) die (i % 4)).map (blockKey (i / 4) die (i % 4)))
  else none

/-- Superblocks that could be opened: over the die indices, the free blocks of the poorest channel and plane. -/
def Ftl.freeSupers (f : Ftl) : Nat :=
  (List.range Config.flashDies).foldl (fun n d =>
    if f.dieUsable d then
      n + ((List.range 128).map (fun i => ((List.range Config.flashBlocks).filter (fun b =>
        let x := f.block (blockKey (i / 4) d (i % 4) b); !x.retired && x.owner == 0)).length)).foldl min Config.flashBlocks
    else n) 0

/-- The open superblock of a stream on a die index (R383). -/
def Ftl.openSuper (f : Ftl) (stream die : Nat) : Option (Nat × SuperBlock) :=
  f.supers.find? (fun e => e.2.stream == stream && e.2.die == die && !e.2.closed)

/-- Open a superblock for a stream on a die index. -/
def Ftl.openNew (f : Ftl) (stream die : Nat) : Option (Nat × SuperBlock × Ftl) :=
  (f.newBlocks die).map (fun bs =>
    let n := f.nextSuper
    let sb : SuperBlock :=
      { die := die, stream := stream, blocks := bs, stripe := 0, fill := [], filledAt := 0, closed := false, lastSeq := 0 }
    (n, sb, { f with nextSuper := n + 1, supers := mput f.supers n sb,
                     blocks := bs.foldl (fun m k => mmod m k {} (fun b => { b with owner := n })) f.blocks }))

/-- The superblock a stream writes its next grain to: its open superblocks in turn, from die `turn` on, the first whose
stripe has room. -/
def Ftl.target (f : Ftl) (stream : Nat) : Option (Nat × SuperBlock × Ftl) :=
  let t := mgetD f.turn stream 0
  (List.range Config.flashDies).findSome? (fun i =>
    let d := (t + i) % Config.flashDies
    match f.openSuper stream d with
    | some (n, sb) => if sb.fill.length < stripeGrains then some (n, sb, f) else none
    | none => f.openNew stream d)

/-- Move waiting grains of a stream into open stripes. No client data is programmed while writes are stopped (R395). -/
def Ftl.fill : Nat → Nat → Nat → Ftl → Ftl
  | 0, _, _, f => f
  | n + 1, stream, now, f =>
    if f.stopped then f
    else match mgetD f.queue stream [] with
      | [] => f
      | g :: rest =>
        match f.target stream with
        | none => f
        | some (k, sb, f) =>
          let sb := { sb with fill := sb.fill ++ [g], filledAt := now }
          let turn := if sb.fill.length = stripeGrains then (sb.die + 1) % Config.flashDies else sb.die
          Ftl.fill n stream now
            { f with supers := mput f.supers k sb, queue := mput f.queue stream rest, turn := mput f.turn stream turn }

/-- Hand grains to a stream. -/
def Ftl.enqueue (f : Ftl) (stream now : Nat) (gs : List (Nat × Nat × Nat)) : Ftl :=
  let q := mgetD f.queue stream [] ++ gs
  Ftl.fill q.length stream now { f with queue := mput f.queue stream q }

/-- Which region a logical grain lies in, as its client stream. -/
def Ftl.streamOf (f : Ftl) (lgn : Nat) : Nat := if lgn < f.cistern then 0 else 1

/-- Grain `i` of a stripe of a superblock: its channel, its plane, its page and its half. The parity page lies on channel
`stripe mod 32`. -/
def stripePlace (stripe i : Nat) : Nat × Nat × Nat × Nat :=
  let p := i / grainsPerPage
  let ch := if p < stripe % 32 then p else p + 1
  (ch, stripe % 4, stripe / 4, i % grainsPerPage)

/-- Put one grain of a closed stripe in place: reverse record (R379), and its map entry. A client grain is mapped; a
relocated grain only if the map still points at its old place (R390). -/
def Ftl.settle (f : Ftl) (sb : SuperBlock) (i : Nat) (g : Nat × Nat × Nat) (pad : Bool) : Ftl :=
  let (ch, plane, page, k) := stripePlace sb.stripe i
  let blk := (sb.blocks.getD (ch * 4 + plane) 0) % 2 ^ 20
  let no := grainNo blk page plane k
  let rec_ : RevRec := { lgn := if pad then 0 else g.1, kind := g.2.1, gen := !pad && f.cistern ≤ g.1, pad := pad, seq := f.seq }
  let f := { f with phys := mput f.phys (physKey ch sb.die no) rec_ }
  let e := mapEntry ch sb.die no
  if pad then f
  else if g.2.2 = 0 then { f with map := mput f.map g.1 e }
  else match mget f.map g.1 with
    | none => f
    | some o => if o.toNat + 1 = g.2.2 then { f with map := mput f.map g.1 e } else f

/-- Valid grains of a set of blocks: physical grains the map still points at, with logical grain, kind and map entry. -/
def Ftl.validIn (f : Ftl) (blocks : List Nat) : List (Nat × Nat × Nat) :=
  f.map.filterMap (fun e =>
    let ch := fld e.2 0 5; let die := fld e.2 5 4; let g := fld e.2 9 23
    let plane := (g / grainsPerPage) % 4
    let blk := g / (grainsPerPage * 4) / Config.flashPages
    if blocks.contains (blockKey ch die plane blk) then
      some (e.1, (mgetD f.phys (entryPhys e.2) { lgn := 0, kind := 0, gen := false, pad := true, seq := 0 }).kind, e.2.toNat + 1)
    else none)

/-- The block of the physical grain that a map entry names. -/
def entryBlock (e : W32) : Nat :=
  let g := fld e 9 23
  blockKey (fld e 0 5) (fld e 5 4) ((g / grainsPerPage) % 4) (g / (grainsPerPage * 4) / Config.flashPages)

/-- R392: the FTL counts the reads of each block: one for each of these logical grains that is mapped. -/
def Ftl.countReads (f : Ftl) (lgns : List Nat) : Ftl :=
  { f with blocks := lgns.foldl (fun m l => match mget f.map l with
      | none => m
      | some e => mmod m (entryBlock e) {} (fun (b : Block) => { b with reads := b.reads + 1 })) f.blocks }

/-- A page of a logical grain is rebuilt from the other 31 pages of its stripe (R385, R49): their blocks are read, and FTL_REBUILD_STAT counts it. -/
def State.rebuildPage (s : State) (lgn : Nat) : State :=
  match (mget s.ftl.map lgn).map entryBlock with
  | none => s
  | some k =>
    let plane := k / 2 ^ 20 % 4
    let others := ((mget s.ftl.supers (s.ftl.block k).owner).map (fun sb =>
      ((List.range 32).map (fun ch => sb.blocks.getD (4 * ch + plane) k)).filter (· != k))).getD []
    ({ s with ftl := { s.ftl with blocks := others.foldl (fun m b => mmod m b {} (fun (x : Block) => { x with reads := x.reads + 1 })) s.ftl.blocks } }).countReg
      Reg.ftlRebuild 32 32 1

/-- Read the valid grains of a set of blocks and hand them to the relocation stream. -/
def Ftl.relocate (f : Ftl) (now : Nat) (blocks : List Nat) : Ftl :=
  let gs := f.validIn blocks
  (f.countReads (gs.map (·.1))).enqueue 2 now gs

/-- Erase blocks: one erase more, no reads, free again, their reverse records gone. -/
def Ftl.erase (f : Ftl) (blocks : List Nat) : Ftl :=
  { f with
    blocks := blocks.foldl (fun m k => mmod m k {} (fun b => { b with erases := b.erases + 1, reads := 0, owner := 0 })) f.blocks
    phys := f.phys.filter (fun e =>
      let g := e.1 % 2 ^ 23; let cd := e.1 / 2 ^ 23
      let plane := (g / grainsPerPage) % 4
      !blocks.contains (cd * 4 * 2 ^ 20 + plane * 2 ^ 20 + g / (grainsPerPage * 4) / Config.flashPages)) }

/-- Erase every victim superblock and every chosen block that holds no valid grain any more (R389, R392). -/
def Ftl.reap (f : Ftl) : Ftl :=
  let f := f.victims.foldl (fun f n =>
    match mget f.supers n with
    | none => { f with victims := f.victims.filter (· != n) }
    | some sb =>
      if (f.validIn sb.blocks).isEmpty then
        { f.erase sb.blocks with supers := mdel f.supers n, victims := f.victims.filter (· != n) }
      else f) f
  f.eraseBlocks.foldl (fun f k =>
    if (f.validIn [k]).isEmpty then
      let r := (f.block k).retired
      let f := f.erase [k]
      { f with eraseBlocks := f.eraseBlocks.filter (· != k),
               blocks := mmod f.blocks k {} (fun b => { b with retired := r }) }
    else f) f

/-- Objects whose grains are all reported become complete; an extent's META is written only after every other grain of it
has been reported (R386). -/
def Ftl.report (f : Ftl) (now : Nat) : Ftl :=
  f.objects.foldl (fun f e =>
    let (base, o) := e
    if o.complete then f
    else
      let done (n : Nat) := (mget f.map n).isSome
      let rest := (List.range (o.count - 1)).all (fun i => done (base + 1 + i))
      if o.session.isSome then
        if done base then { f with objects := mput f.objects base { o with complete := true } }
        else if rest && !o.queued then
          (({ f with objects := mput f.objects base { o with queued := true } } : Ftl)).enqueue (f.streamOf base) now [(base, 3, 0)]
        else f
      else if rest && done base then { f with objects := mput f.objects base { o with complete := true } } else f) f

/-- Close the open stripe of a superblock, padding it to the full (R381 to R384): SEQ, the grains' places, the parity, and
with the last data stripe the summary. -/
def Ftl.closeStripe (f : Ftl) (n : Nat) (sb : SuperBlock) : Ftl :=
  let f := { f with seq := f.seq + 1 }
  let f := (List.range stripeGrains).foldl (fun f i =>
    match sb.fill[i]? with
    | some g => f.settle sb i g (g.2.1 == 0x100)
    | none => f.settle sb i (0, 0, 0) true) f
  let sb := { sb with stripe := sb.stripe + 1, fill := [], lastSeq := f.seq }
  if sb.stripe = dataStripes then
    { f with seq := f.seq + summaryStripes, supers := mput f.supers n { sb with closed := true, lastSeq := f.seq + summaryStripes } }
  else { f with supers := mput f.supers n sb }

/-- Close the stripe of a stream on a die index, count what was programmed, report, and let waiting grains follow. -/
def State.stripeClosed (s : State) (stream die : Nat) : State :=
  match s.ftl.openSuper stream die with
  | none => s
  | some (n, sb) =>
    let client := (sb.fill.filter (fun g => g.2.2 == 0 && g.2.1 != 0x100)).length
    let last := sb.stripe + 1 = dataStripes
    let f := (s.ftl.closeStripe n sb).report s.now
    let f := (f.reap).enqueue stream s.now []
    let s := { s with ftl := f }
    let s := s.countReg Reg.ftlWrites 0 64 client
    s.countReg Reg.ftlNand 0 64 ((1 + (if last then summaryStripes else 0)) * 32 * grainsPerPage)

/-! ## Space -/

/-- R391: READONLY once the reserve falls below 4 % of raw capacity. -/
def Ftl.wear (f : Ftl) : Ftl :=
  if f.state = 2 ∧ f.reserveLeft * 100 < 4 * totalBlocks then { f with state := 3 } else f

/-- Is a run of logical grains free: unmapped, in no object, inside the region? -/
def Ftl.runFree (f : Ftl) (first count lo hi : Nat) : Bool :=
  decide (lo ≤ first) && decide (first + count ≤ hi) &&
    f.objects.all (fun e => decide (e.1 + e.2.count ≤ first) || decide (first + count ≤ e.1))

/-- A free run of `count` logical grains in `lo .. hi`: at `start` or at the end of an object, where firmware finds one. -/
def Ftl.findRun (f : Ftl) (start count lo hi : Nat) : Option Nat :=
  (start :: lo :: f.objects.map (fun e => e.1 + e.2.count)).find? (fun a => f.runFree a count lo hi)

/-- The logical grains of the cistern, and of the general-object region. -/
def Ftl.cisternRange (f : Ftl) : Nat × Nat := (0, f.cistern)
def Ftl.generalRange (f : Ftl) : Nat × Nat := (f.cistern, f.cap)

/-- The key of the region a logical grain lies in (R380). -/
def Ftl.keyOf (f : Ftl) (lgn : Nat) : List Byte := if lgn < f.cistern then Config.cisternKey else Config.generalKey

/-- A run of grains from logical grain `base` on, enciphered as it is programmed, or deciphered as it is read (R380). -/
def Ftl.cipher (f : Ftl) (open_ : Bool) (base count : Nat) (bs : List Byte) : List Byte :=
  (List.range count).flatMap (fun k => xtsGrain open_ (f.keyOf (base + k)) (base + k) (sub bs (16384 * k) 16384))

/-- The plaintext of an object that is to be written: its own bytes, or the grains of the parked extent it is (R58). -/
def FlashObj.plain (o : FlashObj) : List Byte := match o.session with
  | some (i, x, a) => (extentBytes i false x a).flatten
  | none => o.bytes

/-- The plaintext of what the flash holds of an object. -/
def Ftl.content (f : Ftl) (base : Nat) (o : FlashObj) : List Byte := f.cipher true base o.count o.bytes

/-- Write over bytes of an object: the grains they touch are programmed anew. -/
def Ftl.patched (f : Ftl) (base at_ : Nat) (bytes : List Byte) : Ftl :=
  { f with objects := mchange f.objects base (fun o => { o with bytes := f.cipher false base o.count (patch (f.content base o) at_ bytes) }) }

/-- Begin to write an object of `count` grains at a logical run: every grain but the first goes to the client stream; the
first too, unless the object is a parked extent, whose META waits for the rest (R386). -/
def State.flashWrite (s : State) (base : Nat) (o : FlashObj) (kinds : List Nat) : State :=
  let gs := (List.range o.count).map (fun i => (base + i, kinds.getD i 1, 0))
  let gs := if o.session.isSome then gs.drop 1 else gs
  let f := { s.ftl with objects := mput s.ftl.objects base { o with bytes := s.ftl.cipher false base o.count o.plain } }
  let f := f.enqueue (f.streamOf base) s.now gs
  { s with ftl := f.report s.now }

/-- R387: free logical grains: their entries are unmapped and a trim record is appended. -/
def State.flashFree (s : State) (base count : Nat) : State :=
  let f := s.ftl
  let drop (q : List (Nat × Nat × Nat)) := q.filter (fun g => !(decide (base ≤ g.1) && decide (g.1 < base + count)))
  { s with ftl := { f with
      map := f.map.filter (fun e => !(decide (base ≤ e.1) && decide (e.1 < base + count)))
      objects := mdel f.objects base
      queue := f.queue.map (fun (e : Nat × List (Nat × Nat × Nat)) => (e.1, drop e.2))
      trims := f.trims ++ [(base, count, f.seq)] } }

/-- GARBAGE_COLLECTION (R389): with fewer than 64 free superblocks, the closed superblock with the fewest valid grains,
and the lowest last SEQ among equals, has its valid grains relocated and is then erased. -/
def execGarbageCollection (s : State) : Res := s.ifUp <|
  let f := s.ftl
  if f.state < 2 ∨ 64 ≤ f.freeSupers ∨ f.stopped = true then .next s
  else
    let best := f.supers.foldl (fun b e =>
      if !e.2.closed || f.victims.contains e.1 then b
      else
        let v := (f.validIn e.2.blocks).length
        match b with
        | none => some (e.1, v, e.2)
        | some (_, w, o) => if v < w ∨ (v = w ∧ e.2.lastSeq < o.lastSeq) then some (e.1, v, e.2) else b) none
    match best with
    | none => .next s
    | some (n, _, sb) =>
      let f := { f with victims := f.victims ++ [n] }
      .next { s with ftl := ((f.relocate s.now sb.blocks).reap) }

/-- READ_REFRESH (R392): a block at RD_LIMIT, or above the refresh level, has its valid grains relocated and is erased. A
block already chosen by collection is not relocated a second time. -/
def execReadRefresh (ch die plane block : Nat) (s : State) : Res := s.ifUp <|
  let f := s.ftl
  let k := blockKey ch die plane block
  if f.state < 2 ∨ f.stopped = true ∨ f.victims.contains (f.block k).owner = true ∨ f.eraseBlocks.contains k = true then .next s
  else
    let f := { f with eraseBlocks := f.eraseBlocks ++ [k] }
    .next { s with ftl := (f.relocate s.now [k]).reap }

/-- Retire a block (R391): it is never used again, and the reserve shrinks by one. -/
def Ftl.retire (f : Ftl) (k : Nat) : Ftl :=
  if (f.block k).retired then f
  else ({ f with blocks := mmod f.blocks k {} (fun b => { b with retired := true, owner := 0 }), retired := f.retired + 1 }).wear

/-- ERASE_FAIL (R391): a block that fails to erase is retired at once. -/
def execEraseFail (ch die plane block : Nat) (s : State) : Res := s.ifUp <|
  if s.ftl.state < 2 then .next s else .next { s with ftl := s.ftl.retire (blockKey ch die plane block) }

/-- PAGE_PROGRAM_FAIL (R391): the page's grains go into the next stripe from the write buffer, the block's valid grains are
relocated, and the block is retired. -/
def execPageProgramFail (ch die plane block page : Nat) (s : State) : Res := s.ifUp <|
  let f := s.ftl
  let k := blockKey ch die plane block
  if f.state < 2 then .next s
  else
    let f := match mget f.supers (f.block k).owner with
      | none => f
      | some sb =>
        if sb.closed ∨ sb.stripe % 4 ≠ plane ∨ sb.stripe / 4 ≠ page ∨ sb.stripe % 32 = ch then f
        else
          let here (i : Nat) := (stripePlace sb.stripe i).1 == ch
          let idx : List (Nat × (Nat × Nat × Nat)) := (List.range sb.fill.length).zip sb.fill
          let again := (List.filter (fun (e : Nat × (Nat × Nat × Nat)) => here e.1 && e.2.2.1 != 0x100) idx).map Prod.snd
          let fill := List.map (fun (e : Nat × (Nat × Nat × Nat)) => if here e.1 then (0, 0x100, 0) else e.2) idx
          { f with supers := mput f.supers (f.block k).owner { sb with fill := fill },
                   queue := mput f.queue sb.stream (again ++ mgetD f.queue sb.stream []) }
    let f := f.relocate s.now [k]
    .next { s with ftl := f.retire k }

/-- FTL_SPLIT_WRITE (R388): CISTERN is changed, or the write is refused with DENIED when it exceeds EXPORT or a mapped grain
would then lie in the other region. -/
def execFtlSplitWrite (v : W32) (s : State) : Res := s.ifUp <|
  let f := s.ftl
  let c := v.toNat
  let crosses := f.map.any (fun e => decide (e.1 < f.cistern) != decide (e.1 < c))
  if f.state = 0 then .next s
  else if f.cap < c ∨ crosses = true then .next { s with ftl := { f with denied := true } }
  else .next { s with ftl := { f with cistern := c } }

/-! ## Power fail -/

/-- Steps 1 to 3 of Table 14.4: no new data program starts; the parity of each open stripe and the journal are written. The
grains of a stripe closed this way were never reported, so they are not mapped: those of the moves that are abandoned (their
extents' first grains and lengths are given) go no further, the others are written again when writes resume. -/
def Ftl.powerClose (f : Ftl) (moves : List (Nat × Nat)) : Ftl :=
  let keep (g : Nat × Nat × Nat) : Bool := g.2.1 != 0x100 && !moves.any (fun m => decide (m.1 ≤ g.1) && decide (g.1 < m.1 + m.2))
  let back (stream : Nat) := f.supers.flatMap (fun (e : Nat × SuperBlock) => if e.2.stream = stream then e.2.fill else [])
  { f with
    stopped := true
    queue := (List.range 3).map (fun st => (st, (back st ++ mgetD f.queue st []).filter keep))
    objects := f.objects.filter (fun e => !moves.any (fun m => m.1 == e.1))
    supers := f.supers.map (fun (e : Nat × SuperBlock) => (e.1, if e.2.fill.isEmpty then e.2 else
      { e.2 with fill := [], stripe := e.2.stripe + 1, closed := decide (dataStripes ≤ e.2.stripe + 1) }))
    seq := f.seq + (f.supers.filter (fun e => !e.2.fill.isEmpty)).length
    durable := f.durable ++ f.trims
    trims := [] }

/-! ## Start-up -/

/-- R397: for each logical grain the record with the highest SEQ, and the later grain among equals; a mapping whose SEQ is
lower than a durable trim record that covers it is dropped. -/
def Ftl.rebuildMap (f : Ftl) : Map W32 :=
  let best := f.phys.foldl (fun (m : Map (Nat × Nat)) e =>
    if e.2.pad then m
    else match mget m e.2.lgn with
      | none => mput m e.2.lgn (e.2.seq, e.1)
      | some (q, _) => if q ≤ e.2.seq then mput m e.2.lgn (e.2.seq, e.1) else m) []
  best.filterMap (fun e =>
    let (seq, k) := e.2
    if f.durable.any (fun t => decide (t.1 ≤ e.1) && decide (e.1 < t.1 + t.2.1) && decide (seq < t.2.2)) then none
    else some (e.1, mapEntry (k / 2 ^ 23 / 16) (k / 2 ^ 23 % 16) (k % 2 ^ 23)))

/-- Rebuild at start-up, or format when no valid format is found (R397, R398). Extents and objects whose grains are not all
there are freed. -/
def Ftl.startUp (f : Ftl) : Ftl :=
  if !Config.flashPresent then { f with state := 0 }
  else if f.cap = 0 then
    { f with state := 2, cap := exportGrains, cistern := cisternAtFormat, map := [], phys := [], objects := [], supers := [],
             trims := [], durable := [], stopped := false, queue := [], victims := [], eraseBlocks := [] }
  else
    let m := f.rebuildMap
    let whole (e : Nat × FlashObj) := (List.range e.2.count).all (fun i => (mget m (e.1 + i)).isSome)
    ({ f with state := 2, map := m, objects := (f.objects.filter whole).map (fun (e : Nat × FlashObj) => (e.1, { e.2 with complete := true })),
              stopped := false, queue := [], victims := [], eraseBlocks := [], trims := [] }).wear

end Sys2Proof.Machine
end

