-- ==== Sys2Proof/Machine/MemInstr.lean ====
section
/-!
DEFINITION. Sys2Proof/Machine/MemInstr.lean: the memory slot of Fletegus: MEM (R176, R177), PMP (R178, R179) and SYN (R180,
R181) instructions, and how what they issue lands (R116, R144, R147).
-/
namespace Sys2Proof.Machine

open Sys2Proof

/-! ## Loads and stores -/

/-- Fields a load or store does not use are 0 (R176). -/
def memLegal (f : FmtR) : Bool := f.rsv == 0 && f.mask == 0 && f.ty == 0 && !f.lf && f.rc == 0

/-- A store of the core's memory unit into its code range (R135). -/
def codeFault (e : Env) (a n : Nat) : List (Cause × Nat) :=
  if a < e.prog.codeBase + e.prog.code.length ∧ e.prog.codeBase < a + n then [(.codeWrite, a)] else []

def execLdw (c : Nat) (h : Head) (f : FmtR) (s : State) : Res :=
  s.word (.ldw c h f) c h Slot.memory [wS f.rd] (fun _ => memLegal f && f.rb == 0) (fun e k =>
    let a := addrOf (k.snap.sreg f.ra) f.imm16
    let cands := accessFaults e.slots a 4 4
    if !cands.isEmpty then .fault cands
    else .ok { k with regs := k.regs.setS f.rd (BitVec.ofNat 32 (leNat (Memory.read e.mem a 4))) })

def execStw (c : Nat) (h : Head) (f : FmtR) (s : State) : Res :=
  s.word (.stw c h f) c h Slot.memory [] (fun _ => memLegal f && f.rd == 0) (fun e k =>
    let a := addrOf (k.snap.sreg f.ra) f.imm16
    let cands := accessFaults e.slots a 4 4 ++ codeFault e a 4
    if !cands.isEmpty then .fault cands else .ok (k.later (.store a (leBytes 4 (k.snap.sreg f.rb).toNat))))

def execVld (c : Nat) (h : Head) (f : FmtR) (s : State) : Res :=
  s.word (.vld c h f) c h Slot.memory [wV f.rd] (fun _ => memLegal f && f.rb == 0) (fun e k =>
    let a := addrOf (k.snap.sreg f.ra) f.imm16
    let cands := accessFaults e.slots a 256 32
    if !cands.isEmpty then .fault cands
    else .ok { k with regs := k.regs.setV f.rd (ofBytes (Memory.read e.mem a 256)) })

def execVst (c : Nat) (h : Head) (f : FmtR) (s : State) : Res :=
  s.word (.vst c h f) c h Slot.memory [] (fun _ => memLegal f && f.rd == 0) (fun e k =>
    let a := addrOf (k.snap.sreg f.ra) f.imm16
    let cands := accessFaults e.slots a 256 32 ++ codeFault e a 256
    if !cands.isEmpty then .fault cands else .ok (k.later (.store a (vecBytes (k.snap.vreg f.rb)))))

/-! ## Remote writes, HBM copies, SEND -/

/-- Run length in bytes. -/
def runLen (f : FmtP) : Nat := 64 * (f.len.toNat + 1)

/-- Issue one thing that stays in flight, unless 32 already are (R177). -/
def launch (k : Core) (cands : List (Cause × Nat)) (x : Late) : Word :=
  if !cands.isEmpty then .fault cands else if 32 ≤ k.inFlight then .wait .inflight else .ok (k.later x)

/-- The target of a remote write (R176): logical core in s[RT][31:20], address in s[RT][19:0]. DESIGN CHOICE (log entry 53): one aimed at the
semaphores, 0xC_0000 to 0xC_00FF, faults with ADDRESS: they lie inside Table 4.1, so R176 names no fault, and R144 gives such a write no effect. -/
def remoteFaults (e : Env) (t : W32) (n : Nat) : List (Cause × Nat) :=
  (if fld t 20 12 < e.prog.ncores then [] else [(.coreset, fld t 20 12)]) ++ accessFaults e.slots (fld t 0 20) n 64

def execRwr (c : Nat) (h : Head) (f : FmtP) (s : State) : Res :=
  s.word (.rwr c h f) c h Slot.memory [] (fun _ => f.rsv == 0 && f.rx == 0 && f.sem == 0 && f.semd == 0 && f.seg == 0) (fun e k =>
    let a := (k.snap.sreg f.rl).toNat; let t := k.snap.sreg f.rt; let n := runLen f
    launch k (accessFaults e.slots a n 64 ++ remoteFaults e t n)
      (.flight (.write (e.prog.core (fld t 20 12)) (fld t 0 20) (Memory.read e.mem a n))))

def execRwrv (c : Nat) (h : Head) (f : FmtP) (s : State) : Res :=
  s.word (.rwrv c h f) c h Slot.memory []
    (fun _ => f.rsv == 0 && f.rl == 0 && f.sem == 0 && f.semd == 0 && f.seg == 0 && f.len == 3) (fun e k =>
      let t := k.snap.sreg f.rt
      launch k (remoteFaults e t 256)
        (.flight (.write (e.prog.core (fld t 20 12)) (fld t 0 20) (vecBytes (k.snap.vreg f.rx)))))

/-- R134: the run lies inside a declared segment that grants the direction. -/
def segFaults (e : Env) (seg : BitVec 4) (off n : Nat) (load : Bool) : List (Cause × Nat) :=
  let bad := [(Cause.segment, seg.toNat <<< 32 + off)]
  match e.prog.segs[seg.toNat]? with
  | none => bad
  | some x => if (if load then x.rd else x.wr) && decide (off + n ≤ x.size) then [] else bad

/-- HBM address of an offset in a segment. -/
def segAddr (e : Env) (seg : BitVec 4) (off : Nat) : Nat :=
  match e.prog.segs[seg.toNat]? with
  | none => off
  | some x => x.base + off

def alignFault (a : Nat) : List (Cause × Nat) := if a % 64 = 0 then [] else [(.align, a)]

def execHld (c : Nat) (h : Head) (f : FmtP) (s : State) : Res :=
  s.word (.hld c h f) c h Slot.memory [] (fun _ => f.rsv == 0 && f.rx == 0 && f.semd == 0) (fun e k =>
    let a := (k.snap.sreg f.rl).toNat; let off := (k.snap.sreg f.rt).toNat; let n := runLen f
    launch k (accessFaults e.slots a n 64 ++ alignFault off ++ segFaults e f.seg off n true)
      (.flight (.load (segAddr e f.seg off) a n f.sem.toNat none)))

def execHst (c : Nat) (h : Head) (f : FmtP) (s : State) : Res :=
  s.word (.hst c h f) c h Slot.memory [] (fun _ => f.rsv == 0 && f.rx == 0 && f.semd == 0) (fun e k =>
    let a := (k.snap.sreg f.rl).toNat; let off := (k.snap.sreg f.rt).toNat; let n := runLen f
    launch k (accessFaults e.slots a n 64 ++ alignFault off ++ segFaults e f.seg off n false)
      (.flight (.store (segAddr e f.seg off) (Memory.read e.mem a n) f.sem.toNat)))

/-- SEND (R147): a node that cannot be reached, or a job without a tag, faults with FABRIC. -/
def execSend (c : Nat) (h : Head) (f : FmtP) (s : State) : Res :=
  s.word (.send c h f) c h Slot.memory [] (fun p => f.rsv == 0 && f.seg == 0 && decide (1 ≤ p.minor)) (fun e k =>
    let a := (k.snap.sreg f.rl).toNat; let t := k.snap.sreg f.rt; let x := k.snap.sreg f.rx; let n := runLen f
    let dst := fld t 0 20
    let fab := if (e.s.routeErr e.job (fld x 0 16)).isSome || e.s.jobTag e.job == 0 then [(Cause.fabric, dst)] else []
    let ill := if fld x 28 4 = 0 then [] else [(Cause.illegal, k.pc)]
    launch k (ill ++ accessFaults e.slots a n 64 ++ alignFault dst ++
        (if dst + n ≤ 0xC0000 then [] else [(.address, dst)]) ++ fab)
      (.send (fld x 0 16) (fld x 16 12) dst f.semd.toNat f.sem.toNat (Memory.read e.mem a n) (faultRecord k k.bedPos .fabric dst)))

/-! ## PUT -/

def execPut (c : Nat) (h : Head) (f : FmtP) (s : State) : Res :=
  s.word (.put c h f) c h Slot.memory []
    (fun _ => f.rsv == 0 && f.rt == 0 && f.rx == 0 && f.sem == 0 && f.semd == 0 && f.seg == 0) (fun e k =>
      let a := (k.snap.sreg f.rl).toNat; let n := f.len.toNat + 1
      let cands := accessFaults e.slots a (32 * n) 32
      let held := (e.s.pumpDescs.filter (fun x => x.2.core == c && !x.2.taken)).length
      if !cands.isEmpty then .fault cands
      else if 64 < held + n then .wait .puts
      else .ok (k.later (.put a n)))

/-! ## SYN -/

/-- Subfields a SYN function does not list are 0 (R180). -/
def synLegal (f : FmtI) (used : Nat) : Bool := f.rsv == 0 && f.rd == 0 && decide (f.imm32.toNat < 2 ^ used)

/-- FENCE.L (R141, R181): the next bed waits until the pump port is past the core's earlier descriptors; every other store access takes effect when
its bed issues. -/
def execFenceL (c : Nat) (h : Head) (f : FmtI) (s : State) : Res :=
  s.word (.fenceL c h f) c h Slot.memory [] (fun _ => synLegal f 0 && f.ra == 0) (fun _ k => .ok (k.later .fenceL))

/-- FENCE.M (R142, R181): the next bed waits until everything this core issued has landed. -/
def execFenceM (c : Nat) (h : Head) (f : FmtI) (s : State) : Res :=
  s.word (.fenceM c h f) c h Slot.memory [] (fun _ => synLegal f 0 && f.ra == 0) (fun _ k => .ok (k.later .fenceM))

/-- SEMINC (R144): to the core itself, or over the mesh to a logical core of the program. -/
def execSeminc (c : Nat) (h : Head) (f : FmtI) (s : State) : Res :=
  s.word (.seminc c h f) c h Slot.memory []
    (fun _ => synLegal f 14 && (bit f.imm32 13 || f.ra == 0) && fld f.imm32 5 8 != 0) (fun e k =>
      let n := fld f.imm32 0 5; let amount := fld f.imm32 5 8
      if bit f.imm32 13 then
        let t := (k.snap.sreg f.ra).toNat
        if e.prog.ncores ≤ t then .fault [(.coreset, t)] else .ok (k.later (.flight (.inc (e.prog.core t) n amount)))
      else .ok (k.later (.inc n amount)))

/-- SEMWAIT (R144, R181): the bed issues only when the semaphore holds at least k, and then subtracts k. -/
def execSemwait (c : Nat) (h : Head) (f : FmtI) (s : State) : Res :=
  s.word (.semwait c h f) c h Slot.memory [] (fun _ => synLegal f 13 && f.ra == 0 && fld f.imm32 5 8 != 0) (fun _ k =>
    let n := fld f.imm32 0 5; let v := fld f.imm32 5 8
    if (mgetD k.sems n 0).toNat < v then .wait (.sem n v) else .ok (k.later (.dec n v)))

/-- BAR (R146): barriers 4 to 7 need version 1.1. -/
def execBar (c : Nat) (h : Head) (f : FmtI) (s : State) : Res :=
  s.word (.bar c h f) c h Slot.memory []
    (fun p => synLegal f 3 && f.ra == 0 && (decide (f.imm32.toNat < 4) || decide (1 ≤ p.minor)))
    (fun _ k => .ok (k.later (.bar f.imm32.toNat)))

/-! ## Landing -/

/-- A semaphore of a core, as job `j` has the core, grows; and its store is written (R144, R339). -/
def State.incSem (s : State) (j c n v : Nat) : State :=
  let k := s.jobCore j c
  s.setJobCore j c { k with sems := mput k.sems n (mgetD k.sems n 0 + BitVec.ofNat 64 v) }

/-- R135: does a run of `n` bytes at `a` land in the code range of the program a core runs? -/
def State.intoCode (s : State) (k : Core) (a n : Nat) : Bool := match mget s.progs k.prog with
  | none => false
  | some p => decide (a < p.codeBase + p.code.length) && decide (p.codeBase < a + n)

/-- Bytes reach the store of a core, as job `j` has it, and wake its group (R122). Into a code range (R135), or over a grain of one of the job's sessions
(R64), the outcome is unpredictable (job). -/
def State.storeAt (s : State) (j c a : Nat) (data : List Byte) : State :=
  let k := s.jobCore j c
  let hurts := s.intoCode k a data.length || !(s.t0Held j c a data.length).isEmpty
  ((s.setJobCore j c { k with store := Memory.write (some 0) k.store a data }).wakeFor c).spoilIf hurts j

/-- REMOTE_WRITE_LAND (R116, R118, R133, R135): the oldest packet from one core to another lands: the next 64 B of a remote write,
or a semaphore increment. It reaches the core as the sender's job has it (R339). -/
def execRemoteWriteLand (src dst : Nat) (s : State) : Res := s.ifReady <|
  let k := s.core src
  let j := (s.group (coreGroup src)).job
  let mine (f : Flight) : Bool := match f with
    | .write d _ _ => d == dst
    | .inc d _ _ => d == dst
    | _ => false
  match k.flight.findIdx? mine with
  | none => .next s
  | some i =>
    match k.flight[i]? with
    | some (.write d a data) =>
      let rest := data.drop 64
      let flight := if rest.isEmpty then k.flight.eraseIdx i else k.flight.set i (.write d (a + 64) rest)
      .next ((s.setCore src { k with flight := flight }).storeAt j dst a (data.take 64))
    | some (.inc _ n v) => .next (((s.setCore src { k with flight := k.flight.eraseIdx i }).wakeFor dst).incSem j dst n v)
    | _ => .next s

/-- The sequencer aperture begins at 2^39 (R221, R528). -/
def apertureBase : Nat := 2 ^ 39

/-- A run of the aperture as it reads, and the parts of it by area, in order (R221). -/
def State.apertureRead (s : State) (a n : Nat) : List Byte :=
  let first := (a - apertureBase) / 1024
  sub ((List.range (cdiv n 1024 + 1)).flatMap (fun i => (s.seq (first + i)).image)) (a % 1024) n
def apertureParts (a : Nat) (bs : List Byte) : List (Nat × Nat × List Byte) :=
  let off := a - apertureBase
  (List.range (cdiv bs.length 1024 + 1)).filterMap (fun i =>
    let lo := max off ((off / 1024 + i) * 1024); let hi := min (off + bs.length) ((off / 1024 + i + 1) * 1024)
    if lo < hi then some (off / 1024 + i, lo % 1024, (bs.drop (lo - off)).take (hi - lo)) else none)

/-- A write of a run of the aperture: one access of each area it meets. None where it puts a value other than 0 into a reserved field. -/
def State.apertureWrite (s : State) (a : Nat) (bs : List Byte) : Option State :=
  (apertureParts a bs).foldl (fun (o : Option State) p => o.bind (fun s => s.areaWrite p.1 p.2.1 p.2.2)) (some s)

/-- SEQ_REF counts an access that waits for a segment's end (Table 8.7). -/
def Seq.heldOne (q : Seq) : Seq := { q with ref := setFld q.ref 32 16 (fld q.ref 32 16 + 1) }

/-- The bank sets of a run of HBM on which a segment runs (R228). -/
def State.segmentsAt (s : State) (a n : Nat) : List Nat :=
  if s.seqs.all (fun e => !e.2.holds) then []
  else ((List.range (n / 1024 + 2)).map (fun i => seqOf (min ((a / 1024 + i) * 1024) (a + n - 1)))).eraseDups.filter (fun q => (s.seq q).holds)
def State.countHeld (s : State) (qs : List Nat) : State := qs.foldl (fun s n => s.setSeq n (s.seq n).heldOne) s

/-- HBM_COPY_DONE (R135, R144, R176): the copy lands, and its semaphore is incremented. A copy to or from a sequencer's area is one
access of it (R221). A read of a bank set on which a segment runs waits for its end (R228). -/
def execHbmCopyDone (core idx : Nat) (s : State) : Res := s.ifReady <|
  let k := s.core core
  let j := (s.group (coreGroup core)).job
  let s' := s.setCore core { k with flight := k.flight.eraseIdx idx }
  match k.flight[idx]? with
  | some (.load hbm a n sem waited) =>
    let held := if apertureBase ≤ hbm then [] else s.segmentsAt hbm n
    if !held.isEmpty then
      if waited.isSome then .next s
      else
        let before := (s.seq (held.headD 0)).held.length
        .next ((s.setCore core { k with flight := k.flight.set idx (.load hbm a n sem (some before)) }).countHeld held)
    else
      let data := if apertureBase ≤ hbm then s.apertureRead hbm n else s.hbmRead hbm n
      .next (((s'.storeAt j core a data).incSem j core sem 1).endProg k.prog)
  | some (.loaded a data sem) => .next (((s'.storeAt j core a data).incSem j core sem 1).endProg k.prog)
  | some (.store hbm data sem) =>
    if apertureBase ≤ hbm then
      match s'.apertureWrite hbm data with
      | none => .fault .unpredictableDevice
      | some s => .next ((s.incSem j core sem 1).endProg k.prog)
    else .next ((((s'.wr true hbm data).spoilIf (!(s.t1Held hbm data.length).isEmpty) j).incSem j core sem 1).endProg k.prog)
  | _ => .next s

/-- SEND_LAND (R135, R147, R351, R358, R359): a SEND in order lands in the store of a core that runs a program of the job and
increments its semaphore; it is refused with a NACK otherwise. While the core's group holds another job's state it waits at
the hub (R339). -/
def execSendLand (p : Packet) (s : State) : Res := s.ifReady <|
  match s.arrive p with
  | .drop s => .next s
  | .deliver j data s' =>
    let c := fld p.arg 0 12; let a := fld p.arg 12 20; let sem := fld p.arg 32 5
    let k := s.jobCore j c
    let fits := match mget s.progs k.prog with
      | none => false
      | some q => q.started && q.ctx.job == j
    let g := s.group (coreGroup c)
    if g.job ≠ j ∧ fits = true then .next s
    else if !fits || decide (0xC0000 < a + data.length) then .next (s'.reply p Msg.nack)
    else .next ((s'.storeAt j c a data).incSem j c sem 1 |>.reply p Msg.ack)

end Sys2Proof.Machine
end

