-- ==== Sys2Proof/Machine/Programs.lean ====
section
/-!
DEFINITION. Sys2Proof/Machine/Programs.lean: RUN_PROGRAM and program images (R148 to R157), pump descriptors of programs (R63,
R64, R178), core groups (R121 to R126) and their turns (R337 to R339).
-/
namespace Sys2Proof.Machine

open Sys2Proof

/-! ## The program image (R151 to R154) -/

/-- The image with the bytes of runs read as zero (R153). -/
def zeroed (bs : List Byte) (runs : List (Nat × Nat)) : List Byte := runs.foldl (fun b r => patch b r.1 (zeros (min r.2 (b.length - r.1)))) bs

/-- Do two runs overlap? -/
def overlap (a n b m : Nat) : Bool := decide (0 < n) && decide (0 < m) && decide (a < b + m) && decide (b < a + n)

/-- Table 5.7: magic, reserved fields, sections and store ranges (R152, IMAGE_BAD). -/
def imageLayoutOk (im : List Byte) (len : Nat) : Bool :=
  let u (o n : Nat) := at_ im o n
  let code := u 16 4; let codeLen := u 20 4; let cb := u 24 4
  let dat := u 28 4; let datLen := u 32 4; let db := u 36 4; let ab := u 40 4
  let segs := u 44 4; let segn := u 48 1
  decide (128 ≤ im.length) && u 0 4 == 0x47544C46 && decide (u 6 2 < 4) && decide (1 ≤ u 8 1 ∧ u 8 1 ≤ 64) && zeroRun im 9 3 &&
    decide (segn ≤ 16) && zeroRun im 49 7 && u 56 8 == len && im.length == len && zeroRun im 104 24 &&
    inside im code codeLen && inside im dat datLen && inside im segs (8 * segn) && inside im (u 96 4) (u 100 4) &&
    codeLen % 8 == 0 && cb % 64 == 0 && ab % 64 == 0 && u 12 4 % 8 == 0 && decide (cb ≤ u 12 4 ∧ u 12 4 < cb + codeLen) &&
    decide (cb + codeLen ≤ 0xC0000) && decide (db + datLen ≤ 0xC0000) && decide (ab + 256 ≤ 0xC0000) &&
    !overlap cb codeLen db datLen && !overlap cb codeLen ab 256 && !overlap db datLen ab 256 &&
    (List.range segn).all (fun i =>
      let x := u (segs + 8 * i) 8
      decide (x < 2 ^ 34) && (x % 2 ^ 32) % 64 == 0 && decide (64 ≤ x % 2 ^ 32))

/-- DIGEST matches (R153). -/
def imageDigestOk (im : List Byte) : Bool :=
  sha256 (zeroed im [(64, 32), (at_ im 96 4, at_ im 100 4)]) == BitVec.ofNat 256 (leNat (sub im 64 32))

/-- The segments with their bindings. -/
def imageSegs (im binds : List Byte) : List Seg :=
  (List.range (at_ im 48 1)).map (fun i =>
    let x := at_ im (at_ im 44 4 + 8 * i) 8
    { base := at_ binds (8 * i) 8, size := x % 2 ^ 32, rd := x.testBit 32, wr := x.testBit 33 })

/-- Groups that count as the job's for a RUN_PROGRAM: those being removed do not (R330). -/
def Job.groupsNow (x : Job) : W64 := match x.want with
  | none => x.slice.groups
  | some w => x.slice.groups &&& w.groups

/-- A segment binding covers its size inside the job's HBM, or areas of sequencers that the job owns (R152, R221). -/
def State.bindOk (s : State) (j base n : Nat) : Bool :=
  if apertureBase ≤ base then
    decide (base + n ≤ apertureBase + 1024 * 1024) && (List.range ((base + n - 1) / 1024 - base / 1024 + 1)).all (fun i =>
      let q := s.seq ((base - apertureBase) / 1024 + i)
      q.owned && q.winJob == j)
  else s.inJobHbm j base n

def kRunProgram : Kind :=
  { code := 0x0301, since := 1, cwell := some 252, keys := true, preempt := true, fields := [(128, 384)] }

/-- RUN_PROGRAM (R152, R155). -/
def execRunProgram (job well : Nat) (d : Desc) (s : State) : Res :=
  s.takeUp kRunProgram job well d fun c s =>
    let x := s.job job
    let len := dfld d 24 0 32
    let mask := BitVec.ofNat 64 (dfld d 32 0 64)
    let args := dfld d 40 0 64; let segb := dfld d 48 0 64
    if !(s.addrOk job d 16 len && (args == 0 || s.addrOk job d 40 256) && (segb == 0 || s.addrOk job d 48 128)) then
      .next (s.complete c Code.badAddress)
    else
      match s.fetch d 16 len with
      | none => .next ((s.dmaFailed job).complete c Code.hostDmaError)
      | some im =>
        let binds := if at_ im 48 1 = 0 then some [] else s.fetch d 48 128
        let av := if args = 0 then some (zeros 256) else s.fetch d 40 256
        match binds, av with
        | some binds, some av =>
          let segs := imageSegs im binds
          let err := firstFail [
            (imageLayoutOk im len, Code.imageBad),
            (at_ im 5 1 == 1 && decide (at_ im 4 1 ≤ 2), Code.imageVersion),
            (imageDigestOk im, Code.imageDigest),
            (!x.conf || (at_ im 6 2 % 2 == 1 &&
              Config.slhVerify x.keys.program (sub im 64 32) (sub im (at_ im 96 4) (at_ im 100 4))), Code.imageSignature),
            (popcnt mask == at_ im 8 1 && (mask &&& ~~~x.groupsNow) == 0 &&
              (at_ im 6 2 / 2 % 2 == 0 || fld mask 0 32 == 0 || fld mask 32 32 == 0), Code.groupsMismatch),
            ((mask &&& x.slice.serve) == 0, Code.groupBusy),
            (segs.all (fun g => s.bindOk job g.base g.size), Code.segmentBad)]
          match err with
          | some e => .next (s.complete c e)
          | none =>
            let p : Prog :=
              { ctx := c, minor := at_ im 4 1, mask := mask, entry := at_ im 12 4,
                codeBase := at_ im 24 4, code := sub im (at_ im 16 4) (at_ im 20 4),
                dataBase := at_ im 36 4, data := sub im (at_ im 28 4) (at_ im 32 4),
                argBase := at_ im 40 4, args := av, segs := segs, limit := dfld d 28 0 28,
                faultAddr := BitVec.ofNat 64 (dfld d 56 0 64), started := false, startAt := none, exit := 0 }
            .next ({ s with progs := mput s.progs s.nextProg p, nextProg := s.nextProg + 1 }).startProgs
        | _, _ => .next ((s.dmaFailed job).complete c Code.hostDmaError)

/-- PROGRAM_TIMEOUT (R156, R157): LIMIT_US has passed since the first bed. -/
def execProgramTimeout (prog : Nat) (s : State) : Res := s.ifReady <|
  match mget s.progs prog with
  | none => .next s
  | some p =>
    match p.startAt with
    | none => .next s
    | some t => if !p.started || s.now - t < p.limitUs then .next s else .next ((s.stopProg prog Code.programTimeout []).endProg prog)

/-! ## Pump descriptors of programs (R63, R64, R178) -/

/-- A descriptor's 32 B as they lie in the issuing core's store. -/
def State.descBytes (s : State) (x : PumpDesc) (j : Nat) : List Byte :=
  Memory.read (s.storeView j x.core (s.jobCore j x.core).store) x.addr 32

/-- A T0 or T1 grain address inside a job's slice (R64): its run of bytes is in a core store or in HBM. -/
def State.sliceGrain (s : State) (j : Nat) (a : W64) : Bool :=
  let sl := (s.job j).slice
  if gNode a ≠ 0 then false
  else if gTier a = 0 then
    decide (gAddr a < 2 ^ 18) && decide (t0Slot a < 48) && sl.slots.getLsbD (t0Slot a) && sl.groups.getLsbD (coreGroup (t0Core a))
  else if gTier a = 1 then
    decide (gAddr a < 2 ^ 25) && decide (s.devRg ≤ t1Rg a ∧ t1Rg a < 1430) && sl.pc.getLsbD (t1Pc a)
  else false

/-- Read and write the 16 KiB of a T0 or T1 grain. A write over a grain of one of the job's sessions corrupts that job's results (R64). -/
def State.grainRead (s : State) (j : Nat) (a : W64) : List Byte :=
  if gTier a = 0 then Memory.read (s.storeView j (t0Core a) (s.jobCore j (t0Core a)).store) (0x4000 * t0Slot a) 0x4000
  else s.hbmRead (t1Hbm a) 0x4000
def State.grainWrite (s : State) (j : Nat) (a : W64) (bs : List Byte) : State :=
  if gTier a = 0 then s.storeAt j (t0Core a) (0x4000 * t0Slot a) bs
  else (s.wr true (t1Hbm a) bs).spoilIf (!(s.t1Held (t1Hbm a) bs.length).isEmpty) j

/-- COUNT of a descriptor: 0 means 65,536. -/
def descCount (bs : List Byte) : Nat := if at_ bs 2 2 = 0 then 65536 else at_ bs 2 2

/-- R64, R178: a program's descriptor uses only OP COPY or CHECK with VERIFY between T0 and T1 addresses of its slice, its own
job, and a core of the program. -/
def State.descOk (s : State) (p : Prog) (bs : List Byte) : Bool :=
  let b0 := at_ bs 0 1; let w := at_ bs 24 4
  let src := BitVec.ofNat 64 (at_ bs 8 8); let dst := BitVec.ofNat 64 (at_ bs 16 8)
  decide (b0 % 16 < 2) && b0 / 32 == 0 && at_ bs 1 1 == p.ctx.job && at_ bs 4 4 == 0 && decide (w < 2 ^ 18) &&
    p.cores.contains (w / 32 % 4096) &&
    (List.range (descCount bs)).all (fun i =>
      s.sliceGrain p.ctx.job (gPlus src i) && (b0 % 16 == 1 || s.sliceGrain p.ctx.job (gPlus dst i)))

/-- A descriptor completes: STATUS and DONE are written together, then NOTIFY increments its semaphore; one that names a
core outside the program or another job notifies the issuing core (R178). -/
def State.descDone (s : State) (n : Nat) (x : PumpDesc) : State :=
  match mget s.progs x.prog with
  | none => { s with pumpDescs := mdel s.pumpDescs n }
  | some p =>
    let j := p.ctx.job
    let bs := s.descBytes x j
    let w := at_ bs 24 4
    let s := s.storeAt j x.core (x.addr + 28) (leBytes 2 x.status ++ leBytes 2 x.done)
    let own := p.cores.contains (w / 32 % 4096) && at_ bs 1 1 == j
    let c := if own then w / 32 % 4096 else x.core
    let s := if w.testBit 17 then s.incSem j c (w % 32) 1 else s
    ({ s with pumpDescs := mdel s.pumpDescs n }).endProg x.prog

/-- All of a descriptor is done, or it stopped. -/
def PumpDesc.over (x : PumpDesc) (bs : List Byte) : Bool := x.status != 0 || decide (descCount bs ≤ x.done)

/-- One grain of a descriptor (R63): read, checked with VERIFY or in a CHECK, and written by a COPY. A grain that fails its check, and fails it again
when it is read once more, stops the descriptor (R49). -/
def State.pumpGrain (s : State) (j : Nat) (bs : List Byte) (x : PumpDesc) (checkOk : Bool) : State × PumpDesc :=
  let g := s.grainRead j (gPlus (BitVec.ofNat 64 (at_ bs 8 8)) x.done)
  let check := at_ bs 0 1 % 16 == 1
  if (check || (at_ bs 0 1).testBit 4) && !(checkOk && grainSound false g) then (s.countChecks 2 0, { x with status := 1 })
  else
    (if check then s else s.grainWrite j (gPlus (BitVec.ofNat 64 (at_ bs 16 8)) x.done) g, { x with done := x.done + 1 })

/-- Up to 64 grains of a descriptor, in order; none of one that breaks R64. -/
def State.pumpRun (s : State) (n : Nat) (x : PumpDesc) (p : Prog) (checkOk : Bool) : State :=
  let j := p.ctx.job
  let bs := s.descBytes x j
  let (s, x) :=
    if !s.descOk p bs then (s, { x with status := 2 })
    else (List.range (min 64 (descCount bs - x.done))).foldl (fun (r : State × PumpDesc) _ =>
      if r.2.status ≠ 0 then r else r.1.pumpGrain j bs r.2 checkOk) (s, x)
  { s with pumpDescs := mput s.pumpDescs n x }

/-- The bank sets on which a segment holds a descriptor's next reads (R228). -/
def State.descHeld (s : State) (x : PumpDesc) (p : Prog) : List Nat :=
  let bs := s.descBytes x p.ctx.job
  if s.seqs.all (fun e => !e.2.holds) || !s.descOk p bs then []
  else ((List.range (min 64 (descCount bs - x.done))).flatMap (fun i =>
    let a := gPlus (BitVec.ofNat 64 (at_ bs 8 8)) (x.done + i)
    if gTier a = 1 then s.segmentsAt (t1Hbm a) 0x4000 else [])).eraseDups

/-- PUMP_TAKE_UP (R63, R335): a free pump takes its next command, up to 64 grains of a descriptor, and moves them in order. `checkOk` says that no
grain fails a check of R49 that depends on what the descriptor expects of it (KIND, SESSION, JOB, LGN, OWNER_EPOCH), or for its medium's sake;
the CRC, FMT and SEALED are computed. A pump whose reads a segment holds takes up nothing until the segment has ended. -/
def execPumpTakeUp (pump : Nat) (checkOk : Bool) (s : State) : Res := s.ifReady <|
  if (mget (s.pool Cls.pump).busy pump).isSome then .next s
  else
    let t := s.pick Cls.pump pump
    match mget (t.pool Cls.pump).busy pump with
    | some { work := .pump n, .. } =>
      match mget t.pumpDescs n with
      | none => .next t
      | some x =>
        match mget t.progs x.prog with
        | none => .next t
        | some p =>
          match s.descHeld x p with
          | [] => .next (t.pumpRun n { x with taken := true, waited := false } p checkOk)
          | q :: qs =>
            if x.waited then .next s
            else .next { s.countHeld (q :: qs) with pumpDescs := mput s.pumpDescs n { x with waited := true } }
    | _ => .next t

/-- PUMP_DESCRIPTOR_DONE (R178): the descriptor a pump has carried out to its end completes. -/
def execPumpDescriptorDone (pump : Nat) (s : State) : Res := s.ifReady <|
  match mget (s.pool Cls.pump).busy pump with
  | some { work := .pump n, .. } =>
    match mget s.pumpDescs n with
    | none => .next s
    | some x =>
      match mget s.progs x.prog with
      | none => .next s
      | some p => if x.over (s.descBytes x p.ctx.job) then .next (s.descDone n x) else .next s
  | _ => .next s

/-- When the pump's command ends: a descriptor that is over completes, the rest of a longer one queues again behind the job's
other commands (Table 12.2). -/
def State.pumpEnded (s : State) (x : EngCmd) (n : Nat) : State :=
  match mget s.pumpDescs n with
  | none => s
  | some d =>
    match mget s.progs d.prog with
    | none => s
    | some p =>
      let bs := s.descBytes d p.ctx.job
      if d.over bs then s.descDone n d
      else s.enqueue Cls.pump { x with cost := min 64 (descCount bs - d.done) }

/-! ## Group power (R121 to R126) -/

/-- Every core of a group is halted (R122): no live program names the group, and no step runs on it. -/
def State.groupHalted (s : State) (g : Nat) : Bool :=
  (groupCores g).all (fun c => (s.core c).halted) && s.progs.all (fun e => !(e.2.mask.getLsbD g) || !e.2.started) &&
    s.serving.all (fun e => !e.2.running || (match mget s.models e.1 with
      | none => true
      | some m => !(s.job m.job).slice.serve.getLsbD g))

/-- RETAIN: registers and tiles are lost. OFF: the store and the semaphores too. DESIGN CHOICE (log entry 53): the lost registers and tiles hold 0
afterwards; no rule says what they hold, and every way to a core's next bed sets them (R148). -/
def State.groupRetain (s : State) (g : Nat) : State :=
  let s := (groupCores g).foldl (fun s c => s.setCore c { s.core c with regs := {} }) s
  s.setGroup g { s.group g with state := 1 }
def State.groupOff (s : State) (g : Nat) : State :=
  let s := (groupCores g).foldl (fun s c => { s with cores := mdel s.cores c }) s
  s.setGroup g { s.group g with state := 2, lastJob := 64 }

/-- GROUP_AUTO_RETAIN (R122): after IDLE_US of continuous halt with AUTO set, or when RETAIN has been requested. -/
def execGroupAutoRetain (g : Nat) (s : State) : Res := s.ifReady <|
  let x := s.group g
  if x.state = 0 && s.groupHalted g && ((bit x.ctl 2 && decide (fld x.ctl 32 16 ≤ s.now - x.haltedSince)) || fld x.ctl 0 2 == 1) then
    .next (s.groupRetain g)
  else .next s

/-- IN_SLICE of PWR_GROUP_STAT. -/
def State.inSlice (s : State) (g : Nat) : Bool := s.jobs.any (fun e => e.2.active && e.2.slice.groups.getLsbD g)

/-- PWR_GROUP_CTL_WRITE (R126): a refused write changes no field and sets DENIED. -/
def execPwrGroupCtlWrite (g : Nat) (v : W64) (s : State) : Res := s.ifUp <|
  let x := s.group g
  if !onlyFields v [(0, 3), (8, 8), (32, 16)] then .fault .unpredictableDevice
  else if fld v 0 2 = 3 ∨ fld v 8 8 < 11 ∨ 33 < fld v 8 8 ∨ (fld v 0 2 = 2 ∧ s.inSlice g = true) then
    .next (s.setGroup g { x with denied := true })
  else
    let s := s.setGroup g { x with ctl := v }
    let s := if fld v 0 2 = 0 then s.setGroup g { s.group g with state := 0 }
      else if fld v 0 2 = 2 then (if (s.group g).state = 2 then s else s.groupOff g)
      else if x.state = 0 && s.groupHalted g then s.groupRetain g else s
    .next s

/-! ## Turns on shared groups (R337 to R339) -/

/-- The work of a job occupies a group: a running program names it, or it serves a model with a step in progress or queued
requests. -/
def State.workOn (s : State) (j g : Nat) : Bool :=
  s.progs.any (fun e => e.2.started && e.2.ctx.job == j && e.2.mask.getLsbD g) ||
    ((s.job j).slice.serve.getLsbD g && s.reqs.any (fun e => e.2.job == j && e.2.rstate != .free))

/-- Switch one group from its job to job `b` (R339 steps 3 and 4). -/
def State.switchGroup (s : State) (g b : Nat) : State :=
  let x := s.group g
  let a := x.job
  let shared := s.sharedSlots b g
  let saved := (groupCores g).foldl (fun m c => mput m c (s.core c)) (mgetD x.saved a [])
  let mine := mgetD x.saved b []
  let s := (groupCores g).foldl (fun s c =>
    let cur := s.core c
    let k := mgetD mine c {}
    s.setCore c { k with store := mergeStore shared k.store cur.store }) s
  s.setGroup g { x with job := b, lastJob := b, saved := mput (mdel x.saved b) a saved }

/-- Has job `a`'s turn on groups `gs` reached its boundary: every program with one of them between beds on all its cores, no step of its models running
there, and everything its cores issued landed (R338, R339 step 1)? -/
def State.atBoundary (s : State) (a : Nat) (gs : List Nat) : Bool :=
  s.progs.all (fun e => e.2.ctx.job != a || !e.2.started || !gs.any (fun g => e.2.mask.getLsbD g) ||
      e.2.cores.all (fun c => (s.jobCore a c).bedPos == 0)) &&
    s.cores.all (fun e => (s.group (coreGroup e.1)).job != a || e.2.flight.isEmpty) &&
    s.serving.all (fun e => !e.2.running || (match mget s.models e.1 with
      | none => true
      | some m => m.job != a || !gs.any (fun g => (s.job a).slice.serve.getLsbD g)))

/-- The cycles of a turn's serving steps go to their requests in proportion to their rows, the rest to the first entry. -/
def State.chargeSteps (s : State) (j cyc : Nat) : State :=
  let es := s.serving.flatMap (fun e => if (mget s.models e.1).any (fun m => m.job == j) then e.2.entries else [])
  let rows := es.foldl (fun n e => n + e.tokens.length) 0
  if rows = 0 then s
  else
    let parts := es.map (fun e => (e.req, cyc * e.tokens.length / rows))
    let rest := cyc - parts.foldl (fun n p => n + p.2) 0
    let parts := match parts with
      | [] => []
      | p :: ps => (p.1, p.2 + rest) :: ps
    parts.foldl (fun s p => s.modReq p.1 (fun r => { r with engineCyc := r.engineCyc + BitVec.ofNat 64 p.2 })) s

/-- CONTEXT_SWITCH (R338, R339): at a turn's end the CGRP pool chooses the next job by shares and deficits; every group that
the old job's turn covers and the new job also has is switched together. A program or a model of which one group is switched is suspended as a
whole (`State.running`). -/
def execContextSwitch (group cyc : Nat) (s : State) : Res := s.ifReady <|
  let a := (s.group group).job
  let held (g : Nat) := (s.group g).job == a && (s.jobs.filter (fun e => e.2.active && e.2.slice.groups.getLsbD g)).length > 1
  if a = 64 ∨ held group = false then .next s
  else
    let p := s.pool Cls.cgrp
    let est := s.estimate Cls.cgrp
    let p := { p with deficit := mput p.deficit a (mgetD p.deficit a 0 + (est a : Int) - (cyc : Int)), est := mput p.est a cyc }
    let has (j : Nat) := (s.job j).active && (s.job j).slice.groups.getLsbD group && s.workOn j group
    let mine := (List.range 64).filter (fun g => held g && (s.workOn a g || g == group))
    if !s.atBoundary a mine || !((List.range 64).any has) then .next s
    else
      let s := ((s.setPool Cls.cgrp p).account Cls.cgrp a 0 0 cyc).chargeSteps a cyc
      let deep := (p.deficit.map (fun e => e.2.natAbs)).foldl max 0
      match p.serve has (fun j => s.share j Cls.cgrp) (fun _ => s.quant Cls.cgrp) (fun j => s.estimate Cls.cgrp j) (64 * (deep + 2) + 64) with
      | none => .next s
      | some (b, p) =>
        let s := s.setPool Cls.cgrp p
        if b = a then .next s
        else .next ((mine.filter (fun g => (s.job b).slice.groups.getLsbD g)).foldl (fun s g => s.switchGroup g b) s)

end Sys2Proof.Machine
end

