-- ==== Sys2Proof/Machine/Sessions.lean ====
section
/-!
DEFINITION. Sys2Proof/Machine/Sessions.lean: the session table (01_sessions): entries, checks, time to live, expiry, binding,
the freeing of sessions, and the grains a job may hold (02_grains_and_tiers, R52 to R58; 12_jobs_slices_sharing, R529).
-/
namespace Sys2Proof.Machine

open Sys2Proof

/-! ## Entries -/

/-- LAYERS × KVH of a session's model on this device (R55). -/
def State.pairs (s : State) (i : Nat) : Nat := (s.aux i).layers * (s.aux i).kvh

/-- R25: bits [47:0] of the clock, minus EXPIRY, modulo 2^48, is less than 2^47. -/
def expiredAt (now expiry : Nat) : Bool := (now % 2 ^ 48 + 2 ^ 48 - expiry) % 2 ^ 48 < 2 ^ 47

/-- Is a session expired (R25)? -/
def State.expired (s : State) (i : Nat) : Bool :=
  let x := s.sess i
  (x.state == .open || x.state == .toolWait || x.state == .parked) && expiredAt s.now x.expiry

/-- EXPIRY from a time to live in seconds, clamped to 100,000,000 s (R24). -/
def State.expiryIn (s : State) (ttl : Nat) : Nat := (s.now + min ttl 100000000 * 1000000) % 2 ^ 48

/-- TTL_OPEN_S and the parked default of SES_JOB_TTL. -/
def State.ttlOpen (s : State) (j ttl : Nat) : Nat := if ttl = 0 then fld (s.reg (Reg.jobTtl j)) 0 32 else ttl
def State.ttlPark (s : State) (j ttl : Nat) : Nat := if ttl = 0 then fld (s.reg (Reg.jobTtl j)) 32 32 else ttl

/-- Request identifier of an index (R27). -/
def State.reqId (s : State) (i : Nat) : Nat := i + (s.req i).gen <<< 16

/-- Table 1.4: the 128 B of an entry. -/
def State.reqImage (s : State) (i : Nat) : List Byte :=
  let r := s.req i
  let work := ((s.raux? i).map (·.work)).getD []
  leBytes 4 (r.gen + r.rstate.code <<< 16 + r.prio <<< 20 + r.spec <<< 23 + r.job <<< 26) ++
    leBytes 4 (r.session + r.cwell <<< 24) ++ leBytes 8 r.deadline ++ leBytes 4 r.startLen ++ leBytes 4 r.curLen ++
    leBytes 4 r.maxNew ++ leBytes 4 r.stopRef ++ leBytes 4 r.gramRef ++ leBytes 2 r.shareGroup ++ leBytes 2 r.adapterVer ++
    leBytes 8 (mapRoot work).toNat ++ leBytes 4 r.tokEmitted ++
    leBytes 4 (r.toolMask.toNat + r.flags.toNat <<< 16) ++ leBytes 8 r.engineCyc.toNat ++ leBytes 2 r.selB ++ leBytes 2 r.selS ++
    leBytes 4 r.selW ++ leBytes 8 r.arrival ++ leBytes 4 r.ttlAfter ++ leBytes 2 r.pauses ++ zeros 42

/-! ## Counts -/

/-- Sessions and live requests of a job (SES_JOB_COUNT); a limit below them refuses, and ends nothing (R45). -/
def State.sessCount (s : State) (j : Nat) : Nat :=
  (s.sessions.filter (fun e => e.2.state != .free && e.2.job == j && !(s.aux e.1).unbound)).length
def State.reqCount (s : State) (j : Nat) : Nat := (s.reqs.filter (fun e => e.2.rstate != .free && e.2.job == j)).length
def State.liveReqs (s : State) : Nat := (s.reqs.filter (fun e => e.2.rstate != .free)).length

/-- A FREE index of the request table, where the device chooses. -/
def State.freeReq (s : State) (start : Nat) : Option Nat :=
  ((List.range (s.liveReqs + 1)).map (fun i => (start + i) % 65536)).find? (fun i =>
    (s.req i).rstate == .free && decide (s.liveReqs < 65536))

/-! ## A job's HBM (R326, R529) -/

/-- Pseudo-channels in which grains may be allocated: a recomposition's removals are closed from its check on (R330). -/
def Job.allocPc (x : Job) : BitVec 256 := match x.want with
  | none => x.slice.pc
  | some w => x.slice.pc &&& w.pc

def State.hbmGrains (s : State) (pc : BitVec 256) : Nat := popcnt pc * (1430 - s.devRg) * 64

/-- Context areas of a slice (R337): one for each of its groups that another slice holds too. -/
def State.contextGrains (s : State) (j : Nat) (sl : Slice) : Nat :=
  ((ones sl.groups).filter (fun g => s.jobs.any (fun e => e.1 != j && e.2.active && e.2.slice.groups.getLsbD g))).length *
    cdiv (64 * (40 * 1024 + 16384 * popcnt sl.slots)) 16384

/-- Bytes as grains. -/
def grainsOf (n : Nat) : Nat := cdiv n 16384

/-- Table 12.11: what a version of each object takes. -/
def IndexVer.grains (v : IndexVer) : Nat := grainsOf (64 + v.hot * at_ v.image 24 4)
def FilterVer.grains (v : FilterVer) : Nat := grainsOf v.bits.length
def rowLen (dim : Nat) : Nat := cdiv (dim + dim / 32) 32 * 32
/-- Rows of a version that hold a place in a tier and region: those that lie there, migrate there, or whose old copy there is still read. -/
def TableVer.rowsIn (v : TableVer) (tier region : Nat) : Nat :=
  (v.rowMap.filter (fun e => e.2.tier == tier && e.2.region == region)).length +
    (v.rowMap.filter (fun e => e.2.migrating.any (fun m => m.1 == tier && m.2.1 == region))).length +
    (v.olds.filter (fun o => o.1 == tier && o.2.1 == region)).length
def TableVer.grains (v : TableVer) : Nat := grainsOf (v.rowsIn 1 0 * rowLen v.dim) + grainsOf (8 * v.rowMap.length)

/-- Grains a job's loaded objects take. -/
def State.objectGrains (s : State) (j : Nat) : Nat :=
  let x := s.job j
  let sum {α : Type} (m : Map α) (f : α → Nat) : Nat := m.foldl (fun n e => n + f e.2) 0
  let tot {α : Type} (vs : List α) (f : α → Nat) : Nat := vs.foldl (fun n v => n + f v) 0
  sum (s.models.filter (fun e => e.2.job == j)) (·.len) +
    sum x.adapters (fun a => tot a.versions (fun v => grainsOf v.image.length)) +
    sum x.vocabs (fun a => tot a.versions (fun v => grainsOf v.image.length)) +
    sum x.grammars (fun a => tot a.versions (fun v => grainsOf v.image.length)) +
    sum x.indexes (fun a => tot a.versions IndexVer.grains) +
    sum x.filters (fun a => tot a.versions FilterVer.grains) +
    sum x.tables (fun a => tot a.versions TableVer.grains) +
    tot x.passMaps (fun p => grainsOf (cdiv p.2.length 8))

/-- The slice capacity of R529, in grains. -/
def State.capacity (s : State) (j : Nat) : Nat :=
  let x := s.job j
  s.hbmGrains x.slice.pc - s.contextGrains j x.slice - s.objectGrains j

/-- The effective T1 limit (R69). -/
def State.t1Limit (s : State) (j : Nat) : Nat :=
  let l := fld (s.reg (Reg.jobT1 j)) 32 32
  if l = 0 ∨ s.capacity j < l then s.capacity j else l

/-- T1_USED of a job (Table 2.17). -/
def State.t1Used (s : State) (j : Nat) : Nat := (s.allGrains.filter (fun g => g.1 == j && gTier g.2.addr == 1)).length

/-- Room for `n` more T1 grains under the effective limit, and for `n` grains of objects in the budget (R529). -/
def State.t1Room (s : State) (j n : Nat) : Bool := s.t1Used j + n ≤ s.t1Limit j
def State.objectRoom (s : State) (j n : Nat) : Bool :=
  s.t1Used j + s.contextGrains j (s.job j).slice + s.objectGrains j + n ≤ s.hbmGrains (s.job j).allocPc

/-! ## Places (R53, R54, R328) -/

/-- Is a unit out of service or in probation (R485, R486)? -/
def State.unitAway (s : State) (k : UnitKind) (u : Nat) : Bool := (mget s.errs.units (unitKey k u)).isSome

/-- Does a step of the job run? -/
def State.stepping (s : State) (j : Nat) : Bool := s.serving.any (fun e => e.2.running && (mget s.models e.1).any (fun m => m.job == j))
/-- SCH_JOB_SERVE and SCH_JOB_SLACK in force: a write takes effect at the next step boundary (R267), at once while no step of the job runs
(DESIGN CHOICE, log entry 53). -/
def State.servePolicy (s : State) (j : Nat) : W64 := if s.stepping j then (s.job j).serve else s.reg (Reg.jobServe j)
def State.slackPolicy (s : State) (j : Nat) : W64 := if s.stepping j then (s.job j).slack else s.reg (Reg.jobSlack j)
/-- H, the effective HOT_SLOTS (R328), and the slots of the weight space. -/
def State.hotSlots (s : State) (j : Nat) : Nat :=
  min (min 40 (max 8 (fld (s.servePolicy j) 0 6))) (popcnt (s.job j).slice.slots - 8)
def State.grainSlots (s : State) (j : Nat) : List Nat := (ones (s.job j).slice.slots).drop (s.hotSlots j)

/-- The T1 grain number `k` of pseudo-channel `pc`, and whether a bank takes grains. -/
def State.t1Place (s : State) (pc k : Nat) : W64 := gMake 1 0 (t1Addr (s.devRg + k / 64) (k % 64) pc)
def State.t1Free (s : State) (used : List W64) (pc start : Nat) : Option W64 :=
  let total := (1430 - s.devRg) * 64
  let away (k : Nat) := s.unitAway .bank (64 * pc + k % 64)
  let tries := used.length + 1 + (s.errs.units.length) * 1430
  ((List.range (min total tries)).map (fun i => (start + i) % max 1 total)).findSome? (fun k =>
    let a := s.t1Place pc k
    if away k || used.contains a then none else some a)

/-- A free T1 grain of a job: in the pseudo-channel after that of `after` in the ascending cycle (R54), or where the device
chooses; in the next ones of the cycle when one is full. -/
def State.t1Alloc (s : State) (j : Nat) (used : List W64) (after : Option W64) : Option W64 × State :=
  let pcs := ones (s.job j).allocPc
  let (n, s) := s.draw
  let (m, s) := s.draw
  let k := Config.freeNat n % max 1 pcs.length
  let order := match after with
    | some a => pcs.filter (fun p => decide (t1Pc a < p)) ++ pcs.filter (fun p => decide (p ≤ t1Pc a))
    | none => pcs.drop k ++ pcs.take k
  (order.findSome? (fun pc => s.t1Free used pc (Config.freeNat m)), s)

/-- Free T0 grains of a job's groups outside the weight space (R72, R328). -/
def State.t0Places (s : State) (j : Nat) (used : List W64) : List W64 :=
  ((ones (s.job j).slice.groups).flatMap (fun g => (groupCores g).flatMap (fun c =>
    (s.grainSlots j).map (fun t => gMake 0 0 (c + t <<< 12))))).filter (fun a => !used.contains a)

/-- Give each grain of a list a place in T0 or T1, in order; MAP grains lie in either tier where the device chooses (R56). A block of a pair goes on
in the cycle from the pair's block before it, which may stand among the session's grains `near` (R54). -/
def State.placeAll (s : State) (j pairs tier : Nat) (near : List SGrain) : List SGrain → List SGrain → List SGrain × State
  | [], done => (done, s)
  | g :: rest, done =>
    let used := (s.allGrains.map (fun e => e.2.addr)) ++ done.map (·.addr)
    let (n, s) := s.draw
    let t0 := if tier = 0 ∨ (g.kind = 2 ∧ Config.freeBool n = true) then s.t0Places j used else []
    match t0[Config.freeNat n % max 1 t0.length]? with
    | some a => State.placeAll s j pairs tier near rest (done ++ [{ g with addr := a }])
    | none =>
      let after := if g.kind = 1 then
          (((done ++ near).find? (fun x => x.kind == 1 && x.lgn + pairs == g.lgn)).map (·.addr)).filter (fun a => gTier a == 1)
        else none
      let (a, s) := s.t1Alloc j used after
      State.placeAll s j pairs tier near rest (done ++ [{ g with addr := a.getD gAbsent }])

/-- The level of a session's root (R56). -/
def rootLevel (pairs : Nat) : Nat := if 16 + 16384 * pairs ≤ 4161600 then 2 else 3

/-- The MAP grains that a set of data grains needs under a root of a level: (level, first logical index). The root always. -/
def mapNodes (level : Nat) (gs : List SGrain) : List (Nat × Nat) :=
  let data := (gs.filter (fun g => g.kind != 2)).map (·.lgn)
  let at1 := (data.map (fun l => (1, l / 2040 * 2040))).eraseDups
  let at2 := (data.map (fun l => (2, l / (2040 * 2040) * (2040 * 2040)))).eraseDups
  at1 ++ (if level = 3 then at2 else []) ++ [(level, 0)]

/-- The grains with exactly the MAP grains they need, kept where they are or newly placed. -/
def State.withMaps (s : State) (j pairs level epoch tier : Nat) (gs : List SGrain) : List SGrain × State :=
  let need := mapNodes level gs
  let kept := gs.filter (fun g => g.kind != 2 || need.contains (g.level, g.lgn))
  let fresh := (need.filter (fun n => !kept.any (fun g => g.kind == 2 && g.level == n.1 && g.lgn == n.2))).map (fun n =>
    ({ lgn := n.2, kind := 2, level := n.1, addr := gAbsent, epoch := epoch, slots := [] } : SGrain))
  let (placed, s) := s.placeAll j pairs tier [] fresh []
  (kept ++ placed, s)

/-! ## The cache of the session table (R12, R13) -/

/-- Does the copy of an entry in HBM differ from the entry? The copy of a FREE entry differs only while it names another state. -/
def State.sesDirty (s : State) (i : Nat) : Bool :=
  let b := (s.seq (seqOf (64 * i))).held.foldl (overlay (64 * i)) (Memory.read s.hbm (64 * i) 64)
  if (s.sess i).state = .free then at_ b 0 1 % 16 != 0 else b != (s.sess i).image

/-- Write an entry back to HBM with a new CRC, if it differs from its copy there; SES_CACHE_STAT counts it. -/
def State.sesWriteBack (s : State) (i : Nat) : State :=
  if s.sesDirty i then
    let s := if (s.aux i).corrupt then s.modAux i (fun a => { a with corrupt := false }) else s
    (s.wrHbm (64 * i) (s.sess i).image).countReg Reg.cacheStat 32 32 1
  else s

/-- Room for one more entry: the least recently used entry without a live request is evicted; none when there is no such entry. -/
def State.sesRoom (s : State) : Option State :=
  if s.sesCache.length < 65536 then some s
  else (s.sesCache.reverse.find? (fun k => (s.sess k).curReq == 0)).map (fun k =>
    { s.sesWriteBack k with sesCache := s.sesCache.filter (· != k) })

/-- The entry served by bypass, if any, is written back. -/
def State.sesBypassed (s : State) : State := match s.sesBypass with
  | none => s
  | some k => { s.sesWriteBack k with sesBypass := none }

/-- The engine takes up an operation on session `i`: an entry not in the cache is filled, or served by bypass while a live request holds every
cached entry. The Bool says that the CRC check of what was read failed. DESIGN CHOICE (log entry 53): SES_CACHE_STAT counts no fill for
a bypass; a bypassed entry is written back when the engine next takes up any operation. -/
def State.sesAccess (s : State) (i : Nat) : State × Bool :=
  let s := s.sesBypassed
  if s.sesCache.contains i then ({ s with sesCache := i :: s.sesCache.filter (· != i) }, false)
  else
    let bad := (s.aux i).corrupt && (s.sess i).state != .free
    match s.sesRoom with
    | none => ({ s with sesBypass := some i }, bad)
    | some s => (({ s with sesCache := i :: s.sesCache }).countReg Reg.cacheStat 0 32 1, bad)

/-! ## Freeing -/

/-- Grains per pair of a session, and the length of its extent (R58). -/
def extentLen (pairs retained : Nat) : Nat := 4 + pairs * cdiv retained 64

/-- Release a peer extent: PEER_FREE goes out, and again until it is acknowledged (R370). -/
def State.peerRelease (s : State) (i j : Nat) (a : W64) : State :=
  let s := { s with fabric := { s.fabric with peerFrees := s.fabric.peerFrees ++ [({ addr := a, session := i, job := j, sent := s.now } : PeerFree)] } }
  (s.send j 1 Msg.peerFree (gNode a) 0 a [] (s.shareOf i)).1

/-- Free what an extent of `count` grains at a root takes in T2 and T3. -/
def State.extentFree (s : State) (j : Nat) (root : W64) (count : Nat) : State :=
  if gTier root = 2 then s.flashFree (gAddr root) count
  else if gTier root = 3 then
    s.modJob j (fun x => match mget x.regions (gAddr root >>> 28) with
      | none => x
      | some r =>
        let r := { r with used := r.used.filter (fun u => u.1 != gAddr root % 2 ^ 28) }
        { x with regions := mput x.regions (gAddr root >>> 28) r })
  else s

/-- The CLOSEs that wait for a session complete. -/
def State.closeDone (s : State) (i code : Nat) : State := (s.aux i).closing.foldl (fun s c => s.complete c code 0 0 i) s

/-- A session in ENDING whose trims are durable and whose peer copies are released becomes FREE, and the CLOSEs that wait for it complete. -/
def State.settle (s : State) (i : Nat) : State :=
  let x := s.sess i; let a := s.aux i
  if x.state = .ending ∧ a.waitTrim = false ∧ a.waitPeer = false ∧ a.move.isNone then
    let s := (s.sesAccess i).1
    let s := { s with sessions := mdel s.sessions i, sessAux := mdel s.sessAux i }
    a.closing.foldl (fun s c => s.complete c Code.ok 0 0 i) s
  else s

/-- Free every copy a session has in every tier; it is in ENDING until the frees are durable and acknowledged (R35, R370,
R387). The destination of an unfinished move is freed at its grain boundary. -/
def State.endSession (s : State) (i : Nat) : State :=
  let x := s.sess i; let a := s.aux i
  let count := extentLen (s.pairs i) x.retained
  let s := s.extentFree x.job x.root count
  let peers := (if gTier x.root = 4 then [x.root] else []) ++ a.peerExtent.toList
  let s := peers.foldl (fun s p => s.peerRelease i x.job p) s
  let s := s.setSess i { x with state := .ending, grains := [], curReq := 0 }
  let s := s.modAux i (fun a => { a with
    grace := none, peerExtent := none
    waitTrim := a.waitTrim || gTier x.root == 2
    waitPeer := a.waitPeer || !peers.isEmpty
    move := a.move.map (fun m => { m with abandoned := true }) })
  s.settle i

/-- An event of a session to its EVENT_WELL; none while it is unbound (R42). -/
def State.sessEvent (s : State) (i status : Nat) (result : Nat := 0) : State :=
  if (s.aux i).unbound then s else s.event (s.sess i).job (s.sess i).eventWell status result i

/-- R13: an entry whose CRC fails at a fill: the record, and the entry and its grains freed. -/
def State.entryCorrupt (s : State) (i : Nat) : State :=
  let (_, s) := s.logErr { errRec 1 3 (bankOf (64 * i)) 3 (BitVec.ofNat 64 (64 * i)) with
    job := if (s.aux i).unbound then none else some (s.sess i).job, session := i, outcome := Code.entryCorrupt }
  (s.modAux i (fun a => { a with corrupt := false })).endSession i

/-! ## Checks -/

/-- LAST_ACTIVE moves when a descriptor names a session that is neither in ENDING nor expired (R16). -/
def State.touch (s : State) (i : Nat) : State :=
  let x := s.sess i
  if x.state = .ending ∨ s.expired i = true then s else s.setSess i { x with lastActive := s.now % 2 ^ 48 }

/-- R13, R19, R532 step 2, R16: a descriptor names session `i`; `touch` is off for PLACE_QUERY alone. DESIGN CHOICE (log entry 53): R532 gives
ENTRY_CORRUPT no place in its order; a fill that fails its check is found before JOB can be read, so it comes after NO_SESSION and
before NOT_OWNED_BY_JOB. -/
def State.withSession (s : State) (c : DescCtx) (i : Nat) (touch : Bool) (body : State → Res) : Res :=
  let (s, bad) := s.sesAccess i
  let x := s.sess i; let a := s.aux i
  if x.state = .free then .next (s.complete c Code.noSession 0 0 i)
  else if bad then .next ((s.entryCorrupt i).complete c Code.entryCorrupt 0 0 i)
  else if a.unbound ∨ x.job ≠ c.job then .next (s.complete c Code.notOwnedByJob 0 0 i)
  else body (if touch then s.touch i else s)

/-- Is the session in ENDING, or expired, so that it completes with WRONG_STATE (R19, R26)? -/
def State.gone (s : State) (i : Nat) : Bool := (s.sess i).state == .ending || s.expired i

/-! ## Binding (R42) -/

/-- May an unbound session bind to the job whose number it carries? -/
def State.mayBind (s : State) (x : Session) (a : SessAux) : Bool :=
  let j := s.job x.job
  j.active && s.jobTag x.job != 0 && s.jobTag x.job == a.jobTag && j.conf == x.conf &&
    (!x.conf || (j.keys.locked && j.keys.keyset == a.keyset))

/-- Bind every rebuilt session that may bind now. -/
def State.rebind (s : State) : State :=
  { s with sessAux := s.sessAux.map (fun (e : Nat × SessAux) =>
      (e.1, if e.2.unbound && s.mayBind (s.sess e.1) e.2 then { e.2 with unbound := false } else e.2)) }

/-! ## Commands -/

def kOpenSession : Kind :=
  { code := 0x0101, since := 0, cwell := none, keys := false, preempt := false,
    fields := [(128, 16), (160, 16), (176, 16), (192, 64), (256, 32)] }

/-- A handle of the job has a current version. -/
def Job.adapterCurrent (x : Job) (h : Nat) : Option AdapterVer :=
  (mget x.adapters h).bind (fun a => a.current.bind (fun v => a.versions.find? (fun y => y.ver == v)))
def ByteObj.cur (o : ByteObj) : Option ByteVer := o.current.bind (fun v => o.versions.find? (fun y => y.ver == v))

/-- The model a handle names for a job (R256). -/
def State.modelOf (s : State) (j h : Nat) : Option Model := (mget s.models h).filter (fun m => m.job == j)

/-- Does a handle name a model that another job loaded (R256)? -/
def State.modelAlien (s : State) (j h : Nat) : Bool := (mget s.models h).any (fun m => m.job != j)

/-- OPEN_SESSION (R31): any FREE index; the META, SAMPLER, DETOK and GRAMMAR grains that every session has (R58, DEDUCED) and the
root MAP grain are placed (R56). DESIGN CHOICE (log entry 53): LAST_ACTIVE starts at the local clock; neither R31 nor R16 gives its value. -/
def execOpenSession (job well : Nat) (d : Desc) (s : State) : Res :=
  s.takeUp kOpenSession job well d fun c s =>
    let (n, s) := s.draw
    let free := mfree s.sessions (Config.freeNat n % 2 ^ 24) (2 ^ 24)
    let quota := fld (s.reg (Reg.jobQuota job)) 0 25
    let adapter := dfld d 20 0 16; let grammar := dfld d 22 0 16
    match firstFail [
      (free.isSome, Code.tableFull),
      (decide (s.sessCount job < quota), Code.sessionQuota),
      ((s.modelOf job (dfld d 16 0 8)).isSome, Code.modelNotLoaded),
      (adapter == 0xFFFF || ((s.job job).adapterCurrent adapter).isSome, Code.adapterNotFound),
      (grammar == 0 || ((mget (s.job job).grammars grammar).bind ByteObj.cur).isSome, Code.grammarNotFound)],
      free, s.modelOf job (dfld d 16 0 8) with
    | some e, _, _ => .next (s.complete c e)
    | none, some i, some m =>
      let pairs := m.layers * m.kvh
      let small : List SGrain := (List.range 4).map (fun l => { lgn := l, kind := 3 + l, level := 0, addr := gAbsent, epoch := 1, slots := [] })
      let (small, s) := s.placeAll job pairs 1 [] small []
      let (gs, s) := s.withMaps job pairs (rootLevel pairs) 1 1 small
      let x : Session :=
        { state := .open, pinned := bit d (128 + 11), conf := (s.job job).conf, job := job, model := dfld d 16 0 8,
          prio := dfld d 16 8 3, eventWell := dfld d 16 12 4, ownerEpoch := 1, adapter := adapter, root := mapRoot gs,
          expiry := s.expiryIn (s.ttlOpen job (dfld d 32 0 32)), lastActive := s.now % 2 ^ 48, grammar := grammar,
          seed := BitVec.ofNat 64 (dfld d 24 0 64), level := rootLevel pairs, grains := gs }
      let s := ((s.sesAccess i).1.setSess i x).setAux i { layers := m.layers, kvh := m.kvh, modelDigest := m.digest, metaEntry := x.image }
      .next (s.complete c Code.ok i 0 i)
    | none, _, _ => .next s

/-- SESSION_EXPIRY (R25, R26): the sweep reaches an expired session. -/
def execSessionExpiry (session : Nat) (s : State) : Res := s.ifReady <|
  if (s.sess session).state = .free then .next s
  else
    let (s, bad) := s.sesAccess session
    if bad then .next (s.entryCorrupt session)
    else if !s.expired session then .next s
    else .next ((s.sessEvent session Code.sessionExpired).endSession session)

/-- A request entry, and a session entry, as software outside its job may see them: of a confidential job only STATE, CONF, JOB and RSTATE (R44, R484). -/
def State.peekReq (s : State) (i : Nat) : List Byte :=
  let r := s.req i
  if r.rstate ≠ .free ∧ (s.job r.job).conf = true then leBytes 4 (r.rstate.code <<< 16 + r.job <<< 26) ++ zeros 124 else s.reqImage i
def State.peekSess (s : State) (i : Nat) : List Byte :=
  let x := s.sess i
  if x.state = .free then zeros 64
  else if x.conf then [BitVec.ofNat 8 (x.state.code + 64), BitVec.ofNat 8 x.job] ++ zeros 62
  else x.image

/-- SES_PEEK (R43, R44, Table 1.11). -/
def execSesPeek (fn : Nat) (v : W64) (s : State) : Res := s.ifUp <|
  if !onlyFields v [(0, 25), (31, 1)] then .fault .unpredictableDevice
  else
    let s := s.modFunc fn (fun f => { f with peekCtl := setFld v 31 1 0 })
    if !bit v 31 then .next s
    else
      let (s, bad) := if bit v 24 then (s, false) else s.sesAccess (fld v 0 24)
      let s := if bad then s.entryCorrupt (fld v 0 24) else s
      let bytes :=
        if bit v 24 then
          let r := s.req (fld v 0 16)
          if fn ≠ 0 ∧ (r.rstate = .free ∨ (s.job r.job).func ≠ fn) then zeros 128 else s.peekReq (fld v 0 16)
        else
          let i := fld v 0 24; let x := s.sess i
          if fn ≠ 0 ∧ (x.state = .free ∨ (s.aux i).unbound = true ∨ (s.job x.job).func ≠ fn) then zeros 128
          else s.peekSess i ++ zeros 64
      .next (s.modFunc fn (fun f => { f with peek := bytes }))

/-- SES_CACHE_FLUSH (Table 1.10): every dirty entry of the cache is written back to the table at HBM address 0 (R11, R13). -/
def execSesCacheFlush (s : State) : Res := s.ifUp <| .next ((s.sesCache ++ s.sesBypass.toList).foldl State.sesWriteBack s)

/-- SES_REBUILT_DROP (R42): every unbound rebuilt session of a job number is freed. -/
def execSesRebuiltDrop (job : Nat) (s : State) : Res := s.ifUp <|
  .next ((s.sessAux.filter (fun e => e.2.unbound && (s.sess e.1).job == job)).foldl (fun s e => (s.sesAccess e.1).1.endSession e.1) s)

/-- JOB_TAG_WRITE (R358, R42). -/
def execJobTagWrite (job : Nat) (tag : W32) (s : State) : Res := s.ifUp <|
  if tag ≠ 0 ∧ (List.range 64).any (fun k => k != job && s.jobTag k == tag) = true then
    .next { s with fabric := { s.fabric with tagConflict := true } }
  else .next ((s.setReg (Reg.jobTag job) (tag.setWidth 64)).rebind)

end Sys2Proof.Machine
end

