-- ==== Sys2Proof/Machine/Text.lean ====
section
/-!
DEFINITION. Sys2Proof/Machine/Text.lean: the text path as pure functions of objects and bytes (10_text_path): vocabularies and
tokenization, grammar images and masks, the stop matcher, UTF-8 assembly, and the privileged lanes' slots.
-/
namespace Sys2Proof.Machine

open Sys2Proof

/-! ## Vocabulary objects (R268, R269) -/

/-- Bytes of token `i` (R272). -/
def tokBytes (im : List Byte) (i : Nat) : List Byte :=
  let e := at_ im 24 4 + 8 * i
  sub im (at_ im 28 4 + at_ im e 4) (at_ im (e + 4) 1)
def vocabSize (im : List Byte) : Nat := at_ im 8 4
def byteBase (im : List Byte) : Nat := at_ im 12 4
def isByteTok (im : List Byte) (t : Nat) : Bool := byteBase im ≤ t && t < byteBase im + 256
/-- LEFT, RIGHT and RESULT of merge `r`. -/
def mergeAt (im : List Byte) (r : Nat) : Nat × Nat × Nat :=
  let e := at_ im 36 4 + 12 * r
  (at_ im e 4, at_ im (e + 4) 4, at_ im (e + 8) 4)
def specials (im : List Byte) : List Nat := (List.range (at_ im 20 4)).map (fun i => at_ im (at_ im 40 4 + 4 * i) 4)

/-- No element of the list occurs twice. -/
def noDup {α : Type} [DecidableEq α] (xs : List α) : Bool := decide xs.Nodup

/-- R269 for an object of `len` bytes and a model of `vocab` tokens. -/
def vocabOk (im : List Byte) (len vocab : Nat) : Bool :=
  let n := vocabSize im
  let merges := (List.range (at_ im 16 4)).map (mergeAt im)
  decide (64 ≤ im.length) && at_ im 0 4 == 0x42434F56 && (at_ im 4 1 == 1 || at_ im 4 1 == 2) && zeroRun im 5 1 &&
    decide (1 ≤ at_ im 6 2 ∧ at_ im 6 2 ≤ 128) && decide (257 ≤ n ∧ n ≤ 262144) && n == vocab &&
    decide (byteBase im + 256 ≤ n) && decide (at_ im 16 4 ≤ 262143) && decide (at_ im 20 4 ≤ 1024) &&
    (at_ im 4 1 == 2 || (at_ im 20 4 == 0 && at_ im 40 4 == 0)) && at_ im 44 8 == len && im.length == len &&
    decide (len ≤ 64 * 1024 * 1024) && zeroRun im 52 12 &&
    inside im (at_ im 24 4) (8 * n) && inside im (at_ im 28 4) (at_ im 32 4) && inside im (at_ im 36 4) (12 * at_ im 16 4) &&
    inside im (at_ im 40 4) (4 * at_ im 20 4) &&
    (List.range n).all (fun i =>
      let e := at_ im 24 4 + 8 * i
      zeroRun im (e + 5) 3 && decide (1 ≤ at_ im (e + 4) 1 ∧ at_ im (e + 4) 1 ≤ at_ im 6 2) &&
        decide (at_ im e 4 + at_ im (e + 4) 1 ≤ at_ im 32 4)) &&
    (List.range 256).all (fun b => tokBytes im (byteBase im + b) == [BitVec.ofNat 8 b]) &&
    noDup (((List.range n).filter (fun i => !isByteTok im i)).map (tokBytes im)) &&
    noDup (merges.map (fun m => (m.1, m.2.1))) &&
    merges.all (fun m => decide (m.1 < n) && decide (m.2.1 < n) && decide (m.2.2 < n) &&
      tokBytes im m.2.2 == tokBytes im m.1 ++ tokBytes im m.2.1) &&
    (specials im).all (fun t => decide (t < n) && !isByteTok im t && decide (2 ≤ (tokBytes im t).length))

/-! ## UTF-8 (R288) -/

/-- What stands at the front of a byte string: a character of so many bytes, a maximal subpart of an ill-formed sequence of so
many bytes, or a well-formed sequence that is not finished. -/
inductive Utf8 where
  | char (n : Nat)
  | bad (n : Nat)
  | more
deriving DecidableEq, Repr

/-- Continuation bytes that must follow: `n` of them, the next one in `lo .. hi`; `k` bytes are already taken. -/
def utf8Tail : Nat → Nat → Nat → Nat → List Byte → Utf8
  | 0, k, _, _, _ => .char k
  | _ + 1, _, _, _, [] => .more
  | n + 1, k, lo, hi, b :: bs =>
    if lo ≤ b.toNat ∧ b.toNat ≤ hi then utf8Tail n (k + 1) 0x80 0xBF bs else .bad k

def utf8Front : List Byte → Utf8
  | [] => .more
  | b :: bs =>
    let x := b.toNat
    if x < 0x80 then .char 1
    else if 0xC2 ≤ x ∧ x ≤ 0xDF then utf8Tail 1 1 0x80 0xBF bs
    else if x = 0xE0 then utf8Tail 2 1 0xA0 0xBF bs
    else if x = 0xED then utf8Tail 2 1 0x80 0x9F bs
    else if 0xE1 ≤ x ∧ x ≤ 0xEF then utf8Tail 2 1 0x80 0xBF bs
    else if x = 0xF0 then utf8Tail 3 1 0x90 0xBF bs
    else if 0xF1 ≤ x ∧ x ≤ 0xF3 then utf8Tail 3 1 0x80 0xBF bs
    else if x = 0xF4 then utf8Tail 3 1 0x80 0x8F bs
    else .bad 1

/-- U+FFFD. -/
def replacement : List Byte := [0xEF, 0xBF, 0xBD]

/-- The assembler: what is emitted of pending and released bytes, and what stays pending. -/
def assemble : Nat → List Byte → List Byte × List Byte
  | 0, bs => ([], bs)
  | _, [] => ([], [])
  | n + 1, bs =>
    match utf8Front bs with
    | .char k => let (o, p) := assemble n (bs.drop k); (bs.take k ++ o, p)
    | .bad k => let (o, p) := assemble n (bs.drop (max 1 k)); (replacement ++ o, p)
    | .more => ([], bs)

/-! ## Tokenization (R270) -/

/-- The characters and lone bytes of a piece, with whether each is a character. -/
def characters : Nat → List Byte → List (Bool × List Byte)
  | 0, _ => []
  | _, [] => []
  | n + 1, b :: bs =>
    match utf8Front (b :: bs) with
    | .char k => (true, (b :: bs).take k) :: characters n ((b :: bs).drop k)
    | _ => (false, [b]) :: characters n bs

/-- The first symbols of a piece. -/
def firstSymbols (im : List Byte) (bs : List Byte) : List Nat :=
  (characters bs.length bs).flatMap (fun c =>
    let whole := if c.1 then (List.range (vocabSize im)).find? (fun t => !isByteTok im t && tokBytes im t == c.2) else none
    match whole with
    | some t => [t]
    | none => c.2.map (fun b => byteBase im + b.toNat))

/-- The rank and result of the merge of a pair. -/
def mergeOf (im : List Byte) (l r : Nat) : Option (Nat × Nat) :=
  ((List.range (at_ im 16 4)).find? (fun k => (mergeAt im k).1 == l && (mergeAt im k).2.1 == r)).map (fun k => (k, (mergeAt im k).2.2))

/-- The place, rank and result of the pair to merge next: the lowest rank, the leftmost among equals. -/
def bestMerge (im : List Byte) : Nat → List Nat → Option (Nat × Nat × Nat)
  | i, a :: b :: rest =>
    let later := bestMerge im (i + 1) (b :: rest)
    match mergeOf im a b with
    | none => later
    | some (r, t) => match later with
      | some (j, q, u) => if q < r then some (j, q, u) else some (i, r, t)
      | none => some (i, r, t)
  | _, _ => none

/-- Merge until no pair has a merge entry. -/
def mergeAll (im : List Byte) : Nat → List Nat → List Nat
  | 0, xs => xs
  | n + 1, xs =>
    match bestMerge im 0 xs with
    | none => xs
    | some (i, _, t) => mergeAll im n (xs.take i ++ t :: xs.drop (i + 2))

/-- Cut the text at its special tokens: the longest that starts at each byte, else the byte joins the ordinary piece. -/
def splitSpecials (im : List Byte) (sp : List Nat) : Nat → List Byte → List Byte → List (Option Nat × List Byte)
  | 0, piece, _ => [(none, piece)]
  | _, piece, [] => [(none, piece)]
  | n + 1, piece, b :: bs =>
    let here := sp.filter (fun t => (tokBytes im t).isPrefixOf (b :: bs))
    let best := here.foldl (fun (m : Option Nat) t => match m with
      | none => some t
      | some u => if (tokBytes im u).length < (tokBytes im t).length then some t else some u) none
    match best with
    | some t => (none, piece) :: (some t, []) :: splitSpecials im sp n [] ((b :: bs).drop (tokBytes im t).length)
    | none => splitSpecials im sp n (piece ++ [b]) bs

/-- The tokens of a text. -/
def tokenize (im : List Byte) (text : List Byte) : List Nat :=
  let pieces := if at_ im 4 1 = 2 then splitSpecials im (specials im) text.length [] text else [(none, text)]
  pieces.flatMap (fun p => match p.1 with
    | some t => [t]
    | none => let sy := firstSymbols im p.2; mergeAll im sy.length sy)

/-! ## Grammar images (R276 to R280) -/

/-- A transition: its action, next state or first ALT entry, symbol. -/
structure Trans where
  act : Nat
  next : Nat
  sym : Nat
deriving DecidableEq, Repr

def transOf (w : Nat) : Trans := { act := w / 2 ^ 16 % 8, next := w % 2 ^ 16, sym := w / 2 ^ 19 % 2 ^ 12 }
def transAt (im : List Byte) (st b : Nat) : Nat := at_ im (at_ im 20 4 + 4 * (256 * st + b)) 4
/-- ALT entry `i`: TOP, LAST and its transition word; the whole first word. -/
def altAt (im : List Byte) (i : Nat) : Nat × Nat := (at_ im (at_ im 24 4 + 8 * i) 4, at_ im (at_ im 24 4 + 8 * i + 4) 4)
def recipeAt (im : List Byte) (st : Nat) : Nat := at_ im (at_ im 28 4 + 4 * st) 4
def termAt (im : List Byte) (i : Nat) : Nat := at_ im (at_ im 32 4 + 4 * i) 4
def grammarStates (im : List Byte) : Nat := at_ im 8 4
def grammarClasses (im : List Byte) : Nat := at_ im 14 2

/-- The run of ALT entries from `i` on: its indices, if it ends within the image. -/
def altRun (im : List Byte) : Nat → Nat → Option (List Nat)
  | 0, _ => none
  | n + 1, i =>
    if !inside im (at_ im 24 4 + 8 * i) 8 then none
    else if (altAt im i).1.testBit 15 then some [i]
    else (altRun im n (i + 1)).map (fun r => i :: r)

/-- A transition word is well formed; one of an ALT entry may not be BY_TOP. -/
def transOk (im : List Byte) (w : Nat) (alt : Bool) : Bool :=
  let t := transOf w
  w < 2 ^ 31 && (match t.act with
    | 0 => true
    | 1 => decide (t.next < grammarStates im)
    | 2 | 3 => decide (t.next < grammarStates im) && decide (t.sym < at_ im 12 2)
    | 4 => !alt && (match altRun im im.length t.next with
      | none => false
      | some r => r.all (fun i => (altAt im i).1 % 2 ^ 15 / 2 ^ 12 == 0 && decide ((altAt im i).1 < 2 ^ 16)))
    | _ => false)

/-- The failures of R277, first to last, after its check of the handle; `room` says whether the image and its bitmaps fit. -/
def grammarCheck (im : List Byte) (len vocab : Nat) (room : Bool) : Option Nat :=
  let ns := grammarStates im
  let headOk := decide (64 ≤ im.length) && at_ im 0 4 == 0x4D415247 && at_ im 4 1 == 1 &&
    at_ im 44 8 == len && im.length == len && zeroRun im 52 12 && zeroRun im 6 2 && decide (at_ im 5 1 < 128) && decide (ns < 2 ^ 17) &&
    decide (at_ im 12 2 < 2 ^ 12) && decide (grammarClasses im < 2 ^ 13) && decide (at_ im 16 4 < 2 ^ 19)
  let limitOk := decide (at_ im 5 1 ≤ 64) && decide (ns ≤ 65536) && decide (grammarClasses im ≤ 4096) &&
    (List.range ns).all (fun st => !inside im (at_ im 28 4 + 4 * st) 4 || decide (recipeAt im st / 2 ^ 24 % 32 ≤ 16))
  let tablesOk := inside im (at_ im 20 4) (1024 * ns) && inside im (at_ im 28 4) (4 * ns) &&
    inside im (at_ im 36 4) (32768 * grammarClasses im) && inside im (at_ im 40 4) 8192
  let shapeOk := decide (1 ≤ at_ im 5 1) && decide (1 ≤ ns) && decide (1 ≤ at_ im 12 2) && decide (1 ≤ grammarClasses im) &&
    at_ im 16 4 == vocab && tablesOk &&
    (List.range ns).all (fun st =>
      let r := recipeAt im st
      decide (r < 2 ^ 29) && (List.range (r / 2 ^ 24 % 32)).all (fun k =>
        let i := r % 2 ^ 24 + k
        let t := termAt im i
        inside im (at_ im 32 4 + 4 * i) 4 && decide (t < 2 ^ 27) && decide (t % 2 ^ 12 < grammarClasses im) && t / 2 ^ 12 % 4 != 3) &&
      (List.range 256).all (fun b =>
        let w := transAt im st b
        transOk im w false && ((transOf w).act != 4 || match altRun im im.length (transOf w).next with
          | none => false
          | some run => run.all (fun i => transOk im (altAt im i).2 true))))
  firstFail [(headOk, Code.grammarBad), (limitOk, Code.grammarLimit), (shapeOk, Code.grammarBad), (room, Code.vocabNoRoom)]

/-- The stack-top value (R276). The stack is kept top first. -/
def stackTop (st : List Nat) : Nat := st.headD 0xFFF

/-- Is a token in the mask of a state and stack (R236, R278)? `stops` are the model's end tokens and the request's stop tokens. -/
def maskHas (im : List Byte) (state : Nat) (stack stops : List Nat) (t : Nat) : Bool :=
  let r := recipeAt im state
  let has (c : Nat) : Bool := (at_ im (at_ im 36 4 + 32768 * c + t / 8) 1).testBit (t % 8)
  let base := (List.range (r / 2 ^ 24 % 32)).foldl (fun acc k =>
    let w := termAt im (r % 2 ^ 24 + k)
    if w.testBit 26 || w / 2 ^ 14 % 2 ^ 12 == stackTop stack then
      match w / 2 ^ 12 % 4 with
      | 0 => acc || has (w % 2 ^ 12)
      | 1 => acc && has (w % 2 ^ 12)
      | _ => acc && !has (w % 2 ^ 12)
    else acc) false
  base || ((at_ im (at_ im 40 4 + state / 8) 1).testBit (state % 8) && stack.isEmpty && stops.contains t)

/-- One byte through the automaton (R279); none is DEAD. -/
def grammarByte (im : List Byte) (state : Nat) (stack : List Nat) (b : Byte) : Option (Nat × List Nat) :=
  let t := transOf (transAt im state b.toNat)
  let t := if t.act = 4 then
      match altRun im im.length t.next with
      | none => { act := 0, next := 0, sym := 0 }
      | some run => match run.find? (fun i => (altAt im i).1 % 2 ^ 12 == stackTop stack) with
        | none => { act := 0, next := 0, sym := 0 }
        | some i => transOf (altAt im i).2
    else t
  match t.act with
  | 1 => some (t.next, stack)
  | 2 => if 64 ≤ stack.length then none else some (t.next, t.sym :: stack)
  | 3 => match stack with
    | x :: rest => if x = t.sym then some (t.next, rest) else none
    | [] => none
  | _ => none

/-- The bytes of a token through the automaton. -/
def grammarRun (im : List Byte) : Nat → List Nat → List Byte → Option (Nat × List Nat)
  | st, stack, [] => some (st, stack)
  | st, stack, b :: bs => match grammarByte im st stack b with
    | none => none
    | some (st, stack) => grammarRun im st stack bs

/-! ## The stop matcher (R283 to R285) -/

/-- The longest suffix of a stream that is a proper prefix of some stop string. -/
def heldLen (stops : List (List Byte)) (u : List Byte) : Nat :=
  ((List.range (u.length + 1)).reverse.find? (fun n =>
    decide (0 < n) && stops.any (fun p => decide (n < p.length) && (u.drop (u.length - n)) == p.take n))).getD 0

/-- The match in an unreleased stream whose first `old` bytes were held before: (stop string, first byte, end). Earliest last
byte, then earliest first byte, then lowest number. -/
def stopMatch (stops : List (List Byte)) (u : List Byte) (old : Nat) : Option (Nat × Nat × Nat) :=
  (List.range (u.length + 1)).findSome? (fun e =>
    if e ≤ old then none
    else
      let fits := stops.zipIdx.filter (fun p => decide (0 < p.1.length) && decide (p.1.length ≤ e) &&
        sub u (e - p.1.length) p.1.length == p.1)
      let longest := (fits.map (fun p => p.1.length)).foldl max 0
      (fits.find? (fun p => p.1.length == longest)).map (fun p => (p.2, e - longest, e)))

/-! ## Privileged lanes (R273) -/

def Reg.privSlot (n : Nat) := 0x500100 + 8 * n

/-- The version and size a valid slot would hold. -/
def State.slotVocab (s : State) (n : Nat) : Option (Nat × Nat) :=
  let r := s.reg (Reg.privSlot n)
  if !bit r 14 then none
  else ((mget (s.job (fld r 0 6)).vocabs (fld r 6 8)).bind ByteObj.cur).map (fun v => (v.ver, v.image.length))

/-- Place every slot of a lane again, in ascending slot number, within 24 MiB. -/
def State.placeLane (s : State) (lane : Nat) : State :=
  ((List.range 4).foldl (fun (e : Nat × State) k =>
    let n := 4 * lane + k
    let s := { e.2 with privSlots := mdel e.2.privSlots n }
    match s.slotVocab n with
    | none => (e.1, s)
    | some v =>
      if e.1 + v.2 ≤ 24 * 1024 * 1024 then (e.1 + v.2, { s with privSlots := mput s.privSlots n v }) else (e.1, s)) (0, s)).2

/-- A new current vocabulary is loaded into every slot that names its job and model (R274). -/
def State.refillSlots (s : State) (j m : Nat) : State :=
  (List.range 4).foldl (fun s lane =>
    if (List.range 4).any (fun k => let r := s.reg (Reg.privSlot (4 * lane + k)); bit r 14 && fld r 0 6 == j && fld r 6 8 == m)
    then s.placeLane lane else s) s

/-- The privileged lane that serves a request's vocabulary version, if any (R273); one that R334 keeps from the job serves it not. -/
def State.privLane (s : State) (j m ver prio : Nat) : Option Nat :=
  if prio < fld (s.reg (Reg.jobText j)) 0 3 then none
  else ((List.range 16).find? (fun n =>
    let r := s.reg (Reg.privSlot n)
    bit r 14 && fld r 0 6 == j && fld r 6 8 == m && (match mget s.privSlots n with
      | some v => v.1 == ver
      | none => false) && s.mayOwn Cls.lane (60 + n / 4) j)).map (fun n => 60 + n / 4)

/-- PRIV_SLOT_WRITE (R273, Table 10.8). -/
def execPrivSlotWrite (n : Nat) (v : W64) (s : State) : Res := s.ifUp <|
  if fld v 17 15 ≠ 0 then .fault .unpredictableDevice
  else .next ((s.setReg (Reg.privSlot n) (BitVec.ofNat 64 (fld v 0 15))).placeLane (n / 4))

/-! ## Loading vocabularies and grammars (R274, R277) -/

def textFields : List (Nat × Nat) := [(128, 64), (192, 32), (240, 8), (248, 1)]
def kLoadVocab : Kind := { code := 0x0501, since := 0, cwell := none, keys := true, preempt := false, fields := textFields }
def kLoadGrammar : Kind :=
  { code := 0x0502, since := 1, cwell := none, keys := true, preempt := false, fields := (224, 16) :: textFields }

/-- A new current version: it takes the next number; versions that no work uses are freed. -/
def ByteObj.load (o : ByteObj) (m : Nat) (im : List Byte) (classes : Nat) : ByteObj :=
  let v := o.last % 0xFFFF + 1
  { current := some v, last := v,
    versions := o.versions.filter (fun x => x.users != 0) ++
      [{ ver := v, model := m, image := im, classes := classes, users := 0, damaged := false }] }
/-- The current version withdrawn. -/
def ByteObj.withdraw (o : ByteObj) : ByteObj := { o with current := none, versions := o.versions.filter (fun x => x.users != 0) }
/-- Versions that live on beside a new one (those in use). -/
def ByteObj.inUse (o : ByteObj) : Nat := (o.versions.filter (fun x => x.users != 0)).length

/-- A job's grains once a version set replaces another: room is asked with the freed version out of the count. -/
def State.roomAfter (s : State) (j freed n : Nat) : Bool :=
  s.t1Used j + s.contextGrains j (s.job j).slice + (s.objectGrains j - freed) + n ≤ s.hbmGrains (s.job j).allocPc

/-- Grains that go when a new version replaces the current one. -/
def ByteObj.goes (o : ByteObj) : Nat :=
  (o.versions.filter (fun x => x.users == 0)).foldl (fun n v => n + grainsOf v.image.length) 0

/-- LOAD_VOCAB (R269, R274). A current version is withdrawn whether or not its model is still loaded, and the slots that named it are
placed again (DEDUCED, log entry 53: a slot shows LOADED only for a current version, Table 10.8). -/
def execLoadVocab (job well : Nat) (d : Desc) (s : State) : Res :=
  s.takeUp kLoadVocab job well d fun c s =>
    let m := dfld d 30 0 8; let len := dfld d 24 0 32
    let o := mgetD (s.job job).vocabs m { current := none, last := 0, versions := [] }
    if bit d 248 then
      if s.modelAlien job m then .next (s.complete c Code.modelNotLoaded)
      else if o.current.isNone then .next (s.complete c Code.noVocab)
      else .next (((s.modJob job (fun x => { x with vocabs := mput x.vocabs m o.withdraw })).refillSlots job m).complete c Code.ok)
    else match s.modelOf job m with
    | none => .next (s.complete c Code.modelNotLoaded)
    | some mod =>
      if !s.addrOk job d 16 len then .next (s.complete c Code.badAddress)
      else match s.fetch d 16 len with
        | none => .next ((s.dmaFailed job).complete c Code.hostDmaError)
        | some im =>
          match firstFail [(vocabOk im len mod.vocab, Code.vocabBad), (decide (o.inUse < 2), Code.vocabBusy),
              (s.roomAfter job o.goes (grainsOf len), Code.vocabNoRoom)] with
          | some e => .next (s.complete c e)
          | none =>
            let s := s.modJob job (fun x => { x with vocabs := mput x.vocabs m (o.load m im 0) })
            .next ((s.refillSlots job m).complete c Code.ok)

/-- Class bitmaps that the sieve area holds, of every job (Table 12.10). The area is 1 GiB. -/
def State.sieveClasses (s : State) : Nat :=
  s.jobs.foldl (fun n e => e.2.grammars.foldl (fun n g => g.2.versions.foldl (fun n v => n + v.classes) n) n) 0
def sieveArea : Nat := 2 ^ 30 / 32768

/-- LOAD_GRAMMAR (R274, R277): the handle is checked first, with REMOVE too (Table 10.2). Its class bitmaps stand in the sieve area, row `k`
of every bitmap in the one bank set that the device chose for `k` (R281). -/
def execLoadGrammar (job well : Nat) (d : Desc) (s : State) : Res :=
  s.takeUp kLoadGrammar job well d fun c s =>
    let m := dfld d 30 0 8; let len := dfld d 24 0 32; let h := dfld d 28 0 16
    let o := mgetD (s.job job).grammars h { current := none, last := 0, versions := [] }
    if h = 0 ∨ h = 0xFFFF then .next (s.complete c Code.grammarBad)
    else if bit d 248 then
      if s.modelAlien job m then .next (s.complete c Code.modelNotLoaded)
      else if o.current.isNone then .next (s.complete c Code.grammarNotFound)
      else .next ((s.modJob job (fun x => { x with grammars := mput x.grammars h o.withdraw })).complete c Code.ok)
    else match s.modelOf job m with
      | none => .next (s.complete c Code.modelNotLoaded)
      | some mod =>
        if !s.addrOk job d 16 len then .next (s.complete c Code.badAddress)
        else match s.fetch d 16 len with
          | none => .next ((s.dmaFailed job).complete c Code.hostDmaError)
          | some im =>
            let k := grammarClasses im
            let gone := (o.versions.filter (fun x => x.users == 0)).foldl (fun n v => n + v.classes) 0
            let room := s.roomAfter job o.goes (grainsOf len) && decide (s.sieveClasses - gone + k ≤ sieveArea)
            match grammarCheck im len mod.vocab room with
            | some e => .next (s.complete c e)
            | none =>
              if 2 ≤ o.inUse then .next (s.complete c Code.grammarBusy)
              else .next ((s.modJob job (fun x => { x with grammars := mput x.grammars h (o.load m im k) })).complete c Code.ok)

end Sys2Proof.Machine
end

