-- ==== Sys2Proof/Machine/Requests.lean ====
section
/-!
DEFINITION. Sys2Proof/Machine/Requests.lean: output chunks (10_text_path, R289 to R291), commit and discard of requests (01_sessions,
R20 to R23), and their ends.
-/
namespace Sys2Proof.Machine

open Sys2Proof

/-! ## Sealing under a job's key (R429) -/

/-- The next nonce under the job key: bit 95 set, the node in bits [79:64], the count. -/
def State.nextNonce (s : State) (j : Nat) : BitVec 96 × State :=
  let n := (s.job j).keys.nonce
  (BitVec.ofNat 96 (2 ^ 95 + s.node <<< 64 + n % 2 ^ 64), s.modJob j (fun x => { x with keys := { x.keys with nonce := n + 1 } }))

/-! ## Chunks (R290, R291) -/

def flagInclude (f : Byte) : Bool := bit f 0
def flagKeep (f : Byte) : Bool := bit f 1
def flagSelective (f : Byte) : Bool := bit f 2
def flagStream (f : Byte) : Bool := bit f 3

/-- Where a chunk of `n` bytes goes in a ring: its offset, and whether a WRAP header stands before it; none while it does not fit
into the space between the producer and the consumed offset. A ring is never filled to its last byte, since equal
offsets mean an empty ring. -/
def OutRing.fit (r : OutRing) (n : Nat) : Option (Nat × Bool) :=
  let size := 2 ^ r.log2
  let used := (r.prod + size - r.cons) % size
  if r.prod + n ≤ size then (if used + n < size then some (r.prod, false) else none)
  else if used + (size - r.prod) + n < size then some (0, true)
  else none

/-- Table 10.5: header bytes 0 to 15. -/
def chunkHead (id seq len : Nat) (last wrap sealed : Bool) (status : Nat) : List Byte :=
  leBytes 4 id ++ leBytes 4 seq ++ leBytes 2 len ++ [BitVec.ofNat 8 (b2n last + 2 * b2n wrap + 4 * b2n sealed), 0] ++
    leBytes 2 status ++ zeros 2

/-- The most body bytes of a chunk: 4,064, of which a sealed one spends 12 on its nonce (R438). -/
def State.chunkMax (s : State) (j : Nat) : Nat := if (s.job j).conf then 4052 else 4064

/-- Write a chunk of a request into its ring, and with STREAM post its TEXT record; none while it does not fit. -/
def State.putChunk (s : State) (i : Nat) (a : ReqAux) (body : List Byte) (last : Bool) (status : Nat) : Option State :=
  let r := s.req i
  let c := (s.job r.job).compWell r.cwell
  match c.ring with
  | none => none
  | some ring =>
    let conf := (s.job r.job).conf
    let len := body.length + (if conf then 12 else 0)
    let total := cdiv (32 + len) 64 * 64
    (ring.fit total).map (fun (off, wrap) =>
      let s := if wrap then s.wr false (ring.iova.toNat + ring.prod) (chunkHead 0 0 0 false true false 0 ++ zeros 16) else s
      let head := chunkHead (s.reqId i) a.seq len last false conf (if last then status else 0)
      let (bytes, tag, s) := if conf then
          let (nonce, s) := s.nextNonce r.job
          let (x, t) := gcmSeal (s.job r.job).keys.job nonce head body
          (leBytes 12 nonce.toNat ++ x, leBytes 16 t.toNat, s)
        else (body, zeros 16, s)
      let s := s.wr false (ring.iova.toNat + off) (padTo 64 (head ++ tag ++ bytes))
      let s := s.modJob r.job (fun x =>
        let c := x.compWell r.cwell
        x.setComp r.cwell { c with ring := some { ring with prod := (off + total) % 2 ^ ring.log2 } })
      let s := s.setRaux i { a with seq := a.seq + 1, out := a.out.drop body.length, lastDone := a.lastDone || last }
      if flagStream r.flags then s.record { a.ctx with cw := r.cwell } Code.text false off (s.reqId i) r.session else s)

/-- Write the chunks of what the assembler has emitted, as far as they fit: at most `n` of them; once the request has ended
and no closing row is to come, the rest of the output, below a chunk's size, goes with the LAST chunk. -/
def State.flush : Nat → State → Nat → State
  | 0, s, _ => s
  | n + 1, s, i =>
    match s.raux? i with
    | none => s
    | some a =>
      let most := s.chunkMax (s.req i).job
      if a.out.isEmpty ∨ (a.ended.isSome ∧ a.closing = false ∧ a.out.length ≤ most) then s
      else match s.putChunk i a (a.out.take most) false 0 with
        | none => s
        | some s => State.flush n s i

/-! ## What a request is bound to -/

/-- One user less of a byte object's version; a version that is not current goes with its last user (R274). -/
def ByteObj.release (o : ByteObj) (v : Nat) : ByteObj :=
  let vs := o.versions.map (fun x => if x.ver = v then { x with users := x.users - 1 } else x)
  { o with versions := vs.filter (fun x => x.users != 0 || o.current == some x.ver) }
def ByteObj.take (o : ByteObj) (v : Nat) : ByteObj :=
  { o with versions := o.versions.map (fun x => if x.ver = v then { x with users := x.users + 1 } else x) }
def Adapter.release (o : Adapter) (v : Nat) : Adapter :=
  let vs := o.versions.map (fun x => if x.ver = v then { x with users := x.users - 1 } else x)
  { o with versions := vs.filter (fun x => x.users != 0 || o.current == some x.ver) }
def Adapter.take (o : Adapter) (v : Nat) : Adapter :=
  { o with versions := o.versions.map (fun x => if x.ver = v then { x with users := x.users + 1 } else x) }

/-- Let go of everything a request is bound to. -/
def State.unbindReq (s : State) (i : Nat) (a : ReqAux) : State :=
  let r := s.req i; let x := s.sess r.session
  s.modJob r.job (fun j => { j with
    adapters := if r.adapterVer = 0 then j.adapters else mchange j.adapters x.adapter (fun o => o.release r.adapterVer)
    vocabs := mchange j.vocabs x.model (fun o => o.release a.vocabVer)
    grammars := if a.grammarHandle = 0 then j.grammars else mchange j.grammars a.grammarHandle (fun o => o.release a.grammarVer) })

/-- Forget a request: its index is FREE, its generation stays (R27). -/
def State.freeReqEntry (s : State) (i : Nat) : State :=
  let s := match s.raux? i with
    | none => s
    | some a => s.unbindReq i a
  { s with reqs := mput s.reqs i { gen := (s.req i).gen }, reqAux := mdel s.reqAux i,
           serving := s.serving.map (fun (e : Nat × Serving) => (e.1, { e.2 with entries := e.2.entries.filter (fun x => x.req != i) })) }

/-! ## Commit (R20, R199 to R201) -/

/-- Eviction at a commit: only when the retained positions would need more than BUDGET grains per pair. The grains from the
first affected block on are rebuilt, in place where the request already has its own copy, else newly placed. -/
def State.evictCommit (s : State) (j i : Nat) (work gs : List SGrain) (retained : Nat) : List SGrain × Nat × State :=
  let pairs := s.pairs i
  let (thresh, first, last, b) := s.evictPolicy j
  let budget := budgetOf first last b
  if budget = 0 ∨ cdiv retained 64 ≤ budget then (gs, retained, s)
  else
    let seqs := (List.range pairs).map (pairSlots [] gs pairs retained)
    let (scores, s) := s.groupScores j (s.sess i).model (evictScores seqs retained)
    let keep := evictKeep scores first last thresh budget
    if keep.length = retained then (gs, retained, s)
    else
      let f := firstAffected keep retained
      let nb := cdiv keep.length 64
      let rebuilt : List SGrain := (List.range pairs).flatMap (fun p =>
        ((blocks64 (keepSlots keep (seqs.getD p []))).zipIdx.drop f).map (fun e =>
          { lgn := blockLgn pairs p e.2, kind := 1, level := 0, addr := gAbsent, epoch := (s.sess i).ownerEpoch, slots := e.1 }))
      let own := rebuilt.filterMap (fun g => (gFind work g.lgn).map (fun w => { g with addr := w.addr }))
      let (fresh, s) := s.placeAll j pairs 1 gs (rebuilt.filter (fun g => (gFind work g.lgn).isNone)) []
      let kept := gs.filter (fun g => g.kind != 1 || decide ((g.lgn - 16) / max 1 pairs < f))
      (kept ++ own ++ fresh, keep.length, s.countEvict (retained - keep.length) (pairs * (cdiv retained 64 - nb)))

/-- DL_MISS (R253). -/
def State.countMiss (s : State) (i : Nat) : State :=
  let r := s.req i
  if r.deadline ≠ 0 ∧ r.deadline < s.now then s.countReg (Reg.jobPause r.job) 32 32 1 else s

/-- Commit a request (R20): the working list's entries enter the session's map, the grains they replace are freed, a revived
session's extent is freed, and the session takes its new idle state and EXPIRY (R24). DESIGN CHOICE (log entry 53): TTL_AFTER_S = 0 takes the
job's TTL_OPEN default whether the request ends into OPEN or into TOOL_WAIT; a grain whose every position was cleared (R190) is freed. -/
def State.commitReq (s : State) (i : Nat) (a : ReqAux) (code : Nat) : State :=
  let r := s.req i; let n := r.session; let x := s.sess n; let pairs := s.pairs n
  let revived := a.prior == .parked
  let base := if revived then [] else x.grains.filter (fun g => g.kind == 2 || (gFind a.work g.lgn).isNone)
  let gs := base ++ a.work.filter (fun g => g.kind != 2 && (g.kind != 1 || !g.slots.isEmpty))
  let s := if revived then s.extentFree r.job x.root (extentLen pairs x.retained) else s
  let s := if revived && gTier x.root == 4 then s.peerRelease n r.job x.root else s
  let s := s.modRaux i (fun a => { a with work := [] })
  let s := s.setSess n { x with grains := gs }
  let (gs, retained, s) := s.evictCommit r.job n a.work gs a.retained
  let s := s.setSess n { x with grains := gs }
  let (gs, s) := s.withMaps r.job pairs x.level x.ownerEpoch 1 gs
  (s.setSess n { x with
    state := if code = Code.toolCall then .toolWait else .open
    toolp := false, len := r.curLen, retained := retained, root := mapRoot gs, grains := gs, curReq := 0
    scounter := a.scounter, adapterVer := r.adapterVer
    expiry := s.expiryIn (s.ttlOpen r.job r.ttlAfter), lastActive := s.now % 2 ^ 48
    carry := { a.carry with hold := [], pend := [], gstate := 0, gstack := [], ghandle := 0 } }).modAux n (fun y =>
      { y with waitFrom := s.now, expWait := 0 })

/-- Discard a request (R21): the session is as it was before it began; every grain the request allocated is freed, and what it has still to
read is cancelled (R77). -/
def State.discardReq (s : State) (i : Nat) (a : ReqAux) : State :=
  let n := (s.req i).session
  let s := (s.modRaux i (fun a => { a with work := [], revive := [] })).dropMoveWork n
  s.modSess n (fun x => { x with state := a.prior, toolp := a.toolp, curReq := 0, lastActive := s.now % 2 ^ 48 })

/-! ## Split turns on the prefill device (R371, R373) -/

/-- FLOW of ownership messages is fixed by the transfer (R357). The transfer a split turn's request belongs to ends with the request: ABORT
goes out, and the session's claim passes that of the transfer (R368, R373). -/
def State.dropXfer (s : State) (t : Nat) : State :=
  match mget s.fabric.xfers t with
  | none => s
  | some x =>
    let s := (s.send x.job 1 Msg.abort x.peer (flowOfTransfer t) (BitVec.ofNat 64 t) [] (s.shareOf x.session)).1
    let s := { s with fabric := { s.fabric with xfers := mdel s.fabric.xfers t } }
    s.modSess x.session (fun y => { y with ownerEpoch := x.epoch + 1 })

/-- The grains of a split turn go to the decode device with REHEAD: META, the KV grains, and last SAMPLER, DETOK, GRAMMAR, the request entry and the
last text token (R371). -/
def State.sendSplit (s : State) (i t : Nat) (x : Xfer) (a : ReqAux) : State :=
  let n := (s.req i).session; let y := s.sess n
  let kv := y.grains.filter (fun g => g.kind == 1 && (gFind a.work g.lgn).isNone) ++ a.work.filter (fun g => g.kind == 1)
  let own (l : Nat) : SGrain := { lgn := l, kind := kindOfLgn l, level := 0, addr := 0, epoch := x.epoch, slots := [] }
  let image (g : SGrain) := rehead x.epoch (grainBytes n false y.image y (s.aux n) a.carry [] g)
  let gs := ([own 0] ++ kv ++ [own 1, own 2, own 3]).map image
  let s := (List.range gs.length).foldl (fun s k =>
    s.sendGrain x.job 4 Msg.grain x.peer (flowOfTransfer t) (grainArg t k) (gs.getD k []) (s.shareOf n)) s
  (s.send x.job 4 Msg.grain x.peer (flowOfTransfer t) (grainArg t gs.length) (s.reqImage i ++ a.text.flatMap (leBytes 4)) (s.shareOf n)).1

/-- Every layer's grains have gone to the decode device: the copies in T0 and T1 are freed (R371). Without a parked copy no copy of
the committed state remains here. -/
def State.splitSent (s : State) (i : Nat) : State :=
  match s.raux? i with
  | none => s
  | some a =>
    match mget s.fabric.xfers a.xfer with
    | none => s
    | some x =>
      let n := (s.req i).session
      let s := s.sendSplit i a.xfer x a
      let s := { s with fabric := { s.fabric with xfers := mput s.fabric.xfers a.xfer { x with phase := .sent, req := i } } }
      let s := s.setRaux i { a with work := [] }
      if a.prior = .parked then s
      else (s.modSess n (fun y => { y with grains := [] })).modAux n (fun y => { y with damaged := true })

/-! ## Ends (R39, R242, R291) -/

/-- Does the last position to be committed lack keys and values (R242)? -/
def State.lacksRow (s : State) (i : Nat) (a : ReqAux) : Bool :=
  let r := s.req i
  r.startLen + (a.retained - (s.sess r.session).retained) < r.curLen

/-- The request's end comes about: its session is updated, then the FINAL record is posted (R39), and the index is free. -/
def State.finish (s : State) (i : Nat) (a : ReqAux) (code : Nat) (commit : Bool) : State :=
  let r := s.req i; let n := r.session; let id := s.reqId i
  let s := if a.xfer = 0 then s else s.dropXfer a.xfer
  let s := s.countMiss i
  let s := if commit then s.commitReq i a code else s.discardReq i a
  let lost := code == Code.stateLost
  let len := (s.sess n).len
  let s := s.freeReqEntry i
  let s := if lost ∧ (s.aux n).closing.isEmpty then s.endSession n else s
  let s := s.complete { a.ctx with cw := r.cwell } code len id n
  if (s.aux n).closing ≠ [] ∧ (s.sess n).state ≠ .ending ∧ (s.sess n).state ≠ .free then s.endSession n else s

/-- Carry an end as far as it goes: the closing row, the LAST chunk, room for the FINAL record (R507). -/
def State.tryFinish (s : State) (i : Nat) : State :=
  match s.raux? i with
  | none => s
  | some a =>
    match a.ended with
    | none => s
    | some (code, commit) =>
      if a.closing then s
      else
        let s := s.flush (a.out.length / 1024 + 2) i
        match s.raux? i with
        | none => s
        | some a =>
          let s' := if a.lastDone || a.chunkFailed then some s
            else if a.out.length ≤ s.chunkMax (s.req i).job then s.putChunk i a a.out true code else none
          match s' with
          | none => s
          | some s =>
            let r := s.req i
            if ((s.job r.job).compWell r.cwell).room then
              match s.raux? i with
              | none => s
              | some a => s.finish i a code commit
            else s

/-- A request ends (Table 1.3). A commit releases held bytes (R287) and ends a pending sequence (R288); it waits for a closing
row where the last committed position has no keys and values. A discard drops the bytes of the step in which it takes effect; those of earlier
steps stay. -/
def State.endNow (s : State) (i code : Nat) (commit : Bool) : State :=
  match s.raux? i with
  | none => s
  | some a =>
    if a.ended.isSome ∧ (a.ended.map (·.2) = some false ∨ commit = true) then s
    else
      let a := if commit then
          let bytes := a.carry.pend ++ a.carry.hold
          let (o, p) := assemble bytes.length bytes
          { a with out := a.out ++ o ++ (if p.isEmpty then [] else replacement), closing := s.lacksRow i a,
                   carry := { a.carry with hold := [], pend := [] } }
        else { a with closing := false, carry := { a.carry with hold := [], pend := [] } }
      let s := s.setRaux i { a with ended := some (code, commit), endAsk := none }
      let s := s.modReq i (fun r => { r with rstate := .ending })
      s.tryFinish i

/-- Does a request take part in a running step? -/
def State.inStep (s : State) (i : Nat) : Bool := s.serving.any (fun e => e.2.running && e.2.entries.any (fun x => x.req == i))

/-- A request that takes part in a running step ends at that step's boundary (R240); a discard is kept before a commit. -/
def State.endReq (s : State) (i code : Nat) (commit : Bool) : State :=
  if s.inStep i then
    s.modRaux i (fun a => { a with endAsk := match a.endAsk with
      | some (c, k) => if k && !commit then some (code, false) else some (c, k)
      | none => some (code, commit) })
  else s.endNow i code commit

/-- A discard ends with STATE_LOST instead when no intact copy of the committed state remains (R21, R474). -/
def State.discardEnd (s : State) (i code : Nat) : State :=
  if (s.aux (s.req i).session).damaged then s.endReq i Code.stateLost false else s.endReq i code false

/-- Drop a request without a record (R509). -/
def State.dropReq (s : State) (i : Nat) : State :=
  match s.raux? i with
  | none => s
  | some a =>
    let n := (s.req i).session
    let s := if a.xfer = 0 then s else s.dropXfer a.xfer
    let s := (s.discardReq i a).freeReqEntry i
    if (s.aux n).damaged ∨ (s.aux n).closing ≠ [] then s.endSession n else s

/-- Requests that wait for ring or record room in a completion well try again. -/
def State.retryEnds (s : State) (j w : Nat) : State :=
  s.reqs.foldl (fun s e =>
    let r := s.req e.1
    if r.rstate != .free && r.job == j && r.cwell == w then (s.flush (((s.raux? e.1).map (·.out.length)).getD 0 / 1024 + 2) e.1).tryFinish e.1
    else s) s

/-! ## Rings -/

def kSetOutput : Kind :=
  { code := 0x0503, since := 0, cwell := none, keys := false, preempt := false, fields := [(128, 4), (192, 64), (256, 5)] }

/-- A live request writes to a completion well's ring. -/
def State.ringInUse (s : State) (j w : Nat) : Bool := s.reqs.any (fun e => e.2.rstate != .free && e.2.job == j && e.2.cwell == w)

/-- SET_OUTPUT (R289). -/
def execSetOutput (job well : Nat) (d : Desc) (s : State) : Res :=
  s.takeUp kSetOutput job well d fun c s =>
    let w := dfld d 16 0 4; let n := dfld d 32 0 5; let iova := BitVec.ofNat 64 (dfld d 24 0 64)
    let cur := ((s.job job).compWell w).ring
    match firstFail [
      (n == 0 || (decide (16 ≤ n ∧ n ≤ 30) && fld iova 0 12 == 0), Code.badRing),
      (if n = 0 then cur.isNone || !s.ringInUse job w else cur.isNone, Code.ringBusy)] with
    | some e => .next (s.complete c e)
    | none =>
      let ring := if n = 0 then none else some { iova := iova, log2 := n, cons := 0, prod := 0 }
      .next ((s.modJob job (fun x => x.setComp w { x.compWell w with ring := ring })).complete c Code.ok)

/-- TOK_RING_CONS_WRITE (R289, R291): space is freed, and requests that wait for it go on. Reserved bits are unpredictable (device) (R9). An offset
beyond the producer is unpredictable (job) (R292): it is stored within the ring, and R6 says what follows. -/
def execTokRingConsWrite (job well : Nat) (v : W64) (s : State) : Res := s.ifUp <|
  if fld v 30 34 ≠ 0 then .fault .unpredictableDevice
  else match ((s.job job).compWell well).ring with
    | none => .next s
    | some r =>
      let size := 2 ^ r.log2
      let c := fld v 0 30
      let s := s.modJob job (fun x => x.setComp well { x.compWell well with ring := some { r with cons := c % size } })
      Res.spoilIf (.next (s.retryEnds job well))
        (decide (size ≤ c) || decide ((r.prod + size - r.cons) % size < (c + size - r.cons) % size)) job

/-- CHUNK_WRITE_FAIL (R291, R504): the write of a chunk of this request to its ring fails, of the LAST one where the request waits for the room of
its FINAL record. Its space counts as used; no further
chunk is written; the request ends with HOST_DMA_ERROR and is discarded. The TEXT record of that chunk, which only
follows a write that succeeds, is taken back where it still waits. -/
def execChunkWriteFail (req : Nat) (s : State) : Res := s.ifReady <|
  match s.raux? req with
  | none => .next s
  | some a =>
    let r := s.req req
    let s := s.dmaFailed r.job
    let s := s.modJob r.job (fun x =>
      let c := x.compWell r.cwell
      match c.waiting.getLast? with
      | some w => if w.status = Code.text ∧ w.req = s.reqId req then x.setComp r.cwell { c with waiting := c.waiting.dropLast } else x
      | none => x)
    let s := s.setRaux req { a with chunkFailed := true, ended := none, closing := false }
    .next (s.discardEnd req Code.hostDmaError)

end Sys2Proof.Machine
end

