-- ==== Sys2Proof/Machine/Grains.lean ====
section
/-!
DEFINITION. Sys2Proof/Machine/Grains.lean: parked extents as they stand in T3 regions (R58, R61, R66), and reading an extent back.
-/
namespace Sys2Proof.Machine

open Sys2Proof

/-- The next nonce under the device T3 key. -/
def State.nextT3Nonce (s : State) : BitVec 96 × State :=
  (BitVec.ofNat 96 (2 ^ 95 + s.node <<< 64 + s.sec.t3Nonce % 2 ^ 64), { s with sec := { s.sec with t3Nonce := s.sec.t3Nonce + 1 } })

/-- Write plaintext grains into a T3 region from grain `g` on, sealed where R66 says so. -/
def State.writeT3 (s : State) (j n g : Nat) (gs : List (List Byte)) : State :=
  match mget (s.job j).regions n with
  | none => s
  | some r =>
    (gs.zipIdx).foldl (fun s e =>
      if s.t3Sealed j n then
        let (key, nonce, s) := if (s.job j).conf then
            let (k, s) := s.nextNonce j
            (s.t3KeyOf j, k, s)
          else
            let (k, s) := s.nextT3Nonce
            (s.t3KeyOf j, k, s)
        s.wr false (r.at_ (g + e.2)) (sealGrain key nonce e.1)
      else s.wr false (r.at_ (g + e.2)) e.1) s

/-- A parked session's extent as it stands in T3: its bytes are written to its region. -/
def State.writeParked (s : State) (i : Nat) : State :=
  let x := s.sess i; let n := gAddr x.root >>> 28
  if gTier x.root = 3 then
    s.writeT3 x.job n (gAddr x.root % 2 ^ 28) (extentBytes i (s.t3Sealed x.job n) x { s.aux i with jobTag := s.jobTag x.job, keyset := (s.job x.job).keys.keyset })
  else s

/-! ## Reading an extent back -/

/-- A session as the entry image of a META grain holds it, PARKED with its extent at `root` (R41); the SessAux parts of META. -/
def readExtent (gs : List (List Byte)) (root : W64) : Session × SessAux :=
  let m := gs.getD 0 []; let e := sub m 0 64
  let flags := at_ e 0 1
  let retained := at_ e 16 4 % 2 ^ 21
  let a : SessAux := { ttlParked := at_ m 64 4, layers := at_ m 68 2, kvh := at_ m 70 1, modelDigest := BitVec.ofNat 256 (at_ m 72 32),
                       jobTag := BitVec.ofNat 32 (at_ m 108 4), keyset := BitVec.ofNat 256 (at_ m 128 32) }
  let pairs := a.layers * a.kvh; let nb := cdiv retained 64
  let seqs := (List.range pairs).map (fun p => (List.range nb).flatMap (fun b => readSlots (gs.getD (4 + p * nb + b) [])))
  let epoch := at_ e 4 4
  ({ state := .parked, pinned := flags.testBit 5, conf := flags.testBit 6, toolp := flags.testBit 7, job := at_ e 1 1, model := at_ e 2 1,
     prio := at_ e 3 1 % 8, eventWell := at_ e 3 1 / 8 % 16, ownerEpoch := epoch, adapter := at_ e 8 2, adapterVer := at_ e 10 2,
     len := at_ e 12 4 % 2 ^ 20 + (if flags.testBit 4 then 2 ^ 20 else 0), retained := retained, root := root,
     expiry := at_ e 28 6, lastActive := at_ e 34 6, grammar := at_ e 44 2, seed := BitVec.ofNat 64 (at_ e 50 8),
     scounter := BitVec.ofNat 32 (at_ e 58 4), grains := extentGrains pairs epoch root seqs retained,
     carry := readCarry (at_ e 12 4 % 2 ^ 20 + (if flags.testBit 4 then 2 ^ 20 else 0)) (gs.getD 1 []) (gs.getD 2 []) (gs.getD 3 []) }, a)

/-- Cut bytes into grains. -/
def cutGrains (n : Nat) (bs : List Byte) : List (List Byte) := (List.range n).map (fun k => sub bs (16384 * k) 16384)

end Sys2Proof.Machine
end

