-- ==== Sys2Proof/Machine/Moves.lean ====
section
/-!
DEFINITION. Sys2Proof/Machine/Moves.lean: parking, migration, demotion and placement queries (02_grains_and_tiers, R59 to R79;
01_sessions, R34 to R36), and the ownership transfer a MIGRATE starts (13_nolmus_fabric, R364, R365).
-/
namespace Sys2Proof.Machine

open Sys2Proof

/-! ## Destinations -/

/-- A run of `count` grains that is free in a T3 region, where the device chooses. -/
def T3Region.findRun (r : T3Region) (start count : Nat) : Option Nat :=
  (start :: 0 :: r.used.map (fun u => u.1 + u.2)).find? (fun a =>
    decide (a + count ≤ r.grains) && r.used.all (fun u => decide (u.1 + u.2 ≤ a) || decide (a + count ≤ u.1)))

/-- What a move to T2 or T3 needs of its target; its code otherwise: NO_FLASH, FLASH_WORN, BAD_REGION (R61, R376, R391). -/
def State.targetErr (s : State) (j tier place : Nat) : Option Nat :=
  if tier = 2 then (if s.ftl.state = 0 then some Code.noFlash else if s.ftl.state = 3 then some Code.flashWorn else none)
  else if tier = 3 then (if (mget (s.job j).regions place).isNone then some Code.badRegion else none)
  else none

/-- The first grain address of a run of `count` grains in T2, T3 or a peer's cistern, or the code for no room. -/
def State.extentPlace (s : State) (j tier place count : Nat) : Except Nat W64 × State :=
  let (n, s) := s.draw
  match s.targetErr j tier place with
  | some e => (.error e, s)
  | none =>
    if tier = 2 then
      let (lo, hi) := s.ftl.cisternRange
      match s.ftl.findRun (Config.freeNat n % max 1 hi) count lo hi with
      | some a => (.ok (gMake 2 0 a), s)
      | none => (.error Code.cisternFull, s)
    else if tier = 3 then
      match mget (s.job j).regions place with
      | none => (.error Code.badRegion, s)
      | some r => match r.findRun (Config.freeNat n % max 1 r.grains) count with
        | some a => (.ok (gMake 3 0 (a + place <<< 28)), s)
        | none => (.error Code.regionFull, s)
    else (.ok (gMake 4 place (2 ^ 43 + Config.freeNat n % 2 ^ 32)), s)

/-- Free a move's destination. -/
def State.freeDest (s : State) (i : Nat) (m : Move) : State :=
  let j := (s.sess i).job
  if m.tier = 2 ∨ m.tier = 3 then s.extentFree j m.dest (extentLen (s.pairs i) m.retained)
  else if m.kind = .peer then s.peerRelease i j m.dest
  else s

/-- One pump command per 64 grains of a move or revival (Table 12.2, R325). An extent in T2 is read grain by grain (R392); one in a peer tier is asked of its holder. -/
def State.enqueueMove (s : State) (i count : Nat) : State :=
  let j := (s.sess i).job
  let root := (s.sess i).root
  let s : State := if gTier root = 2 then { s with ftl := s.ftl.countReads ((List.range count).map (gAddr root + ·)) } else s
  let s := s.modAux i (fun a => { a with pumpStat := (0, 0) })
  let s := if gTier root = 4 then (s.send j 4 Msg.peerRead (gNode root) 0 root (leBytes 4 count) (s.shareOf i)).1 else s
  (List.range (cdiv count 64)).foldl (fun s k =>
    s.enqueue Cls.pump { job := j, share := s.shareOf i, req := s.liveReq i, since := 0, cost := min 64 (count - 64 * k), work := .move i }) s

/-- Does a pump command of a session's move or revival still wait to be taken up (R334, R340)? -/
def State.moveWaits (s : State) (i : Nat) : Bool := (s.pool Cls.pump).queue.any (fun x => x.work == .move i)

/-- STATUS and DONE of the pump descriptors of a session's last move (Table 2.7): how many of `count` grains had moved is the device's. -/
def State.pumpStatus (s : State) (i status count : Nat) : State :=
  let (n, s) := s.draw
  s.modAux i (fun a => { a with pumpStat := (status, if status = 0 then count else Config.freeNat n % max 1 count) })

/-- An abandoned move of a session reaches its grain boundary: what it had written is freed, and the pumps set STATUS to ABANDONED for the
grains not moved (R59, R79). -/
def State.dropAbandoned (s : State) (i : Nat) : State :=
  match (s.aux i).move with
  | none => s
  | some m =>
    if m.abandoned = false then s
    else
      let s := (s.dropMoveWork i).freeDest i m
      let s := (s.modAux i (fun a => { a with move := none })).pumpStatus i 4 m.grains.length
      s.complete? m.ctx Code.moveAbandoned 0 0 i

/-! ## Starting a move -/

/-- The time to live of a move that ends in PARKED, in seconds; none for a MIGRATE that keeps EXPIRY (R24). -/
def Move.ttlIn (m : Move) : Option Nat := if (m.kind = .migrate ∨ m.kind = .peer) ∧ m.ttl = 0 then none else some m.ttl

/-- TTL_PARKED_S that META records of a session parked by a move. -/
def Move.ttlParked (m : Move) (a : SessAux) : Nat := match m.ttlIn with
  | none => a.ttlParked
  | some t => min t 100000000

/-- Start a move of an idle session to a parked extent (R58, R70, R72). The source stays authoritative (R59). -/
def State.startPark (s : State) (i : Nat) (kind : MoveKind) (tier place ttl : Nat) (evict : Bool) (ctx : Option DescCtx) :
    Except Nat Unit × State :=
  let s := s.dropAbandoned i
  let x := s.sess i; let a := s.aux i; let j := x.job; let pairs := s.pairs i
  let seqs := (List.range pairs).map (pairSlots [] x.grains pairs x.retained)
  let (thresh, first, last, _) := s.evictPolicy j
  let (scores, s) := if evict then s.groupScores j x.model (evictScores seqs x.retained) else ([], s)
  let keep := if evict then evictKeep scores first last thresh 0 else List.range x.retained
  let retained := keep.length
  let count := extentLen pairs retained
  match s.extentPlace j tier place count with
  | (.error e, s) => (.error e, s)
  | (.ok root, s) =>
    let gs := extentGrains pairs x.ownerEpoch root (seqs.map (keepSlots keep)) retained
    let m : Move := { kind := kind, tier := tier, place := place, dest := root, ttl := ttl, evict := evict, ctx := ctx, src := x.state,
                      abandoned := false, grains := gs, retained := retained }
    let toolp := if x.state = .parked then x.toolp else x.state == .toolWait
    let s := s.setSess i { x with state := .moving, toolp := toolp }
    let s := s.setAux i { a with move := some m, grace := none }
    let after : Session := { x with state := .parked, toolp := toolp, root := root, grains := gs, retained := retained, curReq := 0 }
    let s := if tier = 2 then
        s.flashWrite (gAddr root)
          { count := count, session := some (i, after, { a with ttlParked := m.ttlParked a, jobTag := s.jobTag j, keyset := (s.job j).keys.keyset,
                                                                grace := none, move := none, closing := [], metaEntry := after.image }),
            bytes := [], complete := false, queued := false, job := j }
          (gs.map (·.kind))
      else if tier = 3 then
        s.modJob j (fun y => { y with regions := mchange y.regions place (fun r => { r with used := r.used ++ [(gAddr root % 2 ^ 28, count)] }) })
      else s
    (.ok (), s.enqueueMove i count)

/-! ## Demotion under R69 -/

/-- May the device demote a session (R69)? -/
def State.demotable (s : State) (i : Nat) : Bool :=
  let x := s.sess i; let a := s.aux i
  (x.state == .open || x.state == .toolWait) && !x.pinned && a.grace.isNone && !a.unbound && !s.expired i && a.closing.isEmpty

/-- An operation of the session-table engine on session `i` that no descriptor asks for (R12, R13): an entry that fails its check is freed instead. -/
def State.sesOp (s : State) (i : Nat) (f : State → State) : State :=
  let (s, bad) := s.sesAccess i
  if bad then s.entryCorrupt i else f s

/-- Start a device-initiated demotion; without room the session is skipped (R70). -/
def State.demote (s : State) (i : Nat) : State := s.sesOp i fun s =>
  let j := (s.sess i).job
  let p := s.reg (Reg.jobPolicy j)
  match s.startPark i .demote (fld p 48 3) (if fld p 48 3 = 3 then fld p 52 8 else 0) (s.ttlPark j 0) true none with
  | (.error _, _) => s
  | (.ok _, s) => s

/-- T1 grains of a session. -/
def Session.t1 (x : Session) : Nat := (x.grains.filter (fun g => gTier g.addr == 1)).length

/-- T1 grains that go when the demotions under way complete. -/
def State.leaving (s : State) (j : Nat) : Nat :=
  s.sessions.foldl (fun n e => if e.2.job == j && e.2.state == .moving &&
    (match (s.aux e.1).move with
      | some m => decide (2 ≤ m.tier) && !m.abandoned
      | none => false) then n + e.2.t1 else n) 0

/-- T1 grains that the requests and moves of a job wait for (R71, R72). -/
def State.t1Wanted (s : State) (j : Nat) : Nat :=
  s.reqAux.foldl (fun n e => if (s.req e.1).job = j then n + e.2.needT1 else n) 0 +
    s.sessAux.foldl (fun n e => if (s.sess e.1).job = j then n + (e.2.move.map (·.needT1)).getD 0 else n) 0

/-- Demotion goes on: T1 use will stay beyond 7/8 of the effective limit, or beyond what lets the waiting requests and moves in (R69, R71, R72). -/
def State.pressed (s : State) (j : Nat) : Bool :=
  let stays := s.t1Used j - s.leaving j
  decide (7 * s.t1Limit j < 8 * stays) || (decide (s.t1Wanted j ≠ 0) && decide (s.t1Limit j < stays + s.t1Wanted j))

/-- Demote sessions of a job in ascending LAST_ACTIVE order until T1 use comes down (R69). -/
def State.demoteDown (s : State) (j : Nat) : State :=
  let cand := sortBy (fun (a b : Nat × Session) => decide (a.2.lastActive ≤ b.2.lastActive))
    (s.sessions.filter (fun e => e.2.job == j && s.demotable e.1))
  cand.foldl (fun s e => if s.pressed j then s.demote e.1 else s) s

/-- Give the data grains of a session that moves up their places, and queue the pump commands. -/
def State.placeUp (s : State) (i : Nat) (m : Move) : State :=
  let x := s.sess i; let j := x.job; let pairs := s.pairs i
  let data := x.grains.filter (fun g => g.kind != 2)
  let (gs, s) := s.placeAll j pairs m.tier [] data []
  let (gs, s) := s.withMaps j pairs x.level x.ownerEpoch m.tier gs
  (s.modAux i (fun a => { a with move := some { m with dest := mapRoot gs, grains := gs, needT1 := 0 } })).enqueueMove i data.length

/-- Start a move of an idle session to T0 or T1 (R72). One that needs more T1 grains than the effective limit leaves first demotes under R69: it
waits in MOVING while the demotions under way free enough, and finds no room when they free too little. -/
def State.startUp (s : State) (i : Nat) (kind : MoveKind) (tier : Nat) (ctx : Option DescCtx) : Except Nat Unit × State :=
  let s := s.dropAbandoned i
  let x := s.sess i; let a := s.aux i; let j := x.job
  let data := x.grains.filter (fun g => g.kind != 2)
  let n := data.length
  let need := n - (if x.state = .parked then 0 else (data.filter (fun g => gTier g.addr == 1)).length)
  let m : Move := { kind := kind, tier := tier, place := 0, dest := 0, ttl := 0, evict := false, ctx := ctx, src := x.state,
                    abandoned := false, grains := [], retained := x.retained }
  let start (s : State) (m : Move) : State :=
    (s.setSess i { x with state := .moving, toolp := if x.state = .parked then x.toolp else x.state == .toolWait }).setAux i
      { a with move := some m, grace := none }
  if tier = 0 then
    if (s.t0Places j (s.allGrains.map (fun e => e.2.addr))).length < n then (.error Code.tierFull, s) else (.ok (), (start s m).placeUp i m)
  else if s.t1Room j need then (.ok (), (start s m).placeUp i m)
  else
    let m := { m with needT1 := max 1 need }
    let s := (start s m).demoteDown j
    if s.t1Limit j < s.t1Used j - s.leaving j + need then (.error Code.tierFull, (s.setSess i x).setAux i a) else (.ok (), s)

/-- The moves to T1 of a job that wait for demotions, once one of these has ended: one that fits has its places; one for which those still
under way free too little ends with TIER_FULL, and no move (R72). -/
def State.retryUp (s : State) (j : Nat) : State :=
  (s.sessAux.filter (fun e => (s.sess e.1).job == j)).foldl (fun s e => match (s.aux e.1).move with
    | none => s
    | some m =>
      if m.needT1 = 0 ∨ m.abandoned = true then s
      else if s.t1Room j m.needT1 then s.placeUp e.1 m
      else if s.t1Used j - s.leaving j + m.needT1 ≤ s.t1Limit j then s
      else
        let x := s.sess e.1
        let s := s.setSess e.1 { x with state := m.src, toolp := if m.src = .parked then x.toolp else false }
        (s.modAux e.1 (fun a => { a with move := none })).complete? m.ctx Code.tierFull 0 0 e.1) s

/-! ## Ownership transfer, on the sending side (R364, R365) -/

/-- The transfer identifiers in use, and the next one. -/
def State.nextTransfer (s : State) : Nat × State :=
  let n := s.fabric.nextXfer
  (s.node + n % 2 ^ 32 <<< 16, { s with fabric := { s.fabric with nextXfer := n + 1 } })

def State.setXfer (s : State) (t : Nat) (x : Xfer) : State := { s with fabric := { s.fabric with xfers := mput s.fabric.xfers t x } }
def State.delXfer (s : State) (t : Nat) : State := { s with fabric := { s.fabric with xfers := mdel s.fabric.xfers t } }
def State.xfer (s : State) (t : Nat) : Option Xfer := mget s.fabric.xfers t

/-- An ownership message about transfer `t` (VC 1, R357), under the share group of its session (R325). -/
def State.own (s : State) (j t dst type : Nat) (data : List Byte) : State :=
  let share := match s.xfer t with
    | some x => if x.outbound ∨ x.phase = .entered then s.shareOf x.session else 0
    | none => 0
  (s.send j 1 type dst (flowOfTransfer t) (BitVec.ofNat 64 t) data share).1

/-- The contents of HANDOFF_OUT. The manual names its fields and gives no layout (log entry 11). -/
def State.handoffMsg (s : State) (i epoch : Nat) (src : SState) (carried : Bool) (cwell phaseUs rows : Nat) : HandoffMsg :=
  let x := s.sess i; let a := s.aux i
  { epoch := epoch, sender := s.node, tag := s.jobTag x.job, srcState := src.code, toolp := x.toolp, root := x.root, pinned := x.pinned, conf := x.conf, prio := x.prio,
    eventWell := x.eventWell, adapter := x.adapter, adapterVer := x.adapterVer, len := x.len, retained := x.retained,
    grammar := x.grammar, seed := x.seed, scounter := x.scounter, modelDigest := a.modelDigest,
    ttlLeftUs := (x.expiry + 2 ^ 48 - s.now % 2 ^ 48) % 2 ^ 48, grains := extentLen (s.pairs i) (x.retained + rows), pairs := s.pairs i,
    carried := carried, cwell := cwell, phaseUs := phaseUs, ttlParked := a.ttlParked }

def handoffBytes (x : Session) (m : HandoffMsg) : List Byte :=
  x.image ++ leBytes 32 m.modelDigest.toNat ++ leBytes 4 m.epoch ++ leBytes 2 m.adapter ++ leBytes 8 m.ttlLeftUs ++ leBytes 4 m.grains ++
    [BitVec.ofNat 8 (b2n m.carried)] ++ [BitVec.ofNat 8 m.cwell] ++ leBytes 4 m.phaseUs

/-- Send HANDOFF_OUT for a session: a transfer record is taken. `rows` positions will be prefilled before the last grain leaves. -/
def State.offer (s : State) (i node : Nat) (ctx : DescCtx) (src : SState) (turn : Option Desc) (cwell phaseUs rows : Nat) : State :=
  let s := s.dropAbandoned i
  let x := s.sess i
  let (t, s) := s.nextTransfer
  let m := s.handoffMsg i (x.ownerEpoch + 1) src turn.isSome cwell phaseUs rows
  let r : Xfer := { outbound := true, session := i, epoch := x.ownerEpoch + 1, peer := node, phase := .offered, since := s.now,
                    offeredAt := s.now, queries := 0, waitIn := false, total := m.grains, got := 0, msg := some m, grains := [], carry := x.carry,
                    reqGrain := none, job := x.job, req := 0, ctx := some ctx, turn := turn, phaseUs := phaseUs }
  (s.setXfer t r).own x.job t node Msg.handoffOut (handoffBytes x m)

/-- The outbound transfer of a session. -/
def State.outXfer (s : State) (i : Nat) : Option (Nat × Xfer) :=
  s.fabric.xfers.find? (fun e => e.2.outbound && e.2.session == i &&
    (e.2.phase == .offered || e.2.phase == .sending || e.2.phase == .sent))

/-! ## PARK, MIGRATE, CLOSE, END_REQUEST -/

def kPark : Kind :=
  { code := 0x0104, since := 1, cwell := none, keys := false, preempt := false,
    fields := [(128, 29), (160, 32), (192, 32), (224, 16)] }

/-- PARK (R34, R67, R70). DESIGN CHOICE (log entry 53): where TTL_PARKED_S is 0, the job's parked default is read when the PARK is accepted, not when
the session enters PARKED; R24 does not say which. -/
def execPark (job well : Nat) (d : Desc) (s : State) : Res :=
  s.takeUp kPark job well d fun c s =>
    let i := dfld d 16 0 24; let tier := dfld d 16 24 3; let ttl := dfld d 20 0 32; let wait := dfld d 24 0 32
    let region := dfld d 28 0 16
    s.withSession c i true fun s =>
      let x := s.sess i
      if tier ≠ 2 ∧ tier ≠ 3 then .next (s.complete c Code.badTarget 0 0 i)
      else if s.gone i ∨ (x.state ≠ .open ∧ x.state ≠ .toolWait) then .next (s.complete c Code.wrongState 0 0 i)
      else match s.targetErr job tier region with
        | some e => .next (s.complete c e 0 0 i)
        | none =>
          let s := s.modAux i (fun a => { a with expWait := wait, waitFrom := s.now })
          let ttl := s.ttlPark job ttl
          if bit d (128 + 27) then
            let p := s.reg (Reg.jobPolicy job)
            let ms := if wait = 0 ∨ fld p 16 16 < wait then fld p 0 16 else 2 * wait
            let g : GracePark := { due := s.now + 1000 * ms, tier := tier, region := region, ttl := ttl, evict := bit d (128 + 28) }
            .next ((s.modAux i (fun a => { a with grace := some g })).complete c Code.ok 0 0 i)
          else match s.startPark i .park tier region ttl (bit d (128 + 28)) (some c) with
            | (.error e, s) => .next (s.complete c e 0 0 i)
            | (.ok _, s) => .next s

def kMigrate : Kind :=
  { code := 0x0201, since := 1, cwell := none, keys := false, preempt := false,
    fields := [(128, 28), (160, 16), (176, 16), (192, 32)] }

/-- MIGRATE (R72). -/
def execMigrate (job well : Nat) (d : Desc) (s : State) : Res :=
  s.takeUp kMigrate job well d fun c s =>
    let i := dfld d 16 0 24; let tier := dfld d 16 24 3; let node := dfld d 20 0 16; let region := dfld d 22 0 16
    let ttl := dfld d 24 0 32; let handoff := bit d (128 + 27)
    s.withSession c i true fun s =>
      let x := s.sess i
      if 4 < tier then .next (s.complete c Code.badTarget 0 0 i)
      else match (if tier = 4 then s.routeErr job node else none) with
        | some e => .next (s.complete c e 0 0 i)
        | none =>
          if s.gone i ∨ (x.state ≠ .open ∧ x.state ≠ .toolWait ∧ x.state ≠ .parked) then .next (s.complete c Code.wrongState 0 0 i)
          else if (tier = 2 ∨ tier = 3) ∧ x.state ≠ .parked then .next (s.complete c Code.badTarget 0 0 i)
          else if tier = 4 ∧ handoff = true then
            if (s.aux i).unsettled ∨ 65536 ≤ s.fabric.xfers.length then .next (s.complete c Code.ownerUnsettled 0 0 i)
            else
              let m : Move := { kind := .handoff, tier := 4, place := node, dest := 0, ttl := 0, evict := false, ctx := some c, src := x.state,
                                abandoned := false, grains := [], retained := x.retained }
              let s := s.offer i node c x.state none 0 0 0
              let toolp := if x.state = .parked then x.toolp else x.state == .toolWait
              let s := s.setSess i { x with state := .moving, toolp := toolp }
              .next (s.modAux i (fun a => { a with move := some m, grace := none }))
          else
            let r := if tier ≤ 1 then s.startUp i .migrate tier (some c)
              else s.startPark i (if tier = 4 then .peer else .migrate) tier (if tier = 4 then node else region) ttl false (some c)
            match r with
            | (.error e, s) => .next (s.complete c e 0 0 i)
            | (.ok _, s) => .next s

def kClose : Kind := { code := 0x0105, since := 0, cwell := none, keys := false, preempt := false, fields := [(128, 24)] }

/-- Abandon a session's move at the next grain boundary (Table 1.3); of a transfer not yet past its last grain, ABORT goes
out and its record is settled (R366). -/
def State.abandonMove (s : State) (i : Nat) : State :=
  let s := s.modAux i (fun a => { a with move := a.move.map (fun m => { m with abandoned := true }) })
  match s.outXfer i with
  | some (t, x) => (s.own x.job t x.peer Msg.abort []).delXfer t
  | none => s

/-- CLOSE (R35, R366, Table 1.3). A CLOSE that meets a session whose CLOSE still waits, RUNNING or MOVING, waits with it. -/
def execClose (job well : Nat) (d : Desc) (s : State) : Res :=
  s.takeUp kClose job well d fun c s =>
    let i := dfld d 16 0 24
    s.withSession c i true fun s =>
      let x := s.sess i
      if s.gone i then .next (s.complete c Code.wrongState 0 0 i)
      else
        let s := s.modAux i (fun a => { a with closing := a.closing ++ [c] })
        match x.state with
        | .running | .paused => .next (s.endReq (x.curReq % 65536) Code.closed false)
        | .moving =>
          match s.outXfer i with
          | some (_, t) => if t.phase = .sent then .next s else .next ((s.abandonMove i).endSession i)
          | none => .next (s.endSession i)
        | _ => .next (s.endSession i)

def kEndRequest : Kind := { code := 0x0106, since := 0, cwell := none, keys := false, preempt := false, fields := [(128, 32), (160, 1)] }

/-- The request a 32-bit identifier names, if it is live (R27, R28). -/
def State.liveId (s : State) (id : Nat) : Option Nat :=
  let i := id % 65536
  if (s.req i).rstate ≠ .free ∧ (s.req i).gen = id / 65536 then some i else none

/-- RSTATE with a pause looked through (R252). -/
def State.rstateOf (s : State) (i : Nat) : RState :=
  if (s.req i).rstate = .paused then ((s.raux? i).map (·.pausedIn)).getD .paused else (s.req i).rstate

/-- END_REQUEST (R28, R36). -/
def execEndRequest (job well : Nat) (d : Desc) (s : State) : Res :=
  s.takeUp kEndRequest job well d fun c s =>
    let id := dfld d 16 0 32
    match s.liveId id with
    | none => .next (s.complete c Code.staleRequest)
    | some i =>
      let r := s.req i
      if r.job ≠ job then .next (s.complete c Code.notOwnedByJob 0 id)
      else
        let s := s.complete c Code.ok 0 id r.session
        if r.rstate = .ending then .next s
        else if s.rstateOf i = .decode ∧ bit d 160 = false then .next (s.endReq i Code.hostEnded true)
        else .next (s.discardEnd i Code.hostEnded)

/-! ## PLACE_QUERY, REGISTER_T3 -/

def kPlaceQuery : Kind :=
  { code := 0x0202, since := 2, cwell := none, keys := false, preempt := false, fields := [(128, 24), (192, 64)] }

/-- The placement record of Table 2.10. Its time estimates bind nothing and are the device's own (R73). -/
def State.placement (s : State) (i : Nat) : List Byte × State :=
  let x := s.sess i; let a := s.aux i
  let data := x.grains.filter (fun g => g.kind != 2)
  let tiers := (List.range 5).map (fun t => (data.filter (fun g => gTier g.addr == t)).length)
  let waited := (s.now - a.waitFrom) / 1000
  let left := if a.expWait = 0 then 0xFFFFFFFF else a.expWait - waited
  let (n, s) := s.draw
  let (m, s) := s.draw
  let (p, s) := s.draw
  let (q, s) := s.draw
  let (r, s) := s.draw
  let est (k : Nat) := leBytes 4 (Config.freeNat k)
  let live := x.state == .running || x.state == .paused || x.state == .moving
  let secs := if live then 0 else (x.expiry + 2 ^ 48 - s.now % 2 ^ 48) % 2 ^ 48 / 1000000
  (tiers.flatMap (leBytes 4) ++ leBytes 4 left ++ est n ++ est m ++ est p ++ est q ++ est r ++
    leBytes 4 ((s.now % 2 ^ 48 + 2 ^ 48 - x.lastActive) % 2 ^ 48 / 1000) ++ leBytes 4 secs ++ [BitVec.ofNat 8 x.state.code] ++ zeros 11, s)

/-- PLACE_QUERY (R73). DESIGN CHOICE (log entry 53): at a RESULT_ADDR that is not 64 B-aligned the record is written as it stands; R73 gives it no code. -/
def execPlaceQuery (job well : Nat) (d : Desc) (s : State) : Res :=
  s.takeUp kPlaceQuery job well d fun c s =>
    let i := dfld d 16 0 24
    s.withSession c i false fun s =>
      if s.gone i then .next (s.complete c Code.wrongState 0 0 i)
      else
        let (rec_, s) := s.placement i
        .next ((s.wr false (dfld d 24 0 64) rec_).complete c Code.ok 0 0 i)

def kRegisterT3 : Kind :=
  { code := 0x0203, since := 1, cwell := none, keys := false, preempt := false, fields := [(128, 16), (144, 1), (160, 32), (192, 64)] }

/-- A grain of the job lies in a T3 region: of a session, of a table row. -/
def State.regionUsed (s : State) (j n : Nat) : Bool :=
  (match mget (s.job j).regions n with
    | none => false
    | some r => !r.used.isEmpty) ||
    (s.job j).tables.any (fun t => t.2.versions.any (fun v => v.rowMap.any (fun e =>
      (e.2.tier == 3 && e.2.region == n) || (match e.2.migrating with
        | some (t, r, _) => t == 3 && r == n
        | none => false)) || v.areas.any (fun (a : Nat × Nat × Nat × Nat) => a.1 == 3 && a.2.1 == n)))

/-- REGISTER_T3 (R61). DESIGN CHOICE (log entry 53): GRAINS 0 for a region that is not registered completes with OK; R61 gives it no code. -/
def execRegisterT3 (job well : Nat) (d : Desc) (s : State) : Res :=
  s.takeUp kRegisterT3 job well d fun c s =>
    let n := dfld d 16 0 16; let grains := dfld d 20 0 32; let iova := BitVec.ofNat 64 (dfld d 24 0 64)
    let cur := mget (s.job job).regions n
    match firstFail [
      (decide (n ≤ 255), Code.badRegion),
      (fld iova 0 14 == 0, Code.badRegion),
      (if grains = 0 then !(s.regionUsed job n) else cur.isNone, Code.regionBusy)] with
    | some e => .next (s.complete c e)
    | none =>
      let region : T3Region := { iova := iova, grains := grains, sealed := bit d 144, used := [] }
      let s := s.modJob job (fun x => { x with regions := if grains = 0 then mdel x.regions n else mput x.regions n region })
      .next (s.complete c Code.ok)

/-! ## Grace periods and demotion (R67 to R71) -/

/-- GRACE_PERIOD_END (R34, R67, R68, R70). -/
def execGracePeriodEnd (session : Nat) (s : State) : Res := s.ifReady <|
  let x := s.sess session
  match (s.aux session).grace with
  | none => .next s
  | some g =>
    if s.now < g.due ∨ (x.state ≠ .open ∧ x.state ≠ .toolWait) ∨ s.expired session = true then .next s
    else
      .next (s.sesOp session fun s =>
        let s := s.modAux session (fun a => { a with grace := none })
        match s.startPark session .demote g.tier g.region g.ttl g.evict none with
        | (.error e, s) => s.sessEvent session Code.parkFailed e
        | (.ok _, s) => s)

/-- IDLE_DEMOTION (R69): a session idle for longer than IDLE_S. -/
def execIdleDemotion (session : Nat) (s : State) : Res := s.ifReady <|
  let x := s.sess session
  let idle := fld (s.reg (Reg.jobPolicy x.job)) 32 16
  if s.demotable session ∧ idle ≠ 0 ∧ idle * 1000000 < (s.now % 2 ^ 48 + 2 ^ 48 - x.lastActive) % 2 ^ 48 then .next (s.demote session)
  else .next s

/-- T1_PRESSURE_DEMOTION (R69, R71): at 15/16 of the effective limit, or while a request waits for T1, sessions are demoted in ascending
LAST_ACTIVE order until at most 7/8 of it is used and what waits fits. -/
def execT1PressureDemotion (job : Nat) (s : State) : Res := s.ifReady <|
  if 15 * s.t1Limit job ≤ 16 * s.t1Used job ∨ s.t1Wanted job ≠ 0 then .next (s.demoteDown job) else .next s

/-! ## The ends of moves (R59, R78, R79) -/

/-- Grain `k` of a parked extent in T3 as a pump reads it (R49, R61, R66): none when the host access fails; else the plaintext, and whether it
passes every check. -/
def State.readT3 (s : State) (i k : Nat) : Option (List Byte × Bool) :=
  let x := s.sess i; let n := gAddr x.root >>> 28
  (mget (s.job x.job).regions n).bind (fun r => (s.rd false (r.at_ (gAddr x.root % 2 ^ 28 + k)) 16384).map (fun bs =>
    let sealed_ := s.t3Sealed x.job n
    match (if sealed_ then unsealGrain (s.t3KeyOf x.job) bs else some bs) with
    | none => (bs, false)
    | some g => (g, (extentWant i sealed_ x (s.pairs i) (cdiv x.retained 64) k).ok g)))

/-- What the pumps find of a whole extent in T3: unreadable, damaged, or good. -/
def State.extentT3 (s : State) (i : Nat) : Landing ⊕ Unit :=
  let gs := (List.range (extentLen (s.pairs i) (s.sess i).retained)).map (s.readT3 i)
  if gs.any (·.isNone) then .inr () else if gs.all (fun g => g.any (·.2)) then .inl .ok else .inl .damaged

/-- A move fails (R78). -/
def State.moveFails (s : State) (i code : Nat) (damaged : Bool) : State :=
  let x := s.sess i
  match (s.aux i).move with
  | none => s
  | some m =>
    if x.state ≠ .moving ∨ m.abandoned ∨ m.kind = .handoff then s
    else
      let s := (s.dropMoveWork i).freeDest i m
      let s := s.setSess i { x with state := m.src, toolp := if m.src = .parked then x.toolp else false }
      let s := (s.modAux i (fun a => { a with move := none, damaged := a.damaged || damaged })).pumpStatus i (if damaged then 1 else 3) m.grains.length
      let s := match m.kind with
        | .park => s.complete? m.ctx code 0 0 i
        | .demote => s.sessEvent i Code.parkFailed code
        | _ => (s.complete? m.ctx Code.tierError 0 0 i).sessEvent i Code.moveFailed (b2n damaged)
      s.retryUp x.job

/-- The root is switched in one update, and the source freed (R59, R24). -/
def State.moveEnds (s : State) (i : Nat) (m : Move) : State :=
  let x := s.sess i
  let old := x.root
  let count := extentLen (s.pairs i) x.retained
  let s := s.dropMoveWork i
  let s := if m.src = .parked then s.extentFree x.job old count else s
  let s := if m.src = .parked ∧ gTier old = 4 then s.peerRelease i x.job old else s
  let s := s.countEvict (x.retained - m.retained) (s.pairs i * (cdiv x.retained 64 - cdiv m.retained 64))
  let up := m.tier ≤ 1
  let y : Session := { x with
    state := if up then (if m.kind = .cancel then .open else if x.toolp then .toolWait else .open) else .parked
    toolp := if up then false else x.toolp, grains := m.grains, root := m.dest, retained := m.retained
    expiry := if up then x.expiry else match m.ttlIn with
      | none => x.expiry
      | some t => s.expiryIn t }
  let s := s.setSess i y
  let s := s.modAux i (fun a => { a with
    move := none, metaEntry := y.image, pumpStat := (0, m.grains.length), ttlParked := if up then a.ttlParked else m.ttlParked a })
  let s := (s.complete? m.ctx Code.ok 0 0 i).writeParked i
  let s := if m.kind = .demote then s.sessEvent i Code.sessionParked else s
  s.retryUp x.job

/-- MOVE_COMPLETE: every grain of a move has been taken up by the pumps and written; a move to T2 completes once META is reported (R386).
How many grains failed a first check and passed the second (R49) is a free value. What a move reads from T3 is checked: a grain that the host has
changed fails it (R62), and a session on the damage list fails it whatever is read (R474). -/
def execMoveComplete (session : Nat) (s : State) : Res := s.ifReady <|
  let x := s.sess session; let a := s.aux session
  match a.move with
  | none => .next s
  | some m =>
    let written := m.tier != 2 || (match mget s.ftl.objects (gAddr m.dest) with
      | some o => o.complete
      | none => false)
    if x.state ≠ .moving ∨ m.abandoned ∨ m.kind = .handoff ∨ m.needT1 ≠ 0 ∨ s.moveWaits session = true then .next s
    else if a.damaged then .next (s.moveFails session Code.tierError true)
    else if !written then .next s
    else .next (s.sesOp session fun s =>
      match (if m.src = .parked ∧ gTier x.root = 3 then s.extentT3 session else .inl .ok) with
      | .inr _ => s.moveFails session Code.tierError false
      | .inl .damaged => (s.countChecks 2 0).moveFails session Code.tierError true
      | .inl _ =>
        if m.src = .parked ∧ 2 ≤ gTier x.root then
          let (n, s) := s.draw
          let again := Config.freeNat n % (m.grains.length + 1)
          (s.countChecks again again).moveEnds session m
        else s.moveEnds session m)

/-- MOVE_ABANDON: an abandoned move reaches its grain boundary. -/
def execMoveAbandon (session : Nat) (s : State) : Res := s.ifReady <|
  .next (((s.dropAbandoned session).retryUp (s.sess session).job).settle session)

/-- MOVE_FAILED (R78). -/
def execMoveFailed (session code : Nat) (damaged : Bool) (s : State) : Res := s.ifReady <|
  let s := if damaged then s.countChecks 2 0 else s
  .next (s.moveFails session code damaged)

/-! ## Revival (R75 to R77) -/

/-- Has a revival its places in T1? -/
def ReqAux.placed (a : ReqAux) : Bool := a.landed != 0 || !a.revive.isEmpty

/-- Place the T1 grains of a revival and issue its reads, if the effective limit allows; else the request waits for T1 (R54, R71, R75). -/
def State.placeRevival (s : State) (i : Nat) : State :=
  match s.raux? i with
  | none => s
  | some a =>
    let r := s.req i; let x := s.sess r.session; let pairs := s.pairs r.session
    if a.placed ∨ a.extent = 0 then s
    else if !s.t1Room r.job a.extent then s.setRaux i { a with needT1 := a.extent }
    else
      let order := sortBy (fun (g h : SGrain) => decide (extentIndex pairs (cdiv x.retained 64) g.lgn ≤ extentIndex pairs (cdiv x.retained 64) h.lgn)) x.grains
      let (gs, s) := s.placeAll r.job pairs 1 [] order []
      (s.setRaux i { a with revive := gs, readAt := s.now, needT1 := 0 }).enqueueMove r.session a.extent

/-- What a landed SAMPLER grain says of the sampler's state. -/
def samplerCarry (c : Carry) (len : Nat) (g : List Byte) : Carry :=
  let r := readCarry len g [] []
  { c with lastToken := r.lastToken, ringHead := r.ringHead, ring := r.ring }

/-- The next grain of a revival enters the working list, with the MAP grains it needs; `bytes` is what a pump read in T3, else the session's own
copy lands. The first one of a revival counts in PMP_TIER_LAT (R75, R81). -/
def State.enterGrain (s : State) (i : Nat) (a : ReqAux) (bytes : Option (List Byte)) : State :=
  let r := s.req i; let x := s.sess r.session; let pairs := s.pairs r.session
  match a.revive with
  | [] => s
  | g :: rest =>
    let g := match bytes with
      | some b => if g.kind = 1 then { g with slots := readSlots b } else g
      | none => g
    let carry := match bytes with
      | some b => if g.kind = 4 then samplerCarry a.carry x.len b else a.carry
      | none => a.carry
    let s := s.setRaux i { a with revive := rest, carry := carry, landed := a.landed + 1 }
    let (work, s) := s.withMaps r.job pairs x.level x.ownerEpoch 1 (a.work ++ [g])
    let s := s.modRaux i (fun a => { a with work := work })
    if a.landed ≠ 0 then s
    else { s with tierLat := mput s.tierLat (gTier x.root) (((s.now - a.readAt) :: mgetD s.tierLat (gTier x.root) []).take 256) }

/-- GRAIN_LAND (R49, R75): the next grain of a revival, in revival order, lands and is checked, once the pumps have taken up its reads. `res` is
how its reads fared: in T2 the page is rebuilt from its stripe before the second; a grain of T3 whose bytes fail a check is damaged whatever `res` says, and a host access that fails is a read
failure (R62, R77). -/
def execGrainLand (req : Nat) (res : Landing) (s : State) : Res := s.ifReady <|
  match s.raux? req with
  | none => .next s
  | some a =>
    if a.extent ≤ a.landed ∨ a.ended.isSome then .next s
    else
      let s := s.placeRevival req
      match s.raux? req with
      | none => .next s
      | some a =>
        let i := (s.req req).session; let root := (s.sess i).root
        if a.revive.isEmpty ∨ s.moveWaits i = true then .next s
        else
          let t3 := gTier root = 3
          let got := if t3 then s.readT3 i a.landed else none
          if t3 ∧ got.isNone then .next (s.endReq req Code.tierError false)
          else
            let res := if got.any (fun g => !g.2) then Landing.damaged else res
            let s := if gTier root = 2 ∧ res ≠ .ok then s.rebuildPage (gAddr root + a.landed) else s
            match res with
            | .ok => .next (s.enterGrain req a (got.map (·.1)))
            | .secondOk => .next ((s.countChecks 1 1).enterGrain req a (got.map (·.1)))
            | .damaged => .next ((s.countChecks 2 0).endReq req Code.stateLost false)

/-- TIER_LATE (R71, R76, R77). -/
def execTierLate (req : Nat) (s : State) : Res := s.ifReady <|
  match s.raux? req with
  | none => .next s
  | some a =>
    if (a.landed < a.extent ∨ a.needT1 ≠ 0) ∧ a.budget < s.now ∧ a.ended.isNone then .next (s.endReq req Code.tierLate false)
    else .next s

/-- TIER_ERROR (R77): a read of a revival fails; damage, found by a second check failure, shows in STATE_LOST. -/
def execTierError (req : Nat) (damaged : Bool) (s : State) : Res := s.ifReady <|
  match s.raux? req with
  | none => .next s
  | some a =>
    if a.extent ≤ a.landed ∨ a.ended.isSome then .next s
    else if damaged then .next ((s.countChecks 2 0).endReq req Code.stateLost false)
    else .next (s.endReq req Code.tierError false)

end Sys2Proof.Machine
end

