-- ==== Sys2Proof/Machine/Attn.lean ====
section
/-!
DEFINITION. Sys2Proof/Machine/Attn.lean: the rows of a step layer by layer: keys, values and queries (R188, R189), scores, softmax and the attention
sum (R195), training statistics and the backward row (R205, R207), importance (R197), the reduction over the devices of a sharded model
(R93, R210), pooling (R320).
-/
namespace Sys2Proof.Machine

open Sys2Proof

/-- A vector in L8, or lifted from L6 (R86): blocks of 32 codes, each with its exponent. -/
abbrev Blocks := List (List Nat × Int)

/-- The largest exponent of some blocks. -/
def Blocks.top (bs : Blocks) : Int := ((bs.map (·.2)).max?).getD 0

/-- R97, R98: binary32 numbers re-quantized in blocks of 32. -/
def quantize (l8 : Bool) (xs : List Nat) : Blocks :=
  (List.range (cdiv xs.length 32)).map (fun b =>
    let r := requant l8 (((xs.drop (32 * b)).take 32).map (fun x => (requantInput binary32 x).1))
    (r.codes, r.exp))

/-- R97: elements of a tile row of exponent `e`, read out with shift 0 and re-quantized to L8. -/
def quantizeRow (e : Int) (xs : List (BitVec 48)) : Blocks :=
  (List.range (cdiv xs.length 32)).map (fun b =>
    let r := requant true (((xs.drop (32 * b)).take 32).map (fun x => ((readout x 0).1.toInt, e)))
    (r.codes, r.exp))

/-- The L6 codes of a slot's key or value, lifted, with their block exponents (R50, R86). -/
def slotBlocks (codes : BitVec 768) (exps : W32) : Blocks :=
  (List.range 4).map (fun b => ((List.range 32).map (fun d => lift (fld codes (6 * (32 * b + d)) 6)), sext 8 (fld exps (8 * b) 8)))

/-- The exponents of four blocks as bytes. -/
def packExps (bs : Blocks) : W32 := BitVec.ofNat 32 (leNat (bs.map (fun b => BitVec.ofInt 8 b.2)))
/-- The codes of four L6 blocks, packed (R50). -/
def packCodes (bs : Blocks) : BitVec 768 := BitVec.ofNat 768 (leNat (l6Pack (bs.flatMap (·.1))))

/-! ## Projections (R188, R189) -/

/-- A head's projection in binary32 (R99): `kind` 0 query, 1 key, 2 value. -/
def projected (k : RowKey) (kind head : Nat) : List Nat :=
  (List.range 128).map (fun i => (binary32.ofInt (Config.proj k kind head i).toInt (Config.projExp k kind head).toInt).1)

/-- A vector rotated at the row's own position. -/
def rotate (k : RowKey) (xs : List Nat) : List Nat :=
  let ws := xs.map (BitVec.ofNat 32)
  (List.range xs.length).map (fun i => (Config.rotated k.model k.pos ws i).toNat)

/-- R188: the slot a new position writes for a key-value head; the key is rotated, the value is not. -/
def newSlot (k : RowKey) (head : Nat) : KvSlot :=
  let kb := quantize false (rotate k (projected k 1 head)); let vb := quantize false (projected k 2 head)
  { pos := k.pos, imp := 0, k := packCodes kb, kexp := packExps kb, v := packCodes vb, vexp := packExps vb }

/-- R188: the L8 query of a query head. -/
def queryBlocks (k : RowKey) (head : Nat) : Blocks := quantize true (rotate k (projected k 0 head))

/-- R189: a query's sketch, from its L8 codes. -/
def querySketch (q : Blocks) : BitVec 128 :=
  BitVec.ofNat 128 (((q.flatMap (·.1)).zipIdx).foldl (fun a c => if c.1 % 128 ≠ 0 ∧ c.1 < 128 then a + 2 ^ c.2 else a) 0)

/-! ## Scores, softmax and the sum (R195, R103) -/

/-- The sum of the products of two vectors in a row of exponent `er` (R88 to R91). -/
def dotBlocks (q k : Blocks) (er : Int) : BitVec 48 :=
  (q.zip k).foldl (fun a b => (b.1.1.zip b.2.1).foldl (fun a c => a + (termOf c.1 b.1.2 c.2 b.2.2 er).1) a) 0

/-- The binary32 score of each attended slot, by compacted index. -/
def scores (q : Blocks) (seq : List KvSlot) (att : List Nat) : List (Nat × Nat) :=
  let ks := att.filterMap (fun c => (seq[c]?).map (fun x => (c, slotBlocks x.k x.kexp)))
  let er := q.top + ((ks.map (fun x => Blocks.top x.2)).max?).getD 0 - 15
  ks.map (fun x => (x.1, (binary32.ofInt (readout (dotBlocks q x.2 er) 7).1.toInt (er + 7)).1))

/-- x of R103. -/
def softX (m scale s : Nat) : Nat := (binary32.mul (binary32.sub s m).1 scale).1

/-- The sum of R103. The exponential of a NaN is free (log entry 15). -/
def softSum (m scale : Nat) (ss : List (Nat × Nat)) : Nat :=
  ss.foldl (fun a s => a + ((softExp (softX m scale s.2)).map (·.1.toNat)).getD (Config.expOfNan (BitVec.ofNat 32 (softX m scale s.2))).toNat) 0

/-- The largest score. -/
def softMax : List (Nat × Nat) → Nat
  | [] => 0
  | s :: ss => ss.foldl (fun m x => if (binary32.lt m x.2).1 then x.2 else m) s.2

/-- A probability: the compacted index, the code and the exponent of its softmax block. -/
abbrev Prob := Nat × Nat × Int

/-- The codes of R103 by half grains of 32 slots, from m and lam alone (R195, R207). -/
def probCodes (m lam scale : Nat) (ss : List (Nat × Nat)) : List Prob :=
  let qs := ss.map (fun s =>
    let x := softX m scale s.2
    (s.1, (softQ x lam).1.getD (Config.softQOpen (BitVec.ofNat 32 x) (BitVec.ofNat 32 lam))))
  ((qs.map (fun e => e.1 / 32)).eraseDups).flatMap (fun h =>
    let lanes := (List.range 32).map (fun i => (qs.find? (fun e => e.1 == 32 * h + i)).map (·.2))
    let r := softBlock lanes
    let b := r.2.getD (sext 8 (Config.softExpOpen lanes))
    (lanes.zip r.1).zipIdx.filterMap (fun e => e.1.1.map (fun _ => (32 * h + e.2, e.1.2, b))))

/-- What one query head of a row computes: its output, the probabilities, and the saved m and lam. -/
structure HeadRow where
  out : Blocks
  probs : List Prob
  m : Nat
  lam : Nat

/-- C of a model (R195): 0 selects fl32(log2(e) / √128). -/
def Model.softScale (m : Model) : Nat := if m.scale = 0 then 0x3E0293EE else m.scale.toNat

/-- R103 over the scores of a row; a training row rounds m and lam to H16 toward +∞ and uses the rounded values (R205). -/
def softRow (train : Bool) (scale : Nat) (ss : List (Nat × Nat)) : List Prob × Nat × Nat :=
  if ss.isEmpty then ([], 0, 0)
  else
    let up (x : Nat) : Nat := if train then (Fmt.convert binary16 binary32 (h16Up (BitVec.ofNat 32 x)).toNat).1 else x
    let m := up (softMax ss)
    let lam := up (softLam (softSum m scale ss)).1
    (probCodes m lam scale ss, m, lam)

/-- The largest exponent among the values of attended slots. -/
def valueTop (seq : List KvSlot) (ps : List Prob) : Int :=
  ((ps.filterMap (fun p => (seq[p.1]?).map (fun x => (slotBlocks x.v x.vexp).top))).max?).getD 0

/-- Element `d` of the sum over probabilities and values, in a row of exponent `eo`. -/
def valueSum (seq : List KvSlot) (ps : List Prob) (eo : Int) (d : Nat) : BitVec 48 :=
  ps.foldl (fun a p => match seq[p.1]? with
    | none => a
    | some x => a + (termOf p.2.1 p.2.2 (lift (fld x.v (6 * d) 6)) (sext 8 (fld x.vexp (8 * (d / 32)) 8)) eo).1) 0

/-- ceil(log2 n). -/
def clog2 (n : Nat) : Nat := if n ≤ 1 then 0 else (n - 1).log2 + 1

/-- The attention sum of one query head (R195). -/
def headRow (train : Bool) (scale : Nat) (q : Blocks) (seq : List KvSlot) (att : List Nat) : HeadRow :=
  let (ps, m, lam) := softRow train scale (scores q seq att)
  let bmax := ((ps.map (·.2.2)).max?).getD 0
  let eo := bmax + valueTop seq ps - 15 + ((clog2 ps.length - 16 : Nat) : Int)
  { out := quantizeRow eo ((List.range 128).map (valueSum seq ps eo)), probs := ps, m := m, lam := lam }

/-! ## Importance (R197) -/

/-- What one query head's probabilities add to the slot at a compacted index. -/
def addProb (c : Nat) (imp : BitVec 16) (ps : List Prob) : BitVec 16 := match ps.find? (fun p => p.1 == c) with
  | some p => addImportance imp p.2.1 p.2.2
  | none => imp

/-- One query position's additions to a pair's slots: every head of the group in ascending order. -/
def addRow (heads : List (List Prob)) (seq : List KvSlot) : List KvSlot :=
  seq.zipIdx.map (fun e => { e.1 with imp := heads.foldl (addProb e.2) e.1.imp })

/-! ## The rows of an entry -/

/-- How the rows of an entry attend. -/
structure Attend where
  train : Bool
  bidir : Bool
  sel : Option (Nat × Nat × Nat)
  /-- The rows write no slots: their position holds them already (R241). -/
  reads : Bool

/-- The rows of an entry after some layers: their keys, the slots each pair gained, each pair's heads by row, and each layer's own output by row. -/
structure StepRows where
  keys : List RowKey
  slots : List (List KvSlot)
  heads : List (List (List HeadRow))
  own : List (List Blocks)

/-- One pair's work for the rows `keys`, over the slots it retains. -/
def pairRows (m : Model) (a : Attend) (base : List KvSlot) (head : Nat) (keys : List RowKey) : List KvSlot × List (List HeadRow) :=
  let slots := if a.reads then [] else keys.map (fun k => newSlot k head)
  let seq := base ++ slots
  (slots, keys.zipIdx.map (fun e =>
    let x := if a.reads then base.length - 1 else if a.bidir then seq.length - 1 else base.length + e.2
    let qs := (List.range m.qpk).map (fun g => queryBlocks e.1 (head * m.qpk + g))
    let att := attended seq x a.sel (qs.map querySketch)
    qs.map (fun q => headRow a.train m.softScale q seq att)))

/-- One layer. `shared` is what the reduction over the devices gave each row, for a sharded model. -/
def StepRows.layer (m : Model) (a : Attend) (base : List (List KvSlot)) (shared : Option (List Blocks)) (st : StepRows) : StepRows :=
  let l := st.own.length
  let ps := (List.range m.kvh).map (fun h => pairRows m a (base.getD (l * m.kvh + h) []) h st.keys)
  let own := (List.range st.keys.length).map (fun r => ps.flatMap (fun p => (p.2.getD r []).flatMap (·.out)))
  let out (r : Nat) : Blocks := match shared with
    | none => own.getD r []
    | some xs => xs.getD r []
  { keys := st.keys.zipIdx.map (fun e => { e.1 with outs := e.1.outs ++ [out e.2] }), slots := st.slots ++ ps.map (·.1),
    heads := st.heads ++ ps.map (·.2), own := st.own ++ [own] }

/-- The rows of an entry through its first `n` layers; `shared` gives the reduced rows of a sharded model by layer. -/
def stepRows (m : Model) (a : Attend) (base : List (List KvSlot)) (shared : Option (List (List Blocks))) (keys : List RowKey) (n : Nat) : StepRows :=
  (List.range n).foldl (fun st l => st.layer m a base (shared.map (fun x => x.getD l []))) ⟨keys, [], [], []⟩

/-- The key of row `r` before layer `l`. -/
def StepRows.keyAt (st : StepRows) (r l : Nat) : Option RowKey := (st.keys[r]?).map (fun k => { k with outs := k.outs.take l })

/-! ## Heads on several devices (R93, R210) -/

/-- The row exponent of a sharded layer's output projection, from the group's largest block exponent. -/
def shardExp (m : Model) (layer : Nat) (amax : Int) : Int :=
  amax + (Config.outWmax m.digest layer).toInt - 15 + ((clog2 (Config.outLen m.digest) - 16 : Nat) : Int)

/-- Step 1 of R210: the largest block exponent of each row, as a byte. -/
def StepRows.maxPart (st : StepRows) (l : Nat) : List (BitVec 48) :=
  (st.own.getD l []).map (fun bs => (BitVec.ofInt 8 bs.top).setWidth 48)

/-- Steps 3 and 4: the raw partials of each row, under the group's largest exponents `amax`. -/
def StepRows.sumPart (m : Model) (st : StepRows) (l : Nat) (amax : List (BitVec 48)) : List (BitVec 48) :=
  (List.range st.keys.length).flatMap (fun r =>
    let er := shardExp m l (sext 8 (amax.getD r 0).toNat)
    match st.keyAt r l with
    | none => (List.range m.width).map (fun _ => 0)
    | some k => (List.range m.width).map (Config.outPart k ((st.own.getD l []).getD r []) er))

/-- Step 6: the rows of a layer from the group's largest exponents and its sum. -/
def shardRows (m : Model) (layer : Nat) (amax sum : List (BitVec 48)) : List Blocks :=
  amax.zipIdx.map (fun e => quantizeRow (shardExp m layer (sext 8 e.1.toNat)) ((sum.drop (e.2 * m.width)).take m.width))

/-! ## The backward row (R207) -/

/-- One query head's backward row: the probability codes, as the forward pass formed them, and the L8 blocks of dS by half grain. The order in
which the vector unit adds the dimensions of dP and D is the model's, ascending (log entry 46). -/
def backwardRow (m : Model) (q : Blocks) (seq : List KvSlot) (att : List Nat) (mh lamh : BitVec 16) (dO O : List Nat) : List Prob × List (Nat × Blocks) :=
  let wide (x : BitVec 16) : Nat := (Fmt.convert binary16 binary32 x.toNat).1
  let ps := probCodes (wide mh) (wide lamh) m.softScale (scores q seq att)
  let dot (a b : List Nat) : Nat := (a.zip b).foldl (fun t e => (binary32.add t (binary32.mul e.1 e.2).1).1) 0
  let value (c : Nat) : List Nat := match seq[c]? with
    | none => []
    | some x => (slotBlocks x.v x.vexp).flatMap (fun b => b.1.map (fun c => (codeToFloat binary32 c b.2).1))
  let bigD := dot dO O
  let dS := ps.map (fun p => (p.1, (binary32.mul (codeToFloat binary32 p.2.1 p.2.2).1 (binary32.sub (dot dO (value p.1)) bigD).1).1))
  (ps, ((dS.map (fun e => e.1 / 32)).eraseDups).map (fun h =>
    (h, quantize true ((List.range 32).map (fun i => ((dS.find? (fun e => e.1 == 32 * h + i)).map (·.2)).getD 0)))))

/-! ## Pooling (R320, R312) -/

/-- A row's final hidden state in L8. -/
def finalRow (m : Model) (k : RowKey) : Blocks :=
  (List.range (m.width / 32)).map (fun b =>
    let r := requant true ((List.range 32).map (fun i => ((Config.finalWord k (32 * b + i)).toInt, (Config.finalExp k).toInt)))
    (r.codes, r.exp))

end Sys2Proof.Machine
end

