-- ==== Sys2Proof/Machine/Sampler.lean ====
section
/-!
DEFINITION. Sys2Proof/Machine/Sampler.lean: what one entry of a serving step does (09_decode_and_residency, R241 to R248;
07_attention_and_kv, R188 to R197; 10_text_path, R278 to R287): rows, the sampler, emission and drafts, as pure functions.
-/
namespace Sys2Proof.Machine

open Sys2Proof

/-! ## The sampler (R243, R244) -/

/-- A quotient with one rounding; the divisor is finite and not 0. -/
def Fmt.div (f : Fmt) (x y : Nat) : Nat :=
  match f.decode x, f.decode y with
  | .fin n1 m1 e1, .fin n2 m2 e2 =>
    if m2 = 0 then f.nan else (f.round (n1 != n2) ((m1 <<< 64) / m2) (e1 - e2 - 64) ((m1 <<< 64) % m2 != 0)).1
  | .inf n, .fin n2 _ _ => f.inf (n != n2)
  | _, _ => f.nan

/-- One round of Philox4x32 on (x0, x1, x2, x3) with its two key words. -/
def philoxRound (x : Nat × Nat × Nat × Nat) (k0 k1 : Nat) : Nat × Nat × Nat × Nat :=
  let p0 := 0xD2511F53 * x.1; let p1 := 0xCD9E8D57 * x.2.2.1
  ((p1 / 2 ^ 32 ^^^ x.2.1 ^^^ k0) % 2 ^ 32, p1 % 2 ^ 32, (p0 / 2 ^ 32 ^^^ x.2.2.2 ^^^ k1) % 2 ^ 32, p0 % 2 ^ 32)

/-- draw(): the 24 bits of u, which is that number times 2^-24. -/
def philoxDraw (seed : W64) (scounter : W32) (t : Nat) : Nat :=
  let x := (List.range 10).foldl (fun x r =>
    philoxRound x ((fld seed 0 32 + r * 0x9E3779B9) % 2 ^ 32) ((fld seed 32 32 + r * 0xBB67AE85) % 2 ^ 32)) (t % 2 ^ 32, scounter.toNat, 0, 0)
  x.1 / 2 ^ 8

/-- LOG2E of R243. -/
def log2e : Nat := 0x3FB8AA3B

/-- An H16 parameter as binary32. -/
def h16to32 (x : BitVec 16) : Nat := (Fmt.convert binary16 binary32 x.toNat).1

/-- The weight of a candidate: exp2 of a binary32 number, rounded once to H16, as binary32. -/
def candWeight (x : Nat) : Nat := h16to32 (match binary32.decode x with
  | .fin n m e =>
    let (v, q, st) := exp2Of n m e
    BitVec.ofNat 16 (binary16.round false v q st).1
  | .inf n => if n then 0 else 0x7C00
  | .nan _ => 0x7E00)

/-- R243: the token drawn for position `t` from binary32 logits `z`, the tokens that are allowed and the tokens at the last
REP_WIN positions; none when no token is allowed. -/
def sampleTok (z : Nat → Nat) (vocab : Nat) (allowed : Nat → Bool) (p : Params) (recent : List Nat) (seed : W64) (scounter : W32)
    (t : Nat) : Option Nat :=
  let rp := if p.repPen = 0 then 0x3F800000 else h16to32 p.repPen
  let z (v : Nat) : Nat :=
    if recent.contains v then (if (binary32.lt 0 (z v)).1 then Fmt.div binary32 (z v) rp else (binary32.mul (z v) rp).1) else z v
  let ranked := sortBy (fun (a b : Nat × Nat) => (binary32.decode a.2).cmp (binary32.decode b.2) != some .lt)
    (((List.range vocab).filter allowed).map (fun v => (v, z v)))
  let cand := ranked.take (if p.topK = 0 then 256 else p.topK)
  match cand with
  | [] => none
  | best :: _ =>
    if p.temp.toNat % 2 ^ 15 = 0 then some best.1
    else
      let it := Fmt.div binary32 log2e (h16to32 p.temp)
      let cum : List Nat := (cand.foldl (fun (a : List Nat × Nat) v =>
        let c := (binary32.add a.2 (candWeight (binary32.mul (binary32.sub v.2 best.2).1 it).1)).1
        (c :: a.1, c)) ([], 0)).1.reverse
      let n := cand.length
      let total (n : Nat) := cum.getD (n - 1) 0
      let tp := h16to32 p.topP
      let n := if (binary32.lt 0 tp).1 && (binary32.lt tp 0x3F800000).1 then
          let cut := (binary32.mul tp (total n)).1
          1 + (((List.range n).find? (fun i => (binary32.le cut (cum.getD i 0)).1)).getD (n - 1))
        else n
      let u := (binary32.ofInt (philoxDraw seed scounter t : Nat) (-24)).1
      let target := (binary32.mul u (total n)).1
      let i := ((List.range n).find? (fun i => (binary32.lt target (cum.getD i 0)).1)).getD (n - 1)
      (cand[i]?).map (·.1)

/-! ## One entry at work -/

/-- What an entry's rows are computed with: the model, vocabulary and grammar images, the request's settings, the adapter
image, and for a sharded model what the reductions of the step gave this entry's rows, by layer. -/
structure RowEnv where
  model : Model
  vocab : List Byte
  grammar : Option (List Byte)
  adapter : List Byte
  shared : Option (List (List Blocks))
  params : Params
  flags : Byte
  toolMask : BitVec 16
  maxNew : Nat
  seed : W64
  scounter : W32
  both : Bool

/-- How far an entry has come: carry state, text assembled, current length, tokens emitted, the token the last row gave, the end that was
reached, masks built, drafts accepted, and how many rows keep their slots. -/
structure RowRun where
  carry : Carry
  out : List Byte
  curLen : Nat
  emitted : Nat
  y : Option Nat := none
  code : Option Nat := none
  masks : Nat := 0
  accepted : Nat := 0
  kept : Nat := 0

/-- The token at a position enters the RING (R243). -/
def ringPut (c : Carry) (t tok : Nat) : Carry :=
  { c with ring := mput c.ring (t % 2048) tok, ringHead := (t + 1) % 2048, lastToken := tok }

/-- The rows of an entry (R186 to R196). -/
def RowEnv.rows (v : RowEnv) (a : Attend) (base : List (List KvSlot)) (pos : Nat) (toks : List Nat) : StepRows :=
  let keys := toks.zipIdx.map (fun t => ({ model := v.model.digest, adapter := v.adapter, tok := t.1, pos := pos + t.2, outs := [] } : RowKey))
  stepRows v.model a base v.shared keys v.model.layers

/-- End tokens of the model and stop tokens of the request. -/
def RowEnv.stops (v : RowEnv) : List Nat := v.params.stopTok ++ v.model.eos

/-- Released bytes go through the assembler (R283, R288). -/
def RowRun.release (u : RowRun) (bs : List Byte) : RowRun :=
  let all := u.carry.pend ++ bs
  let (o, p) := assemble all.length all
  { u with out := u.out ++ o, carry := { u.carry with pend := p } }

/-- A chosen token is emitted at position `t` (R248, R279, R283 to R287): the end it brings, and whether it is committed. -/
def RowEnv.emit (v : RowEnv) (t tok : Nat) (u : RowRun) : RowRun :=
  let include_ := flagInclude v.flags; let keep := flagKeep v.flags
  let commit (u : RowRun) : RowRun := { u with carry := ringPut u.carry t tok, curLen := t + 1 }
  let u := { u with y := some tok }
  if v.stops.contains tok then
    let u := u.release (u.carry.hold ++ (if include_ then tokBytes v.vocab tok else []))
    let u := { u with carry := { u.carry with hold := [] }, emitted := u.emitted + 1, code := some Code.stop }
    if keep then commit u else u
  else
    let bs := tokBytes v.vocab tok
    let g := match v.grammar with
      | none => some (u.carry.gstate, u.carry.gstack)
      | some im => grammarRun im u.carry.gstate u.carry.gstack bs
    match g with
    | none => { u with y := none, code := some Code.grammarDeadEnd }
    | some (st, stack) =>
      let u := { u with carry := { u.carry with gstate := st, gstack := stack }, emitted := u.emitted + 1 }
      let stream := u.carry.hold ++ bs
      match stopMatch v.params.stops stream u.carry.hold.length with
      | some (k, b, e) =>
        let u := { u with carry := { u.carry with hold := [] } }
        let u := u.release (stream.take (if include_ then e else b))
        let u := { u with code := some (if v.toolMask.getLsbD k then Code.toolCall else Code.stop) }
        if keep then commit u else u
      | none =>
        let h := stream.length - heldLen v.params.stops stream
        let u := { u with carry := { u.carry with hold := stream.drop h } }
        let u := commit (u.release (stream.take h))
        let most := u.emitted == v.maxNew; let full := u.curLen == 2 ^ 20
        { u with code := if most && full then some (if v.both then Code.maxTokens else Code.lengthLimit)
            else if most then some Code.maxTokens else if full then some Code.lengthLimit else none }

/-- The tokens at positions `t - REP_WIN .. t - 1`: the drafts given, else the RING's. -/
def recentToks (c : Carry) (drafts : List (Nat × Nat)) (t win : Nat) : List Nat :=
  (List.range (min win t)).filterMap (fun i =>
    let p := t - 1 - i
    match drafts.find? (fun d => d.1 == p) with
    | some d => some d.2
    | none => mget c.ring (p % 2048))

/-- The mask of a position (R278). -/
def RowEnv.allowed (v : RowEnv) (st : Nat) (stack : List Nat) (tok : Nat) : Bool := match v.grammar with
  | none => true
  | some im => maskHas im st stack v.stops tok

/-- Sample and emit at position `t` from a row's logits. -/
def RowEnv.sampleEmit (v : RowEnv) (key : RowKey) (t : Nat) (u : RowRun) : RowRun :=
  let z (tok : Nat) := (binary32.ofInt (Config.logitWord key tok).toInt (Config.logitExp key).toInt).1
  let u := { u with masks := u.masks + b2n v.grammar.isSome, y := none }
  match sampleTok z v.model.vocab (v.allowed u.carry.gstate u.carry.gstack) v.params (recentToks u.carry [] t v.params.repWin) v.seed v.scounter t with
  | none => { u with code := some Code.grammarDeadEnd }
  | some y => v.emit t y u

/-- The rows of a decode entry, the first fed at `pos` (R247, R248): each gives the token of the next position; the next row counts while that
token is the draft it was fed. A row keeps its slots when its position is committed (R190). -/
def RowEnv.verify (v : RowEnv) : List (Nat × RowKey) → Nat → RowRun → RowRun
  | [], _, u => u
  | row :: rest, pos, u =>
    let u := v.sampleEmit row.2 (pos + 1) u
    let hit := rest.head?.isSome && rest.head?.map (·.1) == u.y
    let kept := hit && decide (pos + 1 < u.curLen)
    let u := { u with accepted := u.accepted + b2n hit, kept := u.kept + b2n kept }
    if u.code.isSome || !hit then u else RowEnv.verify v rest (pos + 1) u

/-- Rows of text, or a closing row: nothing is sampled. -/
def RowRun.prefill (u : RowRun) (toks : List Nat) (pos : Nat) : RowRun :=
  toks.zipIdx.foldl (fun u t => { u with carry := ringPut u.carry (pos + t.2) t.1, curLen := pos + t.2 + 1, kept := u.kept + 1 }) u

/-- Drafts (R246): head `h` proposes the token at position `t`; at most `n` of them. Beside them, how many positions a mask was formed for. -/
def RowEnv.draftLoop (v : RowEnv) (key : RowKey) (c : Carry) : Nat → Nat → Nat → Nat → List Nat → List (Nat × Nat) → List (Nat × Nat) × Nat
  | 0, _, _, _, _, ds => (ds, ds.length)
  | n + 1, h, t, st, stack, ds =>
    let z (tok : Nat) := (binary32.ofInt (Config.specLogitWord key h tok).toInt (Config.specLogitExp key h).toInt).1
    match sampleTok z v.model.vocab (v.allowed st stack) v.params (recentToks c ds t v.params.repWin) v.seed v.scounter t with
    | none => (ds, ds.length + 1)
    | some d =>
      let ds := ds ++ [(t, d)]
      if v.stops.contains d then (ds, ds.length)
      else match v.grammar with
        | none => RowEnv.draftLoop v key c n (h + 1) (t + 1) st stack ds
        | some im => match grammarRun im st stack (tokBytes v.vocab d) with
          | none => (ds, ds.length)
          | some (st, stack) => RowEnv.draftLoop v key c n (h + 1) (t + 1) st stack ds

/-- The drafts that follow an entry's last token, from the key of its last kept row, and the masks they took. -/
def RowEnv.drafts (v : RowEnv) (spec : Nat) (key : RowKey) (u : RowRun) : List Nat × Nat :=
  let n := min (min spec v.model.specHeads) (min (v.maxNew - u.emitted - 1) (2 ^ 20 - 1 - u.curLen))
  let (ds, masks) := v.draftLoop key u.carry n 1 u.curLen u.carry.gstate u.carry.gstack []
  (ds.map (·.2), if v.grammar.isSome then masks else 0)

/-! ## One entry -/

/-- How an entry went: its rows, the drafts for its next step, masks built, the slots of each pair after it and what its cleared positions left. -/
structure EntryOut where
  run : RowRun
  drafts : List Nat
  masks : Nat
  seqs : List (List KvSlot)
  cleared : List (List KvSlot)
  rows : StepRows

/-- How the rows of an entry attend (R187, R191, R241). -/
def StepEntry.attend (e : StepEntry) (decode : Bool) (q : Req) : Attend :=
  { train := e.train.isSome, bidir := e.bidir, sel := if decode && e.sel then some (q.selB, q.selW, q.selS) else none, reads := e.noKv }

/-- The slots of pair `p` after an entry kept `kept` of its rows: theirs, with the importance they add (R190, R197). -/
def StepRows.kept (st : StepRows) (reads : Bool) (base : List KvSlot) (p kept : Nat) : List KvSlot :=
  if reads then base
  else (List.range kept).foldl (fun xs r => addRow (((st.heads.getD p []).getD r []).map (·.probs)) xs) (base ++ (st.slots.getD p []).take kept)

/-- An entry at work (R241 to R248). -/
def RowEnv.entry (v : RowEnv) (e : StepEntry) (a : ReqAux) (q : Req) (base : List (List KvSlot)) : EntryOut :=
  let decode := !e.closing && a.text.isEmpty
  let st := v.rows (e.attend decode q) base e.pos e.tokens
  let u : RowRun := { carry := a.carry, out := a.out, curLen := q.curLen, emitted := q.tokEmitted }
  let u := if decode then v.verify (e.tokens.zip st.keys) e.pos { u with kept := 1 }
    else
      let u := u.prefill e.tokens e.pos
      if e.closing then u
      else match e.samples, st.keys.getLast? with
        | true, some k => v.sampleEmit k u.curLen u
        | _, _ => if e.tokens.length == a.text.length && u.curLen == 2 ^ 20 then { u with code := some Code.lengthLimit } else u
  let (ds, masks) := match st.keys[u.kept - 1]? with
    | some k => if !e.closing && u.code.isNone && (decode || e.samples) then v.drafts q.spec k u else ([], 0)
    | none => ([], 0)
  { run := u, drafts := ds, masks := u.masks + masks, rows := st
    seqs := base.zipIdx.map (fun b => st.kept e.noKv b.1 b.2 u.kept)
    cleared := (List.range base.length).map (fun p => if e.noKv then [] else (st.slots.getD p []).drop u.kept) }

/-! ## Grains of an entry (R50, R55, R57, R190) -/

/-- What the slots of a block hold after its live ones: what this entry's cleared positions left, then what stood there before. -/
def staleAfter (old : Option SGrain) (live : Nat) (cleared : List KvSlot) : List KvSlot :=
  match old with
  | none => cleared
  | some g => cleared ++ (g.slots ++ g.stale).drop (live + cleared.length)

/-- The data grains an entry changes: a block whose slots differ from what the request saw becomes a grain of its working
list, in place where it has one; the small-state grains enter at its first step. Those without a place come last. `cleared` is what each pair's
rejected rows wrote after its live slots. -/
def changedGrains (work base : List SGrain) (pairs epoch : Nat) (seqs cleared : List (List KvSlot)) (grammar : Bool) : List SGrain × List SGrain :=
  let blocks : List SGrain := (List.range pairs).flatMap (fun p =>
    let live := (seqs.getD p []).length
    (blocks64 (seqs.getD p [] ++ cleared.getD p [])).zipIdx.map (fun e =>
      let n := min 64 (live - 64 * e.2)
      let lgn := blockLgn pairs p e.2
      { lgn := lgn, kind := 1, level := 0, addr := gAbsent, epoch := epoch, slots := e.1.take n,
        stale := staleAfter (gView work base lgn) n (e.1.drop n) }))
  let changed := blocks.filter (fun g => ((gView work base g.lgn).map (fun o => (o.slots, o.stale))) != some (g.slots, g.stale))
  let small : List SGrain := ((if grammar then [1, 2, 3] else [1, 2]).filter (fun l => (gFind work l).isNone)).map (fun l =>
    { lgn := l, kind := 3 + l, level := 0, addr := gAbsent, epoch := epoch, slots := [] })
  (changed.filterMap (fun g => (gFind work g.lgn).map (fun w => { w with slots := g.slots, stale := g.stale })),
    small ++ changed.filter (fun g => (gFind work g.lgn).isNone))

end Sys2Proof.Machine
end

