-- ==== Sys2Proof/Machine/Turns.lean ====
section
/-!
DEFINITION. Sys2Proof/Machine/Turns.lean: SUBMIT_TURN and TOOL_RETURN (01_sessions, R32, Table 1.3; 09_decode_and_residency, R238,
R239, R533): the checks of a turn, the acceptance of a request.
-/
namespace Sys2Proof.Machine

open Sys2Proof

/-! ## The parameter block (Table 9.1) -/

/-- Settings with PARAMS_ADDR 0. -/
def defaultParams : Params := {}

/-- A block of 64 + 72 × STOP_N bytes: its reserved fields are 0; what it says; whether R239 refuses it. -/
def blockReservedOk (b : List Byte) : Bool :=
  at_ b 4 2 / 2 ^ 9 == 0 && at_ b 8 2 / 2 ^ 12 == 0 && at_ b 10 1 / 2 ^ 5 == 0 && at_ b 11 1 / 2 ^ 4 == 0 && at_ b 16 4 / 2 ^ 21 == 0 &&
    zeroRun b 21 11 && zeroRun b (32 + 4 * min 8 (at_ b 11 1)) (32 - 4 * min 8 (at_ b 11 1)) &&
    (List.range (min 16 (at_ b 10 1 % 32))).all (fun k => at_ b (64 + 72 * k) 1 < 128 && zeroRun b (65 + 72 * k) 7)

def blockParams (b : List Byte) : Params :=
  { temp := BitVec.ofNat 16 (at_ b 0 2), topP := BitVec.ofNat 16 (at_ b 2 2), topK := at_ b 4 2 % 512
    repPen := BitVec.ofNat 16 (at_ b 6 2), repWin := at_ b 8 2 % 4096, grammar := at_ b 12 2, selB := at_ b 14 2
    selW := at_ b 16 4 % 2 ^ 21, selS := at_ b 20 1
    stopTok := (List.range (min 8 (at_ b 11 1 % 16))).map (fun k => at_ b (32 + 4 * k) 4)
    stops := (List.range (min 16 (at_ b 10 1 % 32))).map (fun k => sub b (72 + 72 * k) (min 64 (at_ b (64 + 72 * k) 1 % 128))) }

/-- An H16 number is a NaN, or below 0. A zero of either sign is neither. -/
def h16Bad (x : BitVec 16) : Bool := 0x7C00 < x.toNat % 2 ^ 15 || (bit x 15 && x.toNat % 2 ^ 15 != 0)

def blockOk (b : List Byte) : Bool :=
  let p := blockParams b
  !h16Bad p.temp && p.temp.toNat % 2 ^ 15 != 0x7C00 && !h16Bad p.topP && decide (p.topK ≤ 256) &&
    (p.repPen == 0 || (decide (0x3C00 ≤ p.repPen.toNat) && decide (p.repPen.toNat < 0x7C00))) && decide (p.repWin ≤ 2048) &&
    decide (at_ b 10 1 % 32 ≤ 16) && decide (at_ b 11 1 % 16 ≤ 8) &&
    (List.range (min 16 (at_ b 10 1 % 32))).all (fun k => let n := at_ b (64 + 72 * k) 1 % 128; decide (1 ≤ n ∧ n ≤ 64))

/-! ## What a turn asks for -/

/-- A turn that has passed every check. -/
structure TurnIn where
  params : Params
  tokens : List Nat
  grammar : Option (Nat × Nat)
  vocabVer : Nat
  adapterVer : Nat
  index : Nat
  lenBytes : Nat

/-- How a turn fares: the code that refuses it, or what it asks for; and whether one of its operands is unpredictable (job) (R6, R9, R239): it is
then taken as if its reserved fields were 0, and its tokens as they stand. -/
structure TurnOut where
  got : Except Nat TurnIn
  spoilt : Bool

/-- The text of a turn, or its tokens (R271): the plaintext of a sealed one, or the code of its failure (R437). -/
def State.turnText (s : State) (job i kind : Nat) (d : Desc) : Except Nat (List Byte) :=
  let n := dfld d 40 0 32; let pre := bit d (8 * 44 + 13); let x := s.job job
  match s.fetch d 32 (if pre && !x.conf then 4 * n else n) with
  | none => .error Code.hostDmaError
  | some bs =>
    if !x.conf then .ok bs
    else if n < 28 ∨ (bs.getD 11 0).getLsbD 7 = true then .error Code.payloadBad
    else
      let aad := leBytes 4 (s.jobTag job).toNat ++ leBytes 4 i ++ leBytes 4 (s.sess i).len ++ leBytes 2 kind ++ zeros 2
      match gcmOpen x.keys.job (BitVec.ofNat 96 (leNat (bs.take 12))) aad ((bs.drop 12).take (n - 28))
          (BitVec.ofNat 128 (leNat (bs.drop (n - 16)))) with
      | none => .error Code.payloadBad
      | some p => if pre && p.length % 4 != 0 then .error Code.payloadBad else .ok p

/-- The handle of a loaded grammar a turn uses: 0 for none; none when it names one that is not loaded (R239). -/
def State.turnGrammar (s : State) (job i : Nat) (p : Params) : Option (Option (Nat × ByteVer)) :=
  let h := if p.grammar = 0 then (s.sess i).grammar else if p.grammar = 0xFFFF then 0 else p.grammar
  if h = 0 then some none
  else ((mget (s.job job).grammars h).bind ByteObj.cur).map (fun v => some (h, v))

/-- The image under the handle of a rebuilt session's model is another one than its META names: unpredictable (job) (R256). -/
def State.otherImage (s : State) (job i : Nat) : Bool := (s.modelOf job (s.sess i).model).any (fun m => m.digest != (s.aux i).modelDigest)

/-- Steps 3 to 10 of R533 (R238, R275) for session `i`; `allowed` says whether Table 1.3 has a row for it, `split` that CWELL applies on another device (R371), `start` is where the device looks
for a FREE request first. -/
def State.turnCheck (s : State) (job i kind : Nat) (d : Desc) (allowed : Bool) (start : Nat) (split : Bool := false) : TurnOut :=
  let x := s.sess i; let j := s.job job
  let pa := dfld d 48 0 64; let n := dfld d 40 0 32; let pre := bit d (8 * 44 + 13)
  if !s.addrOk job d 32 (if pre && !j.conf then 4 * n else n) then { got := .error Code.badAddress, spoilt := false }
  else
    let block : Option (List Byte) := if pa = 0 then some []
      else (s.rd false pa 64).bind (fun h => s.rd false pa (64 + 72 * (at_ h 10 1 % 32)))
    match block with
    | none => { got := .error Code.hostDmaError, spoilt := false }
    | some b =>
      let p := if pa = 0 then defaultParams else blockParams b
      let reserved := decide (pa ≠ 0) && decide (pa % 64 = 0) && !blockReservedOk b
      let grammar := s.turnGrammar job i p
      let okP := (pa == 0 || (pa % 64 == 0 && blockOk b)) && grammar.isSome && dfld d 24 0 21 != 0 && decide (dfld d 16 28 3 ≤ 4) &&
        dfld d 44 16 16 < 2 ^ p.stops.length
      let vocab := (mget j.vocabs x.model).bind ByteObj.cur
      let adapter := if x.adapter = 0xFFFF then none else j.adapterCurrent x.adapter
      let model := s.modelOf job x.model
      match firstFail [
        (okP, Code.badParams),
        (allowed && !s.gone i, Code.wrongState),
        (model.isSome, Code.modelNotLoaded),
        (!(model.any (·.damaged)), Code.modelDamaged),
        (x.adapter == 0xFFFF || adapter.isSome, Code.adapterNotFound),
        (!(adapter.any (·.damaged)), Code.modelDamaged),
        (vocab.isSome, Code.noVocab),
        (split || (j.compWell (dfld d 44 0 4)).ring.isSome, Code.noRing),
        (!(vocab.any (·.damaged)) && !((grammar.bind id).any (fun g => g.2.damaged)), Code.objectDamaged)] with
      | some e => { got := .error e, spoilt := reserved }
      | none =>
        match s.turnText job i kind d, vocab with
        | .error e, _ => { got := .error e, spoilt := reserved }
        | .ok _, none => { got := .error Code.noVocab, spoilt := reserved }
        | .ok bs, some v =>
          let toks := if pre then (List.range (bs.length / 4)).map (fun k => at_ bs (4 * k) 4) else tokenize v.image bs
          let free := s.freeReq start
          { spoilt := reserved || s.otherImage job i || (pre && toks.any (fun t => decide (vocabSize v.image ≤ t)))
            got := match firstFail [
              (!toks.isEmpty || x.len != 0, Code.badParams),
              (decide (x.len + toks.length ≤ 2 ^ 20), Code.lengthLimit),
              (free.isSome, Code.reqTableFull),
              (decide (s.reqCount job < fld (s.reg (Reg.jobQuota job)) 32 17), Code.reqQuota)], free with
            | some e, _ => .error e
            | none, none => .error Code.reqTableFull
            | none, some r =>
              .ok { params := p, tokens := toks, grammar := (grammar.bind id).map (fun g => (g.1, g.2.ver)), vocabVer := v.ver,
                    adapterVer := (adapter.map (·.ver)).getD 0, index := r, lenBytes := if pre then 0 else bs.length } }

/-! ## Acceptance -/

/-- The tier budget of R76 for a session's tier. -/
def State.tierBudget (s : State) (j tier : Nat) : Nat :=
  let b := s.reg (Reg.jobBudget j)
  if tier = 2 then fld b 0 21 else if tier = 3 then fld b 21 21 else fld b 42 21

/-- The lane command of a text's first 64 KiB (Table 12.2), on a privileged lane where R273 sends it there; the other pieces follow on the
lane that took the first. -/
def State.enqueueLane (s : State) (r bytes : Nat) : State :=
  let q := s.req r
  let lane := s.privLane q.job (s.sess q.session).model (((s.raux? r).map (·.vocabVer)).getD 0) q.prio
  if bytes = 0 then s
  else s.enqueue Cls.lane { job := q.job, share := q.shareGroup, req := r + 1, since := 0, cost := (lane.map (· + 1)).getD 0,
                            work := .lane (cdiv bytes 65536 - 1) }

/-- Create a request on a session: bindings are taken, the entry is filled (Table 1.4), the session runs. `prior` is the idle
state to return to; `ctx` owes the record that ends it. The answer names its index. -/
def State.createReq (s : State) (ctx : DescCtx) (i : Nat) (d : Desc) (t : TurnIn) (prior : SState) (toolp : Bool) : State :=
  let x := s.sess i; let j := ctx.job; let r := t.index
  let (n, s) := s.draw
  let gen := (s.req r).gen % 0xFFFF + 1
  let us := dfld d 20 0 32
  let stopped := !t.params.stops.isEmpty || !t.params.stopTok.isEmpty || ((s.modelOf j x.model).any (fun m => !m.eos.isEmpty))
  let redraw := bit d (8 * 44 + 12)
  let q : Req :=
    { gen := gen, rstate := .queued, prio := if bit d (8 * 16 + 27) then dfld d 16 24 3 else x.prio, spec := dfld d 16 28 3, job := j,
      session := i, cwell := ctx.cw, deadline := if us = 0 then 0 else (s.now + us) % 2 ^ 64, startLen := x.len, curLen := x.len,
      maxNew := dfld d 24 0 21, stopRef := if stopped then Config.freeNat n % (2 ^ 32 - 1) + 1 else 0,
      gramRef := if t.grammar.isSome then 3 else 0, shareGroup := dfld d 56 0 16, adapterVer := t.adapterVer,
      toolMask := BitVec.ofNat 16 (dfld d 44 16 16), flags := BitVec.ofNat 8 (dfld d 44 8 8), selB := t.params.selB, selS := t.params.selS,
      selW := t.params.selW, arrival := s.now, ttlAfter := dfld d 28 0 32 }
  let tier := if prior = .parked then gTier x.root else fld (s.reg (Reg.jobPolicy j)) 48 3
  let a : ReqAux :=
    { ctx := ctx, prior := prior, toolp := toolp, params := t.params, vocabVer := t.vocabVer, grammarHandle := (t.grammar.map (·.1)).getD 0,
      grammarVer := (t.grammar.map (·.2)).getD 0, text := t.tokens,
      carry := { x.carry with pend := [], hold := [], gstate := 0, gstack := [], ghandle := (t.grammar.map (·.1)).getD 0 },
      scounter := if redraw then x.scounter + 1 else x.scounter, retained := x.retained,
      extent := if prior = .parked then extentLen (s.pairs i) x.retained else 0, budget := s.now + s.tierBudget j tier,
      freshRow := t.tokens.isEmpty }
  let s := s.modJob j (fun y => { y with
    adapters := if t.adapterVer = 0 then y.adapters else mchange y.adapters x.adapter (fun o => o.take t.adapterVer)
    vocabs := mchange y.vocabs x.model (fun o => o.take t.vocabVer)
    grammars := match t.grammar with
      | none => y.grammars
      | some (h, v) => mchange y.grammars h (fun o => o.take v) })
  let s := (s.setReq r q).setRaux r a
  let s := s.setSess i { x with state := .running, curReq := r + gen <<< 16, adapterVer := t.adapterVer }
  let s := s.modAux i (fun y => { y with grace := none, expWait := 0 })
  s.enqueueLane r t.lenBytes

/-- R18: does Table 1.3 give the session a row for a turn of this kind? A MOVING one that is parking or demoting stands in its source
state. The answer is the idle state to return to. DESIGN CHOICE (log entry 53): a MIGRATE to a peer with HANDOFF 0 is no parking move here, so a
turn that meets it has no row. -/
def State.turnState (s : State) (i : Nat) (tool : Bool) : Option SState :=
  let x := s.sess i
  let want : SState := if tool then .toolWait else .open
  match x.state with
  | .open => if tool then none else some .open
  | .toolWait => if tool then some .toolWait else none
  | .parked => if x.toolp = tool then some .parked else none
  | .moving => match (s.aux i).move with
    | some m =>
      if m.abandoned then none
      else if (m.kind = .park ∨ m.kind = .demote) ∧ m.src = want then some want
      else if m.kind = .handoff ∧ (s.outXfer i).any (fun e => e.2.phase == .offered) = true then
        (if m.src = want then some want else if m.src = .parked ∧ x.toolp = tool then some .parked else none)
      else none
    | none => none
  | _ => none

/-- Accept a good turn: the acceptance record is posted to the paired well (R505); a session without an intact copy ends at
once (R474); a parked one starts its revival (R75). -/
def State.acceptTurn (s : State) (c : DescCtx) (i : Nat) (d : Desc) (t : TurnIn) (prior : SState) : State :=
  let x := s.sess i
  let s := if x.state = .moving then s.abandonMove i else s
  let toolp := if prior = .parked then x.toolp else false
  let s := s.createReq c i d t prior toolp
  let s := s.record { c with cw := c.sw } Code.ok false 0 (s.reqId t.index) i
  if (s.aux i).damaged then s.endReq t.index Code.stateLost false
  else if prior = .parked then s.placeRevival t.index
  else s

def turnFields : List (Nat × Nat) :=
  [(128, 31), (160, 32), (192, 21), (224, 32), (256, 64), (320, 32), (352, 4), (360, 6), (368, 16), (384, 64), (448, 16)]

def kSubmitTurn : Kind := { code := 0x0102, since := 0, cwell := some 352, keys := true, preempt := true, fields := turnFields }
def kToolReturn : Kind := { code := 0x0103, since := 1, cwell := some 352, keys := true, preempt := true, fields := (367, 1) :: turnFields }

/-- The common course of SUBMIT_TURN and TOOL_RETURN. -/
def State.turn (s : State) (c : DescCtx) (d : Desc) (tool : Bool) : Res :=
  let i := dfld d 16 0 24; let refuse := { c with cw := c.sw }
  s.withSession refuse i true fun s =>
    let (n, s) := s.draw
    let prior := s.turnState i tool
    let out := s.turnCheck c.job i c.kind d prior.isSome (Config.freeNat n % 65536)
    Res.spoilIf (match out.got, prior with
      | .error e, _ => .next ((if e = Code.hostDmaError then s.dmaFailed c.job else s).complete refuse e 0 0 i)
      | .ok _, none => .next (s.complete refuse Code.wrongState 0 0 i)
      | .ok t, some p => .next (s.acceptTurn c i d t p)) out.spoilt c.job

/-- SUBMIT_TURN (R32, R533). -/
def execSubmitTurn (job well : Nat) (d : Desc) (s : State) : Res :=
  s.takeUp kSubmitTurn job well d fun c s => s.turn c d false

/-- Is the session MOVING by a park or a demotion from TOOL_WAIT? -/
def State.parksTool (s : State) (i : Nat) : Bool :=
  (s.aux i).move.any (fun m => !m.abandoned && (m.kind == .park || m.kind == .demote) && m.src == .toolWait)

/-- TOOL_RETURN with CANCEL (R32, Table 1.3). DESIGN CHOICE (log entry 53): on a PARKED session it completes when the move up ends, and with TIER_FULL,
the session staying PARKED, when T1 has no room for it. -/
def State.cancelTool (s : State) (c : DescCtx) (i : Nat) : Res :=
  s.withSession c i true fun s =>
    let x := s.sess i
    if s.gone i then .next (s.complete c Code.wrongState 0 0 i)
    else match x.state with
      | .toolWait => .next ((s.setSess i { x with state := .open }).complete c Code.ok 0 0 i)
      | .parked =>
        if x.toolp = false then .next (s.complete c Code.wrongState 0 0 i)
        else match s.startUp i .cancel 1 (some c) with
          | (.error e, s) => .next (s.complete c e 0 0 i)
          | (.ok _, s) => .next s
      | .moving =>
        if !s.parksTool i then .next (s.complete c Code.wrongState 0 0 i)
        else
          let s := s.abandonMove i
          .next ((s.setSess i { x with state := .open, toolp := false }).complete c Code.ok 0 0 i)
      | _ => .next (s.complete c Code.wrongState 0 0 i)

/-- TOOL_RETURN (R32, R533). -/
def execToolReturn (job well : Nat) (d : Desc) (s : State) : Res :=
  if bit d (8 * 44 + 15) then
    s.takeUp { kToolReturn with cwell := none } job well d fun c s => s.cancelTool c (dfld d 16 0 24)
  else s.takeUp kToolReturn job well d fun c s => s.turn c d true

end Sys2Proof.Machine
end

