-- ==== Sys2Proof/Machine/Serving.lean ====
section
/-!
DEFINITION. Sys2Proof/Machine/Serving.lean: the step loop (09_decode_and_residency, R240 to R260): a step boundary ends the step
that ran, pauses, resumes, admits, and starts the next step.
-/
namespace Sys2Proof.Machine

open Sys2Proof

/-! ## The step that ends -/

/-- What an entry's rows are computed with, if everything it is bound to is there; `both` settles which limit is named when two are met. -/
def State.rowEnv (s : State) (e : StepEntry) (a : ReqAux) (m : Model) (both : Bool) : Option RowEnv :=
  let r := s.req e.req; let x := s.sess r.session; let j := s.job r.job; let v := mgetD s.serving x.model {}
  let ver (o : Option ByteObj) (v : Nat) := o.bind (fun o => (o.versions.find? (fun y => y.ver == v)).map (·.image))
  let adapter := (mget j.adapters x.adapter).bind (fun o => (o.versions.find? (fun y => y.ver == r.adapterVer)).map (·.image))
  let rows (l : Nat × List (BitVec 48) × List (BitVec 48)) := ((shardRows m l.1 l.2.1 l.2.2).drop e.row0).take e.tokens.length
  (ver (mget j.vocabs x.model) a.vocabVer).map (fun vocab =>
    { model := m, vocab := vocab, grammar := if a.grammarHandle = 0 then none else ver (mget j.grammars a.grammarHandle) a.grammarVer,
      adapter := if r.adapterVer = 0 then [] else adapter.getD [],
      shared := if v.sharded then some ((v.layers.zipIdx.map (fun l => (l.2, l.1))).map rows) else none,
      params := a.params, flags := r.flags, toolMask := r.toolMask, maxNew := r.maxNew, seed := x.seed, scounter := a.scounter, both := both })

/-- The slots of the pairs of a request as it sees them (R57). -/
def State.reqSlots (s : State) (i : Nat) (a : ReqAux) : List (List KvSlot) :=
  let x := s.sess (s.req i).session
  let pairs := s.pairs (s.req i).session
  let base := if a.prior = .parked then [] else x.grains
  (List.range pairs).map (pairSlots a.work base pairs a.retained)

/-- Enter the grains an entry changed into its working list, with the maps they need; none without room for them (R57, R71). -/
def State.enterGrains (s : State) (i : Nat) (a : ReqAux) (seqs cleared : List (List KvSlot)) : Option (List SGrain × State) × Nat :=
  let r := s.req i; let x := s.sess r.session; let pairs := s.pairs r.session
  let base := if a.prior = .parked then [] else x.grains
  let (own, fresh) := changedGrains a.work base pairs x.ownerEpoch seqs cleared (a.grammarHandle != 0)
  let work := own.foldl gPut a.work
  let maps := (mapNodes x.level (work ++ fresh)).length - (work.filter (fun g => g.kind == 2)).length
  let need := fresh.length + maps
  if need ≠ 0 ∧ s.t1Room r.job need = false then (none, need)
  else
    let (placed, s) := s.placeAll r.job pairs 1 (work ++ base) fresh []
    (some (s.withMaps r.job pairs x.level x.ownerEpoch 1 (work ++ placed)), need)

/-- The drafts and attention counters an entry moves (Tables 7.4, 9.6). -/
def State.countEntry (s : State) (e : StepEntry) (u : RowRun) (sel : Bool) (pairs : Nat) : State :=
  let s := (s.countReg Reg.specStat 0 32 e.spec).countReg Reg.specStat 32 32 u.accepted
  if sel then s.countReg Reg.attStat 0 32 (e.tokens.length * pairs) else s.countReg Reg.attStat 32 32 e.tokens.length

/-- The masks of a step (Table 10.7); the time they take is the device's, within R281's bound. -/
def State.countMasks (s : State) (masks : Nat) : State :=
  if masks = 0 then s
  else
    let (n, s) := s.draw
    let s := s.countReg Reg.sivStat 0 32 masks
    let old := fld (s.reg Reg.sivStat) 32 16
    s.setReg Reg.sivStat (setFld (s.reg Reg.sivStat) 32 16 (max old (min (2 ^ 16 - 1) (Config.freeNat n % (60 * cdiv masks 2048 + 1)))))

/-- One record of the statistics buffer: m_h in [15:0], lam_h in [31:16] (R205, R206). -/
def statRecord (h : HeadRow) : List Byte :=
  leBytes 4 ((h16Up (BitVec.ofNat 32 h.m)).toNat + 2 ^ 16 * (h16Up (BitVec.ofNat 32 h.lam)).toNat)

/-- A TRAIN entry's statistics: one record for each row and query head, ordered by row and then by query head, in its job's HBM
(R206, log entry 46). -/
def State.saveStats (s : State) (e : StepEntry) (m : Model) (st : StepRows) : State :=
  match e.train with
  | none => s
  | some a =>
    let recs := (List.range e.tokens.length).flatMap (fun r => st.heads.flatMap (fun p => (p.getD r []).flatMap statRecord))
    if s.inJobHbm m.job a recs.length then s.wr true a recs else s

/-- Segments that one run of the scoring program of Table 8.11 takes for `n` grains and `h` heads: one for each LOOP, one to HALT; a list holds 128
grains. -/
def scoreSegs (n h : Nat) : Nat := n * h + cdiv n 128 * (h + 1)

/-- Phase 3 of a layer (R193, R235): for each row of an entry in selective mode and each pair, the sequencers that hold candidate grains in T1 score
them in the device context. What the scores are is `blockScore`, in every tier alike; the runs show in the segments of SEQ_CNT. -/
def State.scoreRuns (s : State) (e : StepEntry) (sel : Option (Nat × Nat × Nat)) (heads pairs live : Nat) (work : List SGrain) : State :=
  match sel with
  | none => s
  | some (_, w, sinks) =>
    let base := (s.sess (s.req e.req).session).grains
    (List.range e.tokens.length).foldl (fun s r => (List.range pairs).foldl (fun s p =>
      let x := live + r
      let seqs := (List.range (x / 64 + 1)).filterMap (fun j =>
        if max (64 * j) sinks ≤ min (64 * j + 63) (x - w) ∧ w ≤ x then
          match gView work base (blockLgn pairs p j) with
          | some g => if gTier g.addr = 1 then some (4 * t1Pc g.addr + t1Bank g.addr / 16) else none
          | none => none
        else none)
      seqs.eraseDups.foldl (fun s n =>
        let q := s.seq n
        s.setSeq n { q with segs := q.segs + BitVec.ofNat 32 (scoreSegs (seqs.countP (· == n)) heads) }) s) s) s

/-- T1 grains that the rows of an entry attended. -/
def StepRows.copied (st : StepRows) (pairs : Nat) (work base : List SGrain) : Nat :=
  (List.range pairs).foldl (fun n p =>
    let blocks := ((st.heads.getD p []).flatMap (fun row => row.flatMap (fun h => h.probs.map (fun e => e.1 / 64)))).eraseDups
    n + (blocks.filter (fun j => (gView work base (blockLgn pairs p j)).any (fun g => gTier g.addr == 1))).length) 0

/-- Pumps copy the T1 grains an entry attended to scratch slots of the attending cores (R194): a pump command for 64 grains, charged and shaped as
every other. The copies change no grain. They are known, and queued, when the step's attended sets are (log entry 28). -/
def State.copyRuns (s : State) (e : StepEntry) (n : Nat) : State :=
  let r := s.req e.req
  (List.range (cdiv n 64)).foldl (fun s k =>
    s.enqueue Cls.pump { job := r.job, share := r.shareGroup, req := e.req + 1, since := 0, cost := min 64 (n - 64 * k), work := .copy }) s

/-- An entry of the step that ends takes effect; beside the state, the masks it built. Without room for its new grains it counts for nothing,
and its request waits for T1 (R71). A request that is to be discarded at this boundary keeps nothing of the step. -/
def State.endEntry (s : State) (m : Model) (e : StepEntry) : State × Nat :=
  match s.raux? e.req with
  | none => (s, 0)
  | some a =>
    if a.endAsk.any (fun k => !k.2) then (s, 0)
    else
      let q := s.req e.req
      let (n, s) := s.draw
      match s.rowEnv e a m (Config.freeBool n) with
      | none => (s, 0)
      | some v =>
        let base := s.reqSlots e.req a
        let o := v.entry e a q base
        match s.enterGrains e.req a o.seqs o.cleared with
        | (none, need) => (s.setRaux e.req { a with needT1 := need }, 0)
        | (some (work, s), _) =>
          let u := o.run
          let rest := if e.closing then a.text else a.text.drop e.tokens.length
          let a := { a with work := work, carry := u.carry, out := u.out, retained := (o.seqs.head?.map (·.length)).getD a.retained,
                            text := rest, freshRow := false, drafts := o.drafts, closing := if e.closing then false else a.closing }
          let s := s.setRaux e.req a
          let rs : RState := if e.closing then .ending else if rest.isEmpty then .decode else .prefill
          let s := s.setReq e.req { q with curLen := u.curLen, tokEmitted := u.emitted, rstate := rs }
          let sel := (e.attend (!e.closing && a.text.isEmpty) q).sel
          let s := (s.saveStats e m o.rows).countEntry e u sel.isSome base.length
          let s := s.scoreRuns e sel m.qpk base.length (base.head?.map (·.length) |>.getD 0) work
          let s := s.copyRuns e (o.rows.copied base.length work (s.sess q.session).grains)
          (match u.code with
            | some c => s.endNow e.req c true
            | none =>
              if e.closing then s.tryFinish e.req
              else if a.xfer ≠ 0 ∧ rest.length ≤ 1 then s.splitSent e.req
              else s, o.masks)

/-- The ends that waited for the boundary (R240). -/
def State.endAsked (s : State) (i : Nat) : State := match (s.raux? i).bind (·.endAsk) with
  | some (code, commit) => s.endNow i code commit
  | none => s

/-- Does a running step still lack a layer's reduction (R210)? -/
def State.lacksLayers (s : State) (model : Nat) (m : Model) : Bool :=
  let v := mgetD s.serving model {}
  v.sharded && decide (v.layers.length < m.layers)

/-- The step of a model that runs has ended after `us` microseconds (R240 steps 1 and 2). A sharded step whose reductions cannot be completed ends
its requests with TIER_ERROR (R363). -/
def State.endStep (s : State) (model us : Nat) (m : Model) : State :=
  let v := mgetD s.serving model {}
  if !v.running then s
  else
    let rows := v.entries.foldl (fun n e => n + e.tokens.length) 0
    let times := (v.times ++ [us]).drop ((v.times.length + 1) - 64)
    let s := if s.lacksLayers model m then v.entries.foldl (fun s e => s.discardEnd e.req Code.tierError) s else s
    let st := v.entries.foldl (fun (st : State × Nat) e =>
      let (s, n) := st.1.endEntry m e
      (s, st.2 + n)) ({ s with serving := mput s.serving model { v with running := false } }, 0)
    let s := st.1.countMasks st.2
    let s := { s with serving := mput s.serving model { v with entries := [], running := false, times := times, amax := [], layers := [] } }
    let s := { s with errs := { s.errs with handling := s.errs.handling.map (fun (h : Handling) => { h with models := h.models.filter (· != model) }) } }
    let s := (s.countReg Reg.stepStat 0 32 1).countReg Reg.stepStat 32 32 rows
    v.entries.foldl (fun s e => s.endAsked e.req) s

/-! ## Pausing and resuming (R249 to R252) -/

/-- EST_US: the mean of the last 64 step times. -/
def Serving.est (v : Serving) : Nat := if v.times.isEmpty then 0 else min 0xFFFF (v.times.foldl (· + ·) 0 / v.times.length)

/-- PREFILL_CHUNK and STEP_ROWS (Table 9.7). -/
def State.chunk (s : State) (j : Nat) : Nat := let n := fld (s.servePolicy j) 8 16; if n = 0 then 512 else n
def State.stepRows (s : State) (j : Nat) : Nat := let n := fld (s.servePolicy j) 32 16; if n = 0 then 65536 else n

/-- Is a live request urgent (R249)? -/
def State.urgent (s : State) (i : Nat) : Bool :=
  let r := s.req i
  let limit := fld (s.slackPolicy r.job) (8 * r.prio) 8
  if r.deadline = 0 ∨ limit = 0 then false
  else
    let left := ((s.raux? i).map (·.text.length)).getD 0
    let est := (mgetD s.serving (s.sess r.session).model {}).est
    let slack : Int := (r.deadline : Int) - s.now - ((cdiv left (s.chunk r.job) + (r.maxNew - r.tokEmitted)) * est : Nat)
    decide (slack < (100 * limit : Nat))

/-- A request may be paused or resumed at this boundary: it is live, has not ended, and is in no running step. -/
def State.between (s : State) (i : Nat) : Bool :=
  (match s.raux? i with
    | some a => a.ended.isNone
    | none => false) && s.serving.all (fun e => e.2.entries.all (fun x => x.req != i))

/-- Admission order (R240 step 4): higher PRIO, then earlier ARRIVAL, then lower index. -/
def before (a b : Nat × Req) : Bool :=
  decide (b.2.prio < a.2.prio) || (a.2.prio == b.2.prio && (decide (a.2.arrival < b.2.arrival) || (a.2.arrival == b.2.arrival && decide (a.1 ≤ b.1))))

/-- Live requests of a job, in admission order. -/
def State.jobReqs (s : State) (j : Nat) : List (Nat × Req) := sortBy before (s.reqs.filter (fun e => e.2.rstate != .free && e.2.job == j))

def State.pauseReq (s : State) (i : Nat) : State :=
  let r := s.req i
  let s := s.modRaux i (fun a => { a with pausedIn := r.rstate })
  let s := s.setReq i { r with rstate := .paused, pauses := min 0xFFFF (r.pauses + 1) }
  let s := s.modSess r.session (fun x => { x with state := .paused })
  s.countReg (Reg.jobPause r.job) 0 32 1

def State.resumeReq (s : State) (i : Nat) : State :=
  let r := s.req i
  let back := ((s.raux? i).map (·.pausedIn)).getD .queued
  let s := s.setReq i { r with rstate := back }
  s.modSess r.session (fun x => { x with state := .running })

/-- Pauses at a boundary, then resumptions, up to PAUSE_STEP in all (R250, R251). -/
def State.pausing (s : State) (j : Nat) : State :=
  let most := fld (s.servePolicy j) 24 8
  let urgent := sortBy (fun (a b : Nat × Req) => decide (b.2.prio < a.2.prio) || (a.2.prio == b.2.prio && decide (a.2.deadline ≤ b.2.deadline)))
    ((s.jobReqs j).filter (fun e => s.urgent e.1 && (s.raux? e.1).any (·.ended.isNone)))
  let (s, done) := urgent.foldl (fun (st : State × Nat) u =>
    if (st.1.req u.1).rstate = .paused then st
    else
      let cand := (st.1.jobReqs j).filter (fun e => (st.1.sess e.2.session).state == .running && st.1.between e.1 &&
        decide (e.2.prio < u.2.prio) && (st.1.job j).slice.serve != 0)
      let order := sortBy (fun (a b : Nat × Req) => decide (a.2.prio < b.2.prio) || (a.2.prio == b.2.prio && decide (b.2.arrival ≤ a.2.arrival))) cand
      let take := order.take (most - st.2)
      (take.foldl (fun s e => s.pauseReq e.1) st.1, st.2 + take.length)) (s, 0)
  let paused := (s.jobReqs j).filter (fun e => e.2.rstate == .paused && s.between e.1)
  let (s, _) := paused.foldl (fun (st : State × Nat) e =>
    let held := (st.1.jobReqs j).any (fun u => (st.1.sess u.2.session).state == .running && decide (e.2.prio < u.2.prio) && st.1.urgent u.1)
    if st.2 < most ∧ held = false then (st.1.resumeReq e.1, st.2 + 1) else st) (s, done)
  s

/-! ## Admission and the length table (R240, R241) -/

/-- Grains of a revival that a step's first layer needs (R75): META, the carry grains, layer 0. -/
def State.firstLayer (s : State) (i : Nat) : Nat :=
  let n := (s.req i).session
  4 + (s.aux n).kvh * cdiv (s.sess n).retained 64

/-- Where a request that is admitted stands: it still waits for its first layer, or it has text, or it decodes. -/
def State.entered (s : State) (i : Nat) (a : ReqAux) : RState :=
  if a.extent ≠ 0 ∧ (a.work.isEmpty ∨ a.landed < min a.extent (s.firstLayer i)) then .reviving
  else if a.text.isEmpty then .decode else .prefill

/-- May a request take part in the next step? Its output must be in chunks, its records written, its grains have room (R291, R507,
R71). -/
def State.takesPart (s : State) (i : Nat) (a : ReqAux) : Bool :=
  let r := s.req i
  let w := (s.job r.job).compWell r.cwell
  if a.ended.isSome then a.closing
  else (s.sess r.session).state == .running && (r.rstate == .decode || r.rstate == .prefill) && a.needT1 == 0 && a.out.isEmpty &&
    (a.xfer == 0 || decide (1 < a.text.length)) &&
    (!flagStream r.flags || w.room)

/-- Rows of a decode entry, with `n` of its drafts. -/
def State.decodeEntry (s : State) (i : Nat) (a : ReqAux) (n : Nat) : StepEntry :=
  let r := s.req i
  if a.freshRow then
    { req := i, tokens := [a.carry.lastToken], pos := r.startLen - 1, spec := 0, sel := flagSelective r.flags, ctx := a.retained, row0 := 0,
      samples := true, closing := false, noKv := true }
  else
    { req := i, tokens := a.carry.lastToken :: a.drafts.take n, pos := r.curLen - 1, spec := min n a.drafts.length,
      sel := flagSelective r.flags, ctx := a.retained, row0 := 0, samples := true, closing := false, noKv := false }

def State.textEntry (s : State) (i : Nat) (a : ReqAux) (n : Nat) : StepEntry :=
  let r := s.req i
  if a.closing then
    { req := i, tokens := [a.carry.lastToken], pos := r.curLen - 1, spec := 0, sel := false, ctx := a.retained, row0 := 0, samples := false,
      closing := true, noKv := false }
  else if a.xfer ≠ 0 then
    { req := i, tokens := a.text.dropLast.take n, pos := r.curLen, spec := 0, sel := false, ctx := a.retained, row0 := 0, samples := false,
      closing := false, noKv := false }
  else
    { req := i, tokens := a.text.take n, pos := r.curLen, spec := 0, sel := false, ctx := a.retained, row0 := 0,
      samples := decide (a.text.length ≤ n) && decide (r.curLen + a.text.length < 2 ^ 20), closing := false, noKv := false }

/-- Lower the drafts of decode entries, last entry first, by `excess` rows in all. -/
def trimDrafts (excess : Nat) : List (Nat × Nat) → List (Nat × Nat) × Nat
  | [] => ([], excess)
  | (i, n) :: rest =>
    let (rest, excess) := trimDrafts excess rest
    ((i, n - excess) :: rest, excess - n)

/-- Build the length table (R185, R241). -/
def State.lengthTable (s : State) (j : Nat) (parts : List (Nat × ReqAux)) : List StepEntry :=
  let room := s.stepRows j
  let decodes := parts.filter (fun e => (s.req e.1).rstate == .decode && !e.2.closing)
  let texts := parts.filter (fun e => (s.req e.1).rstate != .decode || e.2.closing)
  let want := decodes.map (fun e => (e.1, if e.2.freshRow then 0 else e.2.drafts.length))
  let total := want.foldl (fun n e => n + 1 + e.2) 0
  let (want, _) := trimDrafts (total - room) want
  let dec := (decodes.zip want).filterMap (fun e => some (s.decodeEntry e.1.1 e.1.2 e.2.2)) |>.take room
  let used := dec.foldl (fun n e => n + e.tokens.length) 0
  let (es, _) := texts.foldl (fun (st : List StepEntry × Nat) e =>
    let n := min (s.chunk j) (room - st.2)
    if n = 0 then st
    else
      let x := s.textEntry e.1 e.2 n
      (st.1 ++ [x], st.2 + x.tokens.length)) (dec, used)
  (es.foldl (fun (st : List StepEntry × Nat) e => (st.1 ++ [{ e with row0 := st.2 }], st.2 + e.tokens.length)) ([], 0)).1

/-! ## Residency (R257 to R260) -/

/-- A member of the weight space: a model (version 0) or an adapter version. -/
structure Member where
  model : Bool
  handle : Nat
  ver : Nat
  share : Nat
  pinned : Bool
  cost : Nat
  last : Nat
  resident : Bool
deriving DecidableEq, Repr

/-- The members of a job; SWAP models are none (R260). -/
def State.members (s : State) (j : Nat) : List Member :=
  let cores := max 1 (64 * popcnt (s.job j).slice.serve)
  (s.models.filter (fun e => e.2.job == j && !e.2.swap)).map (fun (e : Nat × Model) =>
    { model := true, handle := e.1, ver := 0, share := cdiv e.2.len cores, pinned := e.2.pinned, cost := e.2.costW, last := e.2.lastStep,
      resident := e.2.resident }) ++
  (s.job j).adapters.flatMap (fun e => e.2.versions.map (fun v =>
    { model := false, handle := e.1, ver := v.ver, share := cdiv (grainsOf v.image.length) cores, pinned := false, cost := 256,
      last := v.lastStep, resident := v.resident }))

/-- Set a member's residency, and the time of its last step when it is used. -/
def State.setMember (s : State) (j : Nat) (m : Member) (resident used : Bool) : State :=
  if m.model then
    { s with models := mchange s.models m.handle (fun x => { x with resident := resident, lastStep := if used then s.now else x.lastStep }) }
  else
    let touch (x : AdapterVer) : AdapterVer :=
      if x.ver = m.ver then { x with resident := resident, lastStep := if used then s.now else x.lastStep } else x
    s.modJob j (fun y => { y with adapters := mchange y.adapters m.handle (fun o => { o with versions := o.versions.map touch }) })

/-- Slots per core the resident members may take together. -/
def State.hotRoom (s : State) (j : Nat) : Nat := s.hotSlots j - 8

/-- Evict until `extra` more slots, and one more model where `model`, fit; members of `keep` stay (R259). -/
def State.evictUntil : Nat → State → Nat → Nat → Bool → List (Bool × Nat × Nat) → State × Bool
  | 0, s, _, _, _, _ => (s, false)
  | n + 1, s, j, extra, model, keep =>
    let ms := (s.members j).filter (·.resident)
    let total := ms.foldl (fun t m => t + m.share) 0
    if total + extra ≤ s.hotRoom j ∧ (model = false ∨ (ms.filter (·.model)).length < 64) then (s, true)
    else
      let cand := ms.filter (fun m => !m.pinned && !keep.contains (m.model, m.handle, m.ver))
      let worth (a b : Member) : Bool := decide ((s.now - b.last) * a.cost < (s.now - a.last) * b.cost) ||
        ((s.now - b.last) * a.cost == (s.now - a.last) * b.cost && decide (a.handle ≤ b.handle))
      match sortBy worth cand with
      | [] => (s, false)
      | m :: _ => State.evictUntil n ((s.setMember j m false false).countReg Reg.hotStat 32 32 1) j extra model keep

/-- A member leaves the weight space. -/
def State.dropMember (s : State) (j : Nat) (m : Member) : State := (s.setMember j m false false).countReg Reg.hotStat 32 32 1

/-- Bring what a step uses into the weight space, as far as it fits: a member too large for it, or one that pinned members and the step's others keep
out, runs streamed (R257, R259). -/
def State.reside (s : State) (j model : Nat) (adapters : List (Nat × Nat)) : State :=
  let keep := (true, model, 0) :: adapters.map (fun a => (false, a.1, a.2))
  let fuel := (s.members j).length + 1
  let s := (s.members j).foldl (fun s m => if m.resident && decide (s.hotRoom j < m.share) then s.dropMember j m else s) s
  let (s, ok) := s.evictUntil fuel j 0 false keep
  let s := if ok then s else (s.evictUntil fuel j 0 false []).1
  keep.foldl (fun s k =>
    match (s.members j).find? (fun m => m.model == k.1 && m.handle == k.2.1 && m.ver == k.2.2) with
    | none => s
    | some m =>
      if m.resident then s.setMember j m true true
      else if s.hotRoom j < m.share then s.setMember j m false true
      else
        let (s, ok) := s.evictUntil fuel j m.share m.model keep
        if ok then (s.setMember j m true true).countReg Reg.hotStat 0 32 1 else s.setMember j m false true) s

/-! ## The boundary -/

/-- The serving groups of a job that are in service; those it shares must be in its turn (R338). -/
def State.serveGroups (s : State) (j : Nat) : List Nat := (ones (s.job j).slice.serve).filter (fun g => !s.unitAway .group g && !s.offline 0 g)
def State.groupsReady (s : State) (j : Nat) : Bool :=
  !(s.serveGroups j).isEmpty && (s.serveGroups j).all (fun g => (s.group g).job == j || (s.group g).job == 64 ||
    !(s.jobs.any (fun e => e.1 == (s.group g).job && e.2.active && e.2.slice.groups.getLsbD g)))
def State.takeGroups (s : State) (j : Nat) : State :=
  (s.serveGroups j).foldl (fun s g => s.setGroup g { s.group g with state := 0, job := j }) s

/-- Live requests of a model, in admission order. -/
def State.modelReqs (s : State) (j model : Nat) : List (Nat × Req) := (s.jobReqs j).filter (fun e => (s.sess e.2.session).model == model)

/-- Does a request of a model hold a place of its next step (R240)? -/
def State.admitted (s : State) (e : Nat × Req) : Bool :=
  e.2.rstate != .queued && e.2.rstate != .paused && e.2.rstate != .ending && (s.sess e.2.session).state == .running

/-- A request of a model at the boundary: T1 it waited for is there, its revival gets its places, it joins the step once its first layer has landed.
A request without text at the last position ends at once (R23, R241). -/
def State.admitOne (s : State) (j : Nat) (e : Nat × Req) (a : ReqAux) : State :=
  let s := if a.needT1 ≠ 0 ∧ a.extent ≤ a.landed ∧ s.t1Room j a.needT1 = true then s.setRaux e.1 { a with needT1 := 0 }
    else if a.extent ≠ 0 ∧ a.work.isEmpty = true ∧ a.revive.isEmpty = true then s.placeRevival e.1 else s
  match s.raux? e.1 with
  | none => s
  | some a =>
    let s := if e.2.rstate = .queued ∨ e.2.rstate = .reviving then s.modReq e.1 (fun r => { r with rstate := s.entered e.1 a }) else s
    if a.xfer = 0 ∧ a.freshRow ∧ a.extent ≤ a.landed ∧ e.2.startLen = 2 ^ 20 then s.endReq e.1 Code.lengthLimit true else s

/-- Admit QUEUED requests in order, while COUNT stays within 4,096 (R240, R75). -/
def State.admitReqs (s : State) (j model : Nat) : State :=
  let all := s.modelReqs j model
  (all.foldl (fun (st : State × Nat) e =>
    match st.1.raux? e.1 with
    | none => st
    | some a =>
      if a.ended.isSome ∨ (st.1.sess e.2.session).state ≠ .running ∨ (e.2.rstate = .queued ∧ 4096 ≤ st.2) then st
      else (st.1.admitOne j e a, st.2 + b2n (e.2.rstate == .queued))) (s, (all.filter s.admitted).length)).1

/-! ## Collectives of a step (R210, R361 to R363, R419) -/

/-- This device's rank in a group: its place in the ascending list. -/
def State.rank (s : State) (g : FabGroup) : Nat := (g.nodes.idxOf? s.node).getD 0

/-- Chunk `k` of `v` elements over `n` members. -/
def chunkRange (v n k : Nat) : List Nat :=
  let c := cdiv v (max 1 n)
  (List.range (min c (v - k * c))).map (k * c + ·)

/-- Send a collective packet to a rank under a share group, in payloads of at most 4,096 B. ARG: number, chunk, hops (log entry 11). -/
def State.sendColl (s : State) (j h : Nat) (g : FabGroup) (share rank : Nat) (p : CollPacket) : State :=
  let dst := g.nodes.getD (rank % max 1 g.nodes.length) 0
  let arg := BitVec.ofNat 64 (p.seq % 2 ^ 32 + (p.chunk % 256) <<< 32 + (p.hop % 256) <<< 40 + p.op <<< 48)
  let bytes := leBytes 32 p.digest.toNat ++ p.elems.flatMap (fun e => leBytes 6 e.toNat)
  (List.range (max 1 (cdiv bytes.length 4096))).foldl (fun s k => (s.send j 2 Msg.collective dst h arg ((bytes.drop (4096 * k)).take 4096) share).1) s

/-- A collective of a group fails on this device: every request of the model's step ends with TIER_ERROR and is discarded (R363). -/
def State.collFail (s : State) (j h : Nat) : State :=
  let s := { s with fabric := { s.fabric with colls := s.fabric.colls.filter (fun c => !(c.job == j && c.group == h)) } }
  if (s.modelOf j h).isNone then s
  else (mgetD s.serving h {}).entries.foldl (fun s e => s.discardEnd e.req Code.tierError) s

/-- One collective begins: this rank sends the chunk it starts on its way around the ring (R362). It is charged to the group of the step's requests
where they share one (R325). A failed group fails it at once (R419). -/
def State.startColl (s : State) (j h share : Nat) (op : Nat) (part : List (BitVec 48)) : State :=
  match mget (s.job j).fabGroups h with
  | none => s
  | some g =>
    if g.failed then s.collFail j h
    else
      let c : Coll := { job := j, group := h, seq := g.next, op := op, part := part, done := [], deadline := s.now + g.collUs }
      let s := { s with fabric := { s.fabric with colls := s.fabric.colls ++ [c] } }
      let s := s.modJob j (fun x => { x with fabGroups := mput x.fabGroups h { g with next := g.next + 1 } })
      let r := s.rank g
      let k := (r + g.nodes.length - 1) % max 1 g.nodes.length
      let s := s.sendColl j h g share (r + 1)
        { digest := g.digest, seq := c.seq, op := op, chunk := k, hop := 1, elems := (chunkRange part.length g.nodes.length k).map (fun i => part.getD i 0) }
      s.enqueue Cls.coll { job := j, share := share, req := 0, since := 0, cost := 0, work := .coll }

/-- The share group of a step: its entries' where they all name one, else 0 (R325). -/
def State.stepShare (s : State) (es : List StepEntry) : Nat := match (es.map (fun e => (s.req e.req).shareGroup)).eraseDups with
  | [g] => g
  | _ => 0

/-- An entry's rows through the first `n` layers. -/
def State.entryRows (s : State) (m : Model) (e : StepEntry) (n : Nat) : Option StepRows :=
  (s.raux? e.req).bind (fun a => (s.rowEnv e a m false).map (fun v =>
    let v := { v with model := { m with layers := n } }
    v.rows (e.attend (!e.closing && a.text.isEmpty) (s.req e.req)) (s.reqSlots e.req a) e.pos e.tokens))

/-- This device's part of layer `l`'s maximum, and of its sum under the group's exponents (R210). Rows of a request that has gone are 0. -/
def State.maxPart (s : State) (m : Model) (es : List StepEntry) (l : Nat) : List (BitVec 48) :=
  es.flatMap (fun e => match s.entryRows m e (l + 1) with
    | some st => st.maxPart l
    | none => e.tokens.map (fun _ => 0))
def State.sumPart (s : State) (m : Model) (es : List StepEntry) (l : Nat) (amax : List (BitVec 48)) : List (BitVec 48) :=
  es.flatMap (fun e => match s.entryRows m e (l + 1) with
    | some st => st.sumPart m l (amax.drop e.row0)
    | none => e.tokens.flatMap (fun _ => (List.range m.width).map (fun _ => 0)))

/-- The next collective of a sharded model's running step: the maximum of the layer at hand (R210). -/
def State.nextLayer (s : State) (j model : Nat) : State :=
  let v := mgetD s.serving model {}
  match s.modelOf j model with
  | some m =>
    if v.running && v.sharded && decide (v.layers.length < m.layers) then
      s.startColl j model (s.stepShare v.entries) 1 (s.maxPart m v.entries v.layers.length)
    else s
  | none => s

/-- A collective of a group is complete: in the step of the model of that handle the layer's sum follows the maximum, and the next layer the sum
(R210). -/
def State.collDone (s : State) (j model op : Nat) (total : List (BitVec 48)) : State :=
  let v := mgetD s.serving model {}
  match s.modelOf j model with
  | some m =>
    if !(v.running && v.sharded) then s
    else if op = 1 then
      let s := { s with serving := mput s.serving model { v with amax := total } }
      s.startColl j model (s.stepShare v.entries) 0 (s.sumPart m v.entries v.layers.length total)
    else ({ s with serving := mput s.serving model { v with layers := v.layers ++ [(v.amax, total)], amax := [] } }).nextLayer j model
  | none => s

/-! ## The length table's bytes (R185) -/

/-- Table 7.2. `id` is the request identifier, 0 for a document. -/
def StepEntry.image (e : StepEntry) (id : Nat) : List Byte :=
  leBytes 4 id ++ leBytes 4 (e.tokens.length + 2 ^ 21 * b2n e.sel + 2 ^ 22 * e.spec + 2 ^ 25 * b2n e.train.isSome + 2 ^ 26 * b2n e.bidir) ++
    leBytes 4 e.ctx ++ leBytes 4 e.row0

/-- Table 7.1 with its entries. -/
def tableBytes (model : Nat) (es : List (StepEntry × Nat)) : List Byte :=
  leBytes 4 es.length ++ leBytes 4 (es.foldl (fun n e => n + e.1.tokens.length) 0) ++ leBytes 8 model ++ es.flatMap (fun e => e.1.image e.2)

/-- Start the next step of a model, when there is one to run; with none, members still leave a weight space that has grown too small (R259). -/
def State.startStep (s : State) (j model : Nat) : State :=
  let idle := (s.evictUntil ((s.members j).length + 1) j 0 false []).1
  if !s.groupsReady j then idle
  else
    let parts := ((s.modelReqs j model).filterMap (fun e => (s.raux? e.1).bind (fun a => if s.takesPart e.1 a then some (e.1, a) else none))).take 4096
    let es := s.lengthTable j parts
    if es.isEmpty then idle
    else
      let s := s.takeGroups j
      let adapters := (es.filterMap (fun e =>
        let r := s.req e.req
        if r.adapterVer = 0 then none else some ((s.sess r.session).adapter, r.adapterVer))).eraseDups
      let s := s.reside j model adapters
      let v := mgetD s.serving model {}
      let s := { s with serving := mput s.serving model { v with
        entries := es, running := true, table := tableBytes model (es.map (fun e => (e, s.reqId e.req)))
        sharded := (mget (s.job j).fabGroups model).isSome, amax := [], layers := [] } }
      let s := es.foldl (fun s e => if e.samples && (s.req e.req).gramRef != 0 then
          s.enqueue Cls.sieve { job := j, share := (s.req e.req).shareGroup, req := e.req + 1, since := 0, cost := 0, work := .sieve }
        else s) s
      s.nextLayer j model

/-- Chunks of what the step's entries emitted, and ends that waited, of every live request of a model (R291). -/
def State.boundaryOutput (s : State) (j model : Nat) : State :=
  (s.modelReqs j model).foldl (fun s e => (s.flush (((s.raux? e.1).map (·.out.length)).getD 0 / 1024 + 2) e.1).tryFinish e.1) s

/-- A quiesced job's live requests end at the boundary (R407); one in the step that ends there keeps nothing of it (R287). -/
def State.quiesce (s : State) (j model : Nat) : State :=
  if !(s.job j).quiesced then s
  else (s.modelReqs j model).foldl (fun s e => match s.raux? e.1 with
    | some a => if a.ended.isSome then s else s.discardEnd e.1 Code.preempted
    | none => s) s

/-- Every entry of the running step is fully revived, so that its last layer may have run (R75), or is to be discarded. -/
def State.stepMayEnd (s : State) (model : Nat) : Bool :=
  (mgetD s.serving model {}).entries.all (fun e => match s.raux? e.req with
    | none => true
    | some a => decide (a.extent ≤ a.landed) || a.endAsk.any (fun k => !k.2))

/-- SCH_JOB_SERVE and SCH_JOB_SLACK take effect (R267). -/
def State.takePolicy (s : State) (j : Nat) : State :=
  s.modJob j (fun x => { x with serve := s.reg (Reg.jobServe j), slack := s.reg (Reg.jobSlack j) })

/-- STEP_BOUNDARY (R240): the step of a model that runs ends after `us` microseconds, once its collectives are complete, and the next
begins. -/
def execStepBoundary (job model us : Nat) (s : State) : Res :=
  match s.modelOf job model with
  | none => .next s
  | some m =>
    if !s.works || !s.stepMayEnd model || s.fabric.colls.any (fun c => c.job == job && c.group == model) then .next s
    else
      let s := ((s.quiesce job model).endStep model us m).takePolicy job
      let s := s.boundaryOutput job model
      let s := (s.pausing job).admitReqs job model
      .next (s.startStep job model)

end Sys2Proof.Machine
end

