-- ==== Sys2Proof/Machine/Models.lean ====
section
/-!
DEFINITION. Sys2Proof/Machine/Models.lean: loading models and adapters (09_decode_and_residency, R254 to R265; 04_cores, R127), and
sealed packages (16_security, R434, R435).
-/
namespace Sys2Proof.Machine

open Sys2Proof

/-! ## Sealed packages -/

/-- The plaintext of a sealed package, under the job's weight key `ref` (R434, R435). -/
def Job.openPackage (x : Job) (ref : Nat) (bs : List Byte) : Option (List Byte) :=
  let log := at_ bs 5 1; let plain := at_ bs 16 8; let n := at_ bs 24 4
  let headOk := decide (64 ≤ bs.length) && at_ bs 0 4 == 0x4B505457 && at_ bs 4 1 == 1 && decide (16 ≤ log ∧ log ≤ 24) && zeroRun bs 6 2 &&
    at_ bs 8 4 == ref && zeroRun bs 12 4 && n == cdiv plain (2 ^ log) && zeroRun bs 28 4 && zeroRun bs 40 24 &&
    bs.length == 64 + plain + 16 * n
  match mget x.keys.weight ref with
  | none => none
  | some key =>
    if !headOk then none
    else
      ((List.range n).mapM (fun i =>
        let off := 64 + i * (2 ^ log + 16)
        let len := min (2 ^ log) (plain - i * 2 ^ log)
        gcmOpen key (BitVec.ofNat 96 (leNat (sub bs 32 8 ++ leBytes 4 i))) (bs.take 64 ++ leBytes 4 i) (sub bs off len)
          (BitVec.ofNat 128 (leNat (sub bs (off + len) 16))))).map (fun cs => cs.flatMap id)

/-- The image that a load names at byte `b` of its descriptor: its bytes, or the code of the first thing that fails. -/
def State.loadImage (s : State) (job : Nat) (d : Desc) (b len : Nat) (sealed_ : Bool) (ref : Nat) : Except Nat (List Byte) :=
  if !s.addrOk job d b len then .error Code.badAddress
  else match s.fetch d b len with
    | none => .error Code.hostDmaError
    | some bs =>
      if !sealed_ then .ok bs
      else match (s.job job).openPackage ref bs with
        | none => .error Code.sealBad
        | some p => .ok p

/-- A load that fails on its image. -/
def State.loadFails (s : State) (c : DescCtx) (e : Nat) : State :=
  (if e = Code.hostDmaError then s.dmaFailed c.job else s).complete c e

/-! ## Models -/

/-- Section `i` of an image: KIND, LAYER or head, length, offset. -/
def modelSect (im : List Byte) (i : Nat) : Nat × Nat × Nat × Nat :=
  let e := at_ im 44 4 + 16 * i
  (at_ im e 2, at_ im (e + 2) 2, at_ im (e + 4) 4, at_ im (e + 8) 8)

def modelSects (im : List Byte) : List (Nat × Nat × Nat × Nat) := (List.range (at_ im 40 4)).map (modelSect im)

/-- The header and the section table are well formed (R254, R255). -/
def modelFormOk (im : List Byte) : Bool :=
  let enc := at_ im 5 1 == 1
  decide (64 ≤ im.length) && at_ im 0 4 == 0x4C444F4D && at_ im 4 1 == 1 && decide (at_ im 5 1 < 2) && zeroRun im 11 1 &&
    decide (at_ im 16 4 < 2 ^ 19) && zeroRun im 48 16 && inside im (at_ im 44 4) (16 * at_ im 40 4) &&
    (modelSects im).all (fun x => decide (1 ≤ x.1 ∧ x.1 ≤ 7) && inside im x.2.2.2 x.2.2.1) &&
    (!enc || (at_ im 10 1 == 0 && (modelSects im).all (fun x => x.1 != 6) &&
      (modelSects im).any (fun x => x.1 == 7 && decide (1 ≤ x.2.2.1) && decide (at_ im x.2.2.2 1 ≤ 2))))

/-- Table 4.6. -/
def modelShapeOk (im : List Byte) : Bool :=
  let within (x lo hi : Nat) : Bool := decide (lo ≤ x) && decide (x ≤ hi)
  within (at_ im 6 2) 1 256 && within (at_ im 8 1) 1 64 && at_ im 6 2 * at_ im 8 1 ≤ 4096 && within (at_ im 9 1) 1 16 &&
    at_ im 10 1 ≤ 4 && within (at_ im 12 2) 2 128 && within (at_ im 14 2) 1 512 && within (at_ im 16 4) 1 262144

def kLoadModel : Kind :=
  { code := 0x0401, since := 0, cwell := none, keys := true, preempt := false,
    fields := [(128, 64), (192, 64), (256, 8), (264, 3), (272, 16), (288, 32)] }

/-- LOAD_MODEL (R255 to R260, R475). -/
def execLoadModel (job well : Nat) (d : Desc) (s : State) : Res :=
  s.takeUp kLoadModel job well d fun c s =>
    let h := dfld d 32 0 8; let swap := bit d 264 || (s.func (s.job job).func).verIndex == 0; let pin := bit d 265
    match s.loadImage job d 16 (dfld d 24 0 64) (bit d 266) (dfld d 36 0 32) with
    | .error e => .next (s.loadFails c e)
    | .ok im =>
      let digest := sha256 im
      let (n, s) := s.draw
      let free := ((List.range 255).map (fun i => (Config.freeNat n + i) % 255 + 1)).find? (fun i => (mget s.models i).isNone)
      let h' := if h = 0 then free else some h
      let same := h != 0 && (mget s.models h).any (fun m => m.job == job && m.damaged && m.digest == digest)
      let cores := max 1 (64 * popcnt (s.job job).slice.serve)
      let share := cdiv (grainsOf im.length) cores
      let pinned := ((s.members job).filter (·.pinned)).foldl (fun t m => t + m.share) 0
      match firstFail [
        (modelFormOk im, Code.modelImageBad),
        (modelShapeOk im, Code.shapeUnsupported),
        (h == 0 || (mget s.models h).isNone || same, Code.handleBusy),
        (h'.isSome, Code.modelTableFull),
        (same || s.objectRoom job (grainsOf im.length), Code.modelNoRoom),
        (!pin || same || (!swap && pinned + share ≤ s.hotRoom job), Code.pinLimit)], h' with
      | some e, _ => .next (s.complete c e)
      | none, none => .next (s.complete c Code.modelTableFull)
      | none, some h =>
        if same then .next (({ s with models := mchange s.models h (fun m => { m with damaged := false, repairs := m.repairs + 1 }) }).complete c Code.ok h)
        else
          let pool := ((modelSects im).find? (fun x => x.1 == 7)).map (fun x => at_ im x.2.2.2 1)
          let m : Model :=
            { job := job, encoder := at_ im 5 1 == 1, layers := at_ im 6 2, kvh := at_ im 8 1, qpk := at_ im 9 1, specHeads := at_ im 10 1,
              width := 128 * at_ im 12 2, ffn := 128 * at_ im 14 2, vocab := at_ im 16 4, scale := BitVec.ofNat 32 (at_ im 20 4),
              eos := ((List.range 4).map (fun k => at_ im (24 + 4 * k) 4)).filter (· != 0xFFFFFFFF), pooling := pool.getD 0, digest := digest,
              len := grainsOf im.length, swap := swap, pinned := pin, costW := if dfld d 34 0 16 = 0 then 256 else dfld d 34 0 16,
              resident := false, lastStep := s.now, damaged := false, repairs := 0 }
          .next (({ s with models := mput s.models h m, serving := mdel s.serving h }).complete c Code.ok h)

def kUnloadModel : Kind := { code := 0x0402, since := 0, cwell := none, keys := false, preempt := false, fields := [(128, 8)] }

/-- UNLOAD_MODEL (R256): the model goes with every adapter bound to it. -/
def execUnloadModel (job well : Nat) (d : Desc) (s : State) : Res :=
  s.takeUp kUnloadModel job well d fun c s =>
    let h := dfld d 16 0 8
    if (s.modelOf job h).isNone then .next (s.complete c Code.modelNotLoaded)
    else if s.sessions.any (fun e => e.2.state != .free && e.2.job == job && !(s.aux e.1).unbound && e.2.model == h) then
      .next (s.complete c Code.modelBusy)
    else
      let drop (o : Adapter) : Adapter :=
        let vs := o.versions.filter (fun v => v.model != h)
        { o with versions := vs, current := o.current.filter (fun v => vs.any (fun y => y.ver == v)) }
      let s := s.modJob job (fun x => { x with adapters := x.adapters.map (fun (e : Nat × Adapter) => (e.1, drop e.2)) })
      .next (({ s with models := mdel s.models h, serving := mdel s.serving h }).complete c Code.ok)

/-! ## Adapters -/

/-- The header of an adapter image for a model (R262). -/
def adapterOk (im : List Byte) (m : Model) : Bool :=
  decide (64 ≤ im.length) && at_ im 0 4 == 0x5044414C && at_ im 4 1 == 1 && decide (1 ≤ at_ im 5 1 ∧ at_ im 5 1 ≤ 64) &&
    decide (at_ im 6 2 < 2 ^ 7) && zeroRun im 12 4 && BitVec.ofNat 256 (leNat (sub im 16 32)) == m.digest && zeroRun im 48 16

/-- Versions of a handle that live on beside a new one. -/
def Adapter.inUse (o : Adapter) : List AdapterVer := o.versions.filter (fun v => v.users != 0)
def Adapter.goes (o : Adapter) : Nat := (o.versions.filter (fun v => v.users == 0)).foldl (fun n v => n + grainsOf v.image.length) 0

def kLoadAdapter : Kind :=
  { code := 0x0403, since := 1, cwell := none, keys := true, preempt := false,
    fields := [(128, 64), (192, 32), (224, 16), (240, 8), (248, 2), (256, 32)] }

/-- LOAD_ADAPTER (R262 to R264). A MODEL that another job loaded refuses it with REMOVE too (R256). -/
def execLoadAdapter (job well : Nat) (d : Desc) (s : State) : Res :=
  s.takeUp kLoadAdapter job well d fun c s =>
    let h := dfld d 28 0 16; let mh := dfld d 30 0 8
    let o := mgetD (s.job job).adapters h { current := none, last := 0, versions := [] }
    if bit d 248 then
      if s.modelAlien job mh then .next (s.complete c Code.modelNotLoaded)
      else if o.current.isNone then .next (s.complete c Code.adapterNotFound)
      else .next ((s.modJob job (fun x => { x with adapters := mput x.adapters h { o with current := none, versions := o.inUse } })).complete c Code.ok)
    else match s.modelOf job mh with
      | none => .next (s.complete c Code.modelNotLoaded)
      | some m =>
        if m.damaged then .next (s.complete c Code.modelDamaged)
        else match s.loadImage job d 16 (dfld d 24 0 32) (bit d 249) (dfld d 32 0 32) with
          | .error e => .next (s.loadFails c e)
          | .ok im =>
            match firstFail [
              (h != 0xFFFF && adapterOk im m, Code.adapterBad),
              (decide (o.inUse.length < 4), Code.adapterBusy),
              (s.roomAfter job o.goes (grainsOf im.length), Code.modelNoRoom)] with
            | some e => .next (s.complete c e)
            | none =>
              let v := o.last % 0xFFFF + 1
              let x : AdapterVer :=
                { ver := v, model := mh, rank := at_ im 5 1, targets := at_ im 6 2, scale := BitVec.ofNat 32 (at_ im 8 4), image := im, users := 0,
                  damaged := false, resident := false, lastStep := s.now }
              let o : Adapter := { current := some v, last := v, versions := o.inUse ++ [x] }
              .next ((s.modJob job (fun x => { x with adapters := mput x.adapters h o })).complete c Code.ok v)

end Sys2Proof.Machine
end

