-- ==== Sys2Proof/Machine/Index.lean ====
section
/-!
DEFINITION. Sys2Proof/Machine/Index.lean: proximity-graph indexes, filters and searches (11_retrieval, R295 to R307).
-/
namespace Sys2Proof.Machine

open Sys2Proof

/-! ## Objects in flash -/

/-- Place `count` grains of an object in the general-object region, where firmware finds room; none without it (R376, R391). -/
def State.generalPlace (s : State) (j count : Nat) (bytes : List Byte) : Option (Nat × State) :=
  if s.ftl.state = 0 ∨ s.ftl.state = 3 then none
  else
    let (n, s) := s.draw
    let (lo, hi) := s.ftl.generalRange
    (s.ftl.findRun (lo + Config.freeNat n % max 1 (hi - lo)) count lo hi).map (fun a =>
      (a, s.flashWrite a { count := count, session := none, bytes := bytes, complete := false, queued := false, job := j } []))

/-! ## Images (R295, R296) -/

def ixDim (im : List Byte) : Nat := at_ im 6 2
def ixDeg (im : List Byte) : Nat := at_ im 8 1
def ixNodes (im : List Byte) : Nat := at_ im 16 8
def ixRec (im : List Byte) : Nat := at_ im 24 4
def ixL2 (im : List Byte) : Bool := at_ im 5 1 == 1
/-- Where the record of node `n` starts. -/
def ixAt (im : List Byte) (n : Nat) : Nat := 64 + n * ixRec im

/-- REC_LEN of Table 11.1. -/
def recLen (dim deg : Nat) : Nat := cdiv (16 + 4 * deg + dim + dim / 32) 64 * 64

/-- dot(x, x) of a record's own vector (R298). -/
def ixSelf (im r : List Byte) : BitVec 48 :=
  let off := 16 + 4 * ixDeg im; let dim := ixDim im; let er := sext 16 (at_ im 10 2)
  (List.range dim).foldl (fun a k =>
    let c := at_ r (off + k) 1; let b := sext 8 (at_ r (off + dim + k / 32) 1)
    a + (termOf c b c b er).1) 0

/-- A record of Table 11.2 is well formed for an index. -/
def recOk (im r : List Byte) : Bool :=
  let deg := ixDeg im; let dim := ixDim im
  let used := 16 + 4 * deg + dim + dim / 32
  decide (at_ r 4 1 ≤ deg) && zeroRun r 5 3 && (ixL2 im || zeroRun r 8 8) &&
    (!ixL2 im || sext 64 (at_ r 8 8) == (ixSelf im r).toInt) &&
    (List.range (at_ r 4 1)).all (fun e => decide (at_ r (16 + 4 * e) 4 < ixNodes im)) && zeroRun r used (ixRec im - used)

/-- Tables 11.1 and 11.2 for an image of `len` bytes. -/
def indexOk (im : List Byte) (len : Nat) : Bool :=
  decide (64 ≤ im.length) && at_ im 0 4 == 0x58444E49 && at_ im 4 1 == 1 && decide (at_ im 5 1 < 2) &&
    decide (32 ≤ ixDim im ∧ ixDim im ≤ 2048) && ixDim im % 32 == 0 && decide (1 ≤ ixDeg im ∧ ixDeg im ≤ 64) &&
    decide (1 ≤ at_ im 9 1 ∧ at_ im 9 1 ≤ 8) && zeroRun im 12 4 && decide (1 ≤ ixNodes im ∧ ixNodes im ≤ 2 ^ 32) &&
    ixRec im == recLen (ixDim im) (ixDeg im) && zeroRun im 28 4 && zeroRun im (32 + 4 * at_ im 9 1) (32 - 4 * at_ im 9 1) &&
    len == 64 + ixNodes im * ixRec im && im.length == len &&
    (List.range (at_ im 9 1)).all (fun e => decide (at_ im (32 + 4 * e) 4 < ixNodes im)) &&
    (List.range (ixNodes im)).all (fun n => recOk im (sub im (ixAt im n) (ixRec im)))

/-- As it is loaded: 1 in every DEL_EPOCH that is not 0. -/
def indexLoaded (im : List Byte) : List Byte :=
  (List.range (ixNodes im)).foldl (fun im n => if at_ im (ixAt im n) 4 = 0 then im else patch im (ixAt im n) (leBytes 4 1)) im

/-! ## Handles -/

/-- An index version is in use: searches, or an INDEX_WRITE that waits. -/
def IndexVer.busy (v : IndexVer) : Bool := v.users != 0 || !v.writes.isEmpty
def Index.cur (o : Index) : Option IndexVer := o.current.bind (fun v => o.versions.find? (fun y => y.ver == v))
def Index.setVer (o : Index) (v : IndexVer) : Index := { o with versions := o.versions.map (fun y => if y.ver = v.ver then v else y) }
def Filter.cur (o : Filter) : Option FilterVer := o.current.bind (fun v => o.versions.find? (fun y => y.ver == v))

def State.index (s : State) (j h : Nat) : Option Index := mget (s.job j).indexes h
def State.setIndex (s : State) (j h : Nat) (o : Index) : State := s.modJob j (fun x => { x with indexes := mput x.indexes h o })
def State.filter (s : State) (j h : Nat) : Option Filter := mget (s.job j).filters h
def State.setFilter (s : State) (j h : Nat) (o : Filter) : State := s.modJob j (fun x => { x with filters := mput x.filters h o })

/-- Free the versions of an index handle that are neither current nor in use, with their flash grains. -/
def State.reapIndex (s : State) (j h : Nat) : State :=
  match s.index j h with
  | none => s
  | some o =>
    let dead := o.versions.filter (fun v => o.current != some v.ver && !v.busy)
    let s := dead.foldl (fun s v => match v.cold with
      | none => s
      | some (a, n) => s.flashFree a n) s
    s.setIndex j h { o with versions := o.versions.filter (fun v => o.current == some v.ver || v.busy) }
def State.reapFilter (s : State) (j h : Nat) : State :=
  match s.filter j h with
  | none => s
  | some o => s.setFilter j h { o with versions := o.versions.filter (fun v => o.current == some v.ver || v.users != 0) }

def indexFields : List (Nat × Nat) := [(128, 16), (192, 64), (256, 64)]
def kLoadIndex : Kind :=
  { code := 0x0601, since := 1, cwell := none, keys := true, preempt := false, fields := (320, 33) :: (384, 1) :: indexFields }

/-- LOAD_INDEX (R296). -/
def execLoadIndex (job well : Nat) (d : Desc) (s : State) : Res :=
  s.takeUp kLoadIndex job well d fun c s =>
    let h := dfld d 16 0 16; let len := dfld d 32 0 64
    let o := (s.index job h).getD { current := none, last := 0, versions := [] }
    if bit d 384 then
      if o.current.isNone then .next (s.complete c Code.noIndex)
      else .next (((s.setIndex job h { o with current := none }).reapIndex job h).complete c Code.ok)
    else match s.loadImage job d 24 len false 0 with
      | .error e => .next (s.loadFails c e)
      | .ok im =>
        let hot := min (dfld d 40 0 33) (ixNodes im)
        let cold := grainsOf ((ixNodes im - hot) * ixRec im)
        let gone := (o.versions.filter (fun v => !v.busy)).foldl (fun n v => n + v.grains) 0
        match firstFail [
          (decide (1 ≤ h ∧ h ≤ 0xFFFE) && indexOk im len, Code.indexBad),
          (decide ((o.versions.filter (·.busy)).length < 2), Code.versionBusy),
          (s.roomAfter job gone (grainsOf (64 + hot * ixRec im)), Code.indexNoRoom)] with
        | some e => .next (s.complete c e)
        | none =>
          let placed : Option (Option (Nat × Nat) × State) := if cold = 0 then some (none, s)
            else (s.generalPlace job cold (im.drop (ixAt im hot))).map (fun p => (some (p.1, cold), p.2))
          match placed with
          | none => .next (s.complete c Code.indexNoRoom)
          | some (cold, s) =>
            let v := o.last % 0xFFFF + 1
            let x : IndexVer := { ver := v, image := indexLoaded im, hot := hot, epoch := 1, users := 0, damaged := false, cold := cold }
            let s := s.setIndex job h { current := some v, last := v, versions := o.versions ++ [x] }
            .next ((s.reapIndex job h).complete c Code.ok)

def kLoadFilter : Kind :=
  { code := 0x0602, since := 1, cwell := none, keys := true, preempt := false, fields := (144, 16) :: (384, 1) :: indexFields }

/-- LOAD_FILTER (R296, R303). -/
def execLoadFilter (job well : Nat) (d : Desc) (s : State) : Res :=
  s.takeUp kLoadFilter job well d fun c s =>
    let ix := dfld d 16 0 16; let h := dfld d 18 0 16; let len := dfld d 32 0 64
    let o := (s.filter job h).getD { index := ix, current := none, last := 0, versions := [] }
    if bit d 384 then
      if o.current.isNone then .next (s.complete c Code.noFilter)
      else .next (((s.setFilter job h { o with current := none }).reapFilter job h).complete c Code.ok)
    else match (s.index job ix).bind Index.cur with
      | none => .next (s.complete c Code.noIndex)
      | some v =>
        match s.loadImage job d 24 len false 0 with
        | .error e => .next (s.loadFails c e)
        | .ok im =>
          let gone := (o.versions.filter (fun v => v.users == 0)).foldl (fun n v => n + v.grains) 0
          match firstFail [
            (decide (1 ≤ h ∧ h ≤ 0xFFFE) && len == cdiv (ixNodes v.image) 8, Code.indexBad),
            (decide ((o.versions.filter (fun v => v.users != 0)).length < 2), Code.versionBusy),
            (s.roomAfter job gone (grainsOf len), Code.indexNoRoom)] with
          | some e => .next (s.complete c e)
          | none =>
            let n := o.last % 0xFFFF + 1
            let (k, s) := s.draw
            let near := (s.job job).filters.flatMap (fun f => if f.2.index = ix then f.2.versions.map (·.bank) else [])
            let x : FilterVer := { ver := n, bits := im, users := 0, damaged := false, bank := near.headD (Config.freeNat k) }
            let s := s.setFilter job h { index := ix, current := some n, last := n, versions := o.versions ++ [x] }
            .next ((s.reapFilter job h).complete c Code.ok)

/-! ## Changing an index (R301, R302) -/

def kTombstone : Kind :=
  { code := 0x0603, since := 1, cwell := none, keys := false, preempt := false, fields := (160, 32) :: indexFields }

/-- TOMBSTONE (R301). -/
def execTombstone (job well : Nat) (d : Desc) (s : State) : Res :=
  s.takeUp kTombstone job well d fun c s =>
    let h := dfld d 16 0 16; let n := dfld d 20 0 32
    match s.index job h with
    | none => .next (s.complete c Code.noIndex)
    | some o => match o.cur with
      | none => .next (s.complete c Code.noIndex)
      | some v =>
        if v.damaged then .next (s.complete c Code.objectDamaged)
        else if v.epoch = 0xFFFFFFFF then .next (s.complete c Code.indexEpochFull)
        else if !s.addrOk job d 24 (4 * n) then .next (s.complete c Code.badAddress)
        else match s.fetch d 24 (4 * n) with
          | none => .next ((s.dmaFailed job).complete c Code.hostDmaError)
          | some bs =>
            let mark (im : List Byte) (k : Nat) : List Byte :=
              let id := at_ bs (4 * k) 4
              if id < ixNodes im ∧ at_ im (ixAt im id) 4 = 0 then patch im (ixAt im id) (leBytes 4 (v.epoch + 1)) else im
            let v := { v with image := (List.range n).foldl mark v.image, epoch := v.epoch + 1 }
            .next ((s.setIndex job h (o.setVer v)).complete c Code.ok)

def kIndexWrite : Kind :=
  { code := 0x0604, since := 3, cwell := none, keys := false, preempt := false, fields := (160, 32) :: indexFields }

/-- INDEX_WRITE (R302): the items are checked, and wait until no search of the version is in flight. -/
def execIndexWrite (job well : Nat) (d : Desc) (s : State) : Res :=
  s.takeUp kIndexWrite job well d fun c s =>
    let h := dfld d 16 0 16; let n := dfld d 20 0 32
    match s.index job h with
    | none => .next (s.complete c Code.noIndex)
    | some o => match o.cur with
      | none => .next (s.complete c Code.noIndex)
      | some v =>
        let item := 64 + ixRec v.image
        if v.damaged then .next (s.complete c Code.objectDamaged)
        else if !s.addrOk job d 24 (item * n) then .next (s.complete c Code.badAddress)
        else match s.fetch d 24 (item * n) with
          | none => .next ((s.dmaFailed job).complete c Code.hostDmaError)
          | some bs =>
            let items := (List.range n).map (fun k => (at_ bs (item * k) 4, sub bs (item * k + 64) (ixRec v.image)))
            let ok := (List.range n).all (fun k => zeroRun bs (item * k + 4) 60) &&
              items.all (fun x => decide (x.1 < ixNodes v.image) && recOk v.image x.2)
            if !ok then .next (s.complete c Code.indexBad)
            else .next (s.setIndex job h (o.setVer { v with writes := v.writes ++ [(c, items)] }))

/-! ## Searches -/

/-- Searches of a job that are queued for a walker or run on one. -/
def State.walking (s : State) (j : Nat) : Nat :=
  let p := s.pool Cls.walker
  let is (x : EngCmd) : Bool := x.job == j && (match x.work with
    | .search _ => true
    | _ => false)
  (p.queue.filter is).length + (p.busy.filter (fun e => is e.2)).length
def State.hasWalker (s : State) (n : Nat) : Bool :=
  let p := s.pool Cls.walker
  p.queue.any (fun x => x.work == .search n) || p.busy.any (fun e => e.2.work == .search n)

/-- Queue the searches of a job, oldest first, as far as WALKERS allows (R306). -/
def State.feedWalkers (s : State) (j : Nat) : State :=
  let most := let n := fld (s.reg (Reg.wlkJob j)) 0 6; if n = 0 ∨ 32 < n then 32 else n
  s.searches.foldl (fun s e =>
    if e.2.ctx.job == j && e.2.held == 0 && !s.hasWalker e.1 && decide (s.walking j < most) then
      s.enqueue Cls.walker { job := j, share := 0, req := 0, since := 0, cost := 0, work := .search e.1 }
    else s) s

/-- INDEX_WRITE_APPLY (R302): with no search of the version in flight, the records are written, and the searches that this INDEX_WRITE alone held
are released. -/
def execIndexWriteApply (job index : Nat) (s : State) : Res := s.ifReady <|
  match s.index job index with
  | none => .next s
  | some o =>
    match o.versions.find? (fun v => !v.writes.isEmpty && v.users == 0) with
    | none => .next s
    | some v =>
      match v.writes with
      | [] => .next s
      | (c, items) :: rest =>
        let im := items.foldl (fun im x => patch im (ixAt im x.1) x.2) v.image
        let waits := s.searches.filter (fun e => e.2.held != 0 && e.2.ctx.job == job && e.2.index == index && e.2.ver == v.ver)
        let v := { v with image := im, writes := rest, users := (waits.filter (fun e => e.2.held == 1)).length }
        let s := s.setIndex job index (o.setVer v)
        let s := waits.foldl (fun s e => { s with searches := mput s.searches e.1 { e.2 with held := e.2.held - 1 } }) s
        .next (((s.reapIndex job index).complete c Code.ok).feedWalkers job)

/-- dot(q, x) of R298 for the codes and exponents at an offset, and whether a term raised RANGE. -/
def ixDot (im q : List Byte) (off : Nat) : Int × Bool :=
  let dim := ixDim im; let er := sext 16 (at_ im 10 2)
  let r := (List.range dim).foldl (fun (a : BitVec 48 × Bool) k =>
    let t := termOf (at_ q k 1) (sext 8 (at_ q (dim + k / 32) 1)) (at_ im (off + k) 1) (sext 8 (at_ im (off + dim + k / 32) 1)) er
    (a.1 + t.1, a.2 || t.2)) (0, false)
  (r.1.toInt, r.2)

/-- The distance of node `n` (R298). -/
def ixDist (im q : List Byte) (n : Nat) : Int × Bool :=
  let (dot, range) := ixDot im q (ixAt im n + 16 + 4 * ixDeg im)
  let norm := sext 64 (at_ im (ixAt im n + 8) 8)
  ((BitVec.ofInt 64 (if ixL2 im then norm - 2 * dot else -dot)).toInt, range)

/-- The state of a walk (R299): the visited set, the queue as (distance, node, expanded), counts, CAPPED, RANGE. -/
structure Walk where
  visited : List Nat := []
  queue : List (Int × Nat × Bool) := []
  expanded : Nat := 0
  evaluated : Nat := 0
  capped : Bool := false
  range : Bool := false

/-- A node is tombstoned at epoch `e`. -/
def ixTomb (im : List Byte) (e n : Nat) : Bool := let d := at_ im (ixAt im n) 4; d != 0 && decide (d ≤ e)

/-- Evaluate a node and insert it. -/
def Walk.insert (w : Walk) (im q : List Byte) (n : Nat) : Walk :=
  let (d, r) := ixDist im q n
  let le (a b : Int × Nat × Bool) : Bool := decide (a.1 < b.1) || (a.1 == b.1 && decide (a.2.1 ≤ b.2.1))
  { w with queue := insertBy le (d, n, false) w.queue, evaluated := w.evaluated + 1, range := w.range || r }

/-- Drop the last entry of a queue of more than `l`. -/
def Walk.cut (w : Walk) (l : Nat) : Walk := if l < w.queue.length then { w with queue := w.queue.dropLast } else w

/-- The edges of an expanded node, in stored order. -/
def Walk.edges (im q : List Byte) (e l : Nat) : List Nat → Walk → Walk
  | [], w => w
  | n :: rest, w =>
    if w.visited.contains n then Walk.edges im q e l rest w
    else if w.visited.length = 65536 then { w with capped := true }
    else
      let w := { w with visited := n :: w.visited }
      Walk.edges im q e l rest (if ixTomb im e n then w else (w.insert im q n).cut l)

/-- Expansions, at most `fuel` of them. -/
def Walk.run (im q : List Byte) (e l most : Nat) : Nat → Walk → Walk
  | 0, w => w
  | fuel + 1, w =>
    match w.queue.find? (fun x => !x.2.2) with
    | none => w
    | some (_, n, _) =>
      if w.capped ∨ w.expanded = most ∧ most ≠ 0 then w
      else
        let w := { w with expanded := w.expanded + 1, queue := w.queue.map (fun x => if x.2.1 = n then (x.1, n, true) else x) }
        let edges := (List.range (at_ im (ixAt im n + 4) 1)).map (fun k => at_ im (ixAt im n + 16 + 4 * k) 4)
        Walk.run im q e l most fuel (Walk.edges im q e l edges w)

/-- The whole walk. Every expansion marks a node expanded, of at most 65,536 visited. -/
def walk (im q : List Byte) (e l most : Nat) : Walk :=
  let start := (List.range (at_ im 9 1)).foldl (fun (w : Walk) k =>
    let n := at_ im (32 + 4 * k) 4
    if w.visited.contains n then w
    else
      let w := { w with visited := n :: w.visited }
      if ixTomb im e n then w else w.insert im q n) {}
  Walk.run im q e l most 65537 start

/-- The pass bit of a node for the combination of filters (R303). -/
def passBit (maps : List (List Byte)) (ops n : Nat) : Bool :=
  let b (m : List Byte) : Bool := ((m.getD (n / 8) 0)).getLsbD (n % 8)
  match maps with
  | [] => true
  | m :: rest => (rest.zipIdx.foldl (fun a e => match ops / 4 ^ e.2 % 4 with
    | 0 => a && b e.1
    | 1 => a || b e.1
    | _ => a && !b e.1) (b m))

def kSearch : Kind :=
  { code := 0x0605, since := 1, cwell := some 288, keys := false, preempt := false,
    fields := [(128, 16), (144, 11), (160, 11), (176, 6), (184, 3), (192, 64), (256, 32), (288, 4), (320, 64), (384, 64)] }

/-- The pass bitmap of a combination (R237): taken when the job has it, else built, in the job's list of 64 by last use (R303). -/
def State.passMap (s : State) (j ix ops nodes : Nat) (filters : List (Nat × Nat)) (maps : List (List Byte)) : State :=
  let key := (0x10000 + ix, ops) :: filters
  let have_ := (s.job j).passMaps.find? (fun p => p.1 == key)
  let bits := (List.range nodes).map (fun n => b2n (passBit maps ops n))
  let entry := have_.getD (key, bits)
  let rest := (s.job j).passMaps.filter (fun p => p.1 != key)
  let s := s.modJob j (fun x => { x with passMaps := (rest ++ [entry]).drop (rest.length + 1 - 64) })
  if have_.isSome then s else s.enqueue Cls.walker { job := j, share := 0, req := 0, since := 0, cost := 0, work := .passMap }

/-- SEARCH (R303, R304): accepted, it binds the current versions and the epoch. -/
def execSearch (job well : Nat) (d : Desc) (s : State) : Res :=
  s.takeUp kSearch job well d fun c s =>
    let h := dfld d 16 0 16; let k := dfld d 18 0 11; let l := dfld d 20 0 11; let ops := dfld d 22 0 6; let fn := dfld d 23 0 3
    match s.index job h with
    | none => .next (s.complete c Code.noIndex)
    | some o => match o.cur with
      | none => .next (s.complete c Code.noIndex)
      | some v =>
        let handles := (List.range (min 4 fn)).map (fun i => dfld d (24 + 2 * i) 0 16)
        let fs := handles.map (fun f => (s.filter job f).bind (fun x => if x.index = h then x.cur.map (fun y => (f, y)) else none))
        let good := fs.filterMap id
        let qlen := ixDim v.image + ixDim v.image / 32
        match firstFail [
          (!v.damaged, Code.objectDamaged),
          (decide (1 ≤ k ∧ k ≤ 1024) && decide (k ≤ l ∧ l ≤ 1024) && decide (fn ≤ 4) &&
            (List.range 3).all (fun i => ops / 4 ^ i % 4 != 3) && fld d 384 6 == 0 &&
            (!(s.job job).conf || (dhbm d 40 && dhbm d 48)), Code.badSearch),
          (good.length == handles.length, Code.noFilter),
          (good.all (fun f => !f.2.damaged), Code.objectDamaged),
          (s.addrOk job d 40 qlen && s.addrOk job d 48 (16 + 16 * k), Code.badAddress)] with
        | some e => .next (s.complete c e)
        | none => match s.fetch d 40 qlen with
          | none => .next ((s.dmaFailed job).complete c Code.hostDmaError)
          | some q =>
            let held := v.writes.length
            let filters := good.map (fun f => (f.1, f.2.ver))
            let x : Search :=
              { ctx := c, index := h, ver := v.ver, epoch := v.epoch, k := k, l := l, ops := ops, filters := filters,
                expandMax := dfld d 32 0 32, query := q, resAddr := daddr d 48, resHbm := dhbm d 48, held := held }
            let s := if held ≠ 0 then s else s.setIndex job h (o.setVer { v with users := v.users + 1 })
            let s := good.foldl (fun s f => match s.filter job f.1 with
              | none => s
              | some o => s.setFilter job f.1 { o with versions := o.versions.map (fun y => if y.ver = f.2.ver then { y with users := y.users + 1 } else y) }) s
            let s := { s with searches := mput s.searches s.nextWork x, nextWork := s.nextWork + 1 }
            let s := if filters.isEmpty then s else s.passMap job h ops (ixNodes v.image) filters (good.map (fun f => f.2.bits))
            .next (s.feedWalkers job)

/-- Let go of what a search is bound to. -/
def State.searchOver (s : State) (n : Nat) (x : Search) : State :=
  let j := x.ctx.job
  let s := { s with searches := mdel s.searches n }
  let s := match s.index j x.index with
    | none => s
    | some o => (s.setIndex j x.index { o with versions := o.versions.map (fun (v : IndexVer) =>
        if v.ver = x.ver ∧ x.held = 0 then { v with users := v.users - 1 } else v) }).reapIndex j x.index
  let s := x.filters.foldl (fun s f => match s.filter j f.1 with
    | none => s
    | some o => (s.setFilter j f.1 { o with versions := o.versions.map (fun (y : FilterVer) =>
        if y.ver = f.2 then { y with users := y.users - 1 } else y) }).reapFilter j f.1) s
  s.feedWalkers j

/-- A walker's command ends: the result is written and the search completes (R305); a record that could not be read ends it with
TIER_ERROR and no result (R307). -/
def State.searchEnded (s : State) (n : Nat) (fail : Bool) : State :=
  match mget s.searches n with
  | none => s
  | some x =>
    let j := x.ctx.job
    let v := (s.index j x.index).bind (fun o => o.versions.find? (fun v => v.ver == x.ver))
    match v with
    | none => (s.searchOver n x).complete x.ctx Code.tierError
    | some v =>
      if fail then (s.searchOver n x).complete x.ctx Code.tierError
      else
        let w := walk v.image x.query x.epoch x.l x.expandMax
        let maps := x.filters.map (fun f => (((s.filter j f.1).bind (fun o => o.versions.find? (fun y => y.ver == f.2))).map (·.bits)).getD [])
        let res := (w.queue.filter (fun e => passBit maps x.ops e.2.1)).take x.k
        let short := decide (res.length < x.k)
        let head := leBytes 2 res.length ++ [BitVec.ofNat 8 (b2n short + 2 * b2n w.range + 4 * b2n w.capped), 0] ++ leBytes 4 w.expanded ++
          leBytes 4 w.evaluated ++ leBytes 4 x.epoch
        let body := res.flatMap (fun e => leBytes 4 e.2.1 ++ zeros 4 ++ leBytes 8 (BitVec.ofInt 64 e.1).toNat)
        let s := s.wr x.resHbm x.resAddr (head ++ body)
        let s := ((s.countReg Reg.wlkStat 0 32 1).countReg Reg.wlkStat 32 32 (b2n short)).countReg Reg.wlkDist 0 64 w.evaluated
        let s := if v.cold.isNone then s
          else
            let (a, s) := s.draw
            let (b, s) := s.draw
            (s.countReg Reg.wlkCache 0 32 (Config.freeNat a)).countReg Reg.wlkCache 32 32 (Config.freeNat b)
        (s.searchOver n x).complete x.ctx Code.ok res.length

end Sys2Proof.Machine
end

