-- ==== Sys2Proof/Machine/Tables.lean ====
section
/-!
DEFINITION. Sys2Proof/Machine/Tables.lean: embedding tables, pooled lookups, training steps, row migration and document
embedding (11_retrieval, R308 to R320).
-/
namespace Sys2Proof.Machine

open Sys2Proof

/-! ## Handles and versions -/

def Table.cur (o : Table) : Option TableVer := o.current.bind (fun v => o.versions.find? (fun y => y.ver == v))
def Table.setVer (o : Table) (v : TableVer) : Table := { o with versions := o.versions.map (fun y => if y.ver = v.ver then v else y) }
def emptyTable : Table :=
  { current := none, last := 0, versions := [], items := [], marks := [], failed := [], doneStep := none, stepWait := none, migWait := [], migEpoch := 0 }
def State.table (s : State) (j h : Nat) : Option Table := mget (s.job j).tables h
def State.setTable (s : State) (j h : Nat) (o : Table) : State := s.modJob j (fun x => { x with tables := mput x.tables h o })

/-- A version that a lookup, a buffered update or a migration is bound to (R310, R318). -/
def Table.busy (o : Table) (v : TableVer) : Bool :=
  v.users != 0 || o.items.any (fun i => i.ver == v.ver) || v.rowMap.any (fun e => e.2.migrating.isSome) ||
    o.migWait.any (fun w => w.2.1 == v.ver)

/-- Free a run of grains that table rows had. -/
def State.areaFree (s : State) (j : Nat) (a : Nat × Nat × Nat × Nat) : State :=
  if a.1 = 2 then s.flashFree a.2.2.1 a.2.2.2
  else s.modJob j (fun x => { x with regions := mchange x.regions a.2.1 (fun r => { r with used := r.used.filter (fun u => u.1 != a.2.2.1) }) })

/-- Take a run of grains for table rows in T2 or T3; or the code of the refusal (R61, R376, R391). -/
def State.areaTake (s : State) (j tier region count : Nat) (bytes : List Byte) : Except Nat ((Nat × Nat × Nat × Nat) × State) :=
  if tier = 2 then
    match s.generalPlace j count bytes with
    | none => .error Code.indexNoRoom
    | some (a, s) => .ok ((2, 0, a, count), s)
  else match mget (s.job j).regions region with
    | none => .error Code.badRegion
    | some r =>
      let (n, s) := s.draw
      match r.findRun (Config.freeNat n % max 1 r.grains) count with
      | none => .error Code.regionFull
      | some a => .ok ((3, region, a, count),
          let s := s.modJob j (fun x => { x with regions := mchange x.regions region (fun r => { r with used := r.used ++ [(a, count)] }) })
          if s.t3Sealed j region then s else s.wr false (r.at_ a) bytes)

/-- Rows that a run of grains holds. -/
def TableVer.runRows (v : TableVer) (a : Nat × Nat × Nat × Nat) : Nat := a.2.2.2 * 16384 / rowLen v.dim
/-- Rows that the grains of a tier and region can hold. -/
def TableVer.roomIn (v : TableVer) (tier region : Nat) : Nat :=
  (v.areas.filter (fun a => a.1 == tier && a.2.1 == region)).foldl (fun n a => n + v.runRows a) 0
/-- The offsets of a tier and region that rows hold. -/
def TableVer.taken (v : TableVer) (tier region : Nat) : List Nat :=
  (v.rowMap.filter (fun e => e.2.tier == tier && e.2.region == region)).map (fun e => e.2.offset) ++
    (v.rowMap.filter (fun e => e.2.migrating.any (fun m => m.1 == tier && m.2.1 == region))).map (fun e => e.2.dest) ++
    (v.olds.filter (fun o => o.1 == tier && o.2.1 == region)).map (fun o => o.2.2.1)
/-- The lowest offset of a tier and region that no row holds. -/
def TableVer.freeOffset (v : TableVer) (tier region : Nat) : Nat :=
  let used := v.taken tier region
  ((List.range (used.length + 1)).find? (fun o => !used.contains o)).getD used.length

/-- Where the row at an offset of T2 or T3 stands: its run of grains, and the byte in it. -/
def TableVer.rowPlace (v : TableVer) (tier region offset : Nat) : Option ((Nat × Nat × Nat × Nat) × Nat) :=
  ((v.areas.filter (fun a => a.1 == tier && a.2.1 == region)).foldl (fun (st : Option ((Nat × Nat × Nat × Nat) × Nat) × Nat) a =>
    let next := st.2 + v.runRows a
    (if st.2 ≤ offset ∧ offset < next then some (a, (offset - st.2) * rowLen v.dim) else st.1, next)) (none, 0)).1

/-- A row of T2 or T3 is written where it stands (R313). -/
def State.rowWrite (s : State) (j : Nat) (v : TableVer) (tier region offset : Nat) (bytes : List Byte) : State :=
  match v.rowPlace tier region offset with
  | none => s
  | some (a, at_) =>
    if tier = 3 then
      match mget (s.job j).regions region with
      | some r => if s.t3Sealed j region then s else s.wr false (r.at_ a.2.2.1 + at_) bytes
      | none => s
    else { s with ftl := s.ftl.patched a.2.2.1 at_ bytes }

/-- The last runs of grains of a version that no row holds, and those it keeps. -/
def TableVer.spare (v : TableVer) : Nat → List (Nat × Nat × Nat × Nat) × List (Nat × Nat × Nat × Nat)
  | 0 => ([], v.areas)
  | n + 1 => match v.areas.getLast? with
    | none => ([], [])
    | some a =>
      let rest : TableVer := { v with areas := v.areas.dropLast }
      if (v.taken a.1 a.2.1).any (fun o => decide (rest.roomIn a.1 a.2.1 ≤ o)) then ([], v.areas)
      else
        let r := TableVer.spare rest n
        (a :: r.1, r.2)

/-- Old copies that no lookup in flight may read are freed, and with them the last runs of grains that no row holds (R317, R318). -/
def State.trimTable (s : State) (j h : Nat) : State :=
  match s.table j h with
  | none => s
  | some o =>
    let reads (ver k : Nat) : Bool := s.lookups.any (fun e => decide (e.1 < k) && e.2.ctx.job == j && e.2.table == h && e.2.ver == ver)
    let vs := o.versions.map (fun v =>
      let v : TableVer := { v with olds := v.olds.filter (fun x => reads v.ver x.2.2.2) }
      let r := v.spare v.areas.length
      ({ v with areas := r.2 }, r.1))
    (vs.flatMap (·.2)).foldl (fun s a => s.areaFree j a) (s.setTable j h { o with versions := vs.map (·.1) })

/-- Free the versions of a handle that are neither current, nor waiting for TABLE_SWAP, nor in use, and the places that rows have left. -/
def State.reapTable (s : State) (j h : Nat) : State :=
  let s := s.trimTable j h
  match s.table j h with
  | none => s
  | some o =>
    let keep (v : TableVer) : Bool := v.fresh || o.current == some v.ver || o.busy v
    let s := (o.versions.filter (fun v => !keep v)).foldl (fun s v => v.areas.foldl (fun s a => s.areaFree j a) s) s
    s.setTable j h { o with versions := o.versions.filter keep }

/-! ## Loading (R308 to R310) -/

def tbN (im : List Byte) : Nat := at_ im 5 1
def tbDim (im : List Byte) : Nat := at_ im 6 2
def tbRows (im : List Byte) : Nat := at_ im 8 8
def tbNodes (im : List Byte) : List Nat := (List.range (tbN im)).map (fun i => at_ im (64 + 2 * i) 2)

/-- Local rows of the device at place `p` of `n` (R308). -/
def localRows (rows n p : Nat) : Nat := cdiv (rows - p) n

/-- Table 11.5 and R310 for an image of `len` bytes on node `node`. -/
def tableOk (im : List Byte) (len node : Nat) : Bool :=
  let n := tbN im; let dim := tbDim im
  decide (256 ≤ im.length) && at_ im 0 4 == 0x4C424154 && at_ im 4 1 == 1 && decide (1 ≤ n ∧ n ≤ 64) &&
    decide (32 ≤ dim ∧ dim ≤ 2048) && dim % 32 == 0 && decide (1 ≤ tbRows im ∧ tbRows im ≤ 2 ^ 40) && zeroRun im 17 47 &&
    zeroRun im (64 + 2 * n) (192 - 2 * n) && decide (tbNodes im).Nodup && (match (tbNodes im).idxOf? node with
      | none => false
      | some p =>
        let loc := localRows (tbRows im) n p
        len == 256 + loc * rowLen dim && im.length == len &&
          (List.range loc).all (fun r => (List.range (dim / 32)).all (fun b =>
            decide (sext 8 (at_ im (256 + r * rowLen dim + dim + b) 1) ≤ sext 8 (at_ im 16 1)))))

def tableFields : List (Nat × Nat) := [(128, 16), (160, 32), (192, 64), (256, 64), (320, 32), (352, 32), (384, 64), (448, 2), (456, 8)]
def kLoadTable : Kind := { code := 0x0606, since := 1, cwell := none, keys := true, preempt := false, fields := tableFields }

/-- LOAD_TABLE (R308 to R310, R529). The version waits for TABLE_SWAP. -/
def execLoadTable (job well : Nat) (d : Desc) (s : State) : Res :=
  s.takeUp kLoadTable job well d fun c s =>
    let h := dfld d 16 0 16; let len := dfld d 32 0 64; let hot := dfld d 40 0 32; let tier := dfld d 56 0 2; let region := dfld d 57 0 8
    let o := (s.table job h).getD emptyTable
    match s.loadImage job d 24 len false 0 with
    | .error e => .next (s.loadFails c e)
    | .ok im =>
      if !s.addrOk job d 48 (8 * hot) then .next (s.complete c Code.badAddress)
      else match s.fetch d 48 (8 * hot) with
        | none => .next ((s.dmaFailed job).complete c Code.hostDmaError)
        | some hs =>
          let rl := rowLen (tbDim im)
          let loc := (im.length - 256) / max 1 rl
          let hots := (List.range hot).map (fun k => at_ hs (8 * k) 8)
          let tails := (List.range loc).filter (fun r => !hots.contains r)
          let cold := grainsOf (tails.length * rl)
          match firstFail [
            (decide (1 ≤ h ∧ h ≤ 0xFFFE) && tableOk im len s.node && hots.all (fun r => decide (r < loc)) && decide hots.Nodup &&
              decide (2 ≤ tier), Code.tableBad),
            (decide (o.versions.length < 2), Code.versionBusy),
            (s.roomAfter job 0 (grainsOf (hot * rl) + grainsOf (8 * loc)), Code.indexNoRoom)] with
          | some e => .next (s.complete c e)
          | none =>
            let placed : Except Nat (List (Nat × Nat × Nat × Nat) × State) := if cold = 0 then .ok ([], s)
              else match s.areaTake job tier region cold (tails.flatMap (fun r => sub im (256 + r * rl) rl)) with
                | .error e => .error e
                | .ok (a, s) => .ok ([a], s)
            match placed with
            | .error e => .next (s.complete c e)
            | .ok (areas, s) =>
              let row (t : Nat) (e : Nat × Nat) : Nat × TableRow :=
                (e.1, { tier := t, region := if t = 3 then region else 0, offset := e.2, bytes := sub im (256 + e.1 * rl) rl })
              let rows := (hots.zipIdx.map (row 1)) ++ (tails.zipIdx.map (row tier))
              let v := o.last % 0xFFFF + 1
              let x : TableVer :=
                { ver := v, dim := tbDim im, rows := tbRows im, expCap := sext 8 (at_ im 16 1), nodes := tbNodes im,
                  rowMap := rows.foldl (fun m e => mput m e.1 e.2) [], users := 0, damaged := false, areas := areas }
              .next ((s.setTable job h { o with last := v, versions := o.versions ++ [x] }).complete c Code.ok v)

def kTableSwap : Kind := { code := 0x0607, since := 1, cwell := none, keys := false, preempt := false, fields := (144, 16) :: tableFields }

/-- TABLE_SWAP (R310). -/
def execTableSwap (job well : Nat) (d : Desc) (s : State) : Res :=
  s.takeUp kTableSwap job well d fun c s =>
    let h := dfld d 16 0 16; let v := dfld d 18 0 16
    match s.table job h with
    | none => .next (s.complete c Code.noTable)
    | some o => match o.versions.find? (fun y => y.ver == v) with
      | none => .next (s.complete c Code.noTable)
      | some y => .next (((s.setTable job h { o.setVer { y with fresh := false } with current := some v }).reapTable job h).complete c Code.ok)

/-- The handle and its current version that a descriptor binds, or the code of its refusal (R297, R310, R476). -/
def State.bindTable (s : State) (j h : Nat) : Except Nat (Table × TableVer) :=
  match s.table j h with
  | none => .error Code.noTable
  | some o => match o.cur with
    | none => .error Code.noTable
    | some v => if v.damaged then .error Code.objectDamaged else .ok (o, v)

/-- The owner of a global row, and its local number. -/
def TableVer.owner (v : TableVer) (r : Nat) : Nat := v.nodes.getD (r % max 1 v.nodes.length) 0xFFFF
def TableVer.local_ (v : TableVer) (r : Nat) : Nat := r / max 1 v.nodes.length

/-! ## Lookups (R311 to R313) -/

def kEmbedLookup : Kind :=
  { code := 0x0608, since := 1, cwell := some 168, keys := false, preempt := false,
    fields := [(128, 16), (144, 16), (160, 6), (168, 4), (192, 64), (256, 64), (320, 64), (384, 64)] }

/-- Bytes of a bag's output. -/
def bagStride (dim fmt : Nat) : Nat := cdiv (if fmt = 0 then 4 * dim + 2 else dim + dim / 32) 64 * 64

/-- ARG of a table packet: the handle (log entry 11). -/
def tableArg (h : Nat) : W64 := BitVec.ofNat 64 h

/-- EMBED_LOOKUP (R311, R313, R439): accepted, it binds the current version; each bag is a command of a gather unit, and every row of
another device is asked for. -/
def execEmbedLookup (job well : Nat) (d : Desc) (s : State) : Res :=
  s.takeUp kEmbedLookup job well d fun c s =>
    let h := dfld d 16 0 16; let nb := dfld d 18 0 16; let fmt := dfld d 20 0 1; let q := dfld d 20 1 5
    match s.bindTable job h with
    | .error e => .next (s.complete c e)
    | .ok (o, v) =>
      let out := bagStride v.dim fmt
      match firstFail [
        (nb != 0 && decide (q ≤ 16) && daddr d 48 % 64 == 0, Code.badLookup),
        (s.addrOk job d 32 (4 * (nb + 1)) && s.addrOk job d 48 (nb * out), Code.badAddress),
        (!(s.job job).conf || dhbm d 48, Code.confHostWrite)] with
      | some e => .next (s.complete c e)
      | none => match s.fetch d 32 (4 * (nb + 1)) with
        | none => .next ((s.dmaFailed job).complete c Code.hostDmaError)
        | some ob =>
          let off := (List.range (nb + 1)).map (fun b => at_ ob (4 * b) 4)
          let n := off.getD nb 0
          let rising := (List.range nb).all (fun b => decide (off.getD b 0 ≤ off.getD (b + 1) 0) && decide (off.getD (b + 1) 0 - off.getD b 0 ≤ 65536))
          match firstFail [
            (rising, Code.badLookup),
            (s.addrOk job d 24 (8 * n) && s.addrOk job d 40 (n + cdiv n 32), Code.badAddress)] with
          | some e => .next (s.complete c e)
          | none => match s.fetch d 24 (8 * n), s.fetch d 40 (n + cdiv n 32) with
            | some ib, some wb =>
              let idx := (List.range n).map (fun i => at_ ib (8 * i) 8)
              if !idx.all (fun r => decide (r < v.rows)) then .next (s.complete c Code.badLookup)
              else
                let x : Lookup :=
                  { ctx := c, table := h, ver := v.ver, idx := idx, off := off, weights := wb, fmt := fmt, q := q, outAddr := daddr d 48,
                    outHbm := dhbm d 48, left := nb, failed := false }
                let k := s.nextWork
                let s := { s with lookups := mput s.lookups k x, nextWork := k + 1 }
                let s := s.setTable job h (o.setVer { v with users := v.users + 1 })
                let s := (idx.filter (fun r => v.owner r != s.node)).eraseDups.foldl (fun s r =>
                  (s.send job 5 Msg.gather (v.owner r) h (tableArg h) (leBytes 8 r)).1) s
                .next ((List.range nb).foldl (fun s b =>
                  s.enqueue Cls.gather { job := job, share := 0, req := 0, since := 0, cost := 0, work := .bag k b }) s)
            | _, _ => .next ((s.dmaFailed job).complete c Code.hostDmaError)

/-- The bytes of global row `r` of a version: its own row as the version holds it, another device's as its answer gave it. -/
def State.rowBytes (s : State) (v : TableVer) (remote : List (Nat × List Byte)) (r : Nat) : Option (List Byte) :=
  if v.owner r = s.node then (mget v.rowMap (v.local_ r)).map (·.bytes)
  else ((remote.find? (fun e => e.1 == r)).map (·.2)).filter (fun b => b.length == rowLen v.dim)

/-- The accumulator row of a bag (R312): the elements of `rows`, each with its weight code and exponent. -/
def bagRow (dim : Nat) (er : Int) (rows : List (Nat × Int × List Byte)) : List (BitVec 48) :=
  (List.range dim).map (fun k => rows.foldl (fun (a : BitVec 48) r =>
    a + (termOf r.1 r.2.1 (at_ r.2.2 k 1) (sext 8 (at_ r.2.2 (dim + k / 32) 1)) er).1) 0)

/-- Codes and exponents of re-quantized words, as the device stores them: codes first, then exponents. -/
def l8Bytes (xs : List (Int × Int)) : List Byte :=
  let bs := (List.range (xs.length / 32)).map (fun b => requant true ((xs.drop (32 * b)).take 32))
  bs.flatMap (fun b => b.codes.map (BitVec.ofNat 8)) ++ bs.map (fun b => BitVec.ofInt 8 b.exp)

/-- The bytes of a bag's output (R312). The exponent of a bag without indices is stated nowhere and is free. -/
def bagOut (fmt q : Nat) (er : Int) (row : List (BitVec 48)) : List Byte :=
  let ws := row.map (fun a => (readout a q).1)
  if fmt = 0 then ws.flatMap (fun w => leBytes 4 w.toNat) ++ leBytes 2 (BitVec.ofInt 16 (er + q)).toNat
  else l8Bytes (ws.map (fun w => (w.toInt, er + q)))

/-- A lookup lets go of its version. -/
def State.lookupFree (s : State) (n : Nat) (x : Lookup) : State :=
  let j := x.ctx.job
  let s := { s with lookups := mdel s.lookups n }
  match s.table j x.table with
  | none => s
  | some o => (s.setTable j x.table { o with versions := o.versions.map (fun (v : TableVer) =>
      if v.ver = x.ver then { v with users := v.users - 1 } else v) }).reapTable j x.table

/-- A lookup whose last bag has ended lets go of its version and completes (R313). -/
def State.lookupOver (s : State) (n : Nat) (x : Lookup) : State :=
  if x.left ≠ 0 then { s with lookups := mput s.lookups n x }
  else (s.lookupFree n x).complete x.ctx (if x.failed then Code.tierError else Code.ok)

/-- A gather unit's bag ends (R312, R313). -/
def State.bagEnded (s : State) (n b : Nat) (fail : Bool) (remote : List (Nat × List Byte)) : State :=
  match mget s.lookups n with
  | none => s
  | some x =>
    let x := { x with left := x.left - 1 }
    let v := (s.table x.ctx.job x.table).bind (fun o => o.versions.find? (fun v => v.ver == x.ver))
    match v with
    | none => s.lookupOver n { x with failed := true }
    | some v =>
      let is := (List.range (x.off.getD (b + 1) 0 - x.off.getD b 0)).map (fun i => x.off.getD b 0 + i)
      let n' := x.idx.length
      let rows := is.mapM (fun i => (s.rowBytes v remote (x.idx.getD i 0)).map (fun r =>
        (at_ x.weights i 1, sext 8 (at_ x.weights (n' + i / 32) 1), r)))
      match rows with
      | none => s.lookupOver n { x with failed := true }
      | some rows =>
        if fail then s.lookupOver n { x with failed := true }
        else
          let (k, s) := s.draw
          let wmax : Int := match (rows.map (fun r => r.2.1)).max? with
            | some m => m
            | none => Config.freeNat k
          let er := wmax + v.expCap - 15
          let s := s.wr x.outHbm (x.outAddr + b * bagStride v.dim x.fmt) (bagOut x.fmt x.q er (bagRow v.dim er rows))
          let s := (s.countReg Reg.embStat 0 32 1).countReg Reg.embStat 32 32 rows.length
          s.lookupOver n x

/-- GATHER_REQUEST (R313): the owner answers with the row as its current version holds it. -/
def execGatherRequest (node : Nat) (tag : W32) (table row : Nat) (s : State) : Res := s.ifReady <|
  match s.jobOfTag tag with
  | none => .next (s.dropped 0)
  | some j => match (s.table j table).bind Table.cur with
    | none => .next s
    | some v =>
      if v.owner row ≠ s.node ∨ v.rows ≤ row ∨ v.damaged = true then .next s
      else match mget v.rowMap (v.local_ row) with
        | none => .next s
        | some r => .next (s.send j 6 Msg.response node table (tableArg table) (leBytes 8 row ++ r.bytes)).1

/-! ## Training steps (R314 to R316) -/

/-- Bytes of buffered items of a job: an index and a gradient each. -/
def Job.updBytes (x : Job) : Nat := x.tables.foldl (fun n t => t.2.items.foldl (fun n i => n + 8 + 4 * i.grad.length) n) 0

/-- UPD_BUF for a step: what was in force when its first item came, else what is now. -/
def State.updCap (s : State) (j : Nat) (o : Table) (step : Nat) : Nat :=
  match o.items.find? (fun i => i.step == step) with
  | some i => i.cap
  | none => fld (s.reg (Reg.wlkJob j)) 16 16

/-- The waiting TABLE_STEP is answered and the buffer keeps only later steps. -/
def State.stepOver (s : State) (j h step : Nat) (o : Table) (applied : Bool) : State :=
  let ctx := o.stepWait.map (·.1)
  let o := { o with items := o.items.filter (fun i => decide (step < i.step)), marks := o.marks.filter (fun m => decide (step < m.2)),
                    failed := o.failed.filter (fun f => decide (step < f)), doneStep := some step, stepWait := none,
                    applied := if applied then some step else o.applied }
  let s := (s.setTable j h o).reapTable j h
  let s := if applied then s else s.countReg Reg.embUpd 32 32 1
  s.complete? ctx (if applied then Code.ok else Code.stepIncomplete)

/-- R315, R316: look at a waiting TABLE_STEP: a failed step is discarded, one with every mark is applied by a gather unit. -/
def State.stepLook (s : State) (j h : Nat) : State :=
  match s.table j h with
  | none => s
  | some o => match o.stepWait with
    | some (c, step, some due) =>
      let nodes := (o.cur.map (·.nodes)).getD []
      if o.failed.contains step then s.stepOver j h step o false
      else if nodes.all (fun n => o.marks.contains (n, step)) then
        (s.setTable j h { o with stepWait := some (c, step, none) }).enqueue Cls.gather
          { job := j, share := 0, req := 0, since := 0, cost := 0, work := .apply j h }
      else if due ≤ s.now then s.stepOver j h step o false
      else s
    | _ => s

/-- Buffer items of one source, in order, or mark their step failed when they would overflow UPD_BUF (R314). -/
def State.bufferItems (s : State) (j h step : Nat) (items : List UpdItem) : State × Bool :=
  match s.table j h with
  | none => (s, true)
  | some o =>
    let cap := s.updCap j o step
    let more := items.foldl (fun n i => n + 8 + 4 * i.grad.length) 0
    if cap * 2 ^ 20 < (s.job j).updBytes + more then
      let o := { o with failed := if o.failed.contains step then o.failed else step :: o.failed }
      ((s.setTable j h o).stepLook j h, false)
    else (s.setTable j h { o with items := o.items ++ items.map (fun (i : UpdItem) => { i with cap := cap }) }, true)

def kTableUpdate : Kind := { code := 0x0609, since := 1, cwell := none, keys := false, preempt := false, fields := tableFields }

/-- TABLE_UPDATE (R314): each item goes to the owner of its row. -/
def execTableUpdate (job well : Nat) (d : Desc) (s : State) : Res :=
  s.takeUp kTableUpdate job well d fun c s =>
    let h := dfld d 16 0 16; let step := dfld d 20 0 32; let n := dfld d 40 0 32; let lr := BitVec.ofNat 32 (dfld d 44 0 32)
    match s.bindTable job h with
    | .error e => .next (s.complete c e)
    | .ok (o, v) =>
      let item := 8 + 4 * v.dim
      if o.applied.any (fun a => decide (step ≤ a)) then .next (s.complete c Code.stepStale)
      else if !s.addrOk job d 24 (item * n) then .next (s.complete c Code.badAddress)
      else match s.fetch d 24 (item * n) with
        | none => .next ((s.dmaFailed job).complete c Code.hostDmaError)
        | some bs =>
          let ks := (List.range n).map (fun k => (at_ bs (item * k) 8, item * k))
          if !ks.all (fun k => decide (k.1 < v.rows)) then .next (s.complete c Code.badLookup)
          else
            let grad (at0 : Nat) : List W32 := (List.range v.dim).map (fun i => BitVec.ofNat 32 (at_ bs (at0 + 8 + 4 * i) 4))
            let mine := (ks.filter (fun k => v.owner k.1 == s.node)).map (fun k =>
              ({ node := s.node, step := step, row := v.local_ k.1, lr := lr, grad := grad k.2, ver := v.ver, cap := 0 } : UpdItem))
            let (s, fits) := s.bufferItems job h step mine
            if !fits then .next (s.complete c Code.updateFull)
            else
              let s := (ks.filter (fun k => v.owner k.1 != s.node)).foldl (fun s k =>
                (s.send job 5 Msg.update (v.owner k.1) h (tableArg h) (leBytes 4 step ++ leBytes 4 lr.toNat ++ sub bs k.2 item)).1) s
              .next (s.complete c Code.ok)

/-- UPDATE_ITEM (R314): an item of another device reaches the owner of its row. -/
def execUpdateItem (node : Nat) (tag : W32) (table step row : Nat) (lr : W32) (grad : List W32) (s : State) : Res := s.ifReady <|
  match s.jobOfTag tag with
  | none => .next (s.dropped 0)
  | some j => match s.table j table with
    | none => .next s
    | some o => match o.cur with
      | none => .next s
      | some v =>
        if v.owner row ≠ s.node ∨ v.rows ≤ row ∨ grad.length ≠ v.dim ∨ o.applied.any (fun a => decide (step ≤ a)) = true then .next s
        else .next (s.bufferItems j table step
          [{ node := node, step := step, row := v.local_ row, lr := lr, grad := grad, ver := v.ver, cap := 0 }]).1

def kTableStep : Kind := { code := 0x060A, since := 1, cwell := none, keys := false, preempt := false, fields := tableFields }

/-- TABLE_STEP (R315, R316): steps come in ascending order, one at a time; the mark goes to every device of the group. -/
def execTableStep (job well : Nat) (d : Desc) (s : State) : Res :=
  s.takeUp kTableStep job well d fun c s =>
    let h := dfld d 16 0 16; let step := dfld d 20 0 32; let us := dfld d 44 0 32
    match s.bindTable job h with
    | .error e => .next (s.complete c e)
    | .ok (o, v) =>
      if 2 ≤ v.nodes.length ∧ (s.job job).fabGroups.any (fun g => g.2.failed && v.nodes.all (fun n => g.2.nodes.contains n)) = true then
        .next (s.complete c Code.ckptGroupFailed)
      else if o.stepWait.isSome ∨ o.doneStep.any (fun n => step != n + 1) = true then .next (s.complete c Code.stepStale)
      else
        let s := (v.nodes.filter (· != s.node)).foldl (fun s n => (s.send job 5 Msg.mark n h (tableArg h) (leBytes 4 step)).1) s
        .next ((s.setTable job h { o with stepWait := some (c, step, some (s.now + us)), marks := (s.node, step) :: o.marks }).stepLook job h)

/-- STEP_MARK (R315). -/
def execStepMark (node : Nat) (tag : W32) (table step : Nat) (s : State) : Res := s.ifReady <|
  match s.jobOfTag tag with
  | none => .next (s.dropped 0)
  | some j => match s.table j table with
    | none => .next s
    | some o =>
      if o.marks.contains (node, step) ∨ o.doneStep.any (fun n => decide (step ≤ n)) = true then .next s
      else .next ((s.setTable j table { o with marks := (node, step) :: o.marks }).stepLook j table)

/-- STEP_BUDGET_TIMER (R316). -/
def execStepBudgetTimer (job table step : Nat) (s : State) : Res := s.ifReady <|
  match s.table job table with
  | none => .next s
  | some o => match o.stepWait with
    | some (_, n, some _) => if n = step then .next (s.stepLook job table) else .next s
    | _ => .next s

/-- A row of codes and exponents as binary32 (R99), and back with EXP_CAP as the largest exponent (R97). -/
def rowFloats (dim : Nat) (r : List Byte) : List Nat :=
  (List.range dim).map (fun k => (codeToFloat binary32 (at_ r k 1) (sext 8 (at_ r (dim + k / 32) 1))).1)
def rowCodes (dim : Nat) (cap : Int) (xs : List Nat) : List Byte :=
  let bs := (List.range (dim / 32)).map (fun b => requantTo cap true (((xs.drop (32 * b)).take 32).map (fun x => (requantInput binary32 x).1)))
  bs.flatMap (fun b => b.codes.map (BitVec.ofNat 8)) ++ bs.map (fun b => BitVec.ofInt 8 b.exp) ++ zeros (rowLen dim - dim - dim / 32)

/-- One source's part of a step on one row (R315): `items` are that source's for the row, in issue order. -/
def applySource (dim : Nat) (cap : Int) (row : List Byte) (items : List UpdItem) : List Byte :=
  match items.getLast? with
  | none => row
  | some last =>
    let g := items.foldl (fun (g : List Nat) i => g.zipWith (fun a b => (binary32.add a b).1) (i.grad.map (·.toNat))) (List.replicate dim 0)
    rowCodes dim cap ((rowFloats dim row).zipWith (fun x g => (binary32.sub x (binary32.mul last.lr.toNat g).1).1) g)

/-- A row after every source of a step, in ascending node order. -/
def applyRow (v : TableVer) (items : List UpdItem) (row : List Byte) : List Byte :=
  let nodes := sortBy (fun a b => decide (a ≤ b)) (items.map (·.node)).eraseDups
  nodes.foldl (fun r n => applySource v.dim v.expCap r (items.filter (fun i => i.node == n))) row

/-- Entries in a job's migration logs. -/
def Job.migLog (x : Job) : Nat :=
  x.tables.foldl (fun n t => t.2.versions.foldl (fun n v => v.rowMap.foldl (fun n e => n + e.2.log) n) n) 0

/-- Complete the MIGRATE_ROWS of a table whose rows are all done with (R317, R318). -/
def State.migLook (s : State) (j h : Nat) : State :=
  match s.table j h with
  | none => s
  | some o =>
    let done := o.migWait.filter (fun w => w.2.2.1.isEmpty)
    let s := s.setTable j h { o with migWait := o.migWait.filter (fun w => !w.2.2.1.isEmpty) }
    (done.foldl (fun s w => s.complete w.1 (if w.2.2.2.2 then Code.tierError else if w.2.2.2.1 then Code.rowBusy else Code.ok)) s).reapTable j h

/-- A migrating row is done with: `skip` says it counts as skipped, `bad` that its copy failed. -/
def Table.rowDone (o : Table) (ver row : Nat) (skip bad : Bool) : Table :=
  { o with migWait := o.migWait.map (fun (w : DescCtx × Nat × List Nat × Bool × Bool) =>
      if w.2.1 = ver ∧ w.2.2.1.contains row = true then (w.1, w.2.1, w.2.2.1.erase row, w.2.2.2.1 || skip, w.2.2.2.2 || bad) else w) }

/-- A gather unit's step application ends: every touched row of every bound version is replaced (R315); a migrating row's log
takes the step, or the row stops migrating (R317). -/
def State.applyEnded (s : State) (j h : Nat) : State :=
  match s.table j h with
  | none => s
  | some o => match o.stepWait with
    | some (_, step, none) =>
      let items := o.items.filter (fun i => i.step == step)
      let s := o.versions.foldl (fun s v =>
        let its := items.filter (fun i => i.ver == v.ver)
        (sortBy (fun a b => decide (a ≤ b)) (its.map (·.row)).eraseDups).foldl (fun s r =>
          match s.table j h with
          | none => s
          | some o => match o.versions.find? (fun y => y.ver == v.ver) with
            | none => s
            | some v => match mget v.rowMap r with
              | none => s
              | some row =>
                let row := { row with bytes := applyRow v (its.filter (fun i => i.row == r)) row.bytes }
                let (row, o) := match row.migrating with
                  | none => (row, o)
                  | some (_, _, lim) =>
                    if lim ≤ (s.job j).migLog then ({ row with migrating := none, dest := 0, log := 0 }, o.rowDone v.ver r true false)
                    else ({ row with log := row.log + 1 }, o)
                let s := s.rowWrite j v row.tier row.region row.offset row.bytes
                (s.setTable j h (o.setVer { v with rowMap := mput v.rowMap r row })).countReg Reg.embUpd 0 32 1) s) s
      match s.table j h with
      | none => s
      | some o => (s.stepOver j h step o true).migLook j h
    | _ => s

/-! ## Migrating rows (R317, R318) -/

def kMigrateRows : Kind := { code := 0x060B, since := 2, cwell := none, keys := false, preempt := false, fields := tableFields }

/-- MIGRATE_ROWS (R317). -/
def execMigrateRows (job well : Nat) (d : Desc) (s : State) : Res :=
  s.takeUp kMigrateRows job well d fun c s =>
    let h := dfld d 16 0 16; let n := dfld d 40 0 32; let tier := dfld d 56 0 2; let region := if tier = 3 then dfld d 57 0 8 else 0
    match s.bindTable job h with
    | .error e => .next (s.complete c e)
    | .ok (_, v) =>
      if tier = 0 then .next (s.complete c Code.badTarget)
      else if tier = 3 ∧ (mget (s.job job).regions region).isNone then .next (s.complete c Code.badRegion)
      else if !s.addrOk job d 24 (8 * n) then .next (s.complete c Code.badAddress)
      else match s.fetch d 24 (8 * n) with
        | none => .next ((s.dmaFailed job).complete c Code.hostDmaError)
        | some bs =>
          let rows := (List.range n).map (fun k => at_ bs (8 * k) 8)
          if !rows.all (fun r => (mget v.rowMap r).isSome) then .next (s.complete c Code.badLookup)
          else
            let busy (r : Nat) : Bool := (mget v.rowMap r).any (fun e => e.migrating.isSome)
            let go := (rows.filter (fun r => !busy r)).eraseDups
            let skipped := decide (go.length < rows.length)
            let lim := fld (s.reg (Reg.wlkJob job)) 32 16
            let had := v.grains
            let v := go.foldl (fun (v : TableVer) r =>
              { v with rowMap := mchange v.rowMap r (fun e => { e with migrating := some (tier, region, lim), dest := v.freeOffset tier region, log := 0 }) }) v
            let room : Except Nat (TableVer × State) :=
              if tier = 1 then
                if s.roomAfter job had v.grains then .ok (v, s) else .error Code.indexNoRoom
              else
                let need := v.rowsIn tier region; let has := v.roomIn tier region
                if need ≤ has then .ok (v, s)
                else match s.areaTake job tier region (grainsOf ((need - has) * rowLen v.dim + 16384)) [] with
                  | .error e => .error e
                  | .ok (a, s) => .ok ({ v with areas := v.areas ++ [a] }, s)
            match room with
            | .error e => .next (s.complete c e)
            | .ok (v, s) =>
              match s.table job h with
              | none => .next (s.complete c Code.noTable)
              | some o =>
                let o := { o.setVer v with migWait := o.migWait ++ [(c, v.ver, go, skipped, false)] }
                .next ((s.setTable job h o).migLook job h)

/-- ROW_COPY_DONE (R317, R318): the copy takes the place held for it; the log is replayed into the copy, so that it equals the old location, and the row-map entry changes in one
write; a failed copy leaves the old location authoritative. -/
def execRowCopyDone (job table row : Nat) (ok : Bool) (s : State) : Res := s.ifReady <|
  match s.table job table with
  | none => .next s
  | some o =>
    match o.versions.find? (fun v => (mget v.rowMap row).any (fun e => e.migrating.isSome)) with
    | none => .next s
    | some v => match mget v.rowMap row with
      | none => .next s
      | some e => match e.migrating with
        | none => .next s
        | some (t, r, _) =>
          let e' : TableRow := if ok then { tier := t, region := r, offset := e.dest, bytes := e.bytes } else { e with migrating := none, dest := 0, log := 0 }
          let olds := if ok then v.olds ++ [(e.tier, e.region, e.offset, s.nextWork)] else v.olds
          let s := if ok then s.rowWrite job v t r e.dest e.bytes else s
          let o := (o.setVer { v with rowMap := mput v.rowMap row e', olds := olds }).rowDone v.ver row false (!ok)
          .next ((s.setTable job table { o with migEpoch := if ok then o.migEpoch + 1 else o.migEpoch }).migLook job table)

/-! ## Document embedding (R319, R320) -/

/-- Documents packed into length tables: at most 4,096 entries and `room` rows each, in order (R185, R319). -/
def packDocs (room : Nat) (docs : List (List Nat)) : List (List StepEntry) :=
  (docs.foldl (fun (st : List (List StepEntry)) ts =>
    if ts.isEmpty then st
    else
      let cur := st.getLastD []
      let row0 := cur.foldl (fun n e => n + e.tokens.length) 0
      let entry (r : Nat) : StepEntry :=
        { req := 0, tokens := ts, pos := 0, spec := 0, sel := false, ctx := 0, row0 := r, samples := false, closing := false, noKv := false, bidir := true }
      if st.isEmpty ∨ cur.length = 4096 ∨ room < row0 + ts.length then st ++ [[entry 0]]
      else st.dropLast ++ [cur ++ [entry row0]]) [])

/-- The rows of a document through every layer (R187, R195). -/
def docRows (m : Model) (toks : List Nat) : List RowKey :=
  let keys := toks.zipIdx.map (fun t => ({ model := m.digest, adapter := [], tok := t.1, pos := t.2, outs := [] } : RowKey))
  (stepRows m { train := false, bidir := true, sel := none, reads := false } [] none keys m.layers).keys

/-- A final row as W32 words with their exponent (R94). -/
def finalWords (m : Model) (k : RowKey) : List (Int × Int) :=
  (List.range m.width).map (fun i => ((Config.finalWord k i).toInt, (Config.finalExp k).toInt))

/-- The pooled vector of a document as W32 words with their exponents (R320): the mean under R312, with the weight fl32(1 / n) in L8, or the first or
last row. R312's EXP_CAP and shift have no value for pooling: both are free constants of the model (log entry 52). -/
def pooled (m : Model) (keys : List RowKey) : List (Int × Int) :=
  if m.pooling = 1 then (keys.head?.map (finalWords m)).getD []
  else if m.pooling = 2 then (keys.getLast?.map (finalWords m)).getD []
  else
    let w := requant true [(requantInput binary32 (Fmt.div binary32 0x3F800000 (binary32.ofInt (keys.length : Nat) 0).1)).1]
    let rows := keys.map (fun k =>
      let bs := finalRow m k
      (w.codes.headD 0, w.exp, bs.flatMap (fun b => b.1.map (BitVec.ofNat 8)) ++ bs.map (fun b => BitVec.ofInt 8 b.2)))
    let er := w.exp + (Config.poolCap m.digest).toInt - 15; let q := (Config.poolShift m.digest).val
    (bagRow m.width er rows).map (fun a => ((readout a q).1.toInt, er + q))

/-- A document's vector: L8 codes then exponents, or binary32. A document without tokens has no rows: R320 states no vector, and its bytes are free. -/
def docVector (m : Model) (wide : Bool) (draw : Nat) (toks : List Nat) : List Byte :=
  if toks.isEmpty then (List.range (if wide then 4 * m.width else m.width + m.width / 32)).map (Config.openByte draw)
  else
    let xs := pooled m (docRows m toks)
    if wide then xs.flatMap (fun x => leBytes 4 (binary32.ofInt x.1 x.2).1) else l8Bytes xs

def kEmbedDocs : Kind :=
  { code := 0x060C, since := 1, cwell := some 192, keys := false, preempt := false,
    fields := [(128, 8), (136, 2), (144, 16), (160, 17), (192, 4), (256, 64), (320, 64)] }

/-- EMBED_DOCS (R319, R320, R439). A pretokenized identifier beyond the vocabulary is unpredictable (job), as in SUBMIT_TURN (R33, log entry 5). -/
def execEmbedDocs (job well : Nat) (d : Desc) (s : State) : Res :=
  s.takeUp kEmbedDocs job well d fun c s =>
    let mh := dfld d 16 0 8; let pre := bit d 136; let wide := bit d 137; let n := dfld d 18 0 16; let mt := dfld d 20 0 17
    let most := if mt = 0 then 512 else mt
    match s.modelOf job mh with
    | none => .next (s.complete c Code.modelNotLoaded)
    | some m =>
      let vocab := (mget (s.job job).vocabs mh).bind ByteObj.cur
      let vec := if wide then 4 * m.width else m.width + m.width / 32
      let stride := cdiv (16 + vec) 64 * 64
      match firstFail [
        (!m.damaged, Code.modelDamaged),
        (m.encoder, Code.shapeUnsupported),
        (n != 0 && decide (mt ≤ 65536) && daddr d 40 % 64 == 0, Code.badParams),
        (pre || vocab.isSome, Code.noVocab),
        (pre || !vocab.any (·.damaged), Code.objectDamaged),
        (s.addrOk job d 32 (16 * n) && s.addrOk job d 40 (stride * n), Code.badAddress),
        (!(s.job job).conf || dhbm d 40, Code.confHostWrite)] with
      | some e => .next (s.complete c e)
      | none => match s.fetch d 32 (16 * n) with
        | none => .next ((s.dmaFailed job).complete c Code.hostDmaError)
        | some ls =>
          let docs := (List.range n).map (fun k =>
            let a := at_ ls (16 * k) 8
            let len := at_ ls (16 * k + 8) 4
            (decide (2 ^ 63 ≤ a), a % 2 ^ 63, if pre then 4 * len else len))
          if !docs.all (fun x => !s.badAddr job x.1 x.2.1 x.2.2) then .next (s.complete c Code.badAddress)
          else match docs.mapM (fun x => s.rd x.1 x.2.1 x.2.2) with
            | none => .next ((s.dmaFailed job).complete c Code.hostDmaError)
            | some texts =>
              let toks := texts.map (fun b => if pre then (List.range (b.length / 4)).map (fun k => at_ b (4 * k) 4)
                else tokenize ((vocab.map (·.image)).getD []) b)
              let (k, s) := s.draw
              let s := toks.zipIdx.foldl (fun s e =>
                let kept := e.1.take most
                let head := leBytes 4 kept.length ++ [BitVec.ofNat 8 (b2n (decide (most < e.1.length)))] ++ zeros 11
                s.wr (dhbm d 40) (daddr d 40 + stride * e.2) (head ++ docVector m wide k kept)) s
              let steps := packDocs (s.stepRows job) (toks.map (·.take most))
              let rows := toks.foldl (fun r ts => r + (ts.take most).length) 0
              let s := (s.countReg Reg.stepStat 0 32 steps.length).countReg Reg.stepStat 32 32 rows
              let s : State := match steps.getLast? with
                | some es => { s with serving := mput s.serving mh { mgetD s.serving mh {} with table := tableBytes mh (es.map (fun e => (e, 0))) } }
                | none => s
              let s := ({ s with models := mchange s.models mh (fun m => { m with lastStep := s.now }) } : State).complete c Code.ok
              Res.spoilIf (.next s) (pre && toks.any (fun ts => ts.any (fun t => decide (m.vocab ≤ t)))) job

end Sys2Proof.Machine
end

