-- ==== Sys2Proof/Machine/Jobs.lean ====
section
/-!
DEFINITION. Sys2Proof/Machine/Jobs.lean: creating, destroying and recomposing jobs (12_jobs_slices_sharing, R323 to R333).
-/
namespace Sys2Proof.Machine

open Sys2Proof

/-! ERR of SCH_SLICE_STAT (Table 12.7). -/
def JobErr.ok := 0
def JobErr.conflict := 1
def JobErr.groupInUse := 2
def JobErr.noRoom := 3
def JobErr.bad := 4
def JobErr.notEmpty := 5
def JobErr.reset := 6

def State.setJobErr (s : State) (j e : Nat) : State := s.modJob j (fun x => { x with err := e })

/-- Offsets of a job's plain registers in every block. -/
def jobRegOffsets (j : Nat) : List Nat :=
  [Reg.jobServe j, Reg.jobPause j, Reg.jobSlack j, Reg.sgAcct j, Reg.jobQuota j, Reg.jobTtl j, Reg.jobEvict j, Reg.jobPolicy j,
   Reg.jobBudget j, Reg.jobT1 j, Reg.jobText j, Reg.wlkJob j, Reg.jobTag j, Reg.ckpJob j, Reg.ckpJobStat j] ++
  (List.range 8).flatMap (fun c => [Reg.share j c, Reg.dedicate j c, Reg.acct j c]) ++
  (List.range 32).map (fun k => Reg.slice j + 8 * k)

/-- The shapers of a job (R340). -/
def jobShapers (j : Nat) : List Nat :=
  (List.range 16).map (shaperKey .well j) ++ [shaperKey .pump j 0] ++ (List.range 32).map (shaperKey .egress j)

/-- CREATE (R323, R335, R440): `v` is the value written to SCH_JOB_CTL, with CREATE alone. -/
def execCreate (job : Nat) (v : W64) (s : State) : Res := s.ifUp <|
  if (s.job job).active then .next (s.setJobErr job JobErr.bad)
  else if bit v 5 && s.sec.debugSeen then .next (s.setJobErr job JobErr.bad)
  else
    let x : Job := { active := true, conf := bit v 5, func := fld v 8 6 }
    let s := s.setJob job x
    let offs := jobRegOffsets job
    let s := { s with
      regs := s.regs.filter (fun (e : Nat × W64) => !offs.contains e.1)
      shapers := s.shapers.filter (fun (e : Nat × Shaper) => !(jobShapers job).contains e.1)
      pools := s.pools.map (fun (e : Nat × Pool) => (e.1, { e.2 with deficit := mdel e.2.deficit job, est := mdel e.2.est job, lastShare := mdel e.2.lastShare job }))
      sec := { s.sec with confActive := s.sec.confActive || x.conf, debugLock := s.sec.debugLock || x.conf } }
    .next s.rebind

/-- Every part of a slice is empty (R324). SLOTS is never empty. -/
def Slice.isEmpty (x : Slice) : Bool := x.groups == 0 && x.serve == 0 && x.pc == 0 && x.ports == 0

/-- The job holds a loaded object or a T3 region. -/
def State.holdsObjects (s : State) (j : Nat) : Bool :=
  let x := s.job j
  s.models.any (fun e => e.2.job == j) || x.adapters.any (fun e => !e.2.versions.isEmpty) || x.vocabs.any (fun e => !e.2.versions.isEmpty) ||
    x.grammars.any (fun e => !e.2.versions.isEmpty) || x.indexes.any (fun e => !e.2.versions.isEmpty) ||
    x.filters.any (fun e => !e.2.versions.isEmpty) || x.tables.any (fun e => !e.2.versions.isEmpty) || !x.regions.isEmpty

/-- DESTROY (R324, R441). A recomposition under way, which can only be adding to the empty slice, ends with the job (DESIGN CHOICE, log entry 53). -/
def execDestroy (job : Nat) (s : State) : Res := s.ifUp <|
  let x := s.job job
  if !x.active then .next (s.setJobErr job JobErr.bad)
  else if !x.slice.isEmpty || s.sessCount job != 0 || s.holdsObjects job || s.progs.any (fun e => e.2.ctx.job == job) then
    .next (s.setJobErr job JobErr.notEmpty)
  else
    let y : Job := { x with active := false, err := JobErr.ok, want := none, keys := {}, fabGroups := [], passMaps := [], slice := { x.slice with dedicate := [0, 0, 0, 0, 0] } }
    let s := s.setJob job y
    let offs := (List.range 8).map (Reg.dedicate job)
    .next { s with
      regs := s.regs.filter (fun (e : Nat × W64) => !offs.contains e.1)
      shapers := s.shapers.map (fun (e : Nat × Shaper) => if (jobShapers job).contains e.1 then (e.1, { e.2 with cfg := setFld e.2.cfg 63 1 0 }) else e)
      sec := { s.sec with confActive := s.jobs.any (fun (e : Nat × Job) => e.2.active && e.2.conf) } }

/-! ## Recomposing -/

/-- The composition the request registers ask for (Table 12.5). -/
def State.wanted (s : State) (j : Nat) : Slice :=
  let r (o : Nat) : W64 := s.reg (Reg.slice j + o)
  { groups := r 0x10, serve := r 0x18,
    pc := BitVec.ofNat 256 ((List.range 4).foldl (fun n k => n + (r (0x20 + 8 * k)).toNat <<< (64 * k)) 0),
    ports := (r 0x40).setWidth 32, slots := (r 0x48).setWidth 48, dedicate := (List.range 5).map (fun c => s.reg (Reg.dedicate j c)) }

/-- The die of a core group and of a pseudo-channel. -/
def groupDie (g : Nat) : Nat := g / 32
def pcDie (p : Nat) : Nat := p / 128

/-- BAD of R329. -/
def badSlice (conf : Bool) (w : Slice) : Bool :=
  (w.serve &&& ~~~w.groups) != 0 ||
    (ones w.groups).any (fun g => !(ones w.pc).any (fun p => pcDie p == groupDie g)) || w.slots == 0 ||
    (w.serve != 0 && decide (popcnt w.slots < 16)) ||
    w.dedicate.zipIdx.any (fun e => e.1 >>> instances e.2 != 0 && decide (instances e.2 < 64)) || (conf && w.dedicate.any (· == 0))

/-- A slice holds something that a request of another job cannot have: a pseudo-channel, a dedicated instance, or, where one of the
two is confidential, a core group or a port. -/
def Slice.excludes (x w : Slice) (conf : Bool) : Bool :=
  (x.pc &&& w.pc) != 0 || (conf && ((x.groups &&& w.groups) != 0 || (x.ports &&& w.ports) != 0)) ||
    (x.dedicate.zip w.dedicate).any (fun d => (d.1 &&& d.2) != 0)

/-- CONFLICT of R329, against the slices of the other jobs and against what their recompositions under way are adding (DEDUCED: else
two slices would hold one pseudo-channel). A dedicated instance serves one job alone. -/
def State.sliceConflict (s : State) (j : Nat) (w : Slice) : Bool :=
  s.jobs.any (fun e => e.1 != j && e.2.active &&
    (e.2.slice.excludes w (e.2.conf || (s.job j).conf) || (match e.2.want with
      | none => false
      | some x => x.excludes w (e.2.conf || (s.job j).conf))))

/-- The places that a recomposition from `x` to `w` takes from a job: T0 of removed groups and slots, T1 of removed pseudo-channels (R328, R331, R332). -/
def Slice.leaves (x w : Slice) (a : W64) : Bool :=
  (gTier a == 0 && ((x.groups &&& ~~~w.groups).getLsbD (coreGroup (t0Core a)) || (x.slots &&& ~~~w.slots).getLsbD (t0Slot a))) ||
    (gTier a == 1 && (x.pc &&& ~~~w.pc).getLsbD (t1Pc a))

/-- R329: the first cause to refuse a request, in its order, or 0. The T0 grains that move to T1 count too (DEDUCED from R333: no grain is
lost). -/
def State.recomposeErr (s : State) (j : Nat) (w : Slice) : Nat :=
  let x := s.job j
  let gone := x.slice.groups &&& ~~~w.groups
  if badSlice x.conf w then JobErr.bad
  else if s.sliceConflict j w then JobErr.conflict
  else if s.progs.any (fun e => e.2.ctx.job == j && (e.2.mask &&& gone) != 0) then JobErr.groupInUse
  else if s.hbmGrains w.pc < s.t1Used j + ((s.heldGrains.filter (fun h => h.entry.job == j && gTier h.grain.addr == 0 && x.slice.leaves w h.grain.addr)).length) +
      s.contextGrains j w + s.objectGrains j then JobErr.noRoom
  else JobErr.ok

/-- A recomposition is under way. -/
def Job.busy (x : Job) : Bool := x.want.isSome

/-- RECOMPOSE (R324, R329, R330): firmware checks the request, in the order of the writes, and starts to carry it out; until it
commits, what it removes stays in the old slice. -/
def execRecompose (job : Nat) (s : State) : Res := s.ifUp <|
  let x := s.job job
  if !x.active then .next (s.setJobErr job JobErr.bad)
  else if x.busy then .next (s.modJob job (fun x => { x with ignored := true }))
  else
    let w := s.wanted job
    let e := s.recomposeErr job w
    .next (s.modJob job (fun x => { x with err := e, want := if e = JobErr.ok then some w else none }))

/-- Move the grains of a list that lie where a recomposition takes them from to the job's T1 (R331 step 4, R332 step 1); with `same`, to
another bank of the same pseudo-channel (R485). -/
def State.relocate (s : State) (j : Nat) (bad : W64 → Bool) (gs : List SGrain) (same : Bool := false) : List SGrain × State :=
  gs.foldl (fun (r : List SGrain × State) g =>
    if !bad g.addr then (r.1 ++ [g], r.2)
    else
      let used := r.2.allGrains.map (fun e => e.2.addr) ++ r.1.map (·.addr)
      let (a, s) := if same then
          let (n, s) := r.2.draw
          (s.t1Free used (t1Pc g.addr) (Config.freeNat n), s)
        else r.2.t1Alloc j used none
      (r.1 ++ [{ g with addr := a.getD g.addr }], s)) ([], s)

/-- Move every grain of the job's sessions, requests, moves and inbound transfers. Roots follow (R59). -/
def State.relocateAll (s : State) (j : Nat) (bad : W64 → Bool) (same : Bool := false) : State :=
  let s := s.sessions.foldl (fun s (e : Nat × Session) =>
    if e.2.job != j || !(e.2.grains.any (fun g => bad g.addr)) then s
    else
      let (gs, s) := s.relocate j bad e.2.grains same
      s.modSess e.1 (fun x => { x with grains := gs, root := if bad x.root then mapRoot gs else x.root })) s
  let s := s.reqAux.foldl (fun s (e : Nat × ReqAux) =>
    if (s.req e.1).job != j || !(e.2.work.any (fun g => bad g.addr)) then s
    else
      let (gs, s) := s.relocate j bad e.2.work same
      s.modRaux e.1 (fun a => { a with work := gs })) s
  let s := s.sessAux.foldl (fun s (e : Nat × SessAux) => match e.2.move with
    | none => s
    | some m =>
      if (s.sess e.1).job != j || !(m.grains.any (fun g => bad g.addr)) then s
      else
        let (gs, s) := s.relocate j bad m.grains same
        s.modAux e.1 (fun a => { a with move := some { m with grains := gs, dest := if bad m.dest then mapRoot gs else m.dest } })) s
  s.fabric.xfers.foldl (fun s (e : Nat × Xfer) =>
    if e.2.job != j || e.2.outbound || !(e.2.grains.any (fun g => bad g.addr)) then s
    else
      let (gs, s) := s.relocate j bad e.2.grains same
      { s with fabric := { s.fabric with xfers := mchange s.fabric.xfers e.1 (fun x => { x with grains := gs }) } }) s

/-- A group leaves a job's slice at a commit (R331 step 6): in no other slice it goes to OFF; else it passes to a job that holds it. -/
def State.dropGroup (s : State) (j g : Nat) : State :=
  let others := s.jobs.filter (fun e => e.1 != j && e.2.active && e.2.slice.groups.getLsbD g)
  let s := match others with
    | [] => (s.groupOff g).setGroup g { (s.groupOff g).group g with job := 64 }
    | (b, _) :: _ => if (s.group g).job = j then s.switchGroup g b else s
  s.setGroup g { s.group g with saved := mdel (s.group g).saved j }

/-- SEQ_WIN of the sequencers of a pseudo-channel, as firmware sets it (R326). A user context that comes to a job starts anew: it runs nothing that
another job loaded, and shows nothing of it (DEDUCED from R217 and R332). -/
def State.setWindow (s : State) (p : Nat) (j : Option Nat) : State :=
  (List.range 4).foldl (fun s k =>
    let n := 4 * p + k
    let q := s.seq n
    let w : W64 := match j with
      | none => setFld q.win 6 1 0
      | some j => BitVec.ofNat 64 (j + 1 <<< 6 + s.devRg <<< 8 + 1429 <<< 19)
    let q := if j.isSome then { ({ q.endSegment false with user := {} } : Seq) with ctl := 0, out := [], busyGo := false, busyWr := false } else q
    s.setSeq n { q with win := w }) s

/-- Job rows of a pseudo-channel are zeroed (R332 step 2). -/
def State.zeroPc (s : State) (gone : BitVec 256) : State :=
  { s with hbm := s.hbm.filter (fun (c : Host.Cell) => !(gone.getLsbD (c.1 / 2 ^ 20 % 256) && decide (s.devRg ≤ c.1 / 2 ^ 28 ∧ c.1 < hbmEnd))) }

/-- RECOMPOSE_COMMIT (R331, R332): once the removed groups are at a boundary, grains have moved, rows are zeroed, and the new maps
are written: EPOCH rises and BUSY clears. Firmware brings the groups it adds to RUN (R126). -/
def execRecomposeCommit (job : Nat) (s : State) : Res := s.ifReady <|
  let x := s.job job
  match x.want with
  | none => .next s
  | some w =>
    let goneG := x.slice.groups &&& ~~~w.groups
    let gonePc := x.slice.pc &&& ~~~w.pc
    let steps := s.serving.any (fun e => e.2.running && (mget s.models e.1).any (fun m => m.job == job))
    let segs := s.seqs.any (fun e => e.2.running.isSome && e.2.owned && e.2.winJob == job)
    if (goneG != 0 || gonePc != 0) && (steps || segs || s.progs.any (fun e => e.2.ctx.job == job && (e.2.mask &&& goneG) != 0)) then .next s
    else
      let s := s.relocateAll job (x.slice.leaves w)
      let s := if gonePc = 0 then s else s.zeroPc gonePc
      let servesLost := (x.slice.serve &&& goneG) != 0
      let s := if servesLost then { s with
          models := s.models.map (fun (e : Nat × Model) => if e.2.job = job then (e.1, { e.2 with resident := false }) else e) }
        else s
      let s := s.modJob job (fun y => { y with
        slice := w, want := none, epoch := y.epoch + 1
        adapters := if servesLost then y.adapters.map (fun (e : Nat × Adapter) =>
          (e.1, { e.2 with versions := e.2.versions.map (fun (v : AdapterVer) => { v with resident := false }) })) else y.adapters })
      let s := (ones goneG).foldl (fun s g => s.dropGroup job g) s
      let s := (ones (w.groups &&& ~~~x.slice.groups)).foldl (fun s g => s.claimGroup g job) s
      let s := (ones gonePc).foldl (fun s p => s.setWindow p none) s
      let s := (ones (w.pc &&& ~~~x.slice.pc)).foldl (fun s p => s.setWindow p (some job)) s
      let s := (List.range 5).foldl (fun s c => s.dispatch c) s
      .next s

end Sys2Proof.Machine
end

