-- ==== Sys2Proof/Machine/Own.lean ====
section
/-!
DEFINITION. Sys2Proof/Machine/Own.lean: ownership transfers, peer extents and split turns (13_nolmus_fabric, R364 to R373). A command
here stands for a message that has come through R351, R358 and R359.
-/
namespace Sys2Proof.Machine

open Sys2Proof

/-- A message about transfer `t` that belongs to no job of this device: it carries the tag it was asked with. -/
def State.ownRaw (s : State) (t dst type : Nat) (tag : W32) (data : List Byte) : State :=
  let key := dst * 8 + 1
  let n := mgetD s.fabric.sendSeq key 0 + 1
  let p : Packet := { dst := dst, src := s.node, vc := 1, enc := false, type := type, tag := tag, flow := flowOfTransfer t, hops := 32,
                      arg := BitVec.ofNat 64 t, seq := 1 <<< 61 + n % 2 ^ 61, data := data }
  ({ s with fabric := { s.fabric with sendSeq := mput s.fabric.sendSeq key n } }).place p none 0

/-- The node that sent a transfer (R364). -/
def xferNode (t : Nat) : Nat := t % 65536

/-- An inbound transfer that is refused or was answered with NOT_MINE (R365). -/
def State.refuseXfer (s : State) (t : Nat) : State :=
  match s.xfer t with
  | some x =>
    let s := if x.phase = .receiving ∧ gTier x.root = 2 then s.flashFree (gAddr x.root) x.total else s
    s.setXfer t { x with phase := .refused, grains := [], reqGrain := none, root := gAbsent }
  | none => s.setXfer t
      { outbound := false, session := 0, epoch := 0, peer := xferNode t, phase := .refused, since := s.now, offeredAt := s.now, queries := 0, waitIn := false,
        total := 0, got := 0, msg := none, grains := [], carry := {}, reqGrain := none, job := 64, req := 0, ctx := none, turn := none, phaseUs := 0 }

/-! ## Receiving a session -/

/-- The model of a job with a digest. -/
def State.modelByDigest (s : State) (j : Nat) (digest : BitVec 256) (pairs : Nat) : Option (Nat × Model) :=
  s.models.find? (fun e => e.2.job == j && e.2.digest == digest && e.2.layers * e.2.kvh == pairs)

/-- Reasons of R366; the manual numbers none (log entry 11). -/
def Reason.noJob := 1
def Reason.noModel := 2
def Reason.noAdapter := 3
def Reason.noRoom := 4
def Reason.noRing := 5

/-- A transfer's grains go to T1, or to the cistern for a parked source (R365). -/
def toCistern (m : HandoffMsg) : Bool := m.srcState == 5 && !m.carried

/-- HANDOFF_OUT (R365, R366): the receiver answers READY or REFUSED, and records what it refuses. -/
def execHandoffOut (xfer : Nat) (m : HandoffMsg) (s : State) : Res := s.ifReady <|
  if (s.xfer xfer).isSome then .next s
  else match s.jobOfTag m.tag with
    | none => .next ((s.refuseXfer xfer).ownRaw xfer m.sender Msg.refused m.tag [BitVec.ofNat 8 Reason.noJob])
    | some j =>
      let (root, s) := if toCistern m then s.extentPlace j 2 0 m.grains else (.ok gAbsent, s)
      let rootOk : Bool := match root with
        | .ok _ => true
        | .error _ => false
      let quota := fld (s.reg (Reg.jobQuota j)) 0 25
      let room := decide (s.sessions.length < 2 ^ 24) && decide (s.sessCount j < quota) && rootOk && (toCistern m || s.t1Room j m.grains) &&
        decide (s.fabric.xfers.length < 65536)
      match firstFail [
        ((s.modelByDigest j m.modelDigest m.pairs).isSome, Reason.noModel),
        (m.adapter == 0xFFFF || ((s.job j).adapterCurrent m.adapter).isSome, Reason.noAdapter),
        (room, Reason.noRoom),
        (!m.carried || ((s.job j).compWell m.cwell).ring.isSome, Reason.noRing)] with
      | some e => .next ((s.refuseXfer xfer).own j xfer m.sender Msg.refused [BitVec.ofNat 8 e])
      | none =>
        let r : Xfer :=
          { outbound := false, session := 0, epoch := m.epoch, peer := m.sender, phase := .receiving, since := s.now, offeredAt := s.now, queries := 0,
            waitIn := false, total := m.grains, got := 0, msg := some m, grains := [], carry := {}, reqGrain := none, job := j, req := 0, ctx := none,
            turn := none, phaseUs := m.phaseUs, root := match root with
              | .ok a => a
              | .error _ => gAbsent }
        let held : FlashObj := { count := m.grains, session := none, bytes := [], complete := false, queued := false, job := j }
        let s := if gTier r.root = 2 then { s with ftl := { s.ftl with objects := mput s.ftl.objects (gAddr r.root) held } } else s
        .next ((s.setXfer xfer r).own j xfer m.sender Msg.ready [])

/-- STATE of an entry image. -/
def stateOfCode (n : Nat) : SState := if n = 4 then .toolWait else if n = 5 then .parked else .open

/-- Place the grains a message brought: in T1, or at their place in the cistern extent. -/
def State.placeArrived (s : State) (x : Xfer) (m : HandoffMsg) (gs : List SGrain) : List SGrain × State :=
  if toCistern m then
    (gs.map (fun (g : SGrain) => { g with addr := gPlus x.root (extentIndex m.pairs (cdiv m.retained 64) g.lgn), epoch := m.epoch }), s)
  else
    s.placeAll x.job m.pairs 1 x.grains (gs.map (fun (g : SGrain) => { g with epoch := m.epoch })) []

/-- Split the KV grains of a carried transfer into the committed ones and the working list of the request (R371, R372). A
block that holds positions of both keeps its committed part in a grain of its own. -/
def State.splitArrived (s : State) (j : Nat) (m : HandoffMsg) (gs : List SGrain) : List SGrain × List SGrain × State :=
  let kv := gs.filter (fun g => g.kind == 1)
  let block (g : SGrain) : Nat := (g.lgn - 16) / max 1 m.pairs
  let committed := kv.filter (fun g => decide (64 * block g + g.slots.length ≤ m.retained))
  let work := kv.filter (fun g => decide (m.retained < 64 * block g + g.slots.length))
  let halves := (work.filter (fun g => decide (64 * block g < m.retained))).map (fun g => { g with slots := g.slots.take (m.retained - 64 * block g) })
  let (halves, s) := s.placeAll j m.pairs 1 kv halves []
  (gs.filter (fun g => g.kind != 1) ++ committed ++ halves, work, s)

/-- The request a carried transfer brings (R372): in PREFILL on session `i`, bound to this device's current versions. -/
def State.carriedReq (s : State) (i : Nat) (x : Xfer) (m : HandoffMsg) (work : List SGrain) (prior : SState) : State :=
  match x.reqGrain with
  | some (.request text left maxNew spec prio flags toolMask ttlAfter share kind tag scounter params) =>
    let (n, s) := s.draw
    match s.freeReq (Config.freeNat n % 65536) with
    | none => s
    | some r =>
      let p := if params.isEmpty then defaultParams else blockParams params
      let y := s.sess i; let j := x.job
      let gram := ((s.turnGrammar j i p).bind id).map (fun g => (g.1, g.2.ver))
      let vocab := ((mget (s.job j).vocabs y.model).bind ByteObj.cur).map (·.ver)
      let adapterVer := if y.adapter = 0xFFFF then 0
        else match (mget (s.job j).adapters y.adapter).bind (fun o => o.versions.find? (fun v => v.ver == y.adapterVer)) with
          | some v => v.ver
          | none => (((s.job j).adapterCurrent y.adapter).map (·.ver)).getD 0
      let nb := (work ++ y.grains).filter (fun g => g.kind == 1 && (g.lgn - 16) % max 1 m.pairs == 0)
      let retained := ((nb.map (fun g => 64 * ((g.lgn - 16) / max 1 m.pairs) + g.slots.length)).max?).getD m.retained
      let gen := (s.req r).gen % 0xFFFF + 1
      let stopped := !p.stops.isEmpty || !p.stopTok.isEmpty || ((s.modelOf j y.model).any (fun m => !m.eos.isEmpty))
      let q : Req :=
        { gen := gen, rstate := .prefill, prio := prio, spec := spec, job := j, session := i, cwell := m.cwell,
          deadline := if left = 0 then 0 else (s.now + left) % 2 ^ 64, startLen := m.len, curLen := m.len + (retained - m.retained), maxNew := maxNew,
          stopRef := if stopped then Config.freeNat n % (2 ^ 32 - 1) + 1 else 0, gramRef := if gram.isSome then 3 else 0, shareGroup := share,
          adapterVer := adapterVer, toolMask := BitVec.ofNat 16 toolMask, flags := BitVec.ofNat 8 flags, selB := p.selB, selS := p.selS, selW := p.selW,
          arrival := s.now, ttlAfter := ttlAfter }
      let a : ReqAux :=
        { ctx := { job := j, sw := 16, cw := m.cwell, tag := tag, kind := kind }, prior := prior, toolp := m.toolp, params := p,
          vocabVer := vocab.getD 0, grammarHandle := (gram.map (·.1)).getD 0, grammarVer := (gram.map (·.2)).getD 0, text := text, work := work,
          carry := x.carry, scounter := scounter, retained := retained, landed := extentLen m.pairs m.retained,
          extent := if prior = .parked then extentLen m.pairs m.retained else 0, freshRow := text.isEmpty }
      let s := s.modJob j (fun z => { z with
        adapters := if adapterVer = 0 then z.adapters else mchange z.adapters y.adapter (fun o => o.take adapterVer)
        vocabs := mchange z.vocabs y.model (fun o => o.take a.vocabVer)
        grammars := match gram with
          | none => z.grammars
          | some (h, v) => mchange z.grammars h (fun o => o.take v) })
      ((s.setReq r q).setRaux r a).modSess i (fun y => { y with state := .running, curReq := r + gen <<< 16, adapterVer := adapterVer })
  | _ => s

/-- Every grain of an inbound transfer has passed: the session is entered at the new epoch, and HANDOFF_IN goes out (R365, R372). -/
def State.enterSession (s : State) (t : Nat) (x : Xfer) (m : HandoffMsg) : State :=
  let j := x.job
  let (n, s) := s.draw
  match mfree s.sessions (Config.freeNat n % 2 ^ 24) (2 ^ 24), s.modelByDigest j m.modelDigest m.pairs with
  | some i, some (h, md) =>
    let aux : SessAux := { layers := md.layers, kvh := md.kvh, modelDigest := md.digest, unsettled := true, ttlParked := m.ttlParked }
    let base : Session :=
      { state := stateOfCode m.srcState, pinned := m.pinned, conf := m.conf, toolp := m.toolp, job := j, model := h, prio := m.prio,
        eventWell := m.eventWell, ownerEpoch := m.epoch, adapter := m.adapter, adapterVer := m.adapterVer, len := m.len, retained := m.retained,
        expiry := (s.now + m.ttlLeftUs) % 2 ^ 48, lastActive := s.now % 2 ^ 48, grammar := m.grammar, seed := m.seed, scounter := m.scounter,
        level := rootLevel m.pairs, carry := x.carry }
    let s := s.setAux i aux
    let s := if toCistern m then
        let y := { base with root := x.root, grains := x.grains }
        (s.setSess i y).flashWrite (gAddr x.root)
          { count := m.grains, session := some (i, y, { aux with jobTag := s.jobTag j, keyset := (s.job j).keys.keyset, unsettled := false }), bytes := [],
            complete := false, queued := false, job := j } (x.grains.map (·.kind))
      else if !m.carried then
        let (gs, s) := s.withMaps j m.pairs base.level m.epoch 1 x.grains
        s.setSess i { base with grains := gs, root := mapRoot gs }
      else
        let (own, work, s) := s.splitArrived j m x.grains
        if m.srcState = 5 then
          let peer := gMake 4 m.sender (2 ^ 43 + gAddr m.root % 2 ^ 32)
          let y := { base with root := peer }
          (s.setSess i y).carriedReq i x m x.grains .parked
        else
          let (gs, s) := s.withMaps j m.pairs base.level m.epoch 1 own
          (s.setSess i { base with grains := gs, root := mapRoot gs }).carriedReq i x m work (stateOfCode m.srcState)
    let s := s.setXfer t { x with phase := .entered, session := i, since := s.now, grains := [], reqGrain := none }
    let s := s.sessEvent i Code.handoffArrived i
    s.own j t x.peer Msg.handoffIn (leBytes 4 m.epoch ++ leBytes 4 i)
  | _, _ => s

/-- HANDOFF_GRAIN (R49, R365): a grain is checked and written; the last one enters the session. A grain that fails its checks does not
count, and the sender's orphan rule follows. -/
def execHandoffGrain (xfer n : Nat) (res : Landing) (g : XferGrain) (s : State) : Res := s.ifReady <|
  match s.xfer xfer with
  | none => .next s
  | some x => match x.msg with
    | none => .next s
    | some m =>
      if x.outbound ∨ x.phase ≠ .receiving ∨ n ≠ x.got then .next s
      else
        let s := if res = .secondOk then (s.countReg Reg.checkStat 0 32 1).countReg Reg.checkStat 32 32 1
          else if res = .damaged then s.countReg Reg.checkStat 0 32 2 else s
        if res = .damaged then .next s
        else
          let (x, s) := match g with
            | .kv k =>
              let (gs, s) := s.placeArrived x m [k]
              ({ x with grains := x.grains ++ gs, got := x.got + 1 }, s)
            | .carry c =>
              let four : List SGrain := (List.range 4).map (fun i => { lgn := i, kind := kindOfLgn i, level := 0, addr := gAbsent, epoch := m.epoch, slots := [] })
              let (gs, s) := s.placeArrived x m four
              ({ x with grains := x.grains ++ gs, got := x.got + 4, carry := c }, s)
            | .request .. => ({ x with reqGrain := some g }, s)
          let s := s.setXfer xfer x
          if x.total ≤ x.got ∧ (m.carried = false ∨ x.reqGrain.isSome = true) then .next (s.enterSession xfer x m) else .next s

/-! ## The sending side -/

/-- A session comes back from a transfer to its source state. -/
def State.backToSource (s : State) (i : Nat) : State :=
  match (s.aux i).move with
  | none => s
  | some m =>
    let s := s.modSess i (fun x => { x with state := m.src, toolp := if m.src = .parked then x.toolp else false })
    s.modAux i (fun a => { a with move := none })

/-- The descriptor that asked for a transfer is answered. -/
def State.xferDone (s : State) (x : Xfer) (code result : Nat) : State := s.complete? x.ctx code result 0 x.session

/-- REFUSED (R365, R371). -/
def execRefused (xfer reason : Nat) (s : State) : Res := s.ifReady <|
  match s.xfer xfer with
  | none => .next s
  | some x =>
    if !x.outbound || x.phase != .offered then .next s
    else .next ((((s.dropMoveWork x.session).backToSource x.session).delXfer xfer).xferDone x Code.handoffRefused reason)

/-- READY of a carried transfer: the request is created, and prefills every text token but the last (R371). -/
def State.readySplit (s : State) (t : Nat) (x : Xfer) (ctx : DescCtx) (d : Desc) : State :=
  let i := x.session; let tool := dfld d 0 0 16 == 0x0103
  let (n, s) := s.draw
  let prior := s.turnState i tool
  let out := s.turnCheck ctx.job i (dfld d 0 0 16) d prior.isSome (Config.freeNat n % 65536) true
  match out.got, prior with
  | .ok u, some p =>
    let s := s.createReq ctx i d u p (if p = .parked then (s.sess i).toolp else false)
    let s := s.modReq u.index (fun r => { r with shareGroup := 0, flags := r.flags &&& 0xF7 })
    let s := s.modRaux u.index (fun a => { a with xfer := t, lastDone := true })
    let s := s.setXfer t { x with phase := .sending, since := s.now, req := u.index }
    let s := s.record ctx Code.ok false 0 (s.reqId u.index) i
    if (s.aux i).damaged then s.endReq u.index Code.stateLost false
    else
      let s := if p = .parked then s.placeRevival u.index else s
      if u.tokens.length ≤ 1 then s.splitSent u.index else s
  | got, _ =>
    let code := match got with
      | .error e => e
      | .ok _ => Code.wrongState
    ((s.own x.job t x.peer Msg.abort []).delXfer t).complete ctx code 0 0 i

/-- READY (R365, R371). -/
def execReady (xfer : Nat) (s : State) : Res := s.ifReady <|
  match s.xfer xfer with
  | none => .next s
  | some x =>
    if !x.outbound || x.phase != .offered then .next s
    else match x.turn, x.ctx with
      | some d, some c => .next (s.readySplit xfer x c d)
      | _, _ => .next ((s.setXfer xfer { x with phase := .sending }).enqueueMove x.session x.total)

/-- The grains a pump slice of a session's move has taken up go out, `k` grains of it before them: of an ownership transfer with REHEAD to its epoch, in
revival order (R58, R365); of a move to a peer's cistern at their places there (R72). -/
def State.sendSlice (s : State) (i k count : Nat) : State :=
  let x := s.sess i; let a := s.aux i
  let some_ := ((extentBytes i false x a).drop k).take count
  match s.outXfer i with
  | some (t, r) =>
    if r.phase ≠ .sending ∨ r.turn.isSome = true then s
    else (List.range some_.length).foldl (fun s n =>
      s.sendGrain r.job 4 Msg.grain r.peer (flowOfTransfer t) (grainArg t (k + n)) (rehead r.epoch (some_.getD n [])) (s.shareOf i)) s
  | none => match a.move with
    | none => s
    | some m =>
      if m.kind ≠ .peer then s
      else (List.range some_.length).foldl (fun s n =>
        s.sendGrain x.job 4 Msg.peerGrain m.place 0 (gPlus m.dest (k + n)) (some_.getD n []) (s.shareOf i)) s

/-- A pump slice of a session's move or revival ends: its grains have moved. The last grain of a session's transfer has left when no slice
of it is queued or running. -/
def State.moveSliceEnded (s : State) (i count : Nat) : State :=
  let k := (s.aux i).pumpStat.2
  let s := (s.sendSlice i k count).modAux i (fun a => { a with pumpStat := (a.pumpStat.1, k + count) })
  let p := s.pool Cls.pump
  if p.queue.any (fun c => c.work == .move i) || p.busy.any (fun e => e.2.work == .move i) then s
  else match s.outXfer i with
    | some (t, x) => if x.phase = .sending ∧ x.turn.isNone then s.setXfer t { x with phase := .sent } else s
    | none => s

/-- A claim is discarded (R368). -/
def State.loseClaim (s : State) (i : Nat) : State :=
  let x := s.sess i
  let s := s.sessEvent i Code.ownershipLost
  if (x.state = .running ∨ x.state = .paused) then s.endReq (x.curReq % 65536) Code.stateLost false else s.endSession i

/-- The sender's session ends with the transfer: its copy is freed and it goes FREE (R365). -/
def State.handedOver (s : State) (i : Nat) : State :=
  let x := s.sess i
  let s := s.extentFree x.job x.root (extentLen (s.pairs i) x.retained)
  let s := if gTier x.root = 4 then s.peerRelease i x.job x.root else s
  let s := (s.dropMoveWork i).closeDone i Code.movedAway
  { s with sessions := mdel s.sessions i, sessAux := mdel s.sessAux i }

/-- HANDOFF_IN of a carried transfer (R372): the request ends with CARRIED; a parked copy becomes a peer extent of the receiver's. -/
def State.handedCarried (s : State) (x : Xfer) (index : Nat) : State :=
  match s.raux? x.req with
  | none => s
  | some a =>
    let i := x.session; let y := s.sess i; let id := s.reqId x.req
    let s := if a.prior ≠ .parked then s
      else if gTier y.root = 4 then s.peerRelease i y.job y.root
      else
        let held : HeldExtent :=
          { owner := x.peer, job := x.job, root := y.root, count := extentLen (s.pairs i) y.retained, tag := s.jobTag x.job,
            grains := extentBytes i false y (s.aux i), expiry := none }
        let key := gAddr y.root % 2 ^ 32
        let s := if gTier y.root = 2 then
            { s with ftl := { s.ftl with objects := mchange s.ftl.objects key (fun o => { o with session := none }) } } else s
        { s with fabric := { s.fabric with held := mput s.fabric.held key held } }
    let s := (s.modRaux x.req (fun a => { a with xfer := 0 })).freeReqEntry x.req
    let s := s.closeDone i Code.movedAway
    let s := { s with sessions := mdel s.sessions i, sessAux := mdel s.sessAux i }
    s.complete a.ctx Code.carried index id i

/-- HANDOFF_IN (R365, R367, R368, R372). -/
def execHandoffIn (xfer epoch index : Nat) (s : State) : Res := s.ifReady <|
  match s.xfer xfer with
  | none => .next s
  | some x =>
    if !x.outbound then .next s
    else
      let i := x.session
      let settle (s : State) : State := (s.own x.job xfer x.peer Msg.relinquished (leBytes 4 epoch)).delXfer xfer
      let moving := (s.sess i).state == .moving && (match (s.aux i).move with
        | some m => m.kind == .handoff && !m.abandoned
        | none => false)
      if x.phase = .reclaimed then .next (s.own x.job xfer x.peer Msg.reclaimed (leBytes 4 (s.sess i).ownerEpoch))
      else if x.turn.isSome then
        if (x.phase = .sending ∨ x.phase = .sent) ∧ (s.raux? x.req).any (fun a => a.xfer == xfer) = true then
          .next (settle (s.handedCarried x index))
        else .next s
      else if moving then .next ((settle (s.handedOver i)).xferDone x Code.ok index)
      else if (s.sess i).state ≠ .free ∧ (s.sess i).ownerEpoch < epoch then .next (settle (s.loseClaim i))
      else .next s

/-- RELINQUISHED (R365, R368): the transfer is settled. -/
def execRelinquished (xfer epoch : Nat) (s : State) : Res := s.ifReady <|
  match s.xfer xfer with
  | none => .next s
  | some x =>
    if x.outbound then (if x.phase = .reclaimed then .next (s.delXfer xfer) else .next s)
    else if x.phase = .entered ∧ x.epoch = epoch then .next ((s.modAux x.session (fun a => { a with unsettled := false })).delXfer xfer)
    else .next s

/-- Answer a QUERY: with the job of its record, or, of a transfer not known, with no job. -/
def State.answerQuery (s : State) (t type : Nat) : State :=
  match s.xfer t with
  | some x => if x.job < 64 then s.own x.job t (xferNode t) type [] else s.ownRaw t (xferNode t) type 0 []
  | none => s.ownRaw t (xferNode t) type 0 []

/-- QUERY (R365): MINE when the receiver holds the session under that transfer, and NOT_MINE otherwise, which it records. -/
def execQuery (xfer epoch : Nat) (s : State) : Res := s.ifReady <|
  match s.xfer xfer with
  | some x =>
    if x.outbound then .next s
    else if x.phase = .entered ∧ (epoch = x.epoch ∨ epoch + 1 = x.epoch) then .next (s.answerQuery xfer Msg.mine)
    else .next ((s.answerQuery xfer Msg.notMine).refuseXfer xfer)
  | none => .next ((s.answerQuery xfer Msg.notMine).refuseXfer xfer)

/-- MINE (R367): the sender waits for HANDOFF_IN. -/
def execMine (xfer : Nat) (s : State) : Res := s.ifReady <|
  match s.xfer xfer with
  | none => .next s
  | some x => if x.outbound then .next (s.setXfer xfer { x with waitIn := true, queries := 0 }) else .next s

/-- A split turn fails after READY (R373): the session rolls back to its parked copy, or is lost. -/
def State.splitBack (s : State) (t : Nat) (x : Xfer) (abort : Bool) : State :=
  let i := x.session
  let s := if abort then s.own x.job t x.peer Msg.abort [] else s
  let s := (s.delXfer t).modSess i (fun y => { y with ownerEpoch := x.epoch + 1 })
  match s.raux? x.req with
  | none => s
  | some a =>
    let s := s.setRaux x.req { a with xfer := 0 }
    if a.prior = .parked then s.endReq x.req Code.rolledBack false
    else (s.modAux i (fun y => { y with damaged := true })).endReq x.req Code.stateLost false

/-- The sender reclaims an orphaned transfer (R367, R373). A session without a complete copy is lost. -/
def State.reclaim (s : State) (t : Nat) (x : Xfer) : State :=
  let i := x.session
  if x.turn.isSome ∧ x.phase ≠ .offered then s.splitBack t x true
  else
    let s := (s.dropMoveWork i).setXfer t { x with phase := .reclaimed, since := s.now }
    let s := (s.backToSource i).modSess i (fun y => { y with ownerEpoch := x.epoch + 1 })
    let s := s.xferDone x Code.handoffFailed 0
    if (s.aux i).damaged then (s.sessEvent i Code.stateLost).endSession i
    else
      let s := s.sessEvent i Code.sessionReclaimed
      if (s.aux i).closing.isEmpty then s else s.endSession i

/-- NOT_MINE (R367, R373). -/
def execNotMine (xfer : Nat) (s : State) : Res := s.ifReady <|
  match s.xfer xfer with
  | none => .next s
  | some x => if x.outbound && x.phase != .reclaimed then .next (s.reclaim xfer x) else .next s

/-- RECLAIMED (R368): a claim of a lower epoch is discarded. -/
def execReclaimed (xfer epoch : Nat) (s : State) : Res := s.ifReady <|
  match s.xfer xfer with
  | none => .next s
  | some x =>
    if x.outbound ∨ x.phase ≠ .entered ∨ epoch ≤ (s.sess x.session).ownerEpoch then .next s
    else .next (((s.loseClaim x.session).own x.job xfer x.peer Msg.relinquished (leBytes 4 epoch)).delXfer xfer)

/-- ABORT (R365): what is held of a transfer not yet entered is freed, and the transfer is recorded as refused. -/
def execAbort (xfer : Nat) (s : State) : Res := s.ifReady <|
  match s.xfer xfer with
  | none => .next (s.refuseXfer xfer)
  | some x => if x.outbound ∨ x.phase = .entered then .next s else .next (s.refuseXfer xfer)

/-- ORPHAN_US and QUERY_MAX (Table 13.9). -/
def State.orphanUs (s : State) : Nat := fld (s.reg Reg.nlmOwn) 0 32
def State.queryMax (s : State) : Nat := max 1 (fld (s.reg Reg.nlmOwn) 32 4)

/-- Send again every PEER_FREE whose budget has passed (R370). -/
def State.resendFrees (s : State) : State :=
  let due := s.fabric.peerFrees.filter (fun f => decide (f.sent + s.orphanUs ≤ s.now))
  let s := { s with fabric := { s.fabric with peerFrees := s.fabric.peerFrees.map (fun (f : PeerFree) =>
    if f.sent + s.orphanUs ≤ s.now then { f with sent := s.now } else f) } }
  due.foldl (fun s f => (s.send f.job 1 Msg.peerFree (gNode f.addr) 0 f.addr [] (s.shareOf f.session)).1) s

/-- ORPHAN_TIMER (R365, R367, R370): when ORPHAN_US has passed, QUERY, a reclaim, HANDOFF_IN or PEER_FREE again. -/
def execOrphanTimer (xfer : Nat) (s : State) : Res := s.ifReady <|
  let s := s.resendFrees
  match s.xfer xfer with
  | none => .next s
  | some x =>
    if s.now < x.since + s.orphanUs then .next s
    else if x.outbound then
      if x.phase = .reclaimed ∨ x.waitIn = true then .next s
      else if s.queryMax ≤ x.queries then .next (s.reclaim xfer x)
      else .next ((s.setXfer xfer { x with queries := x.queries + 1, since := s.now }).own x.job xfer x.peer Msg.query (leBytes 4 x.epoch))
    else if x.phase = .entered then
      .next ((s.setXfer xfer { x with since := s.now }).own x.job xfer x.peer Msg.handoffIn (leBytes 4 x.epoch ++ leBytes 4 x.session))
    else .next s

/-- PHASE_TIMER (R373): PHASE_US has passed since READY without HANDOFF_IN. The receiver frees its partial copy. -/
def execPhaseTimer (xfer : Nat) (s : State) : Res := s.ifReady <|
  match s.xfer xfer with
  | none => .next s
  | some x =>
    let us := if x.phaseUs = 0 then 20000 else x.phaseUs
    if s.now < (if x.outbound then x.since else x.offeredAt) + us then .next s
    else if x.outbound then
      if x.turn.isSome ∧ (x.phase = .sending ∨ x.phase = .sent) then .next (s.splitBack xfer x true) else .next s
    else if x.phase = .receiving ∧ x.msg.any (·.carried) = true then .next (s.refuseXfer xfer)
    else .next s

/-! ## Split turns (R371) -/

def kSplitTurn : Kind :=
  { code := 0x0702, since := 2, cwell := none, keys := true, preempt := true, fields := [(128, 24), (160, 16), (192, 64), (256, 32)] }

/-- Fields of a turn image: those of its kind, and its header. -/
def imageFields (tool : Bool) : List (Nat × Nat) := headerFields ++ (if tool then kToolReturn.fields else kSubmitTurn.fields)

/-- SPLIT_TURN (R369, R371, R532, R533). A turn image with reserved bits set is unpredictable (job), and is read as if they were 0 (log entry 5). -/
def execSplitTurn (job well : Nat) (d : Desc) (s : State) : Res :=
  s.takeUp kSplitTurn job well d fun c s =>
    let i := dfld d 16 0 24; let node := dfld d 20 0 16
    s.withSession c i true fun s =>
      if !s.addrOk job d 24 64 then .next (s.complete c Code.badAddress 0 0 i)
      else match s.fetch d 24 64 with
        | none => .next ((s.dmaFailed job).complete c Code.hostDmaError 0 0 i)
        | some bs =>
          let e : Desc := BitVec.ofNat 512 (leNat bs)
          let kind := dfld e 0 0 16; let tool := kind == 0x0103
          if kind ≠ 0x0102 ∧ kind ≠ 0x0103 ∨ dfld e 16 0 24 ≠ i ∨ (tool = true ∧ bit e 367 = true) then .next (s.complete c Code.badParams 0 0 i)
          else match s.routeErr job node with
            | some e => .next (s.complete c e 0 0 i)
            | none =>
              let (n, s) := s.draw
              let prior := (if (s.sess i).state = .moving then none else s.turnState i tool)
              let out := s.turnCheck job i kind e prior.isSome (Config.freeNat n % 65536) true
              Res.spoilIf (match out.got with
                | .error e => .next ((if e = Code.hostDmaError then s.dmaFailed job else s).complete c e 0 0 i)
                | .ok u =>
                  if (s.aux i).unsettled ∨ 65536 ≤ s.fabric.xfers.length ∨ (s.outXfer i).isSome = true then .next (s.complete c Code.ownerUnsettled 0 0 i)
                  else .next (s.offer i node c (s.sess i).state (some e) (dfld e 44 0 4) (dfld d 32 0 32) (u.tokens.length - 1)))
                (out.spoilt || !onlyFields e (imageFields tool)) job

/-! ## Peer extents (R72, R370) -/

/-- Free a peer extent this device holds. -/
def State.heldFree (s : State) (key : Nat) (h : HeldExtent) : State :=
  let s := s.extentFree h.job h.root h.count
  { s with fabric := { s.fabric with held := mdel s.fabric.held key } }

/-- PEER_TIER_GRAINS (R72, R370): grains of a peer-tier extent, or of a checkpoint with TARGET 4, are stored in the cistern; a read is served grain
by grain. -/
def execPeerTierGrains (node : Nat) (tag : W32) (write : Bool) (addr : W64) (grains : List (List Byte)) (ttlUs : Nat) (s : State) : Res := s.ifReady <|
  match s.jobOfTag tag with
  | none => .next (s.dropped 0)
  | some j =>
    let key := gAddr addr % 2 ^ 32
    if write then
      let count := grains.length
      let (lo, hi) := s.ftl.cisternRange
      if s.ftl.state = 0 ∨ s.ftl.state = 3 ∨ (mget s.fabric.held key).isSome = true ∨ s.ftl.runFree key count lo hi = false then .next s
      else
        let h : HeldExtent :=
          { owner := node, job := j, root := gMake 2 0 key, count := count, tag := tag, grains := grains, expiry := if ttlUs = 0 then none else some (s.now + ttlUs) }
        let s := s.flashWrite key { count := count, session := none, bytes := grains.flatten, complete := false, queued := false, job := j } []
        .next { s with fabric := { s.fabric with held := mput s.fabric.held key h } }
    else match mget s.fabric.held key with
      | none => .next s
      | some h =>
        if h.tag ≠ tag then .next s
        else .next ((List.range h.count).foldl (fun s k => s.sendGrain j 6 Msg.response node 0 (gPlus addr k) (h.grains.getD k []) 0) s)

/-- PEER_FREE (R365, R370). -/
def execPeerFree (src : Nat) (addr : W64) (s : State) : Res := s.ifReady <|
  let key := gAddr addr % 2 ^ 32
  match mget s.fabric.held key with
  | none => .next s
  | some h => if h.owner = src then .next (s.heldFree key h) else .next s

/-- PEER_EXTENT_EXPIRY (R370): the time to live carried with the extent passes on the holder's own clock. -/
def execPeerExtentExpiry (addr : W64) (s : State) : Res := s.ifReady <|
  let key := gAddr addr % 2 ^ 32
  match mget s.fabric.held key with
  | none => .next s
  | some h => match h.expiry with
    | some t => if t ≤ s.now then .next (s.heldFree key h) else .next s
    | none => .next s

/-- The holder of PEER_FREEs to a node has acknowledged `addr`, or the node is unreachable (none): sessions that wait go on (R370). -/
def State.peerSettled (s : State) (node : Nat) (addr : Option W64) : State :=
  let mine (f : PeerFree) : Bool := gNode f.addr == node && (match addr with
    | some a => f.addr == a
    | none => true)
  let hit := (s.fabric.peerFrees.filter mine).map (·.session)
  let s := match addr with
    | some _ => { s with fabric := { s.fabric with peerFrees := s.fabric.peerFrees.filter (fun f => !mine f) } }
    | none => s
  hit.eraseDups.foldl (fun s i =>
    if s.fabric.peerFrees.any (fun f => f.session == i && gNode f.addr != node) then s
    else if (s.aux i).waitPeer then (s.modAux i (fun a => { a with waitPeer := false })).settle i
    else s) s

end Sys2Proof.Machine
end

