-- ==== Sys2Proof/Machine/Ckpt.lean ====
section
/-!
DEFINITION. Sys2Proof/Machine/Ckpt.lean: checkpoints (15_checkpoint_restore, R401 to R414): shards and their coordinates, capture,
writing, the manifest, commit and failure.
-/
namespace Sys2Proof.Machine

open Sys2Proof

/-! ## Shards (R408, R409) -/

/-- A piece of a tensor: DTYPE, NDIM, TENSOR_ID, global shape, offsets, extents, strides (four each), payload. -/
structure Piece where
  dtype : Nat
  ndim : Nat
  id : Nat
  shape : List Nat
  off : List Nat
  ext : List Nat
  str : List Nat
  payload : List Byte
deriving DecidableEq, Repr

/-- Four entries, the missing ones `d`. -/
def four (xs : List Nat) (d : Nat) : List Nat := (List.range 4).map (fun i => xs.getD i d)

/-- Bytes of one run along the last dimension: its codes and, in L8, its block exponents. -/
def rowRun (dtype n : Nat) : Nat := if dtype = 0 then n else if dtype = 1 then n + cdiv n 32 else if dtype = 2 then 4 * n else 2 * n
def elemLen (dtype : Nat) : Nat := if dtype = 2 then 4 else if dtype = 3 then 2 else 1

/-- The runs of a piece, and its payload length. -/
def Piece.last (p : Piece) : Nat := p.ext.getD (p.ndim - 1) 1
def Piece.runs (p : Piece) : Nat := (p.ext.take (p.ndim - 1)).foldl (· * ·) 1
def Piece.len (p : Piece) : Nat := p.runs * rowRun p.dtype p.last

/-- R408: the form of a piece. -/
def Piece.ok (p : Piece) : Bool :=
  decide (p.dtype ≤ 3) && decide (1 ≤ p.ndim ∧ p.ndim ≤ 4) &&
    (List.range 4).all (fun i =>
      decide (1 ≤ p.ext.getD i 0) && decide (1 ≤ p.str.getD i 0) &&
        if i < p.ndim then decide (p.off.getD i 0 + (p.ext.getD i 0 - 1) * p.str.getD i 0 < p.shape.getD i 0) else p.shape.getD i 0 == 0) &&
    (p.dtype != 1 || (p.str.getD (p.ndim - 1) 0 == 1 && p.off.getD (p.ndim - 1) 0 % 32 == 0)) && (p.dtype != 0 || p.ndim == 1)

/-- The bytes of a shard (Table 15.3). -/
def Piece.shard (p : Piece) (step : Nat) : List Byte :=
  leBytes 4 0x44524853 ++ [1, BitVec.ofNat 8 p.dtype, BitVec.ofNat 8 p.ndim, 0] ++ leBytes 8 step ++ leBytes 8 p.id ++ leBytes 8 p.payload.length ++
    (four p.shape 0).flatMap (leBytes 8) ++ (four p.off 0).flatMap (leBytes 8) ++ (four p.ext 1).flatMap (leBytes 8) ++
    (four p.str 1).flatMap (leBytes 8) ++ leBytes 32 (sha256 p.payload).toNat ++ p.payload

/-- A piece as a shard's bytes hold it. -/
def readPiece (b : List Byte) : Piece :=
  let q (o : Nat) := (List.range 4).map (fun i => at_ b (o + 8 * i) 8)
  { dtype := at_ b 5 1, ndim := at_ b 6 1, id := at_ b 16 8, shape := q 32, off := q 64, ext := q 96, str := q 128, payload := b.drop 192 }

/-- A shard's header agrees with R408 and with its payload. -/
def shardOk (b : List Byte) : Bool :=
  let p := readPiece b
  decide (192 ≤ b.length) && at_ b 0 4 == 0x44524853 && at_ b 4 1 == 1 && at_ b 7 1 == 0 && p.ok && at_ b 24 8 == p.payload.length &&
    p.len == p.payload.length && BitVec.ofNat 256 (at_ b 160 32) == sha256 p.payload

/-- A tensor-list entry (Table 15.4) as a piece without its payload, and its address. -/
def listPiece (b : List Byte) : Piece :=
  let q (o : Nat) := (List.range 4).map (fun i => at_ b (o + 8 * i) 8)
  { dtype := at_ b 8 1, ndim := at_ b 9 1 % 8, id := at_ b 0 8, shape := q 24, off := q 56, ext := q 88, str := [1, 1, 1, 1], payload := [] }
def listAddr (b : List Byte) : Nat := at_ b 16 8 % 2 ^ 63
/-- Reserved bits of an entry are 0. -/
def listReserved (b : List Byte) : Bool := at_ b 9 1 < 8 && zeroRun b 10 6 && at_ b 23 1 < 128 && zeroRun b 120 8
def listOk (b : List Byte) : Bool := decide (0x80 ≤ at_ b 7 1) && (listPiece b).ok

/-- TENSOR_ID of R409. -/
def tensorId (kind handle layer target factor : Nat) : Nat := kind <<< 56 + handle <<< 40 + layer <<< 24 + target <<< 16 + factor <<< 8

/-- The low-rank factors of an adapter in the order of its image: for each target, ascending in TARGETS, for each layer, the down factor
and then the up factor (target, layer, factor, rows, columns). The order of layers and factors is the model's (R262 states that of
targets alone). -/
def factorShapes (m : Model) (rank targets : Nat) : List (Nat × Nat × Nat × Nat × Nat) :=
  let heads := 128 * m.kvh * m.qpk; let kv := 128 * m.kvh
  let io (t : Nat) : Nat × Nat := [(m.width, heads), (m.width, kv), (m.width, kv), (heads, m.width), (m.width, m.ffn), (m.width, m.ffn),
    (m.ffn, m.width)].getD t (0, 0)
  ((List.range 7).filter (fun t => targets.testBit t)).flatMap (fun t => (List.range m.layers).flatMap (fun l =>
    [(t, l, 0, rank, (io t).1), (t, l, 1, (io t).2, rank)]))

/-- The pieces of an adapter's current version. -/
def adapterPieces (h : Nat) (v : AdapterVer) (m : Model) : List Piece :=
  ((factorShapes m v.rank v.targets).foldl (fun (st : Nat × List Piece) f =>
    let (t, l, k, r, c) := f
    let n := r * rowRun 1 c
    (st.1 + n, st.2 ++ [{ dtype := 1, ndim := 2, id := tensorId 1 h l t k, shape := [r, c, 0, 0], off := [0, 0, 0, 0], ext := [r, c, 1, 1],
                          str := [1, 1, 1, 1], payload := sub v.image st.1 n }])) (64, [])).2

/-- The rows of a table on this device as one piece. -/
def tablePiece (h node : Nat) (v : TableVer) : Piece :=
  let n := max 1 v.nodes.length; let r := (v.nodes.idxOf? node).getD 0
  let rows := localRows v.rows n r
  { dtype := 1, ndim := 2, id := tensorId 2 h 0 0 0, shape := [v.rows, v.dim, 0, 0], off := [r, 0, 0, 0], ext := [rows, v.dim, 1, 1],
    str := [n, 1, 1, 1],
    payload := (List.range rows).flatMap (fun k => sub (((mget v.rowMap k).map (·.bytes)).getD []) 0 (v.dim + v.dim / 32)) }

/-! ## Failure and commit (R411, R413) -/

/-- ARG of a checkpoint packet: 0 entries, 1 commit, 2 abort, and a code (log entry 11). -/
def ckptArg (what code : Nat) : W64 := BitVec.ofNat 64 (what + code <<< 8)

/-- The devices of a checkpoint, and the node of rank 0. -/
def State.ckptNodes (s : State) (j : Nat) (k : Ckpt) : List Nat :=
  if k.group = 0 then [s.node] else ((mget (s.job j).fabGroups k.group).map (·.nodes)).getD [s.node]
def State.ckptRoot (s : State) (j : Nat) (k : Ckpt) : Nat := (s.ckptNodes j k).headD s.node

/-- Tell the other members something: rank 0 tells every one, another member tells rank 0. -/
def State.ckptTell (s : State) (j : Nat) (k : Ckpt) (what code : Nat) (data : List Byte) : State :=
  let dests := if k.rank = 0 then (s.ckptNodes j k).drop 1 else [s.ckptRoot j k]
  dests.foldl (fun s n => (s.send j 5 Msg.checkpoint n 0 (ckptArg what code) data).1) s

/-- Take a run of a T3 region. -/
def State.t3Take (s : State) (j n first count : Nat) : State :=
  s.modJob j (fun x => { x with regions := mchange x.regions n (fun r => { r with used := r.used ++ [(first, count)] }) })
def State.t3Give (s : State) (j n first : Nat) : State :=
  s.modJob j (fun x => { x with regions := mchange x.regions n (fun r => { r with used := r.used.filter (fun u => u.1 != first) }) })

/-- Free what a checkpoint has written on its target. -/
def State.ckptDrop (s : State) (j : Nat) (k : Ckpt) : State :=
  let s := k.objects.foldl (fun s o =>
    if k.target = 2 then s.flashFree o.1 o.2
    else if k.target = 3 then s.t3Give j k.dest o.1
    else s.peerRelease (2 ^ 24) j (gMake 4 k.dest (2 ^ 43 + o.1))) s
  if k.target = 3 then s.t3Give j k.dest k.off else s

/-- CKP_JOB_STAT after an outcome (Table 15.10). -/
def State.ckptStat (s : State) (j code : Nat) (step : Option W64) : State :=
  let v := s.reg (Reg.ckpJobStat j)
  let v := match step with
    | some t => setFld v 0 32 (fld t 0 32)
    | none => v
  s.setReg (Reg.ckpJobStat j) (setFld v 32 16 code)

/-- A checkpoint fails (R413). With `tell`, the other members learn of it. -/
def State.ckptFail (s : State) (j code : Nat) (tell : Bool) : State :=
  match (s.job j).ckpt with
  | none => s
  | some k =>
    let s := s.ckptDrop j k
    let s := (s.modJob j (fun x => { x with ckpt := none })).startProgs
    let s := (s.ckptStat j code none).countReg Reg.ckpStat 32 32 1
    let s := if tell then s.ckptTell j k 2 code [] else s
    s.complete k.ctx code

/-- A checkpoint is committed on this device. -/
def State.ckptCommit (s : State) (j : Nat) (k : Ckpt) (result : Nat) : State :=
  let s := s.modJob j (fun x => { x with ckpt := none })
  let s := (s.ckptStat j Code.ok (some k.step)).countReg Reg.ckpStat 0 32 1
  s.complete k.ctx Code.ok result

/-! ## Writing -/

/-- A run of a T3 region is free and inside it. -/
def T3Region.runFree (r : T3Region) (first count : Nat) : Bool :=
  decide (first + count ≤ r.grains) && r.used.all (fun u => decide (u.1 + u.2 ≤ first) || decide (first + count ≤ u.1))

/-- Grains of a checkpoint with TARGET 4 go to the same places on the node DEST (R405). -/
def State.ckptSend (s : State) (j : Nat) (k : Ckpt) (a : Nat) (gs : List (List Byte)) : State :=
  (List.range gs.length).foldl (fun s n => s.sendGrain j 4 Msg.peerGrain k.dest 0 (gMake 4 k.dest (2 ^ 43 + a + n)) (gs.getD n []) 0) s

/-- Write a shard or a manifest to the target: its address as entries name it, or the code for no room. A manifest of a T3 checkpoint lies
at T3_OFF. -/
def State.ckptPut (s : State) (j : Nat) (k : Ckpt) (bytes : List Byte) (man : Bool) : Except Nat (Nat × Ckpt × State) :=
  let n := grainsOf bytes.length; let bytes := padTo 16384 bytes
  if k.target = 2 then
    if s.ftl.state = 3 then .error Code.flashWorn
    else match s.generalPlace j n bytes with
      | none => .error Code.ckptNoRoom
      | some (a, s) => .ok (a, { k with objects := k.objects ++ [(a, n)] }, s)
  else if k.target = 3 then
    match mget (s.job j).regions k.dest with
    | none => .error Code.ckptNoRoom
    | some r =>
      if man then
        if k.man < n then .error Code.ckptNoRoom else .ok (k.off, k, s.wr false (r.at_ k.off) bytes)
      else if r.runFree k.next n then
        .ok (k.next - k.off, { k with next := k.next + n, objects := k.objects ++ [(k.next, n)] }, (s.t3Take j k.dest k.next n).wr false (r.at_ k.next) bytes)
      else .error Code.ckptNoRoom
  else
    let (d, s) := s.draw
    let a := Config.freeNat d % 2 ^ 32
    .ok (a, { k with objects := k.objects ++ [(a, n)] }, s.ckptSend j k a (cutGrains n bytes))

/-- Write one piece as a shard. -/
def State.ckptPiece (s : State) (j : Nat) (k : Ckpt) (step : Nat) (p : Piece) : Except Nat (Ckpt × State) :=
  let b := p.shard step
  match s.ckptPut j k b false with
  | .error e => .error e
  | .ok (a, k, s) =>
    .ok ({ k with shards := k.shards ++ [{ tensor := BitVec.ofNat 64 p.id, rank := k.rank, tier := if k.target = 3 then 3 else 2, len := b.length,
                                           addr := a, digest := sha256 b }] }, s)

/-- The state a session is captured in: its idle state and TOOLP; none when it is not captured (R401, R402). A session on the move is
captured as its source holds it. -/
def State.captured (s : State) (i : Nat) : Option Bool :=
  let x := s.sess i
  match x.state with
  | .open => some false
  | .toolWait => some true
  | .parked => some x.toolp
  | .running | .paused => match s.raux? (x.curReq % 65536) with
    | some a => some (if a.prior = .parked then a.toolp else a.prior == .toolWait)
    | none => none
  | .moving => match (s.aux i).move with
    | some m => if m.kind = .handoff ∨ m.abandoned = true then none else some (if m.src = .parked then x.toolp else m.src == .toolWait)
    | none => none
  | _ => none

/-- Write a session's committed state as a parked extent (R402). -/
def State.ckptSession (s : State) (j : Nat) (k : Ckpt) (i : Nat) (toolp : Bool) : Except Nat (Ckpt × State) :=
  let x := s.sess i; let a := s.aux i; let pairs := s.pairs i
  let count := extentLen pairs x.retained
  let seqs := (List.range pairs).map (pairSlots [] x.grains pairs x.retained)
  let a' := { a with jobTag := s.jobTag j, keyset := (s.job j).keys.keyset, grace := none, move := none, closing := [] }
  let at_ (root : W64) : Session :=
    { x with state := .parked, toolp := toolp, root := root, curReq := 0, grains := extentGrains pairs x.ownerEpoch root seqs x.retained }
  let entry (sealed_ : Bool) (y : Session) (addr : Nat) : SessRecord :=
    { index := i, grains := count, rank := k.rank, tier := if k.target = 3 then 3 else 2, addr := addr, modelDigest := a.modelDigest,
      edigest := sha256 ((extentBytes i sealed_ y a').flatMap (fun g => g)) }
  if k.target = 2 then
    match s.extentPlace j 2 0 count with
    | (.error e, _) => .error (if e = Code.cisternFull then Code.ckptNoRoom else e)
    | (.ok root, s) =>
      let y := at_ root
      .ok ({ k with objects := k.objects ++ [(gAddr root, count)], sessions := k.sessions ++ [entry false y (gAddr root)] },
        s.flashWrite (gAddr root) { count := count, session := some (i, y, a'), bytes := [], complete := false, queued := false, job := j } (y.grains.map (·.kind)))
  else if k.target = 3 then
    match mget (s.job j).regions k.dest with
    | none => .error Code.ckptNoRoom
    | some r =>
      if r.runFree k.next count then
        let y := at_ (gMake 3 0 (k.next + k.dest <<< 28))
        let seal_ := s.t3Sealed j k.dest
        .ok ({ k with next := k.next + count, objects := k.objects ++ [(k.next, count)], sessions := k.sessions ++ [entry seal_ y (k.next - k.off)] },
          (s.t3Take j k.dest k.next count).writeT3 j k.dest k.next (extentBytes i seal_ y a'))
      else .error Code.ckptNoRoom
  else
    let (d, s) := s.draw
    let g := Config.freeNat d % 2 ^ 32
    let s := s.ckptSend j k g (extentBytes i false (at_ (gMake 4 k.dest (2 ^ 43 + g))) a')
    .ok ({ k with objects := k.objects ++ [(g, count)], sessions := k.sessions ++ [entry false (at_ (gMake 4 k.dest (2 ^ 43 + g))) g] }, s)

/-- Carry a checkpoint on by a list of writes; the first that fails ends it. -/
def State.ckptAll {α : Type} (s : State) (k : Ckpt) (xs : List α) (f : State → Ckpt → α → Except Nat (Ckpt × State)) : Except Nat (Ckpt × State) :=
  xs.foldl (fun r x => match r with
    | .error e => .error e
    | .ok (k, s) => f s k x) (.ok (k, s))

/-! ## The manifest (Table 15.5) -/

def shardBytes (e : ShardEntry) : List Byte :=
  leBytes 8 e.tensor.toNat ++ [BitVec.ofNat 8 e.rank, BitVec.ofNat 8 e.tier] ++ zeros 6 ++ leBytes 8 e.len ++ leBytes 8 e.addr ++ leBytes 32 e.digest.toNat
def sessBytes (e : SessRecord) : List Byte :=
  leBytes 4 e.index ++ leBytes 4 e.grains ++ [BitVec.ofNat 8 e.rank, BitVec.ofNat 8 e.tier] ++ zeros 6 ++ leBytes 8 e.addr ++ zeros 8 ++
    leBytes 32 e.modelDigest.toNat ++ leBytes 32 e.edigest.toNat

def shardLe (a b : ShardEntry) : Bool :=
  if a.tensor ≠ b.tensor then decide (a.tensor.toNat < b.tensor.toNat) else if a.rank ≠ b.rank then decide (a.rank < b.rank) else decide (a.addr ≤ b.addr)
def sessLe (a b : SessRecord) : Bool := if a.rank ≠ b.rank then decide (a.rank < b.rank) else decide (a.index ≤ b.index)

/-- The length of a signature of the attestation key. -/
def sigLen : Nat := 35664

/-- The manifest of a checkpoint whose entries are all known (R410, R412). -/
def State.manifest (s : State) (j : Nat) (k : Ckpt) : List Byte :=
  let body := (sortBy shardLe k.shards).flatMap shardBytes ++ (sortBy sessLe k.sessions).flatMap sessBytes
  let off := 128 + body.length
  let len := off + (if k.sign then sigLen else 0)
  let head (digest : BitVec 256) : List Byte :=
    leBytes 4 0x4E414D43 ++ [2, BitVec.ofNat 8 (b2n k.sign), 0, 0] ++ leBytes 8 k.id.toNat ++ leBytes 8 k.step.toNat ++ leBytes 4 (s.jobTag j).toNat ++
      [BitVec.ofNat 8 (s.ckptNodes j k).length, 0, 0, 0] ++ leBytes 4 k.shards.length ++ leBytes 4 k.sessions.length ++ leBytes 8 len ++
      leBytes 32 digest.toNat ++ (if k.sign then leBytes 4 off ++ leBytes 4 sigLen else zeros 8) ++ zeros 40
  let digest := sha256 (head 0 ++ body ++ zeros (len - off))
  head digest ++ body ++ (if k.sign then sub (Config.slhSign (leBytes 32 digest.toNat)) 0 sigLen else [])

/-! ## Progress (Table 15.6) -/

/-- Everything written here is durable (R384): in flash when every run is reported, in host memory at once, at a peer when it says so. -/
def State.ckptDurable (s : State) (k : Ckpt) : Bool :=
  if k.target = 2 then k.objects.all (fun o => match mget s.ftl.objects o.1 with
    | some f => f.complete
    | none => false)
  else k.target == 3 || k.peerDone

/-- Is a step of a table being applied? -/
def Table.applying (o : Table) : Bool := match o.stepWait with
  | some (_, _, none) => true
  | _ => false

/-- Put a checkpoint's progress back, or end it. -/
def State.ckptSet (s : State) (j : Nat) (k0 : Ckpt) (r : Except Nat (Ckpt × State)) (done : Ckpt → Ckpt) : State :=
  match r with
  | .ok (k, s) => s.modJob j (fun x => { x with ckpt := some (done k) })
  | .error e => (s.modJob j (fun x => { x with ckpt := some k0 })).ckptFail j e true

/-- Read a table between two step applications (R401, R404). -/
def State.ckptTable (s : State) (j : Nat) (k : Ckpt) (h : Nat) : Except Nat (Ckpt × State) :=
  match s.table j h with
  | none => .ok (k, s)
  | some o => match o.cur with
    | none => .ok (k, s)
    | some v =>
      let (d, s) := s.draw
      let step := (o.applied.getD (Config.freeNat d)) % 2 ^ 64
      if v.damaged then .error Code.ckptGroupFailed
      else if step ≠ k.step.toNat then .error Code.ckptStepMismatch
      else s.ckptPiece j k step (tablePiece h s.node v)

/-- Carry a job's checkpoint on as far as it can go. -/
def State.ckptLook : Nat → State → Nat → State
  | 0, s, _ => s
  | n + 1, s, j =>
    match (s.job j).ckpt with
    | none => s
    | some k =>
      if !k.list.isEmpty && k.progs.all (fun p => (mget s.progs p).isNone) then
        let r := s.ckptAll k k.list (fun s k e =>
          let p := listPiece e
          s.ckptPiece j k k.step.toNat { p with payload := Memory.read s.hbm (listAddr e) p.len })
        State.ckptLook n ((s.ckptSet j k r (fun k => { k with list := [] })).startProgs) j
      else match k.tables.find? (fun h => !((s.table j h).map Table.applying).getD false) with
        | some h => State.ckptLook n (s.ckptSet j k (s.ckptTable j k h) (fun k => { k with tables := k.tables.erase h })) j
        | none =>
          if !k.list.isEmpty || !k.tables.isEmpty || !s.ckptDurable k then s
          else if k.rank ≠ 0 then
            if k.sentAt.isSome then s
            else
              let s := s.ckptTell j k 0 0 (k.shards.flatMap shardBytes ++ k.sessions.flatMap sessBytes)
              s.modJob j (fun x => { x with ckpt := some { k with sentAt := some s.now } })
          else if (List.range (s.ckptNodes j k).length).any (fun r => r != 0 && !k.ranks.contains r) then s
          else match k.manifest with
            | none =>
              let r : Except Nat (Ckpt × State) := match s.ckptPut j k (s.manifest j k) true with
                | .error e => .error e
                | .ok (a, k, s) => .ok ({ k with manifest := some a, peerDone := false }, s)
              State.ckptLook n (s.ckptSet j k r id) j
            | some a => (s.ckptTell j k 1 0 []).ckptCommit j k a

/-! ## Commands -/

def ckptFields : List (Nat × Nat) :=
  [(128, 64), (192, 64), (256, 7), (264, 4), (272, 8), (288, 32), (320, 64), (384, 17), (416, 16), (432, 16), (448, 28)]
def kCheckpoint : Kind := { code := 0x0801, since := 1, cwell := some 264, keys := false, preempt := false, fields := ckptFields }
def kPreemptNotice : Kind := { code := 0x0802, since := 1, cwell := some 264, keys := false, preempt := false, fields := ckptFields }

/-- The tensor list that a descriptor names: its entries, or the outcome. `n` entries at the field at byte `b`. Reserved bits that are set are
unpredictable (job), and are read as 0 (log entry 5). -/
def State.tensorList (s : State) (c : DescCtx) (d : Desc) (b n : Nat) (body : List (List Byte) → Res) : Res :=
  if dfld d b 0 64 = 0 then body []
  else if !s.addrOk c.job d b (128 * n) then .next (s.complete c Code.badAddress)
  else match s.fetch d b (128 * n) with
    | none => .next ((s.dmaFailed c.job).complete c Code.hostDmaError)
    | some bs =>
      let es := (List.range n).map (fun i => sub bs (128 * i) 128)
      Res.spoilIf (if !es.all listOk then .next (s.complete c Code.ckptBad)
        else if es.any (fun e => s.badAddr c.job true (listAddr e) (listPiece e).len) then .next (s.complete c Code.badAddress)
        else body es) (!es.all listReserved) c.job

/-- The group of a checkpoint or restore: this device's rank and the members; or the code of the refusal (R361, R419). -/
def State.ckptGroup (s : State) (j h : Nat) : Except Nat (Nat × List Nat) :=
  if h = 0 then .ok (0, [s.node])
  else match mget (s.job j).fabGroups h with
    | none => .error Code.badGroup
    | some g => if g.failed then .error Code.ckptGroupFailed else .ok (s.rank g, g.nodes)

/-- CHECKPOINT and PREEMPT_NOTICE (R401 to R407, R411, R439). -/
def State.checkpoint (s : State) (c : DescCtx) (d : Desc) (preempt : Bool) : Res :=
  let j := c.job; let x := s.job j
  let target := dfld d 32 0 3; let h := dfld d 34 0 8; let us := dfld d 36 0 32; let n := dfld d 48 0 17
  let dest := dfld d 52 0 16; let man := dfld d 54 0 16; let off := dfld d 56 0 28
  let form := decide (2 ≤ target ∧ target ≤ 4) && (!preempt || us != 0) && decide (n ≤ 65536) &&
    (if target = 3 then decide (1 ≤ man ∧ man ≤ 4096) else man == 0 && off == 0 && (target != 2 || dest == 0))
  match firstFail [(x.ckpt.isNone, Code.ckptBusy), (form, Code.ckptBad)], s.ckptGroup j h with
  | some e, _ => .next (s.complete c e)
  | none, .error e => .next (s.complete c e)
  | none, .ok (rank, nodes) =>
    let away : Option Nat := if target = 4 then (s.routeErr j dest).map (fun _ => Code.ckptGroupFailed) else s.targetErr j target dest
    let away := away.orElse (fun _ => if (nodes.filter (· != s.node)).any (fun m => (s.routeErr j m).isSome) then some Code.ckptGroupFailed else none)
    if x.conf ∧ target = 3 then .next (s.complete c Code.confHostWrite)
    else match away with
      | some e => .next (s.complete c e)
      | none =>
        s.tensorList c d 40 n fun es =>
          let k : Ckpt :=
            { ctx := c, id := BitVec.ofNat 64 (dfld d 16 0 64), step := BitVec.ofNat 64 (dfld d 24 0 64), target := target, dest := dest, off := off,
              man := man, group := h, rank := rank, deadline := if us = 0 then none else some (s.now + us), sign := bit d 262,
              progs := (s.progs.filter (fun e => e.2.ctx.job == j)).map (·.1), list := es,
              tables := if bit d 260 then (x.tables.filter (fun e => e.2.cur.isSome)).map (·.1) else [], next := off + man, shards := [], sessions := [],
              objects := [], ranks := [], sentAt := none, manifest := none, peerDone := false }
          let s := s.modJob j (fun x => { x with ckpt := some k, quiesced := x.quiesced || preempt })
          let room := target != 3 || (match mget x.regions dest with
            | some r => r.runFree off man
            | none => false)
          if !room then .next ({ s with jobs := mput s.jobs j { s.job j with ckpt := some { k with target := 2 } } }.ckptFail j Code.ckptNoRoom true)
          else
            let s := if target = 3 then s.t3Take j dest off man else s
            let pieces : List (Option Piece) := if bit d 259 then
                (x.adapters.filterMap (fun e => (x.adapterCurrent e.1).map (fun v => (e.1, v)))).flatMap (fun e =>
                  match mget s.models e.2.model with
                  | some m => if e.2.damaged then [none] else (adapterPieces e.1 e.2 m).map some
                  | none => [none])
              else []
            let r := s.ckptAll k pieces (fun s k p => match p with
              | some p => s.ckptPiece j k k.step.toNat p
              | none => .error Code.ckptGroupFailed)
            let who := if bit d 261 then (s.sessions.filter (fun e => e.2.job == j && !(s.aux e.1).unbound)).filterMap (fun e => (s.captured e.1).map (fun t => (e.1, t))) else []
            let r := match r with
              | .error e => .error e
              | .ok (k, s) => s.ckptAll k who (fun s k i =>
                  if (s.aux i.1).damaged ∨ (s.aux i.1).corrupt then .error Code.ckptGroupFailed else s.ckptSession j k i.1 i.2)
            .next (State.ckptLook (k.tables.length + 8) (s.ckptSet j k r id) j)

/-- CHECKPOINT (R405). -/
def execCheckpoint (job well : Nat) (d : Desc) (s : State) : Res :=
  s.takeUp kCheckpoint job well d fun c s => s.checkpoint c d false

/-- PREEMPT_NOTICE (R407). -/
def execPreemptNotice (job well : Nat) (d : Desc) (s : State) : Res :=
  s.takeUp kPreemptNotice job well d fun c s => s.checkpoint c d true

/-- RESUME (R407): quiescing ends. -/
def execResume (job : Nat) (s : State) : Res := s.ifUp <| .next (s.modJob job (fun x => { x with quiesced := false }))

/-- Look at every checkpoint. -/
def State.ckptLooks (s : State) : State :=
  s.jobs.foldl (fun s e => match e.2.ckpt with
    | none => s
    | some k => State.ckptLook (k.tables.length + 8) s e.1) s

/-- CKPT_ENTRIES (R411): a member's entries reach rank 0. With this device's own rank: what it has written at a peer is durable. -/
def execCkptEntries (job rank : Nat) (shards : List ShardEntry) (sessions : List SessRecord) (s : State) : Res := s.ifReady <|
  match (s.job job).ckpt with
  | none => .next s
  | some k =>
    let k := if rank = k.rank then { k with peerDone := true }
      else if k.rank ≠ 0 ∨ (s.ckptNodes job k).length ≤ rank ∨ k.ranks.contains rank = true then k
      else { k with ranks := rank :: k.ranks, shards := k.shards ++ shards, sessions := k.sessions ++ sessions }
    .next (State.ckptLook (k.tables.length + 8) (s.modJob job (fun x => { x with ckpt := some k })) job)

/-- COMMIT_NOTICE (R411): a member that has sent its entries completes with OK. -/
def execCommitNotice (job : Nat) (s : State) : Res := s.ifReady <|
  match (s.job job).ckpt with
  | none => .next s
  | some k => if k.rank ≠ 0 ∧ k.sentAt.isSome then .next (s.ckptCommit job k 0) else .next s

/-- ABORT_NOTICE (R413): rank 0 completes with the member's code and relays it; a member completes. -/
def execAbortNotice (job code : Nat) (s : State) : Res := s.ifReady <|
  match (s.job job).ckpt with
  | none => .next s
  | some k => .next (s.ckptFail job code (k.rank == 0))

/-- Rank 0 of a checkpoint can no longer be reached. -/
def State.rootLost (s : State) (j : Nat) (k : Ckpt) : Bool :=
  k.rank != 0 && (s.fabric.unreachable.contains (s.ckptRoot j k) || (s.routeErr j (s.ckptRoot j k)).isSome)

/-- CKPT_BUDGET (R413): BUDGET_US has passed. A member that rank 0 has left without a notice fails with CKPT_GROUP_FAILED. -/
def execCkptBudget (job : Nat) (s : State) : Res := s.ifReady <|
  match (s.job job).ckpt with
  | none => .next s
  | some k => match k.deadline with
    | none => .next s
    | some t =>
      if s.now < t then .next s
      else if s.rootLost job k then .next (s.ckptFail job Code.ckptGroupFailed false)
      else .next (s.ckptFail job Code.ckptBudget true)

/-- COMMIT_NOTICE_TIMEOUT (R413): with BUDGET_US 0, COLL_US has passed without a commit notice from an unreachable rank 0. -/
def execCommitNoticeTimeout (job : Nat) (s : State) : Res := s.ifReady <|
  match (s.job job).ckpt with
  | none => .next s
  | some k =>
    let coll := ((mget (s.job job).fabGroups k.group).map (·.collUs)).getD 10000
    match k.deadline, k.sentAt with
    | none, some t => if t + coll ≤ s.now ∧ s.rootLost job k = true then .next (s.ckptFail job Code.ckptGroupFailed false) else .next s
    | _, _ => .next s

/-- A node is lost: checkpoints that write to it, or of whose group it is a member, fail; the loss of rank 0 is left to the member's
timer (R413). -/
def State.ckptNodeLost (s : State) (node : Nat) : State :=
  s.jobs.foldl (fun s e => match (s.job e.1).ckpt with
    | none => s
    | some k =>
      if (k.target = 4 ∧ k.dest = node) ∨ ((s.ckptNodes e.1 k).contains node = true ∧ node ≠ s.ckptRoot e.1 k) then
        s.ckptFail e.1 Code.ckptGroupFailed true
      else s) s

end Sys2Proof.Machine
end

