-- ==== Sys2Proof/Machine/Fabric.lean ====
section
/-!
DEFINITION. Sys2Proof/Machine/Fabric.lean: groups and collectives, ports and links, discovery, routes, and the settlement of packets
(13_nolmus_fabric, R345 to R363).
-/
namespace Sys2Proof.Machine

open Sys2Proof

/-! ## Groups and collectives -/

def kSetGroup : Kind :=
  { code := 0x0701, since := 1, cwell := none, keys := false, preempt := false, fields := [(128, 8), (136, 7), (160, 32), (192, 64)] }

/-- A list of numbers rises strictly. -/
def rising : List Nat → Bool
  | a :: b :: rest => decide (a < b) && rising (b :: rest)
  | _ => true

/-- SET_GROUP (R361, R419, R420). DESIGN CHOICE (log entry 53): GROUP 0, and N 1 or above 64, complete with BAD_GROUP; R361 names no code for them. A failed group stays failed unless it is removed, or redefined while SHRINK is 1; a model sharded over a
member that is lost then counts as not loaded. -/
def execSetGroup (job well : Nat) (d : Desc) (s : State) : Res :=
  s.takeUp kSetGroup job well d fun c s =>
    let h := dfld d 16 0 8; let n := dfld d 17 0 7; let us := dfld d 20 0 32
    if h = 0 ∨ n = 1 ∨ 64 < n then .next (s.complete c Code.badGroup)
    else if n = 0 then .next ((s.modJob job (fun x => { x with fabGroups := mdel x.fabGroups h })).complete c Code.ok)
    else if !s.addrOk job d 24 (2 * n) then .next (s.complete c Code.badAddress)
    else match s.fetch d 24 (2 * n) with
      | none => .next ((s.dmaFailed job).complete c Code.hostDmaError)
      | some bs =>
        let nodes := (List.range n).map (fun k => at_ bs (2 * k) 2)
        match firstFail [
          (rising nodes && nodes.contains s.node, Code.badGroup),
          (s.node != 0xFFFF && nodes.all (fun k => k == s.node || s.fabric.topo.any (fun r => r.node == k)), Code.noRoute)] with
        | some e => .next (s.complete c e)
        | none =>
          let old := mget (s.job job).fabGroups h
          let failed := old.any (·.failed)
          let shrink := bit (s.reg (Reg.ckpJob job)) 0
          let g : FabGroup :=
            { nodes := nodes, collUs := if us = 0 then 10000 else us, digest := sha256 bs, next := (old.map (·.next)).getD 0,
              failed := failed && !shrink }
          let lost := failed && shrink && (old.any (fun o => o.nodes.any (fun k => !nodes.contains k)))
          let s := if lost ∧ (s.modelOf job h).isSome = true then { s with models := mdel s.models h, serving := mdel s.serving h } else s
          .next ((s.modJob job (fun x => { x with fabGroups := mput x.fabGroups h g })).complete c Code.ok)

/-- The operation of a collective on two elements (R362): a sum modulo 2^48, or the maximum of signed bytes. -/
def collOp (op : Nat) (a b : BitVec 48) : BitVec 48 := if op = 1 then (if sext 8 a.toNat < sext 8 b.toNat then b else a) else a + b

/-- What a packet does to the collective `c` it belongs to (R362): a chunk that is being summed takes this rank's part and goes on; a total is kept and goes
on until it has been around once. With every chunk's total here, the step that waits for the collective goes on (R210). -/
def State.collTake (s : State) (job group : Nat) (g : FabGroup) (c : Coll) (p : CollPacket) : State :=
  let n := g.nodes.length; let r := s.rank g
  let first := if p.op = 2 then p.chunk else p.chunk + 1
  let last := if p.op = 2 then n - 1 else 2 * n - 2
  if p.op ≠ c.op ∨ n ≤ p.chunk ∨ (first + p.hop) % n ≠ r ∨ p.hop = 0 ∨ last < p.hop then s
  else
    let adding := p.op ≠ 2 ∧ p.hop < n
    let own := (chunkRange c.part.length n p.chunk).map (fun i => c.part.getD i 0)
    let elems := if adding then p.elems.zipWith (collOp p.op) own else p.elems
    let isTotal := p.op = 2 ∨ n - 1 ≤ p.hop
    let c := if isTotal then { c with done := mput c.done p.chunk elems } else c
    let ended := if p.op = 2 then !c.done.isEmpty else c.done.length == n
    let rest := s.fabric.colls.filter (fun x => !(x.job == job && x.group == group && x.seq == p.seq))
    let s := { s with fabric := { s.fabric with colls := if ended then rest else rest ++ [c] } }
    let s := if p.hop < last then
        s.sendColl job group g (s.stepShare (mgetD s.serving group {}).entries) (r + 1) { p with hop := p.hop + 1, elems := elems } else s
    if ended then s.collDone job group c.op (c.done.flatMap (·.2)) else s

/-- A collective packet reaches its group (R361, R363): one of another digest fails the collective; one of a collective this rank has not joined yet is kept
until it does. -/
def State.collPacket (s : State) (job group : Nat) (p : CollPacket) : State :=
  match mget (s.job job).fabGroups group with
  | none => s
  | some g =>
    if p.digest ≠ g.digest then s.collFail job group
    else match s.fabric.colls.find? (fun c => c.job == job && c.group == group && c.seq == p.seq) with
      | some c => s.collTake job group g c p
      | none => if p.seq < g.next then s else { s with fabric := { s.fabric with early := s.fabric.early ++ [(job, group, p)] } }

/-- COLLECTIVE_PACKET (R362, R363). -/
def execCollectivePacket (job group : Nat) (p : CollPacket) (s : State) : Res := s.ifReady <| .next (s.collPacket job group p)

/-- The collective engine has taken a collective up: the packets of other ranks that came before it are looked at again. -/
def State.collJoined (s : State) : State :=
  s.fabric.early.foldl (fun s e => s.collPacket e.1 e.2.1 e.2.2) { s with fabric := { s.fabric with early := [] } }

/-- COLLECTIVE_TIMEOUT (R363): COLL_US has passed. -/
def execCollectiveTimeout (job group seq : Nat) (s : State) : Res := s.ifReady <|
  match s.fabric.colls.find? (fun c => c.job == job && c.group == group && c.seq == seq) with
  | none => .next s
  | some c => if c.deadline ≤ s.now then .next (s.collFail job group) else .next s

/-! ## Topology (R352 to R356) -/

/-- The identity certificate's serial number, compared as an unsigned big-endian number (R353). -/
def ownSerial : Nat := Config.serial.toNat

/-- States of a logical port (Table 13.11). -/
def PortState.down := 0
def PortState.training := 1
def PortState.up := 2
def PortState.probation := 3
def PortState.failed := 4

/-- Directed links of the kept records, v2 only where asked. -/
def Fabric.edges (f : Fabric) (v2 : Bool) : List (Nat × Nat) :=
  f.topo.flatMap (fun r => (r.links.filter (fun l => !v2 || l.ver == 2)).flatMap (fun l => [(r.serial, l.peerSerial), (l.peerSerial, r.serial)]))

/-- The devices within `n` hops of a set. -/
def reach (es : List (Nat × Nat)) : Nat → List Nat → List Nat
  | 0, xs => xs
  | n + 1, xs => reach es n (xs ++ ((es.filter (fun e => xs.contains e.1 && !xs.contains e.2)).map (·.2)).eraseDups)

/-- The topology: the connected set of this device (R352). -/
def Fabric.connected (f : Fabric) : List Nat := reach (f.edges false) f.topo.length [ownSerial]

/-- The lowest serial number of the topology is the coordinator's (R353). -/
def Fabric.coordinator (f : Fabric) : Bool := f.topo.any (fun r => r.serial == ownSerial) && f.connected.all (fun x => decide (ownSerial ≤ x))

/-- Hops from a device to the device `to`, over v2 links, at most `n`. -/
def hopsTo (es : List (Nat × Nat)) (n src dst : Nat) : Option Nat := (List.range (n + 1)).find? (fun k => (reach es k [dst]).contains src)

/-- Up to four logical ports on minimum-hop v2 paths to a device, lowest first (R356). -/
def Fabric.portsFor (f : Fabric) (serial : Nat) : List Nat :=
  let es := f.edges true; let n := f.topo.length
  match hopsTo es n ownSerial serial with
  | none => []
  | some h =>
    if h = 0 then []
    else ((f.ports.filter (fun e => e.2.state == PortState.up && e.2.ver == 2 && hopsTo es n e.2.peerSerial serial == some (h - 1))).map (·.1)).take 4

/-- Compute the route table from the topology. -/
def State.reroute (s : State) : State :=
  let f := s.fabric
  let known := f.topo.filter (fun r => f.connected.contains r.serial && r.node != 0xFFFF && r.serial != ownSerial)
  { s with fabric := { f with routes := known.foldl (fun (m : Map (List Nat)) r => mput m r.node (f.portsFor r.serial)) [] } }

/-- This device's own record (R352). -/
def State.ownRecord (s : State) : TopoRec :=
  { serial := ownSerial, node := s.node, gen := s.fabric.gen, links := (s.fabric.ports.filter (fun e => e.2.state == PortState.up)).map (fun e =>
      { port := e.1, peerSerial := e.2.peerSerial, peerPort := e.2.peerPort, ver := e.2.ver, lanes := e.2.lanes }) }

/-- Send a management packet out of a port (VC 0), as far as the link is up or in probation. -/
def State.manage (s : State) (l type : Nat) (data : List Byte) : State :=
  let o := s.port l
  if o.state ≠ PortState.up ∧ o.state ≠ PortState.probation then s
  else
    let key := o.peer * 8
    let n := mgetD s.fabric.sendSeq key 0 + 1
    let p : Packet := { dst := o.peer, src := s.node, vc := 0, enc := false, type := type, tag := 0, flow := 0, hops := 32, arg := 0, seq := n % 2 ^ 61, data := data }
    let s := { s with fabric := { s.fabric with sendSeq := mput s.fabric.sendSeq key n } }
    State.egress (o.queue.length + 2) (s.setPort l { o with queue := o.queue ++ [p] }) l
def State.flood (s : State) (type : Nat) (data : List Byte) : State := s.fabric.ports.foldl (fun s e => s.manage e.1 type data) s

/-- The bytes of a topology record; the manual gives no layout (log entry 11). -/
def recordBytes (r : TopoRec) : List Byte :=
  leBytes 16 r.serial ++ leBytes 2 r.node ++ leBytes 4 r.gen ++
    r.links.flatMap (fun l => leBytes 1 l.port ++ leBytes 16 l.peerSerial ++ [BitVec.ofNat 8 l.peerPort, BitVec.ofNat 8 l.ver, BitVec.ofNat 8 l.lanes])

/-- Keep a record in place of the older one of its device. -/
def State.keepRecord (s : State) (r : TopoRec) : State :=
  { s with fabric := { s.fabric with topo := s.fabric.topo.filter (fun x => x.serial != r.serial) ++ [r], changes := s.fabric.changes + 1 } }

/-- The own links or identifier changed: a new generation of the own record goes out. -/
def State.announce (s : State) : State :=
  let s := { s with fabric := { s.fabric with gen := s.fabric.gen + 1 } }
  let r := s.ownRecord
  ((s.keepRecord r).flood Msg.topology (recordBytes r)).reroute

/-- Set the own identifier; the job-visible node of registers follows. -/
def State.setNode (s : State) (n : Nat) : State := { s with fabric := { s.fabric with node := n } }

/-- The first identifier from `n` on that no record of the topology holds. -/
def freeIdent (used : List Nat) : Nat := ((List.range (used.length + 1)).map (· + 1)).find? (fun n => !used.contains n) |>.getD 0xFFFF

/-- As coordinator, give an identifier to every device that has none, or has lost it, in ascending serial order (R354). -/
def State.assignIdents (s : State) : State :=
  if !s.fabric.coordinator then s
  else
    let here := s.fabric.topo.filter (fun r => s.fabric.connected.contains r.serial)
    let lacks (r : TopoRec) : Bool := r.node == 0xFFFF || here.any (fun x => x.node == r.node && decide (x.serial < r.serial))
    let need := sortBy (fun (a b : TopoRec) => decide (a.serial ≤ b.serial)) (here.filter lacks)
    (need.foldl (fun (st : State × List Nat) r =>
      let n := freeIdent st.2
      let s := if r.serial = ownSerial then (st.1.setNode n).announce
        else (st.1.keepRecord { r with node := n }).flood Msg.assignment (leBytes 16 r.serial ++ leBytes 2 n)
      (s, n :: st.2)) (s, (here.filter (fun r => !lacks r)).map (·.node))).1.reroute

/-! ## Failure of a destination (R351, R354, R373, R419) -/

/-- Is this work a SEND to a node, of any number or of one? Its program and the record its refusal writes, if so. -/
def Flight.sendTo (node : Nat) (seq : Option Nat) : Flight → Option (Nat × List Byte)
  | .send n q prog record => if n = node ∧ seq.all (· == q) = true then some (prog, record) else none
  | _ => none

/-- The SENDs to a node that are on their way, of any number or of one, whether their cores hold their job's state or a switch has put it away: job, core,
program and fault record. -/
def State.sendersTo (s : State) (node : Nat) (seq : Option Nat) : List (Nat × Nat × Nat × List Byte) :=
  s.progs.flatMap (fun p => p.2.cores.flatMap (fun c =>
    ((s.jobCore p.2.ctx.job c).flight.filterMap (Flight.sendTo node seq)).filterMap (fun f => if f.1 = p.1 then some (p.2.ctx.job, c, f.1, f.2) else none)))

/-- A SEND is over: it leaves its core's work in flight. -/
def State.dropSend (s : State) (job core node : Nat) (seq : Option Nat) : State :=
  let k := s.jobCore job core
  s.setJobCore job core { k with flight := k.flight.filter (fun f => (f.sendTo node seq).isNone) }

/-- A SEND is refused, or its node is unreachable: its program ends with PROGRAM_FAULT, cause FABRIC (R147, R351, R358). -/
def State.sendFails (s : State) (node : Nat) (seq : Option Nat) : State :=
  (s.sendersTo node seq).foldl (fun s e =>
    ((s.dropSend e.1 e.2.1 node seq).stopProg e.2.2.1 Code.programFault e.2.2.2).endProg e.2.2.1) s

/-- Every service that waits on a node fails as its own rule lays down. -/
def State.nodeLost (s : State) (node : Nat) : State :=
  let s := { s with fabric := { s.fabric with unacked := s.fabric.unacked.filter (fun u => u.pkt.dst != node) } }
  let s := s.sendFails node none
  let s := s.sessAux.foldl (fun s (e : Nat × SessAux) => match e.2.move with
    | none => s
    | some m =>
      if (m.kind == .peer && m.place == node) || (m.src == .parked && m.kind != .handoff && gTier (s.sess e.1).root == 4 && gNode (s.sess e.1).root == node) then
        s.moveFails e.1 Code.tierError false
      else s) s
  let s := s.reqAux.foldl (fun s (e : Nat × ReqAux) =>
    let root := (s.sess (s.req e.1).session).root
    if e.2.ended.isNone && decide (e.2.landed < e.2.extent) && gTier root == 4 && gNode root == node then s.endReq e.1 Code.tierError false else s) s
  let s := s.jobs.foldl (fun s (e : Nat × Job) => e.2.fabGroups.foldl (fun s (g : Nat × FabGroup) =>
    if g.2.nodes.contains node then
      let s := if s.fabric.colls.any (fun c => c.job == e.1 && c.group == g.1) then s.collFail e.1 g.1 else s
      s.modJob e.1 (fun x => { x with fabGroups := mchange x.fabGroups g.1 (fun y => { y with failed := true }) })
    else s) s) s
  let s := s.fabric.xfers.foldl (fun s (e : Nat × Xfer) =>
    if e.2.outbound && e.2.peer == node && e.2.turn.isSome && (e.2.phase == .sending || e.2.phase == .sent) then s.splitBack e.1 e.2 false else s) s
  (s.ckptNodeLost node).peerSettled node none

/-- UNREACHABLE (R351): a packet to the node has waited LOSS_US for its acknowledgement. -/
def execUnreachable (node : Nat) (s : State) : Res := s.ifReady <|
  let us := let v := fld (s.reg Reg.nlmOwn) 48 16; if v = 0 then 10000 else 100 * v
  if s.fabric.unacked.any (fun u => u.pkt.dst == node && decide (u.first + us ≤ s.now)) then
    let s := { s with fabric := { s.fabric with unreachable := node :: s.fabric.unreachable.filter (· != node) } }
    .next (s.nodeLost node)
  else .next s

/-- ACKNOWLEDGEMENT (R351): the packet with this number on this channel to `src` is settled. -/
def execAcknowledgement (src vc seq : Nat) (s : State) : Res := s.ifReady <|
  match s.fabric.unacked.find? (fun u => u.pkt.dst == src && u.pkt.vc == vc && u.pkt.seq == seq) with
  | none => .next s
  | some u =>
    let s := { s with fabric := { s.fabric with unacked := s.fabric.unacked.erase u, unreachable := s.fabric.unreachable.filter (· != src) } }
    if u.pkt.type = Msg.send then
      .next ((s.sendersTo src (some seq)).foldl (fun s e => (s.dropSend e.1 e.2.1 src (some seq)).endProg e.2.2.1) s)
    else if u.pkt.type = Msg.peerFree then .next (s.peerSettled src (some u.pkt.arg))
    else .next s

/-- NACK (R358): the packet matched no job of the destination. -/
def execNack (dst vc seq : Nat) (s : State) : Res := s.ifReady <|
  match s.fabric.unacked.find? (fun u => u.pkt.dst == dst && u.pkt.vc == vc && u.pkt.seq == seq) with
  | none => .next s
  | some u =>
    let s := { s with fabric := { s.fabric with unacked := s.fabric.unacked.erase u } }
    .next (if u.pkt.type = Msg.send then s.sendFails dst (some seq) else s)

/-- RETRANSMIT_TIMER (R351): packets that have waited 100 µs for their acknowledgement are sent again. -/
def execRetransmitTimer (dst vc : Nat) (s : State) : Res := s.ifReady <|
  let due := s.fabric.unacked.filter (fun u => u.pkt.dst == dst && u.pkt.vc == vc && decide (u.last + 100 ≤ s.now))
  let s := { s with fabric := { s.fabric with unacked := s.fabric.unacked.map (fun (u : OutPkt) => if due.contains u then { u with last := s.now } else u) } }
  .next (due.foldl (fun s u => s.place u.pkt (s.jobOfTag u.pkt.tag) u.share) s)

/-! ## Links (R345 to R348) -/

/-- Packets that waited on a port that has gone down take another listed port, or are dropped as unroutable (R356, R357). -/
def State.rehome (s : State) (ps : List Packet) : State :=
  ps.foldl (fun s p =>
    match s.choosePort (s.portsTo p.dst (if s.ownPacket p then s.jobOfTag p.tag else none)) p with
    | none => s.dropped 32
    | some l =>
      let o := s.port l
      State.egress (o.queue.length + 2) (s.setPort l { o with queue := o.queue ++ [p] }) l) s

/-- A logical port goes to a state without a link. -/
def State.portDown (s : State) (l st : Nat) : State :=
  let o := s.port l
  if o.state = st ∧ o.queue.isEmpty = true ∧ o.ver = 0 then s
  else
    let was := decide (o.state = PortState.up)
    let s := s.setPort l { o with state := st, ver := 0, lanes := 0, peer := 0, peerSerial := 0, peerPort := 0, credits := [], queue := [] }
    let s := if was then s.announce else s
    s.rehome (o.queue.filter (fun p => p.vc != 0))

/-- Does a logical port exist, and with how many lanes (R345)? -/
def State.portLanes (s : State) (l : Nat) : Nat :=
  let c := s.reg (Reg.portCtl (l / 2))
  if bit c 1 then 8 else if l % 2 = 0 then 16 else 0

/-- What a port is when no link is up: TRAINING while it is enabled and in service. -/
def State.portIdle (s : State) (l : Nat) : Nat :=
  match mget s.errs.units (unitKey .port l) with
  | some u => if u.state = 2 then PortState.probation else PortState.failed
  | none => if bit (s.reg (Reg.portCtl (l / 2))) 0 && s.portLanes l != 0 then PortState.training else PortState.down

/-- PORT_CTL_WRITE (Table 13.10): the port goes down and trains again. -/
def execPortCtlWrite (n : Nat) (v : W64) (s : State) : Res := s.ifUp <|
  if !onlyFields v [(0, 4)] then .fault .unpredictableDevice
  else
    let s := s.setReg (Reg.portCtl n) v
    .next ([2 * n, 2 * n + 1].foldl (fun s l => s.portDown l (s.portIdle l)) s)

/-- May a link come up on this port at this version and width (R345, R346)? -/
def State.linkAllowed (s : State) (l ver lanes : Nat) : Bool :=
  let c := s.reg (Reg.portCtl (l / 2))
  let only := fld c 2 2
  decide (l < 32) && bit c 0 && lanes != 0 && lanes == s.portLanes l && decide (1 ≤ ver ∧ ver ≤ 2) && (only == 0 || only == 3 || only == ver)

/-- LINK_UP (R346, R352): the link comes up, probes are exchanged, and the topology changes. A port in probation carries only VC 0
until it is readmitted (R486). -/
def execLinkUp (port ver lanes : Nat) (peerSerial peerNode peerPort : Nat) (s : State) : Res := s.ifUp <|
  let o := s.port port
  if !s.linkAllowed port ver lanes ∨ o.state = PortState.up ∨ (mget s.errs.units (unitKey .port port)).any (fun u => u.state == 1) = true then .next s
  else
    let st := if (mget s.errs.units (unitKey .port port)).isSome then PortState.probation else PortState.up
    let s := s.setPort port { o with state := st, ver := ver, lanes := lanes, peer := peerNode, peerSerial := peerSerial, peerPort := peerPort }
    let s := s.manage port Msg.probe (leBytes 16 ownSerial ++ leBytes 2 s.node ++ leBytes 1 port)
    if st = PortState.up then .next s.announce.assignIdents else .next s

/-- LINK_DOWN (R347, R485): the packets in flight on the link are lost, and recovered end to end. A port that goes FAILED is out of service. -/
def execLinkDown (port : Nat) (failed : Bool) (s : State) : Res := s.ifUp <|
  if 32 ≤ port then .next s
  else
    let s := if failed then { s with errs := { s.errs with units := mput s.errs.units (unitKey .port port) { state := 1, failed := false } } } else s
    .next ((s.portDown port (if failed then PortState.failed else s.portIdle port)).assignIdents)

/-- PROBE (R352): the neighbour's serial number, identifier and logical port. -/
def execProbe (port : Nat) (serial node peerPort : Nat) (s : State) : Res := s.ifUp <|
  let o := s.port port
  if o.state ≠ PortState.up ∧ o.state ≠ PortState.probation then .next s
  else if o.peerSerial = serial ∧ o.peer = node ∧ o.peerPort = peerPort then .next s
  else
    let s := s.setPort port { o with peerSerial := serial, peer := node, peerPort := peerPort }
    .next (if o.state = PortState.up then s.announce.assignIdents else s)

/-- This device loses its identifier to one with a lower serial number (R354). -/
def State.checkOwnIdent (s : State) : State :=
  if s.node ≠ 0xFFFF ∧ s.fabric.topo.any (fun r => r.node == s.node && decide (r.serial < ownSerial) && s.fabric.connected.contains r.serial) = true then
    (s.setNode 0xFFFF).announce
  else s

/-- TOPOLOGY_RECORD (R352 to R356): the newest record of a device is kept and flooded on; the coordinator, the identifiers and the routes follow.
An identifier that a device has lost is treated as unreachable. -/
def execTopologyRecord (r : TopoRec) (s : State) : Res := s.ifUp <|
  let old := s.fabric.topo.find? (fun x => x.serial == r.serial)
  if r.serial = ownSerial ∨ old.any (fun x => decide (r.gen ≤ x.gen)) = true then .next s
  else
    let s := ((s.keepRecord r).flood Msg.topology (recordBytes r)).reroute
    let s := match old with
      | some x => if x.node ≠ r.node ∧ x.node ≠ 0xFFFF then s.nodeLost x.node else s
      | none => s
    .next (s.checkOwnIdent.assignIdents)

/-- IDENTIFIER_ASSIGNMENT (R354): the coordinator's record reaches this device, which keeps an identifier it holds. -/
def execIdentifierAssignment (serial node : Nat) (s : State) : Res := s.ifUp <|
  if node = 0 ∨ 0xFFFF ≤ node then .next s
  else if serial = ownSerial then (if s.node = 0xFFFF then .next (s.setNode node).announce else .next s)
  else match s.fabric.topo.find? (fun x => x.serial == serial) with
    | none => .next s
    | some r =>
      if r.node = node then .next s
      else .next (((s.keepRecord { r with node := node }).flood Msg.assignment (leBytes 16 serial ++ leBytes 2 node)).reroute)

/-! ## Packets that pass through -/

/-- PACKET_FORWARD (R349, R356, R357): a packet for another node leaves on a listed port, or is dropped and counted. -/
def execPacketForward (p : Packet) (s : State) : Res := s.ifUp <|
  if p.dst = s.node then .next s
  else if p.hops ≤ 1 then .next (s.dropped 48)
  else .next (s.place { p with hops := p.hops - 1 } none 0)

/-- CREDIT_GRANT (R350): credits in 64 B units let packets that waited leave. -/
def execCreditGrant (port vc units : Nat) (s : State) : Res := s.ifUp <|
  let o := s.port port
  if o.state ≠ PortState.up ∧ o.state ≠ PortState.probation then .next s
  else .next (State.egress (o.queue.length + 2) (s.setPort port { o with credits := mput o.credits vc (mgetD o.credits vc 0 + units) }) port)

/-- V1_WRITE (R348): a v1 write is exchanged with a VT-L1024 under that part's own manual, which gives its effect. -/
def execV1Write (_p : Packet) (_s : State) : Res := .refused .otherManual

end Sys2Proof.Machine
end

