-- ==== Sys2Proof/Machine/Restore.lean ====
section
/-!
DEFINITION. Sys2Proof/Machine/Restore.lean: reading a checkpoint back (15_checkpoint_restore, R414 to R418, R420).
-/
namespace Sys2Proof.Machine

open Sys2Proof

/-! ## Sources -/

/-- An entry of the source map (Table 15.8): tier, node or region, base grain; none for a tier the map does not have. -/
def mapPlace (e : List Byte) : Option (Nat × Nat × Nat) :=
  if at_ e 0 1 = 2 then some (2, at_ e 2 2, 0) else if at_ e 0 1 = 3 then some (3, at_ e 4 2, at_ e 8 8) else none

/-- Read `n` bytes from grain `g` of a place: own flash, another device's (free values, R415), or a T3 region; or the code of the failure. -/
def State.srcRead (s : State) (j : Nat) (p : Nat × Nat × Nat) (g n : Nat) : Except Nat (List Byte × State) :=
  if p.1 = 3 then
    match mget (s.job j).regions p.2.1 with
    | none => .error Code.badRegion
    | some r => match Memory.readAll s.host (r.at_ (p.2.2 + g)) n with
      | none => .error Code.ckptGroupFailed
      | some b => .ok (b, s)
  else if p.2.1 = s.node then
    if s.ftl.state = 0 then .error Code.noFlash
    else match s.ftl.objects.find? (fun e => decide (e.1 ≤ g) && decide (g < e.1 + e.2.count) && e.2.complete) with
      | none => .error Code.ckptGroupFailed
      | some (a, o) => .ok (sub (s.ftl.content a o) (16384 * (g - a)) n, { s with ftl := s.ftl.countReads ((List.range (cdiv n 16384)).map (g + ·)) })
  else if (s.routeErr j p.2.1).isSome then .error Code.ckptGroupFailed
  else
    let (d, s) := s.draw
    .ok ((List.range n).map (Config.peerByte d), s)

/-- Read several runs; the first failure ends it. -/
def State.srcAll (s : State) (j : Nat) (xs : List ((Nat × Nat × Nat) × Nat × Nat)) : Except Nat (List (List Byte) × State) :=
  xs.foldl (fun r x => match r with
    | .error e => .error e
    | .ok (bs, s) => match s.srcRead j x.1 x.2.1 x.2.2 with
      | .error e => .error e
      | .ok (b, s) => .ok (bs ++ [b], s)) (.ok ([], s))

/-! ## The manifest -/

def readShardEntry (b : List Byte) : ShardEntry :=
  { tensor := BitVec.ofNat 64 (at_ b 0 8), rank := at_ b 8 1 % 64, tier := at_ b 9 1 % 8, len := at_ b 16 8, addr := at_ b 24 8,
    digest := BitVec.ofNat 256 (at_ b 32 32) }
def readSessRecord (b : List Byte) : SessRecord :=
  { index := at_ b 0 4 % 2 ^ 24, grains := at_ b 4 4, rank := at_ b 8 1 % 64, tier := at_ b 9 1 % 8, addr := at_ b 16 8,
    modelDigest := BitVec.ofNat 256 (at_ b 32 32), edigest := BitVec.ofNat 256 (at_ b 64 32) }

/-- Table 15.5: the header of a manifest is well formed. -/
def manifestHead (b : List Byte) : Bool :=
  let n := at_ b 32 4; let m := at_ b 36 4
  at_ b 0 4 == 0x4E414D43 && decide (at_ b 4 1 = 1 ∨ at_ b 4 1 = 2) && (at_ b 4 1 == 2 || m == 0) &&
    at_ b 40 8 == 128 + 64 * n + 96 * m + (if (at_ b 5 1).testBit 0 then at_ b 84 4 else 0)

/-- The manifest without DIGEST and signature, as DIGEST covers it. -/
def manifestBlank (b : List Byte) : List Byte :=
  let b := patch b 48 (zeros 32)
  if (at_ b 5 1).testBit 0 then patch b (at_ b 80 4) (zeros (min (at_ b 84 4) (b.length - at_ b 80 4))) else b

/-- Read and check a manifest (R415 steps 1 to 3). -/
def State.readManifest (s : State) (j : Nat) (p : Nat × Nat × Nat) (g : Nat) (requireSig : Bool) : Except Nat (List Byte × State) :=
  match s.srcRead j p g 128 with
  | .error e => .error e
  | .ok (h, s) =>
    if !manifestHead h then .error Code.ckptManifestBad
    else match s.srcRead j p g (at_ h 40 8) with
      | .error e => .error e
      | .ok (b, s) =>
        if !manifestHead b || sha256 (manifestBlank b) ≠ BitVec.ofNat 256 (at_ b 48 32) then .error Code.ckptManifestBad
        else if BitVec.ofNat 32 (at_ b 24 4) ≠ s.jobTag j then .error Code.ckptManifestBad
        else if requireSig && !((at_ b 5 1).testBit 0 && Config.manifestVerify (sub b 48 32) (sub b (at_ b 80 4) (at_ b 84 4))) then
          .error Code.ckptSignature
        else .ok (b, s)

def manifestShards (b : List Byte) : List ShardEntry := (List.range (at_ b 32 4)).map (fun i => readShardEntry (sub b (128 + 64 * i) 64))
def manifestSess (b : List Byte) : List SessRecord :=
  if at_ b 4 1 = 1 then [] else (List.range (at_ b 36 4)).map (fun i => readSessRecord (sub b (128 + 64 * at_ b 32 4 + 96 * i) 96))

/-! ## Filling a destination (R416) -/

/-- The element of a piece that lies at global coordinates, if it holds one. -/
def Piece.lookup (p : Piece) (g : List Nat) : Option (List Nat) :=
  (List.range p.ndim).mapM (fun d =>
    let x := g.getD d 0; let o := p.off.getD d 0; let t := p.str.getD d 1
    if o ≤ x ∧ (x - o) % t = 0 ∧ (x - o) / t < p.ext.getD d 1 then some ((x - o) / t) else none)

/-- The number of the run that an element lies in. -/
def Piece.runOf (p : Piece) (i : List Nat) : Nat := (List.range (p.ndim - 1)).foldl (fun r d => r * p.ext.getD d 1 + i.getD d 0) 0

/-- The bytes of an element, and the block exponent it shares. -/
def Piece.elem (p : Piece) (i : List Nat) : List Byte :=
  let k := i.getD (p.ndim - 1) 0
  sub p.payload (p.runOf i * rowRun p.dtype p.last + k * elemLen p.dtype) (elemLen p.dtype)
def Piece.expOf (p : Piece) (i : List Nat) : Byte :=
  let k := i.getD (p.ndim - 1) 0
  (p.payload[p.runOf i * rowRun p.dtype p.last + p.last + k / 32]?).getD 0

/-- The coordinates of run `r` within a piece, its last one 0. -/
def Piece.coords (p : Piece) (r : Nat) : List Nat :=
  ((List.range (p.ndim - 1)).foldr (fun d (st : Nat × List Nat) => let x := p.ext.getD d 1; (st.1 / max 1 x, (st.1 % max 1 x) :: st.2)) (r, [])).2

/-- Pieces that may fill a destination: the same tensor, form and global shape; bytes cannot be re-sliced (R408). -/
def Piece.source (dst p : Piece) : Bool :=
  p.id == dst.id && p.dtype == dst.dtype && p.ndim == dst.ndim && p.shape == dst.shape &&
    (dst.dtype != 0 || (p.off == dst.off && p.ext == dst.ext && p.str == dst.str))

/-- R416: the payload of a destination; none when an element is covered by no shard, or by two. -/
def Piece.filled (dst : Piece) (shards : List Piece) : Option (List Byte) :=
  let src : List Piece := shards.filter dst.source
  let run (r : Nat) : Option (List Byte) :=
    let c := dst.coords r
    let cell (k : Nat) : Option (List Byte × Byte) :=
      let i := c ++ [k]
      let g := (List.range dst.ndim).map (fun d => dst.off.getD d 0 + i.getD d 0 * dst.str.getD d 1)
      match src.filterMap (fun (p : Piece) => (p.lookup g).map (fun x => (p.elem x, p.expOf x))) with
      | [x] => some x
      | _ => none
    ((List.range dst.last).mapM cell).map (fun (es : List (List Byte × Byte)) => es.flatMap (·.1) ++
      (if dst.dtype = 1 then (List.range (cdiv dst.last 32)).map (fun b => ((es[32 * b]?).map (·.2)).getD 0) else []))
  ((List.range dst.runs).mapM run).map (fun (rs : List (List Byte)) => rs.flatMap (fun b => b))

/-! ## What a restore makes -/

/-- A run written in flash for a restore. -/
abbrev Runs := List (Nat × Nat)

/-- A restored adapter: SCALE and the model's digest stand in no shard (R409), so the handle's current version gives them where it has
one; otherwise the model is a free choice among those that fit and SCALE is free (log entry 30). -/
def State.restoreAdapter (s : State) (j h : Nat) (shards : List Piece) : Except Nat (AdapterVer × State) :=
  let mine := shards.filter (fun p => p.id >>> 56 == 1 && p.id >>> 40 % 65536 == h)
  let targets := (List.range 7).foldl (fun n t => if mine.any (fun p => p.id >>> 16 % 256 == t) then n + 2 ^ t else n) 0
  let rank := match mine.find? (fun p => p.id >>> 8 % 256 == 0) with
    | some p => p.shape.getD 0 0
    | none => 0
  let old := (s.job j).adapterCurrent h
  let (d, s) := s.draw
  let fits (m : Model) : Bool := m.job == j && !m.damaged && (factorShapes m rank targets).all (fun f =>
    mine.any (fun p => p.id == tensorId 1 h f.2.1 f.1 f.2.2.1 && p.shape == [f.2.2.2.1, f.2.2.2.2, 0, 0]))
  let cands := (s.models.filter (fun e => fits e.2)).map (·.1)
  let mh := match old with
    | some v => if cands.contains v.model then some v.model else none
    | none => cands[Config.freeNat d % max 1 cands.length]?
  match mh, mh.bind (fun i => mget s.models i) with
  | some i, some m =>
    let scale := (old.map (·.scale)).getD (BitVec.ofNat 32 (Config.freeNat d))
    let head := leBytes 4 0x5044414C ++ [1, BitVec.ofNat 8 rank] ++ leBytes 2 targets ++ leBytes 4 scale.toNat ++ zeros 4 ++ leBytes 32 m.digest.toNat ++ zeros 16
    match (factorShapes m rank targets).mapM (fun f =>
        Piece.filled { dtype := 1, ndim := 2, id := tensorId 1 h f.2.1 f.1 f.2.2.1, shape := [f.2.2.2.1, f.2.2.2.2, 0, 0], off := [0, 0, 0, 0],
                       ext := [f.2.2.2.1, f.2.2.2.2, 1, 1], str := [1, 1, 1, 1], payload := [] } mine) with
    | none => .error Code.ckptGap
    | some fs => .ok ({ ver := 0, model := i, rank := rank, targets := targets, scale := scale, image := head ++ fs.flatMap (fun b => b), users := 0,
                        damaged := false, resident := false, lastStep := s.now }, s)
  | _, _ => .error Code.adapterBad

/-- A restored table: the local rows of this device's rank; EXP_CAP stands in no shard and comes from the handle's current version, or is
free; so is where the rows are placed (log entry 30). -/
def State.restoreTable (s : State) (j h rank : Nat) (nodes : List Nat) (shards : List Piece) : Except Nat (TableVer × Runs × State) :=
  let id := tensorId 2 h 0 0 0
  match shards.find? (fun p => p.id == id) with
  | none => .error Code.ckptGap
  | some p =>
    let rows := p.shape.getD 0 0; let dim := p.shape.getD 1 0
    let n := max 1 nodes.length; let loc := localRows rows n rank
    let dst : Piece := { dtype := 1, ndim := 2, id := id, shape := p.shape, off := [rank, 0, 0, 0], ext := [loc, dim, 1, 1], str := [n, 1, 1, 1], payload := [] }
    match dst.filled shards with
    | none => .error Code.ckptGap
    | some bytes =>
      let (d, s) := s.draw
      let cap := match (s.table j h).bind Table.cur with
        | some v => v.expCap
        | none => sext 8 (Config.freeNat d)
      let rl := rowLen dim; let run := dim + dim / 32
      let hot := Config.freeBool d || s.ftl.state != 2
      let row (k : Nat) : List Byte := sub (sub bytes (k * run) run) 0 rl
      let rowMap : Map TableRow := (List.range loc).map (fun k =>
        (k, { tier := if hot then 1 else 2, region := 0, offset := k, bytes := row k }))
      let v (areas : List (Nat × Nat × Nat × Nat)) : TableVer :=
        { ver := 0, dim := dim, rows := rows, expCap := cap, nodes := nodes, rowMap := rowMap, users := 0, damaged := false, areas := areas }
      let count := grainsOf (loc * rl)
      if !s.roomAfter j 0 ((if hot then count else 0) + grainsOf (8 * loc)) then .error Code.ckptNoRoom
      else if hot || loc = 0 then .ok (v [], [], s)
      else match s.generalPlace j count ((List.range loc).flatMap row) with
        | none => .error Code.ckptNoRoom
        | some (a, s) => .ok (v [(2, 0, a, count)], [(a, count)], s)

/-- A restored session: a new index, PARKED, its extent copied into the cistern (R417). -/
def State.restoreSession (s : State) (j old : Nat) (h : Nat) (m : Model) (gs : List (List Byte)) (taken : List Nat) (used : Nat) :
    Except Nat ((Nat × Nat × Session × SessAux) × Runs × State) :=
  let (d, s) := s.draw
  let all := taken.foldl (fun (mm : Map Unit) i => mput mm i ()) (s.sessions.map (fun e => (e.1, ())))
  match mfree all (Config.freeNat d % 2 ^ 24) (2 ^ 24) with
  | none => .error Code.tableFull
  | some i =>
    if fld (s.reg (Reg.jobQuota j)) 0 25 ≤ s.sessCount j + used then .error Code.sessionQuota
    else
      let (x0, a0) := readExtent gs 0
      let count := extentLen (m.layers * m.kvh) x0.retained
      match s.extentPlace j 2 0 count with
      | (.error e, _) => .error (if e = Code.cisternFull then Code.ckptNoRoom else e)
      | (.ok root, s) =>
        let (x, a) := readExtent gs root
        let x : Session := { x with job := j, model := h, conf := (s.job j).conf, curReq := 0, expiry := s.expiryIn a0.ttlParked, lastActive := s.now % 2 ^ 48 }
        let a : SessAux := { a with layers := m.layers, kvh := m.kvh, modelDigest := m.digest, jobTag := s.jobTag j, keyset := (s.job j).keys.keyset }
        .ok ((old, i, x, a), [(gAddr root, count)],
          s.flashWrite (gAddr root) { count := count, session := some (i, x, a), bytes := [], complete := false, queued := false, job := j } (x.grains.map (·.kind)))

/-! ## RESTORE -/

def kRestore : Kind :=
  { code := 0x0803, since := 1, cwell := some 152, keys := false, preempt := false,
    fields := [(128, 8), (136, 4), (144, 6), (152, 4), (160, 32), (192, 64), (256, 64), (320, 17), (384, 64), (448, 64)] }

/-- Report records of R415. -/
def State.report (s : State) (d : Desc) (rs : List (Nat × Nat)) : State :=
  if dfld d 48 0 64 = 0 then s
  else (rs.zipIdx).foldl (fun s r => s.wr (dhbm d 48) (daddr d 48 + 16 * r.2) (leBytes 8 r.1.1 ++ leBytes 8 r.1.2)) s

/-- The grains of an extent as its source holds them, unsealed where the region seals; none when a tag fails. -/
def State.openExtent (s : State) (j : Nat) (p : Nat × Nat × Nat) (n : Nat) (b : List Byte) : Option (List (List Byte)) :=
  let gs := cutGrains n b
  if p.1 = 3 ∧ s.t3Sealed j p.2.1 = true then gs.mapM (unsealGrain (s.t3KeyOf j)) else some gs

/-- The versions, tables and sessions of a restore become current, all at once (R416 to R418). -/
def State.restoreDone (s : State) (j : Nat) (r : Restore) : State :=
  let s := r.adapters.foldl (fun s e => s.modJob j (fun x =>
    let o := mgetD x.adapters e.1 { current := none, last := 0, versions := [] }
    let v := o.last % 0xFFFF + 1
    { x with adapters := mput x.adapters e.1 { current := some v, last := v, versions := o.inUse ++ [{ e.2 with ver := v }] } })) s
  let s := r.tables.foldl (fun s e =>
    let o := (s.table j e.1).getD emptyTable
    let v := o.last % 0xFFFF + 1
    (s.setTable j e.1 { o with current := some v, last := v, versions := o.versions ++ [{ e.2.1 with ver := v, fresh := false }],
                               doneStep := some e.2.2, applied := some e.2.2 }).reapTable j e.1) s
  let s := r.sessions.foldl (fun s e => (s.setSess e.2.1 e.2.2.1).setAux e.2.1 e.2.2.2) s
  let s := match r.mapping with
    | none => s
    | some (hbm, a) => (r.sessions.zipIdx).foldl (fun s (e : (Nat × Nat × Session × SessAux) × Nat) => s.wr hbm (a + 8 * e.2) (leBytes 4 e.1.1 ++ leBytes 4 e.1.2.1)) s
  let s := match r.report with
    | none => s
    | some (hbm, a) => s.wr hbm (a + 4) (leBytes 4 r.skipped)
  s.complete r.ctx Code.ok

/-- Restores whose copies are durable complete. -/
def State.restoreLook (s : State) (j : Nat) : State :=
  let ready (r : Restore) : Bool := r.objects.all (fun o => match mget s.ftl.objects o.1 with
    | some f => f.complete
    | none => false)
  let go := (s.job j).restores.filter ready
  if go.isEmpty then s
  else
    let s := s.modJob j (fun x => { x with restores := x.restores.filter (fun r => !ready r) })
    go.foldl (fun s r => s.restoreDone j r) s

/-- Look at everything that waits for flash or engines: checkpoints and restores. -/
def State.looks (s : State) : State := (s.ckptLooks).jobs.foldl (fun s e => s.restoreLook e.1) s.ckptLooks

/-- Collect results one by one, stopping at the first failure. -/
def collect {α β : Type} (s : State) (xs : List α) (acc : β) (f : State → β → α → Except Nat (β × State)) : Except Nat (β × State) :=
  xs.foldl (fun r x => match r with
    | .error e => .error e
    | .ok (b, s) => f s b x) (.ok (acc, s))

/-- The checks of a manifest's shards and extents, in the order of R415 steps 4 and 5: their bytes, or the answer. -/
def State.restoreRead (s : State) (c : DescCtx) (d : Desc) (smap man : List Byte) (body : List (List Byte) → List (List (List Byte)) → State → Res) : Res :=
  let j := c.job
  let shards := manifestShards man; let recs := manifestSess man
  let place (r : Nat) := mapPlace (sub smap (16 * r) 16)
  match shards.mapM (fun e => place e.rank), recs.mapM (fun e => place e.rank) with
  | some ps, some qs =>
    let runs (n : ShardEntry → Nat) := (shards.zip ps).map (fun e => (e.2, e.1.addr, n e.1))
    match s.srcAll j (runs (fun _ => 192)) with
    | .error e => .next (s.complete c e)
    | .ok (heads, s) =>
      let mixed := (heads.zipIdx).filterMap (fun h => if at_ h.1 8 8 = at_ man 16 8 then none else some (h.2, at_ h.1 8 8))
      if !mixed.isEmpty then .next ((s.report d mixed).complete c Code.ckptMixedStep mixed.length)
      else match s.srcAll j (runs (·.len) ++ (recs.zip qs).map (fun (e : SessRecord × (Nat × Nat × Nat)) => (e.2, e.1.addr, 16384 * e.1.grains))) with
        | .error e => .next (s.complete c e)
        | .ok (all, s) =>
          let bs := all.take shards.length
          let held : List ((SessRecord × (Nat × Nat × Nat)) × List Byte) := (recs.zip qs).zip (all.drop shards.length)
          let exts := held.map (fun e => s.openExtent j e.1.2 e.1.1.grains e.2)
          let badS := ((shards.zip bs).zipIdx).filterMap (fun e =>
            if sha256 e.1.2 = e.1.1.digest ∧ shardOk e.1.2 = true ∧ at_ e.1.2 16 8 = e.1.1.tensor.toNat then none else some (e.2, at_ e.1.2 8 8))
          let badE := ((recs.zip exts).zipIdx).filterMap (fun e =>
            match e.1.2 with
            | some gs => if sha256 (gs.flatMap (fun g => g)) = e.1.1.edigest then none else some (shards.length + e.2, at_ man 16 8)
            | none => some (shards.length + e.2, at_ man 16 8))
          let bad := badS ++ badE
          if !bad.isEmpty then .next ((s.report d bad).complete c Code.ckptShardBad bad.length)
          else body bs (exts.map (·.getD [])) s
  | _, _ => .next (s.complete c Code.ckptBad)

/-- RESTORE (R415 to R418, R420). -/
def execRestore (job well : Nat) (d : Desc) (s : State) : Res :=
  s.takeUp kRestore job well d fun c s =>
    if !s.addrOk job d 24 1024 then .next (s.complete c Code.badAddress)
    else match s.fetch d 24 1024, s.ckptGroup job (dfld d 16 0 8) with
      | none, _ => .next ((s.dmaFailed job).complete c Code.hostDmaError)
      | _, .error e => .next (s.complete c e)
      | some smap, .ok (rank, nodes) =>
        if dfld d 40 0 17 > 65536 ∨ daddr d 48 % 64 ≠ 0 then .next (s.complete c Code.ckptBad)
        else s.tensorList c d 32 (dfld d 40 0 17) fun dests =>
          match mapPlace (sub smap (16 * dfld d 18 0 6) 16) with
          | none => .next (s.complete c Code.ckptBad)
          | some p => match s.readManifest job p (dfld d 20 0 32) (bit d 139) with
            | .error e => .next (s.complete c e)
            | .ok (man, s) =>
              let recs := manifestSess man
              if (dfld d 48 0 64 ≠ 0 ∧ s.addrOk job d 48 16 = false) ∨ (dfld d 56 0 64 ≠ 0 ∧ s.addrOk job d 56 (8 * recs.length) = false) then
                .next (s.complete c Code.badAddress)
              else s.restoreRead c d smap man fun bs exts s =>
                let s0 := s
                let pieces := bs.map readPiece
                let handles (kind : Nat) (on : Bool) : List Nat :=
                  if on then ((pieces.filter (fun q => q.id >>> 56 == kind)).map (fun q => q.id >>> 40 % 65536)).eraseDups else []
                match dests.mapM (fun e => ((listPiece e).filled pieces).map (fun (b : List Byte) => (listAddr e, b))) with
                | none => .next (s.complete c Code.ckptGap)
                | some fills =>
                  let r := collect s (handles 2 (bit d 137)) (([] : List (Nat × TableVer × Nat)), ([] : Runs)) (fun s st h =>
                    if 2 ≤ ((s.table job h).map (fun o => o.versions.length)).getD 0 then .error Code.versionBusy
                    else match s.restoreTable job h rank nodes pieces with
                      | .error e => .error e
                      | .ok (v, os, s) => .ok ((st.1 ++ [(h, v, at_ man 16 8)], st.2 ++ os), s))
                  match r with
                  | .error e => .next (s0.complete c e)
                  | .ok ((tables, objs), s) =>
                    let r := collect s (handles 1 (bit d 136)) ([] : List (Nat × AdapterVer)) (fun s st h =>
                      if 4 ≤ ((mget (s.job job).adapters h).map (fun o => o.inUse.length)).getD 0 then .error Code.adapterBusy
                      else match s.restoreAdapter job h pieces with
                        | .error e => .error e
                        | .ok (v, s) => if s.roomAfter job 0 (grainsOf v.image.length) then .ok (st ++ [(h, v)], s) else .error Code.ckptNoRoom)
                    match r with
                    | .error e => .next (s0.complete c e)
                    | .ok (adapters, s) =>
                      let found : List ((SessRecord × List (List Byte)) × Option (Nat × Model)) := (recs.zip exts).map (fun e => (e, s.models.find? (fun m => m.2.job == job && m.2.digest == e.1.modelDigest && e.1.rank == rank)))
                      let want := if bit d 138 then found.filterMap (fun e => e.2.map (fun m => (e.1, m))) else []
                      let skipped := if bit d 138 then (found.filter (fun e => e.2.isNone)).length else 0
                      let r := collect s want (([] : List (Nat × Nat × Session × SessAux)), ([] : Runs)) (fun s st e =>
                        match s.restoreSession job e.1.1.index e.2.1 e.2.2 e.1.2 (st.1.map (·.2.1)) st.1.length with
                        | .error e => .error e
                        | .ok (x, os, s) => .ok ((st.1 ++ [x], st.2 ++ os), s))
                      match r with
                      | .error e => .next (s0.complete c e)
                      | .ok ((sess, more), s) =>
                        let s := fills.foldl (fun s f => s.wr true f.1 f.2) s
                        let place (b : Nat) : Option (Bool × Nat) := if dfld d b 0 64 = 0 then none else some (dhbm d b, daddr d b)
                        let r : Restore :=
                          { ctx := c, place := (p.1, p.2.1, p.2.2 + dfld d 20 0 32), objects := objs ++ more, adapters := adapters, tables := tables,
                            sessions := sess, report := place 48, mapping := place 56, skipped := skipped }
                        .next ((s.modJob job (fun x => { x with restores := x.restores ++ [r] })).restoreLook job)

def kCkptFree : Kind := { kRestore with code := 0x0804, since := 3 }

/-- CKPT_FREE (R414): the manifest first, then every shard and extent it lists that lies on this device. -/
def execCkptFree (job well : Nat) (d : Desc) (s : State) : Res :=
  s.takeUp kCkptFree job well d fun c s =>
    if !s.addrOk job d 24 1024 then .next (s.complete c Code.badAddress)
    else match s.fetch d 24 1024 with
      | none => .next ((s.dmaFailed job).complete c Code.hostDmaError)
      | some smap =>
        match mapPlace (sub smap (16 * dfld d 18 0 6) 16) with
        | none => .next (s.complete c Code.ckptBad)
        | some p =>
          let g := dfld d 20 0 32
          if s.jobs.any (fun e => e.2.restores.any (fun r => r.place == (p.1, p.2.1, p.2.2 + g))) then .next (s.complete c Code.ckptBusy)
          else match s.readManifest job p g false with
            | .error e => .next (s.complete c e)
            | .ok (man, s) =>
              let here (q : Nat × Nat × Nat) : Bool := q.1 == 3 || q.2.1 == s.node
              let free (s : State) (q : Nat × Nat × Nat) (a n : Nat) : State :=
                if !here q then s else if q.1 = 3 then s.t3Give job q.2.1 (q.2.2 + a) else s.flashFree a n
              let s := free s p g (grainsOf man.length)
              let s := (manifestShards man).foldl (fun s e => match mapPlace (sub smap (16 * e.rank) 16) with
                | some q => free s q e.addr (grainsOf e.len)
                | none => s) s
              let s := (manifestSess man).foldl (fun s e => match mapPlace (sub smap (16 * e.rank) 16) with
                | some q => free s q e.addr e.grains
                | none => s) s
              .next (s.complete c Code.ok)

end Sys2Proof.Machine
end

