-- ==== Sys2Proof/Machine/Ends.lean ====
section
/-!
DEFINITION. Sys2Proof/Machine/Ends.lean: the end of engine commands (R335), and the flash events that touch sessions: the
trim journal (R387), a failed die (R393), the power-fail warning (R395, R396).
-/
namespace Sys2Proof.Machine

open Sys2Proof

/-! ## Engine commands -/

/-- What a command does when it ends, beside its accounting. The next piece of a text goes to the lane that tokenized this one (R273). Lanes T0 to T59 count the chunk cache (R270); how often it hits is
left open. -/
def State.workEnded (s : State) (cls inst : Nat) (x : EngCmd) (fail : Bool) (remote : List (Nat × List Byte)) : State :=
  match x.work with
  | .lane left =>
    let s := if inst < 60 then
        let (h, s) := s.draw
        let (m, s) := s.draw
        (s.countReg Reg.tokCache 0 32 (Config.freeNat h)).countReg Reg.tokCache 32 32 (Config.freeNat m)
      else s
    if left = 0 then s else s.enqueue Cls.lane { x with cost := inst + 1, work := .lane (left - 1) }
  | .move i => s.moveSliceEnded i x.cost
  | .pump n => s.pumpEnded x n
  | .search n => s.searchEnded n fail
  | .bag n b => s.bagEnded n b fail remote
  | .apply j t => s.applyEnded j t
  | .coll => s.collJoined
  | .sieve | .copy | .passMap | .turn => s
  | .packet _ _ _ => if cls = Cls.nlm then s.egress ((s.port inst).queue.length + 2) inst else s

/-- ENGINE_COMMAND_END (R335): `ended` charges the cycles, the command's own work follows, and the instance picks its next
command. -/
def execEngineCommandEnd (cls inst cyc : Nat) (fail : Bool) (remote : List (Nat × List Byte)) (s : State) : Res := s.ifReady <|
  match s.ended cls inst cyc with
  | none => .next s
  | some (x, s) => .next ((s.workEnded cls inst x fail remote).dispatch cls).looks

/-! ## Flash -/

/-- STRIPE_CLOSE (R384): the parity page of a full stripe is programmed. A stripe that is not full is not closed. -/
def execStripeClose (stream die : Nat) (s : State) : Res := s.ifUp <|
  match s.ftl.openSuper stream die with
  | none => .next s
  | some (_, sb) => if sb.fill.length = stripeGrains ∧ s.ftl.stopped = false then .next (s.stripeClosed stream die).looks else .next s

/-- STRIPE_PAD_TIMER (R383): a partly filled stripe that got no grain for STRIPE_US is padded and closed. -/
def execStripePadTimer (stream die : Nat) (s : State) : Res := s.ifUp <|
  match s.ftl.openSuper stream die with
  | none => .next s
  | some (_, sb) =>
    if sb.fill ≠ [] ∧ fld (s.reg Reg.ftlRdCtl) 32 16 ≤ s.now - sb.filledAt ∧ s.ftl.stopped = false then
      .next (s.stripeClosed stream die).looks
    else .next s

/-- Sessions whose CLOSE waits for a trim record become FREE (R387). -/
def State.trimsDurable (s : State) : State :=
  (s.sessAux.filter (fun e => e.2.waitTrim)).foldl (fun s e => (s.modAux e.1 (fun a => { a with waitTrim := false })).settle e.1) s

/-- TRIM_JOURNAL_WRITE (R387). -/
def execTrimJournalWrite (s : State) : Res := s.ifUp <|
  .next ({ s with ftl := { s.ftl with durable := s.ftl.durable ++ s.ftl.trims, trims := [] } }).trimsDurable

/-- Valid grains of one die. -/
def Ftl.validOnDie (f : Ftl) (ch die : Nat) : List (Nat × Nat × Nat) :=
  f.map.filterMap (fun e =>
    if fld e.2 0 5 = ch ∧ fld e.2 5 4 = die then
      some (e.1, (mgetD f.phys (entryPhys e.2) { lgn := 0, kind := 0, gen := false, pad := true, seq := 0 }).kind, e.2.toNat + 1)
    else none)

/-- R393: a die is marked failed, is out of service (R485), and its valid grains are relocated. -/
def State.dieFail (s : State) (ch die : Nat) : State :=
  let f := s.ftl
  if f.state = 0 ∨ 32 ≤ ch ∨ Config.flashDies ≤ die ∨ f.dieFailed ch die = true then s
  else
    let f := { f with failedDies := mput f.failedDies ch (mgetD f.failedDies ch 0 ||| (1#16 <<< die)) }
    { s with
      ftl := f.enqueue 2 s.now (f.validOnDie ch die)
      errs := { s.errs with units := mput s.errs.units (unitKey .die (16 * ch + die)) { state := 1, failed := false } } }

/-- DIE_FAIL (R393). -/
def execDieFail (ch die : Nat) (s : State) : Res := s.ifUp <| .next (s.dieFail ch die)

/-- Moves to T2 in progress, their pump command still waiting or their extent not complete: session, first grain, length (R384, R386). -/
def State.flashMoves (s : State) : List (Nat × Nat × Nat) :=
  s.sessAux.filterMap (fun e => match e.2.move with
    | none => none
    | some m =>
      if (s.sess e.1).state = .moving ∧ m.tier = 2 ∧ m.kind ≠ .handoff then
        match mget s.ftl.objects (gAddr m.dest) with
        | none => none
        | some o => if o.complete && !s.moveWaits e.1 then none else some (e.1, gAddr m.dest, o.count)
      else none)

/-- POWER_FAIL_WARNING (R395, Table 14.4): the fall of PWR_FAIL_N. `us` is how long the close took, at most 1,700 µs. -/
def execPowerFailWarning (us : Nat) (s : State) : Res :=
  let s := { s with pins := { s.pins with pwrFail := false } }
  if s.ftl.state < 2 ∨ s.power.state = .off then .next s
  else
    let f := s.ftl.powerClose (s.flashMoves.map (·.2))
    .next ({ s with ftl := { f with pfSeen := true, pfCount := min 65535 (f.pfCount + 1), pfUs := min us 1700 } }).trimsDurable

/-- POWER_FAIL_CLEAR (R396): PWR_FAIL_N has been high for 10 ms. Writes resume, and the moves to T2 that the warning abandoned
fail under R78. The manual gives their failure no code: it is a free value. -/
def execPowerFailClear (s : State) : Res :=
  let s := { s with pins := { s.pins with pwrFail := true } }
  if !s.ftl.stopped then .next s
  else
    let lost := s.sessAux.filter (fun e => match e.2.move with
      | none => false
      | some m => m.tier == 2 && m.kind != .handoff && (mget s.ftl.objects (gAddr m.dest)).isNone)
    let s := lost.foldl (fun s e => let (n, s) := s.draw; s.moveFails e.1 (Config.freeNat n % 65536) false) s
    let f := { s.ftl with stopped := false }
    .next { s with ftl := (List.range 3).foldl (fun f st => f.enqueue st s.now []) f }

end Sys2Proof.Machine
end

