-- ==== Sys2Proof/Machine/Window.lean ====
section
/-!
DEFINITION. Sys2Proof/Machine/Window.lean: the host's window into HBM (19_host_interface, R495; 01_sessions, R14; 16_security, R436), and the end
of a segment, which serves the accesses it held (08_bank_logic, R227, R228).
-/
namespace Sys2Proof.Machine

open Sys2Proof

/-! ## The host window (R495) -/

/-- Count an access that R492 or R495 refuses. -/
def State.badAccess (s : State) (fn : Nat) : State := s.modFunc fn (fun f => { f with badAccess := f.badAccess + 1 })

/-- SCH_CTX_BYTES (R337). -/
def State.ctxBytes (s : State) (j : Nat) : Nat := 16384 * s.contextGrains j (s.job j).slice

/-- The job whose HBM holds an address. -/
def State.hbmOwner (s : State) (a : Nat) : Option Nat := (s.jobs.find? (fun e => e.2.active && s.inJobHbm e.1 a 1)).map (·.1)

/-- R495: an address of the sliding window that `fn` does not reach: beyond HBM, in a confidential slice's pseudo-channel (Table 16.6), or
for a virtual function outside its jobs' HBM. Where a job keeps decrypted images, keys or context areas (R436) is not known: `hidden`
says whether this address is such a place. -/
def State.windowClosed (s : State) (fn a : Nat) (hidden : Bool) : Bool :=
  decide (hbmEnd ≤ a) || s.jobs.any (fun e => e.2.active && e.2.conf && e.2.slice.pc.getLsbD (a / 2 ^ 20 % 256)) ||
    (match s.hbmOwner a with
      | none => fn != 0
      | some j => (fn != 0 && (s.job j).func != fn) || (hidden && ((s.job j).keys.weight != [] || s.ctxBytes j != 0)))

/-- What bytes of one row of HBM read as through the window; `n` names the free values. The session table reads as its copy in HBM stands (R14),
free where that copy fails its CRC; the flash map is that of R378; the rest of the device region holds what the manual does not lay out. -/
def State.windowRow (s : State) (n a len : Nat) : List Byte :=
  let each (f : Nat → Byte) := (List.range len).map (fun i => f (a + i))
  if a < 2 ^ 30 then each (fun b => if (s.aux (b / 64)).corrupt then Config.openByte n b else Memory.get s.hbm b)
  else if 0x50000000 ≤ a ∧ a < 0x50000000 + (s.devRg - 16) * 2 ^ 28 then
    each (fun b =>
      let e : W32 := (mget s.ftl.map ((b - 0x50000000) / 4)).getD 0xFFFFFFFF
      (leBytes 4 e.toNat).getD (b % 4) 0)
  else if dumpBase + dumpSize ≤ a ∧ a / 2 ^ 28 < s.devRg then each (Config.openByte n)
  else s.hbmRead a len

/-- A byte of the dump region: the header as written, and the sections that were. -/
def State.dumpByte (s : State) (i : Nat) : Byte :=
  match s.errs.dump.free, dumpSections.find? (fun x => decide (x.2.1 ≤ i) && decide (i < x.2.1 + x.2.2)) with
  | some n, some (kind, o, _) => if s.errs.dump.written kind then s.errs.dump.sectionByte kind (i - o) i else Config.openByte n i
  | _, _ => Memory.get s.hbm (dumpBase + i)

/-- The rows of 1 KiB that a run touches: address and length of each piece. -/
def rowPieces (a n : Nat) : List (Nat × Nat) :=
  (List.range (n / 1024 + 2)).filterMap (fun i =>
    let lo := max a ((a / 1024 + i) * 1024)
    let hi := min (a + n) ((a / 1024 + i + 1) * 1024)
    if lo < hi then some (lo, hi - lo) else none)

/-- A read of the sliding window: each row that is closed reads 0. -/
def State.windowRead (s : State) (fn a len : Nat) : List Byte × Bool × State :=
  (rowPieces a len).foldl (fun (r : List Byte × Bool × State) p =>
    let s := r.2.2
    let (n, s) := s.draw
    if s.windowClosed fn p.1 (Config.freeBool n) then (r.1 ++ zeros p.2, true, s)
    else (r.1 ++ s.windowRow n p.1 p.2, r.2.1, s)) ([], false, s)

/-- A write of the sliding window, row by row; the first row of the device region stops it (R513). A write into a job's HBM is unpredictable (job). -/
def State.windowWrite (fn : Nat) : List (Nat × Nat) → List Byte → Bool → State → Except Fault (Bool × State)
  | [], _, bad, s => .ok (bad, s)
  | p :: rest, bs, bad, s =>
    let (n, s) := s.draw
    if s.windowClosed fn p.1 (Config.freeBool n) then State.windowWrite fn rest (bs.drop p.2) true s
    else if p.1 / 2 ^ 28 < s.devRg then .error .unpredictableDevice
    else
      let t := s.wrHbm p.1 (bs.take p.2)
      State.windowWrite fn rest (bs.drop p.2) bad (match s.hbmOwner p.1 with
        | some j => t.spoil j
        | none => t)

/-- A read is answered. -/
def State.answerRead (s : State) (fn a n : Nat) : State :=
  let (bs, bad, s) := s.windowRead fn a n
  let s := if bad then s.badAccess fn else s
  { s with busOut := bs }

/-- HBM with the first `k` of the writes that a bank set held. -/
def Seq.heldWrites (q : Seq) (k : Nat) (m : List Host.Cell) : List Host.Cell :=
  (q.held.take k).foldl (fun m (e : Nat × List Byte) => Memory.write (some 0) m e.1 e.2) m

/-- What copies read that a segment held: what the segment left, with the writes that came before them. -/
def State.copyReads (s : State) (q : Seq) : State :=
  { s with cores := s.cores.map (fun (e : Nat × Core) => (e.1, { e.2 with flight := e.2.flight.map (fun f => match f with
      | .load h a n sem (some k) =>
        if (s.segmentsAt h n).isEmpty then .loaded a (({ s with hbm := q.heldWrites k s.hbm } : State).hbmRead h n) sem else f
      | f => f) })) }

/-- The segment of a sequencer is over: the postponed refreshes are issued, then the held accesses take effect in the order they came (R228): a read sees
what the segment left and the writes before it. -/
def State.segmentOver (s : State) (n : Nat) : State :=
  let q := s.seq n
  let s := s.setSeq n { q with boundary := false, running := none, postponed := 0, held := [] }
  let open_ (r : Nat × Nat × Nat × Nat) := (s.segmentsAt r.2.1 r.2.2.1).isEmpty
  let base := s.hbm
  let due := s.winHeld.filter open_
  let s := due.foldl (fun (s : State) r =>
    { ({ s with hbm := q.heldWrites r.2.2.2 base } : State).answerRead r.1 r.2.1 r.2.2.1 with hbm := base })
    { s with winHeld := s.winHeld.filter (fun r => !open_ r) }
  let s := s.copyReads q
  { s with hbm := q.heldWrites q.held.length s.hbm }

/-- SEGMENT_END: at a boundary the held accesses take effect, then the next segment starts (R227). -/
def execSegmentEnd (n : Nat) (s : State) : Res := s.ifReady <|
  if !(s.seq n).boundary then .next s
  else
    let s := s.segmentOver n
    .next (s.setSeq n (s.seq n).startSegment)

/-- HOST_WINDOW_ACCESS (R495, R14, R228, R436). A write into a job's HBM, or into the device region, is a host error (Table 19.15). A read of
a bank set on which a segment runs is held until the segment ends. -/
def execHostWindowAccess (fn off len : Nat) (write : Option (List Byte)) (s : State) : Res := s.ifUp <|
  let size := if fn = 0 then 0xFF0000000 else 0x100000000
  let n := match write with
    | some bs => bs.length
    | none => len
  let count (bad : Bool) (s : State) : State := if bad then s.badAccess fn else s
  if off + n ≤ size then
    let a := (s.func fn).winBase.toNat + off
    match write with
    | some bs =>
      match State.windowWrite fn (rowPieces a n) bs false s with
      | .error f => .fault f
      | .ok (bad, s) => .next (count bad s)
    | none =>
      match s.segmentsAt a (min n (hbmEnd - a)) with
      | [] => .next (s.answerRead fn a n)
      | q :: qs => .next { s.countHeld (q :: qs) with winHeld := s.winHeld ++ [(fn, a, n, (s.seq q).held.length)] }
  else if fn = 0 ∧ 0xFF0000000 ≤ off ∧ off + n ≤ 0x1000000000 then
    match write with
    | some _ => .next (s.badAccess fn)
    | none => .next { s with busOut := (List.range n).map (fun i => s.dumpByte (off - 0xFF0000000 + i)) }
  else .next s

end Sys2Proof.Machine
end

