-- ==== Sys2Proof/Machine/Security.lean ====
section
/-!
DEFINITION. Sys2Proof/Machine/Security.lean: firmware images, attestation, key release, debug (16_security, R423 to R441).
-/
namespace Sys2Proof.Machine

open Sys2Proof

/-! ## Firmware -/

/-- SVN, DIGEST and release number of the running firmware, as delivered until an update has booted. -/
def State.firmware (s : State) : Nat × BitVec 256 × W32 := s.sec.running.getD (Config.fwSvn, Config.fwDigest, Config.fwRelease)

/-- The rollback counter (R425): fuses burnt at manufacture and since. -/
def State.rollbackCount (s : State) : Nat := min 127 (max Config.rollbackFused s.sec.rollback)

/-- A byte string in which SIG_OFF says where the signature lies. -/
def fwSigLen : Nat := 16224

/-- Steps 1 to 5 of Table 16.2 on an image: the cause of Table 16.8 of the first step that fails, or 0. -/
def fwCheck (im : List Byte) (rollback : Nat) : Nat :=
  let len := at_ im 8 4; let sig := at_ im 12 4
  if !(decide (128 ≤ im.length) && at_ im 0 4 == 0x57465456 && at_ im 4 1 == 1 && zeroRun im 5 1 && decide (at_ im 6 2 < 128) && zeroRun im 96 32 &&
      decide (len ≤ 2 ^ 24) && decide (len ≤ im.length) && decide (128 ≤ len) && decide (sig + fwSigLen ≤ len)) then 1
  else if sha256 (sub im 16 48) ≠ Config.fwKeyHash then 2
  else if at_ im 6 2 < rollback then 3
  else if sha256 (zeroed (im.take len) [(64, 32), (sig, fwSigLen)]) ≠ BitVec.ofNat 256 (at_ im 64 32) then 4
  else if !Config.slhVerify (sub im 16 48) (sub im 64 32) (sub im sig fwSigLen) then 5
  else 0

/-- The image area of the boot SPI flash as it stands. -/
def State.spiImage (s : State) : List Byte := (List.range (2 ^ 24)).map (fun a => (Memory.find s.sec.spi a).getD (Config.spiByte a))

/-- The cause of a failed boot, or 0 (R424). Flash that nothing has written holds the image it was delivered with, which boots; a boot
after a broken update or an unfinished recovery enters recovery (R426, R427). -/
def State.bootCheck (s : State) : Nat :=
  if s.sec.spi.isEmpty ∧ s.sec.spiGood = true then 0 else fwCheck s.spiImage s.rollbackCount

/-- A reset or power loss breaks an image that is being written (R427): where the writing stood is a free value. -/
def State.breakImage (s : State) : State := match s.sec.fwWrite with
  | none => s
  | some (_, im) =>
    let (n, s) := s.draw
    { s with sec := { s.sec with fwWrite := none, spi := Memory.write none s.sec.spi 0 (im.take (Config.freeNat n % im.length)), spiGood := false } }

def kFwUpdate : Kind := { code := 0x0903, since := 1, cwell := none, keys := false, preempt := false, fields := [(128, 64), (192, 32)] }

/-- FW_UPDATE (R427): checked before any byte is written; the writing ends later. -/
def execFwUpdate (job well : Nat) (d : Desc) (s : State) : Res :=
  s.takeUp kFwUpdate job well d fun c s =>
    let len := dfld d 24 0 32
    if !s.addrOk job d 16 len then .next (s.complete c Code.badAddress)
    else if (s.job job).func ≠ 0 then .next (s.complete c Code.notPermitted)
    else if s.sec.fwWrite.isSome then .next (s.complete c Code.fwBusy)
    else if 2 ^ 24 < len then .next (s.complete c Code.fwBad)
    else match s.fetch d 16 len with
      | none => .next ((s.dmaFailed job).complete c Code.hostDmaError)
      | some im =>
        let e := if at_ im 8 4 = len then fwCheck im s.rollbackCount else 1
        if e = 0 then .next { s with sec := { s.sec with fwWrite := some (c, im) } }
        else .next (s.complete c (if e = 1 ∨ e = 4 then Code.fwBad else if e = 3 then Code.fwRollback else Code.fwSignature))

/-- COMMIT (R425): fuses are burnt until the counter equals the SVN of the running firmware. -/
def execCommit (s : State) : Res :=
  if s.sec.boot ≠ 2 then .next s
  else .next { s with sec := { s.sec with rollback := max s.sec.rollback (s.firmware.1 % 128) } }

/-- REC_WRITE (R426, Table 16.8): `chunk` is what host software has written at the start of SEC_REC_BUF, beside what stands there. Only
the image area is written. -/
def execRecWrite (v : W64) (chunk : List Byte) (spiError : Bool) (s : State) : Res :=
  if s.sec.boot ≠ 1 ∨ bit v 60 = false then .next s
  else if !onlyFields v [(0, 16), (32, 24), (60, 2)] then .fault .unpredictableDevice
  else
    let buf := Memory.write (some 0) s.sec.recBuf 0 (chunk.take 32768)
    let len := min (fld v 0 16 + 1) 32768
    let off := fld v 32 24
    let data := (Memory.read buf 0 len).take (2 ^ 24 - off)
    let s := ({ s with sec := { s.sec with recBuf := buf } } : State).setReg Reg.recCtl (setFld v 60 2 0)
    if spiError then .next { s with sec := { s.sec with recFail := true, recCause := 6 } }
    else .next { s with sec := { s.sec with spi := Memory.write none s.sec.spi off data, spiGood := false } }

/-! ## Attestation (R430, R431) -/

def kAttest : Kind := { code := 0x0901, since := 1, cwell := none, keys := false, preempt := false, fields := [(128, 256), (384, 64), (448, 32)] }

/-- Bytes 0 to 1,887 of a report (Table 16.5). -/
def State.reportHead (s : State) (j : Nat) (nonce ek : List Byte) (id : Nat) : List Byte :=
  let x := s.job j; let f := s.func x.func; let fw := s.firmware
  leBytes 4 0x54544156 ++ [1, BitVec.ofNat 8 (b2n x.conf + 2 * b2n s.sec.confActive + 4 * b2n s.sec.debugSeen), BitVec.ofNat 8 j, 0] ++
    leBytes 4 (s.jobTag j).toNat ++ leBytes 2 s.node ++ [BitVec.ofNat 8 f.minor, BitVec.ofNat 8 f.major] ++ nonce ++
    leBytes 32 fw.2.1.toNat ++ [BitVec.ofNat 8 (fw.1 % 128), BitVec.ofNat 8 s.rollbackCount, 0, 0] ++ leBytes 32 Config.fwKeyHash.toNat ++
    leBytes 16 Config.serial.toNat ++ leBytes 4 x.epoch.toNat ++ leBytes 8 x.slice.groups.toNat ++ leBytes 8 x.slice.serve.toNat ++
    leBytes 32 x.slice.pc.toNat ++ leBytes 4 x.slice.ports.toNat ++ leBytes 8 x.slice.slots.toNat ++
    (List.range 5).flatMap (fun c => leBytes 8 (x.slice.dedicate.getD c 0).toNat) ++ zeros 20 ++ ek ++
    leBytes 32 (if x.keys.locked then x.keys.keyset.toNat else 0) ++ leBytes 4 id ++ zeros 28

/-- ATTEST (R431): the report and the certificates at OUT_ADDR. The key pair and the REPORT_ID are drawn: free values; so are the low six bits of
the address written when OUT_ADDR is not 64 B-aligned, for which R431 states nothing (DESIGN CHOICE, log entry 53). -/
def execAttest (job well : Nat) (d : Desc) (s : State) : Res :=
  s.takeUp kAttest job well d fun c s =>
    let addr := dfld d 48 0 64
    let total := 37552 + Config.certChain.length
    if Config.noIdentity then .next (s.complete c Code.noIdentity)
    else if dfld d 56 0 32 < total then .next (s.complete c Code.reportSpace)
    else
      let (n, s) := s.draw
      let held := (s.job job).keys.held
      match mfree held (Config.freeNat n % 2 ^ 32) (2 ^ 32) with
      | none => .next (s.complete c Code.reportSpace)
      | some id =>
        let head := s.reportHead job (leBytes 32 (dfld d 16 0 256)) (sub (Config.mlkemKey n) 0 1568) id
        let hash := sha256 head
        let addr := if addr % 64 = 0 then addr else addr / 64 * 64 + Config.freeNat n % 64
        let s := s.wr false addr (head ++ sub (Config.slhSign (leBytes 32 hash.toNat)) 0 35664 ++ Config.certChain)
        let held := held ++ [(id, hash)]
        let s := s.modJob job (fun x => { x with keys := { x.keys with held := held.drop (held.length - 4) } })
        .next (s.complete c Code.ok total)

/-! ## Key release (R432, R433) -/

/-- An entry of a bundle: KIND, LEN, HANDLE, KEY_ID and the key. -/
structure BundleKey where
  kind : Nat
  len : Nat
  handle : Nat
  id : List Byte
  key : List Byte

/-- The entries of a bundle, when it has its format: reserved bytes 0, each key of the length of its kind, no HANDLE but a weight key's,
nothing left over. -/
def bundleKeys : Nat → List Byte → Option (List BundleKey)
  | 0, bs => if bs.isEmpty then some [] else none
  | n + 1, bs =>
    let kind := at_ bs 0 1; let len := at_ bs 2 2; let all := 24 + cdiv len 8 * 8
    let good := decide (all ≤ bs.length) && decide (1 ≤ kind ∧ kind ≤ 4) && len == (if kind = 3 then 48 else 32) && zeroRun bs 1 1 &&
      (kind == 4 || at_ bs 4 4 == 0) && zeroRun bs (24 + len) (all - 24 - len)
    if !good then none
    else (bundleKeys n (bs.drop all)).map (fun ks => { kind := kind, len := len, handle := at_ bs 4 4, id := sub bs 8 16, key := sub bs 24 len } :: ks)

/-- HMAC-SHA-256. -/
def hmac (key msg : List Byte) : List Byte :=
  let k := if 64 < key.length then leBytes 32 (sha256 key).toNat else key
  let pad (c : Byte) := (sub k 0 64).map (fun b => b ^^^ c)
  leBytes 32 (sha256 (pad 0x5C ++ leBytes 32 (sha256 (pad 0x36 ++ msg)).toNat)).toNat

/-- The ASCII info of R432, "VT-S4096 key release". -/
def releaseInfo : List Byte :=
  [0x56, 0x54, 0x2D, 0x53, 0x34, 0x30, 0x39, 0x36, 0x20, 0x6B, 0x65, 0x79, 0x20, 0x72, 0x65, 0x6C, 0x65, 0x61, 0x73, 0x65]

/-- HKDF-SHA-256 of a shared secret to 32 B (R432). -/
def releaseKey (salt secret : List Byte) : List Byte := hmac (hmac salt secret) (releaseInfo ++ [1])

/-- The bundle a blob opens to: decapsulation, tag and format. -/
def openBundle (hash : BitVec 256) (blob : List Byte) : Option (List BundleKey) :=
  if blob.length < 1568 + 12 + 16 + 16 then none
  else
    let salt := leBytes 32 hash.toNat
    match (Config.decapsulate hash.toNat (blob.take 1568)).bind (fun ss =>
      gcmOpen (releaseKey salt ss) (BitVec.ofNat 96 (at_ blob 1568 12)) salt ((blob.drop 1580).take (blob.length - 1596))
        (BitVec.ofNat 128 (leNat (blob.drop (blob.length - 16))))) with
    | none => none
    | some b => if b.length < 16 ∨ zeroRun b 2 14 = false then none else bundleKeys (at_ b 0 2) (b.drop 16)

/-- R433: the completion of a bundle of a job, OK or the first condition that holds in the rule's order. -/
def State.bundleCode (s : State) (j : Nat) (ks : Option (List BundleKey)) : Nat :=
  let x := s.job j
  match ks with
  | none => Code.keysBad
  | some ks =>
    let weights := ks.filter (fun k => k.kind == 4)
    let handles := weights.map (·.handle)
    let count (k : Nat) := (ks.filter (fun e => e.kind == k)).length
    match firstFail [
      (x.conf || ks.all (fun k => k.kind == 4), Code.keysBad),
      (decide handles.Nodup && handles.all (fun h => (mget x.keys.weight h).isNone), Code.keysBad),
      (!x.conf || (if x.keys.locked then ks.all (fun k => k.kind == 4) else count 1 == 1 && count 2 == 1 && count 3 == 1), Code.keysLocked),
      (decide (x.keys.weight.length + weights.length ≤ 64), Code.keyFull),
      (s.node != 0xFFFF, Code.keysBad)] with
    | some e => e
    | none => Code.ok

/-- Install a bundle: the first of a confidential job locks its set and fixes KEYSET; the nonce count starts at 1 (R429, R433). -/
def Keys.install (k : Keys) (conf : Bool) (ks : List BundleKey) : Keys :=
  let one (n : Nat) (d : List Byte) := ((ks.find? (fun e => e.kind == n)).map (·.key)).getD d
  let k := { k with weight := (ks.filter (fun e => e.kind == 4)).foldl (fun m e => mput m e.handle e.key) k.weight }
  if conf ∧ k.locked = false then
    { k with locked := true, job := one 1 k.job, fabric := one 2 k.fabric, program := one 3 k.program, nonce := 1,
             keyset := sha256 (ks.flatMap (·.id)) }
  else k

def kInstallKeys : Kind := { code := 0x0902, since := 1, cwell := none, keys := false, preempt := false, fields := [(128, 32), (192, 64), (256, 32)] }

/-- INSTALL_KEYS (R432, R433). -/
def execInstallKeys (job well : Nat) (d : Desc) (s : State) : Res :=
  s.takeUp kInstallKeys job well d fun c s =>
    let id := dfld d 16 0 32; let len := dfld d 32 0 32
    if !s.addrOk job d 24 len then .next (s.complete c Code.badAddress)
    else match (s.job job).keys.held.find? (fun h => h.1 == id) with
      | none => .next (s.complete c Code.noReport)
      | some h =>
        let s := s.modJob job (fun x => { x with keys := { x.keys with held := x.keys.held.filter (fun h => h.1 != id) } })
        match s.fetch d 24 len with
        | none => .next ((s.dmaFailed job).complete c Code.hostDmaError)
        | some blob =>
          let ks := openBundle h.2 blob
          let e := s.bundleCode job ks
          if e ≠ Code.ok then .next (s.complete c e)
          else .next (((s.modJob job (fun x => { x with keys := x.keys.install x.conf (ks.getD []) })).rebind).complete c Code.ok)

/-! ## Debug (R440, R441, Table 16.6) -/

/-- JTAG_INSTRUCTION: `ir` is 0 for IDCODE, 1 for BYPASS, else another instruction; `trace` asks to enable trace. While confidential
mode is in force, or DEBUG_LOCK stands, only IDCODE and BYPASS are served. -/
def execJtagInstruction (ir : Nat) (trace : Bool) (s : State) : Res :=
  let idcode : Nat := 0x040967BB + Config.stepping.toNat % 16 <<< 28
  let s := if ir = 0 ∧ trace = false then { s with busOut := leBytes 4 idcode } else s
  if (ir ≤ 1 ∧ trace = false) ∨ s.sec.confActive = true ∨ s.sec.debugLock = true then .next s
  else .next { s with sec := { s.sec with debugSeen := true } }

end Sys2Proof.Machine
end

