-- ==== Sys2Proof/Machine/Work.lean ====
section
/-!
DEFINITION. Sys2Proof/Machine/Work.lean: ending the work of jobs all at once, as a core reset (R40, R463) and a function-level reset
(R509) do.
-/
namespace Sys2Proof.Machine

open Sys2Proof

/-- The FINAL record of a descriptor that a reset ends; a function-level reset posts none. -/
def State.fin (s : State) (code : Option Nat) (c : DescCtx) : State := match code with
  | none => s
  | some k => s.complete c k
def State.fin? (s : State) (code : Option Nat) (c : Option DescCtx) : State := match c with
  | none => s
  | some c => s.fin code c

/-- A MOVING session returns to its source state; what the move had written is freed (R40, Table 1.3). The record of an ownership
transfer stays (R368). -/
def State.undoMove (s : State) (i : Nat) (code : Option Nat) : State :=
  match (s.aux i).move with
  | none => s
  | some m =>
    let x := s.sess i
    let s := s.dropMoveWork i
    let s := if m.kind = .handoff then s else s.freeDest i m
    let s := if x.state = .moving ∧ m.abandoned = false then
        s.setSess i { x with state := m.src, toolp := if m.src = .parked then x.toolp else false } else s
    ((s.modAux i (fun a => { a with move := none })).fin? code m.ctx).settle i

/-- Checkpoints and restores: what they have written is freed (R413, R420). -/
def State.endCkpts (s : State) (mine : Nat → Bool) (code : Option Nat) : State :=
  s.jobs.foldl (fun s e =>
    if !mine e.1 then s
    else
      let s := match e.2.ckpt with
        | none => s
        | some k =>
          let s := (s.ckptDrop e.1 k).modJob e.1 (fun x => { x with ckpt := none })
          let s := match code with
            | none => s
            | some c => s.ckptStat e.1 c none
          s.fin code k.ctx
      let rs := e.2.restores
      let s := s.modJob e.1 (fun x => { x with restores := [] })
      rs.foldl (fun s (r : Restore) =>
        let s := r.objects.foldl (fun s o => s.flashFree o.1 o.2) s
        let s := r.tables.foldl (fun s t => (t.2.1.areas.filter (fun a => a.1 == 3)).foldl (fun s a => s.areaFree e.1 a) s) s
        s.fin code r.ctx) s) s

/-- Live requests are discarded; their sessions return to the idle state they had. One whose session `lost` names, or that is damaged,
ends with STATE_LOST (R463). The LAST chunk is written where the ring has room (R291). -/
def State.endReqs (s : State) (mine : Nat → Bool) (code : Option Nat) (lost : List Nat) : State :=
  s.reqs.foldl (fun s e =>
    let r := s.req e.1
    match s.raux? e.1 with
    | none => s
    | some a =>
      if r.rstate = .free ∨ mine r.job = false then s
      else
        let n := r.session; let id := s.reqId e.1
        match code with
        | none => s.dropReq e.1
        | some k =>
          let status := if (s.aux n).damaged ∨ lost.contains n = true then Code.stateLost else k
          let s := if a.lastDone ∨ a.chunkFailed then s else (s.putChunk e.1 { a with out := [] } [] true status).getD s
          let len := (s.sess n).len
          (s.dropReq e.1).complete { a.ctx with cw := r.cwell } status len id n) s

/-- Programs, with what they had in flight and their pump descriptors. -/
def State.endProgs (s : State) (mine : Nat → Bool) (code : Option Nat) : State :=
  s.progs.foldl (fun s (e : Nat × Prog) =>
    if !mine e.2.ctx.job then s
    else
      let j := e.2.ctx.job
      let s := e.2.cores.foldl (fun s c => if (s.jobCore j c).prog = e.1 then
          s.setJobCore j c { (s.jobCore j c).rollback with prog := 0, halted := true, wait := .none, flight := [], late := [] } else s) s
      let s := { s with progs := mdel s.progs e.1, pumpDescs := s.pumpDescs.filter (fun p => p.2.prog != e.1) }
      s.fin code e.2.ctx) s

/-- Searches, lookups, table steps, row migrations and index writes. -/
def State.endObjects (s : State) (mine : Nat → Bool) (code : Option Nat) : State :=
  let s := s.searches.foldl (fun s (e : Nat × Search) => if mine e.2.ctx.job then (s.searchOver e.1 e.2).fin code e.2.ctx else s) s
  let s := s.lookups.foldl (fun s (e : Nat × Lookup) => if mine e.2.ctx.job then (s.lookupFree e.1 e.2).fin code e.2.ctx else s) s
  s.jobs.foldl (fun s (e : Nat × Job) =>
    if !mine e.1 then s
    else
      let s := (s.job e.1).tables.foldl (fun s (t : Nat × Table) =>
        let ctxs := (t.2.stepWait.map (·.1)).toList ++ t.2.migWait.map (·.1)
        let o : Table := { t.2 with stepWait := none, migWait := [], versions := t.2.versions.map (fun (v : TableVer) =>
            { v with rowMap := v.rowMap.map (fun (r : Nat × TableRow) => (r.1, { r.2 with migrating := none, dest := 0, log := 0 })) }) }
        ctxs.foldl (fun s c => s.fin code c) (((s.setTable e.1 t.1 o).trimTable e.1 t.1).reapTable e.1 t.1)) s
      (s.job e.1).indexes.foldl (fun s (x : Nat × Index) =>
        let ctxs := x.2.versions.flatMap (fun v => v.writes.map (·.1))
        let o : Index := { x.2 with versions := x.2.versions.map (fun (v : IndexVer) => { v with writes := [] }) }
        ctxs.foldl (fun s c => s.fin code c) ((s.setIndex e.1 x.1 o).reapIndex e.1 x.1)) s) s

/-- Is a queued engine command dropped with its job's work? Packets that wait on a port go on. -/
def Work.dropped : Work → Bool
  | .packet .. => false
  | _ => true

/-- End every piece of work in progress of the jobs `mine` (R463, R509). -/
def State.endWork (s : State) (mine : Nat → Bool) (code : Option Nat) (lost : List Nat) : State :=
  let s := s.endCkpts mine code
  let closing := s.sessAux.flatMap (fun e => if mine (s.sess e.1).job && !(s.aux e.1).unbound then e.2.closing.map (fun c => (e.1, c)) else [])
  let s := closing.foldl (fun s (e : Nat × DescCtx) => (s.modAux e.1 (fun a => { a with closing := [] })).fin code e.2) s
  let s := s.endReqs mine code lost
  let s := s.sessAux.foldl (fun s e => if mine (s.sess e.1).job then s.undoMove e.1 code else s) s
  let s := closing.foldl (fun s e => if (s.sess e.1).state = .free ∨ (s.sess e.1).state = .ending then s else s.endSession e.1) s
  let s := s.endProgs mine code
  let s := s.endObjects mine code
  let s := s.fabric.xfers.foldl (fun s (e : Nat × Xfer) =>
    if mine e.2.job ∧ e.2.ctx.isSome = true then
      ({ s with fabric := { s.fabric with xfers := mchange s.fabric.xfers e.1 (fun x => { x with ctx := none, turn := none }) } }).fin? code e.2.ctx
    else s) s
  let s := match s.sec.fwWrite with
    | none => s
    | some (c, _) => if mine c.job then s.breakImage.fin code c else s
  { s with
    fabric := { s.fabric with colls := s.fabric.colls.filter (fun c => !mine c.job), early := s.fabric.early.filter (fun e => !mine e.1) }
    pools := s.pools.map (fun (e : Nat × Pool) => (e.1, { e.2 with queue := e.2.queue.filter (fun x => !(mine x.job && x.work.dropped)) })) }

end Sys2Proof.Machine
end

