-- ==== Sys2Proof/Machine/Resets.lean ====
section
/-!
DEFINITION. Sys2Proof/Machine/Resets.lean: reset sources, acceptance, and release with what each level clears (17_power_clocks_reset,
R457 to R466; 01_sessions, R40, R41; 12_jobs_slices_sharing, R344).
-/
namespace Sys2Proof.Machine

open Sys2Proof

/-! ## Sources and levels (R457 to R459) -/

/-- Bits of RST_CAUSE (Table 17.10). -/
def Src.powerOn := 0
def Src.pin := 1
def Src.critical := 2
def Src.hostSystem := 3
def Src.hostCore := 4
def Src.standbyExit := 5

/-- The level that a field of the fuse map gives: 0 core, 1 system, 3 power-on (R458). -/
def fuseLevel (v : Nat) : Nat := if v = 0 then 0 else if v = 1 then 1 else 3

/-- The level of a source (Table 17.5). 00 of PIN acts as system reset. -/
def Power.levelOf (p : Power) (src : Nat) : Nat :=
  if src = Src.pin then max 1 (fuseLevel (fld p.fuse 0 2))
  else if src = Src.critical then fuseLevel (fld p.fuse 2 2)
  else if src = Src.hostSystem then fuseLevel (fld p.fuse 4 2)
  else if src = Src.hostCore then fuseLevel (fld p.fuse 6 2)
  else 3

/-- Set source bits of RST_CAUSE. -/
def Power.note (p : Power) (bits : W64) : Power := { p with cause := p.cause ||| bits }
def srcBit (src : Nat) : W64 := 1#64 <<< src

/-- Steps 1 to 3 of Table 14.4 (R461), if the flash controller runs. -/
def State.flashClose (s : State) : State :=
  if s.ftl.state < 2 then s
  else ({ s with ftl := s.ftl.powerClose (s.flashMoves.map (fun (m : Nat × Nat × Nat) => m.2)) }).trimsDurable

/-- A dump in progress is abandoned by the acceptance of a reset (R481). -/
def State.dumpCut (s : State) : State := if s.errs.dumping then s.writeDump s.firmware.2.1 true false else s

/-- The part of acceptance that a deeper level adds: stripes are closed, the link goes down, an image being written is broken. -/
def State.acceptDeep (s : State) (close : Bool) : State :=
  let s := (if close then s.flashClose else s).breakImage
  { s with pins := { s.pins with linkUp := false } }

/-- Accept a reset (R459 to R461): LEVEL, COUNT and the sources' bits; the stretch begins and RESET_OUT_N is driven low. The handling of
a fatal error is complete (R478). -/
def State.accept (s : State) (lvl : Nat) (bits : W64) (close pin : Bool) : State :=
  let s := s.dumpCut
  let s := if lvl = 0 then s else s.acceptDeep close
  let c := setFld (s.power.cause ||| bits) 8 2 lvl
  let c := setFld c 16 32 (min (2 ^ 32 - 1) (fld c 16 32 + 1))
  { s with
    power := { s.power with cause := c, level := some lvl, acceptedAt := s.now, pinSource := pin, stepDone := 0, ready := false, draining := false, prep := 0 }
    pins := { s.pins with resetOut := false }
    errs := { s.errs with fatal := false, handling := [] } }

/-- A source is raised (R459, R463). -/
def State.raise (s : State) (src : Nat) : State :=
  let p := s.power
  let lvl := p.levelOf src
  if p.state ≠ .active then s
  else match p.level with
    | some l =>
      if l < lvl then
        let s := s.acceptDeep (decide (l = 0))
        { s with power := { (s.power.note (srcBit src)) with cause := setFld (s.power.cause ||| srcBit src) 8 2 lvl, level := some lvl, acceptedAt := s.now,
                                                              pinSource := s.power.pinSource || src == Src.pin } }
      else { s with power := p.note (srcBit src) }
    | none =>
      if lvl ≠ 0 then s.accept lvl (p.prep ||| srcBit src) true (src == Src.pin)
      else if p.draining then { s with power := { p with prep := p.prep ||| srcBit src } }
      else { s with power := { p with draining := true, drainAt := s.now, prep := srcBit src } }

/-! ## A core reset (R40, R463, R344) -/

/-- T0 grains of committed state. -/
def Session.t0 (x : Session) : Bool := x.grains.any (fun g => gTier g.addr == 0)

/-- The pumps copy committed T0 grains to T1, session by session, and switch the root (R463 step 3); `all` says that every copy was made
in time, else which were is a free value. A session for whose grains T1 has no place keeps them. -/
def State.drainT0 (s : State) (all : Bool) : State :=
  s.sessions.foldl (fun s (e : Nat × Session) =>
    if !e.2.t0 then s
    else
      let (n, s) := s.draw
      if !all && !Config.freeBool n then s
      else
        let j := e.2.job
        let (gs, s) := s.relocate j (fun a => gTier a == 0) e.2.grains
        s.modSess e.1 (fun x => { x with grains := gs, root := if gTier x.root = 0 then mapRoot gs else x.root })) s

/-- CORE_RESET_ACCEPT (R463 step 4): when the copies are done, or 2 ms after the preparation began. -/
def execCoreResetAccept (s : State) : Res :=
  let p := s.power
  if p.state ≠ .active ∨ p.draining = false ∨ p.level.isSome = true then .next s
  else
    let late := decide (p.drainAt + 2000 ≤ s.now)
    let d := s.drainT0 (!late)
    let left := d.sessions.any (fun e => e.2.t0)
    if left && !late then .next s
    else .next (d.accept 0 (p.prep ||| (if left then 0x80 else 0)) false false)

/-- R234: what a reset leaves of a sequencer. -/
def Seq.cleared (q : Seq) : Seq := { dev := { words := q.dev.words }, win := q.win, ref := q.ref }

/-- Clear a sequencer; the accesses held for its segment take effect. -/
def State.clearSeq (s : State) (n : Nat) : State :=
  let s := s.segmentOver n
  s.setSeq n (s.seq n).cleared

/-- R364: an inbound transfer whose session has not been entered is refused. -/
def State.refuseInbound (s : State) : State :=
  s.fabric.xfers.foldl (fun s e => if e.2.outbound = false ∧ e.2.phase = .receiving then s.refuseXfer e.1 else s) s

/-- Units in probation return to out of service (Table 17.6). -/
def ErrState.backOut (e : ErrState) : ErrState := { e with units := e.units.map (fun (u : Nat × UnitState) => (u.1, { u.2 with state := 1 })) }

/-- What a core reset clears and does after release (Tables 17.6 and 17.7). -/
def State.coreReset (s : State) : State :=
  let lost := (s.sessions.filter (fun e => e.2.t0)).map (·.1)
  let s := { s with
    jobs := s.jobs.map (fun (e : Nat × Job) =>
      let x := if e.2.want.isSome then { e.2 with want := none, err := JobErr.reset } else e.2
      (e.1, { x with adapters := x.adapters.map (fun (a : Nat × Adapter) =>
        (a.1, { a.2 with versions := a.2.versions.map (fun (v : AdapterVer) => { v with resident := false }) })) }))
    models := s.models.map (fun (e : Nat × Model) => (e.1, { e.2 with resident := false })) }
  let s := s.seqs.foldl (fun s (e : Nat × Seq) => s.clearSeq e.1) s
  let s := s.endWork (fun _ => true) (some Code.resetEnded) lost
  let s := lost.foldl (fun s i => if (s.sess i).state = .free ∨ (s.sess i).state = .ending then s else (s.sessEvent i Code.stateLost).endSession i) s
  let s := s.refuseInbound
  { s with
    reqs := []
    reqAux := []
    cores := []
    groups := s.groups.map (fun (e : Nat × Group) => (e.1, { ctl := e.2.ctl, denied := e.2.denied }))
    pools := []
    hists := []
    serving := []
    shapers := s.shapers.map (fun (e : Nat × Shaper) => (e.1, if bit e.2.cfg 63 then { e.2 with bal := BitVec.ofNat 32 e.2.burst, frac := 0 } else e.2))
    errs := s.errs.backOut
    power := { s.power with level := none, pinSource := false, stepDone := 8, ready := true }
    pins := { s.pins with resetOut := true } }

/-! ## System and power-on resets (R41, R397, R462) -/

/-- The parts of the FTL that are journalled or lie in flash. Grains of stripes not closed are lost. -/
def Ftl.kept (f : Ftl) (lvl : Nat) : Ftl :=
  { phys := f.phys, objects := f.objects, blocks := f.blocks, nextSuper := f.nextSuper, seq := f.seq, durable := f.durable, cap := f.cap,
    cistern := f.cistern, retired := f.retired, pfSeen := f.pfSeen, pfUs := f.pfUs, pfCount := if lvl = 1 then f.pfCount else 0, turn := f.turn
    supers := f.supers.map (fun (e : Nat × SuperBlock) => (e.1, { e.2 with fill := [] })) }

/-- SEQ of the META grain of an extent. -/
def Ftl.metaSeq (f : Ftl) (first count : Nat) : Nat :=
  ((List.range count).findSome? (fun k => (mget f.map (first + k)).bind (fun e => (mget f.phys (entryPhys e)).bind (fun r =>
    if r.kind = 3 then some r.seq else none)))).getD 0

/-- R397 step 6: the extents that come back as sessions: for each session index the one with the higher OWNER_EPOCH, then SEQ. -/
def Ftl.rebuilt (f : Ftl) : Map (Nat × Nat × Nat × Session × SessAux) :=
  f.objects.foldl (fun m (e : Nat × FlashObj) =>
    match e.2.session with
    | none => m
    | some (i, x, a) =>
      let q := f.metaSeq e.1 e.2.count
      let better := match mget m i with
        | none => true
        | some (_, oe, oq, _, _) => decide (oe < x.ownerEpoch) || (oe == x.ownerEpoch && decide (oq < q))
      if better then mput m i (e.1, x.ownerEpoch, q, x, a) else m) []

/-- R41: the session table and its other parts, rebuilt from the cistern; other extents of sessions are freed. -/
def State.rebuildSessions (s : State) : State :=
  let m := s.ftl.rebuilt
  let s := s.ftl.objects.foldl (fun s (e : Nat × FlashObj) =>
    if e.2.session.isSome && !m.any (fun r => r.2.1 == e.1) then s.flashFree e.1 e.2.count else s) s
  { s with
    sessions := m.map (fun r => let x := r.2.2.2.2.1; (r.1, { x with expiry := s.expiryIn r.2.2.2.2.2.ttlParked, curReq := 0 }))
    sessAux := m.map (fun r => (r.1, { r.2.2.2.2.2 with unbound := true })) }

/-- Every state outside the always-on domain is lost; flash, the boot SPI flash and fuses keep what they hold. -/
def State.blank (s : State) (lvl : Nat) : State :=
  { pending := s.pending, freeCtr := s.freeCtr, power := s.power, pins := s.pins, host := s.host, busOut := s.busOut, ftl := s.ftl.kept lvl
    sec := { bootCause := s.sec.bootCause, bootMs := s.sec.bootMs, spi := s.sec.spi, spiGood := s.sec.spiGood, rollback := s.sec.rollback,
             running := s.sec.running }
    errs := { dump := { seq := s.errs.dump.seq } }
    fabric := { nextXfer := s.fabric.nextXfer } }

/-- What a system reset keeps beside that (Table 17.6): the dump region and what is known of the dump, and KEEP of it. -/
def State.keepDump (s t : State) : State :=
  let t := { t with hbm := s.hbm.filter (fun (c : Host.Cell) => decide (dumpBase ≤ c.1) && decide (c.1 < dumpBase + dumpSize)), errs := { dump := s.errs.dump } }
  if bit (s.reg Reg.dumpCtl) 0 then t.setReg Reg.dumpCtl 1 else t

/-- The firmware that boots: as delivered, or the image in flash. Its release number is not in the header: a free value. -/
def State.bootFirmware (s : State) : State :=
  if s.sec.spi.isEmpty then { s with sec := { s.sec with running := none } }
  else
    let im := s.spiImage
    let (n, s) := s.draw
    { s with sec := { s.sec with running := some (at_ im 6 2, BitVec.ofNat 256 (at_ im 64 32), BitVec.ofNat 32 (Config.freeNat n)) } }

/-- Steps 3 to 8 of Table 17.7 after firmware has started. The topology is this device alone until a link comes up, so it is
its own coordinator and takes the lowest identifier (R353, R354). -/
def State.bringUp (s : State) (lvl : Nat) : State :=
  let s := s.bootFirmware
  let (ms, s) := s.draw
  let (boot, s) := s.draw
  let s := { s with sec := { s.sec with boot := 2, bootMs := Config.freeNat boot % 2 ^ 16 }, ftl := s.ftl.startUp }
  let s := if s.ftl.state = 0 then s
    else
      let s := s.setReg Reg.ftlRdCtl (BitVec.ofNat 64 ((Config.partRdLimit.getD (if Config.flashCell = 0 then 100000 else 20000)) % 2 ^ 32 + 200 <<< 32))
      (s.countReg Reg.ftlRebuild 0 32 (Config.freeNat ms)).rebuildSessions
  let s := if s.pins.nlmClk then (List.range 32).foldl (fun s l => s.setPort l { s.port l with state := s.portIdle l }) s else s
  let s := if lvl = 1 then s else { s with fabric := { s.fabric with nextXfer := Config.transferStart } }
  let s := s.announce.assignIdents
  { s with
    power := { s.power with level := none, pinSource := false, stepDone := 8, ready := true, draining := false, prep := 0, hbmClean := true, clampC0 := 33,
                            clampC1 := 33, powerLim := false, thermLim := false, capMiss := false, missSince := none, latchHigh := none }
    pins := { s.pins with resetOut := true, linkUp := s.pins.pcieClk, sampled := s.pins.straps } }

/-- After the release of a system or power-on reset: the device T3 key is drawn anew (Table 16.4), and the ROM boots the firmware, or enters recovery (R424, R426). -/
def State.deepReset (s : State) (lvl : Nat) : State :=
  let t := s.blank lvl
  let t := if lvl = 1 then s.keepDump t else t
  let (k, t) := t.draw
  let t := { t with sec := { t.sec with t3Key := k + 1 } }
  let cause := t.bootCheck
  if cause = 0 ∧ t.sec.spiGood = true then t.bringUp lvl
  else
    let t := { t with sec := { t.sec with boot := 1, bootCause := if cause = 0 then t.sec.bootCause else cause, spiGood := false, running := none } }
    { t with power := { t.power with level := none, pinSource := false, stepDone := 2, ready := false, draining := false, prep := 0, hbmClean := false }
             pins := { t.pins with resetOut := true, linkUp := t.pins.pcieClk, sampled := t.pins.straps } }

/-- RESET_RELEASE (R460, R464): 2 ms after acceptance, once RESET_IN_N is high where PIN is the source, OSC_25M is present and STRAP_TEST low. -/
def execResetRelease (s : State) : Res :=
  let p := s.power
  match p.level with
  | none => .next s
  | some l =>
    if p.state ≠ .active ∨ s.now < p.acceptedAt + 2000 ∨ (p.pinSource = true ∧ s.pins.resetIn = false) ∨ s.pins.osc = false ∨ bit s.pins.straps 4 = true then .next s
    else if l = 0 then .next s.coreReset
    else .next (s.deepReset l)

/-! ## Host requests and the recovery's end -/

/-- A write to HCI_RST_REQ (Table 19.7): ignored in a virtual function and without the key. -/
def State.rstReq (s : State) (fn : Nat) (v : W64) (src : Nat) : Res :=
  if fn ≠ 0 ∨ s.regsUp = false ∨ fld v 48 16 ≠ 0x5E7A then .next s
  else if !onlyFields v [(0, 2), (48, 16)] then .fault .unpredictableDevice
  else .next (s.raise src)

/-- RESET_REQ_CORE (R457): with SYSTEM in the same write, only HOST_SYSTEM is raised. -/
def execResetReqCore (fn : Nat) (v : W64) (s : State) : Res := s.rstReq fn v (if bit v 1 then Src.hostSystem else Src.hostCore)

/-- RESET_REQ_SYSTEM (R457). -/
def execResetReqSystem (fn : Nat) (v : W64) (s : State) : Res := s.rstReq fn v Src.hostSystem

/-- FINISH (R426 step 4): the image is checked; a system reset follows, or the device stays in recovery. -/
def execFinish (s : State) : Res :=
  if s.sec.boot ≠ 1 ∨ s.power.level.isSome = true then .next s
  else
    let e := fwCheck s.spiImage s.rollbackCount
    if e = 0 then .next (({ s with sec := { s.sec with recDone := true, recFail := false, spiGood := true } }).accept 1 0 false false)
    else .next { s with sec := { s.sec with recDone := false, recFail := true, recCause := e } }

/-! ## Fuses and single units (R458, R466) -/

/-- FUSE_BURN (R458): bits are set only, and only while no job is ACTIVE. -/
def execFuseBurn (v : W64) (s : State) : Res :=
  if fld v 48 16 ≠ 0xF05E ∨ s.regsUp = false then .next s
  else if !onlyFields v [(0, 8), (15, 1), (48, 16)] then .fault .unpredictableDevice
  else if bit v 15 = false ∨ s.jobs.any (fun e => e.2.active) = true then .next s
  else .next { s with power := { s.power with fuse := s.power.fuse ||| BitVec.ofNat 8 (fld v 0 8) } }

/-- Table 17.8: how many units a kind has. -/
def blockCount (kind : Nat) : Nat := [64, 64, 64, 16, 32, 16, 1024].getD kind 0

/-- IDLE of a unit (Table 17.8). -/
def State.blockIdle (s : State) (kind i : Nat) : Bool :=
  if kind = 0 then
    !s.inSlice i && s.cores.all (fun e => e.2.flight.all (fun f => match f with
      | .write dst _ _ => coreGroup dst != i
      | .inc dst _ _ => coreGroup dst != i
      | _ => true))
  else if kind = 6 then !(s.seq i).user.busy && !(s.seq i).dev.busy
  else (mget (s.pool (kind - 1)).busy i).isNone

/-- BLOCK_OFFLINE (R466): sets or clears OFFLINE. Queued work that only the unit could run moves to others of its pool. A core group brought back is readmitted through probation (R486). -/
def execBlockOffline (kind index : Nat) (on : Bool) (s : State) : Res :=
  if !s.regsUp then .next s
  else if blockCount kind ≤ index then .next { s with blockRefused := true }
  else
    let k := unitOf kind index
    if on then
      let s := { s with blockOff := if s.blockOff.contains k then s.blockOff else s.blockOff ++ [k] }
      .next (if 1 ≤ kind ∧ kind ≤ 5 then s.dispatch (kind - 1) else s)
    else if !s.blockOff.contains k then .next s
    else
      let s := { s with blockOff := s.blockOff.filter (· != k) }
      if kind = 0 then .next { s with errs := { s.errs with units := mput s.errs.units (unitKey .group index) { state := 2, failed := false } } }
      else if kind = 6 then .next s
      else .next (s.dispatch (kind - 1))

/-- BLOCK_RESET (R466, Table 17.8). -/
def execBlockReset (kind index : Nat) (s : State) : Res :=
  if !s.regsUp then .next s
  else if blockCount kind ≤ index ∨ s.offline kind index = false ∨ s.blockIdle kind index = false then .next { s with blockRefused := true }
  else if kind = 0 then .next (s.groupOff index)
  else if kind = 6 then .next (s.clearSeq index)
  else if kind = 2 ∧ 60 ≤ index then .next (s.placeLane (index - 60))
  else .next s

end Sys2Proof.Machine
end

