-- ==== Sys2Proof/Machine/Power.lean ====
section
/-!
DEFINITION. Sys2Proof/Machine/Power.lean: the 52 V input, power states, caps and clamps, clocks, reset pin, and the management sideband
(17_power_clocks_reset, R447 to R456, R460; 19_host_interface, R490, R511).
-/
namespace Sys2Proof.Machine

open Sys2Proof

/-! ## Power states (R449, R450) -/

/-- Every rail but AON is removed. -/
def State.toStandby (s : State) : State :=
  let s := s.breakImage.blank 3
  { s with power := { s.power with state := .standby, level := none, pinSource := false, ready := false, draining := false, prep := 0, stepDone := 0,
                                   hbmClean := false, latchHigh := none, powerLim := false, thermLim := false, capMiss := false, missSince := none,
                                   clampC0 := 33, clampC1 := 33 }
           pins := { s.pins with linkUp := false } }

/-- ENTER, or the sideband's STANDBY: open flash stripes are closed first (R450). A request during a reset in progress is ignored. -/
def State.enterStandby (s : State) : State :=
  if s.power.state ≠ .active ∨ s.power.level.isSome = true then s else s.flashClose.toStandby

/-- PWR_STANDBY_ENTER (R450). -/
def execPwrStandbyEnter (s : State) : Res := .next (if s.regsUp then s.enterStandby else s)

/-- STANDBY (R511). -/
def execStandby (s : State) : Res := .next s.enterStandby

/-- THERMAL_TRIP (R452): STANDBY at once, and flash stripes are not closed. -/
def State.trip (s : State) : State :=
  if s.power.state ≠ .active then s
  else
    let s := s.toStandby
    { s with power := s.power.note 0x40 }

def execThermalTrip (s : State) : Res := .next s.trip

/-- Leaving STANDBY is a power-on reset with source STANDBY_EXIT (R450). -/
def State.leaveStandby (s : State) : State :=
  ({ s with power := { s.power with state := .active } }).accept 3 (srcBit Src.standbyExit) false false

/-- WAKE (R450): refused while a package sensor reads 95 °C or more. -/
def execWake (sensors : List Nat) (s : State) : Res :=
  if s.power.state ≠ .standby ∨ sensors.any (fun t => decide (95 ≤ t)) = true then .next s else .next s.leaveStandby

/-- All power is gone: what the module remembers is flash and fuses. -/
def State.toOff (s : State) : State :=
  let s := s.breakImage.blank 3
  { s with power := { state := .off, level := none, fuse := s.power.fuse }, pins := { s.pins with linkUp := false, resetOut := false }, errs := {} }

/-- POWER_LOSS and OVER_VOLTAGE (R447): every rail is removed at once. -/
def execPowerLoss (s : State) : Res := .next (if s.power.state = .off then s else s.toOff)
def execOverVoltage (s : State) : Res := .next (if s.power.state = .off then s else s.toOff)

/-- POWER_APPLY (R447, R455): the local clock starts at 0 and a power-on reset begins; RST_CAUSE takes its reset value. -/
def execPowerApply (s : State) : Res :=
  if s.power.state ≠ .off then .next s else .next { s with power := { fuse := s.power.fuse }, pins := { s.pins with resetOut := false } }

/-! ## Pins and clocks (R453, R460, R490) -/

/-- RESET_IN_FALL (R457, R450): source PIN, or the device leaves STANDBY. Whether a hot package sensor refuses this wake too, and what it
reads, is a free value. -/
def execResetInFall (s : State) : Res :=
  if s.pins.resetIn = false then .next s
  else
    let s := { s with pins := { s.pins with resetIn := false } }
    if s.power.state = .standby then
      let (n, s) := s.draw
      .next (if Config.freeBool n then s else s.leaveStandby)
    else .next (s.raise Src.pin)

/-- RESET_IN_RISE (R460). -/
def execResetInRise (s : State) : Res := .next { s with pins := { s.pins with resetIn := true } }

/-- OSC_25M_LOSS (R453): while the clock is missing the supervisor holds a power-on reset; it is no source of Table 17.5. The stretch begins
anew when the clock returns. -/
def execOsc25mLoss (present : Bool) (s : State) : Res :=
  let was := s.pins.osc
  let s := { s with pins := { s.pins with osc := present } }
  if s.power.state ≠ .active ∨ was = present then .next s
  else if present then .next { s with power := { s.power with acceptedAt := s.now } }
  else match s.power.level with
    | some l =>
      let s := if l = 0 then s.acceptDeep false else s
      .next { s with power := { s.power with level := some 3, cause := setFld s.power.cause 8 2 3 } }
    | none => .next (s.accept 3 0 false false)

/-- PCIE_LINK_RETRAIN (R489, R490): the link comes back, at a rate and width it supports. -/
def execPcieLinkRetrain (gen width : Nat) (s : State) : Res :=
  if s.pins.linkUp = false ∨ gen < 3 ∨ 5 < gen ∨ [1, 2, 4, 8].contains width = false then .next s
  else .next { s with pins := { s.pins with linkGen := gen, linkWidth := width } }

/-- CLK_LOCAL_READ_LOW (R468): the low half is read, and the high half is kept for the next read. -/
def execClkLocalReadLow (s : State) : Res :=
  if !s.regsUp then .next s
  else .next { s with busOut := leBytes 4 s.now, power := { s.power with latchHigh := some (BitVec.ofNat 32 (s.now >>> 32)) } }

/-! ## Caps and clamps (R451, R452) -/

/-- The effective cap: the lower of the two, 0 for none, 1 to 599 acting as 600. -/
def State.effectiveCap (s : State) : Option Nat :=
  let one (n : Nat) : Option Nat := if n = 0 then none else some (max 600 n)
  match one (fld (s.reg Reg.capHost) 0 16), one s.power.capMgmt with
  | some a, some b => some (min a b)
  | some a, none => some a
  | none, b => b

/-- What a rule calls for on a die: one less, one more once a millisecond, or what stands. -/
def clampCall (down up : Bool) (c : Nat) : Nat := if down then max 11 (c - 1) else if up then min 33 (c + 1) else c

/-- One die's clamp and when it may rise next, from the power rule (over the cap; below 95 % of it) and the die's junction. -/
def clampStep (above below : Bool) (t now c raise : Nat) : Nat × Nat × Bool × Bool :=
  let due := decide (raise ≤ now)
  let p := clampCall above (below && due) c
  let h := clampCall (decide (100 ≤ t)) (decide (t < 97) && due) c
  let c' := min p h
  (c', if c < c' ∨ above = true ∨ below = false ∨ 97 ≤ t then now + 1000 else raise, decide (p < 33 ∧ p ≤ h), decide (h < 33 ∧ h ≤ p))

/-- POWER_EVAL (R451, R452): the evaluation every 100 µs. -/
def execPowerEval (watts millivolts10 milliamps10 tC0 tC1 tH tHbm : Nat) (s : State) : Res :=
  if s.power.state ≠ .active then .next s
  else
    let input : W64 := BitVec.ofNat 64 (millivolts10 % 2 ^ 16 + (milliamps10 % 2 ^ 16) <<< 16 + (watts % 2 ^ 16) <<< 32)
    let temps : W64 := BitVec.ofNat 64 (tC0 % 256 + (tC1 % 256) <<< 8 + (tH % 256) <<< 16 + (tHbm % 256) <<< 24)
    let p := { s.power with input := input, temps := temps }
    if 115 ≤ tC0 ∨ 115 ≤ tC1 ∨ 115 ≤ tH ∨ 105 ≤ tHbm then .next ({ s with power := p } : State).trip
    else if p.level.isSome then .next { s with power := p }
    else
      let above := (s.effectiveCap).any (fun c => decide (c < watts))
      let below := match s.effectiveCap with
        | none => true
        | some c => decide (100 * watts < 95 * c)
      let (c0, r0, p0, h0) := clampStep above below tC0 s.now p.clampC0 p.raise0
      let (c1, r1, p1, h1) := clampStep above below tC1 s.now p.clampC1 p.raise1
      let since := if p.clampC0 = 11 ∧ p.clampC1 = 11 ∧ above = true then some (p.missSince.getD s.now) else none
      let miss := since.any (fun t => decide (t + 10000 ≤ s.now))
      .next { s with power := { p with clampC0 := c0, clampC1 := c1, raise0 := r0, raise1 := r1, powerLim := p0 || p1, thermLim := h0 || h1,
                                       missSince := since, capMiss := p.capMiss || miss } }

/-! ## The sideband (R511, Table 19.13) -/

/-- HCI_IDENT as the physical function has it (Table 19.6). -/
def State.ident (s : State) : Nat := 0x4096 + Config.stepping.toNat <<< 16 + s.sec.boot <<< 24
/-- PWR_THROTTLE (Table 17.12). -/
def Power.throttle (p : Power) : Nat := p.clampC0 + p.clampC1 <<< 8 + b2n p.powerLim <<< 16 + b2n p.thermLim <<< 17 + b2n p.capMiss <<< 18
/-- The power state as a number, in the order of Table 17.3. -/
def PowerState.code : PowerState → Nat
  | .off => 0 | .standby => 1 | .active => 2

/-- An answer of the always-on domain: there is none in OFF. -/
def State.sideband (s : State) (bs : List Byte) : Res := if s.power.state = .off then .next s else .next { s with busOut := bs }

/-- GET_IDENT. -/
def execGetIdent (s : State) : Res :=
  s.sideband (leBytes 8 s.ident ++ leBytes 16 Config.serial.toNat ++ (if s.power.state = .standby then [] else leBytes 32 s.firmware.2.1.toNat))

/-- GET_TELEMETRY: in STANDBY the temperature fields carry the package sensors, C0, C1, H, then the hottest of the HBM pairs. -/
def execGetTelemetry (sensors : List Nat) (s : State) : Res :=
  let standby := decide (s.power.state = .standby)
  let temps : Nat := if standby then
      sensors.getD 0 0 % 256 + (sensors.getD 1 0 % 256) <<< 8 + (sensors.getD 2 0 % 256) <<< 16 + ((sensors.drop 3).foldl max 0 % 256) <<< 24
    else s.power.temps.toNat
  s.sideband (leBytes 8 s.power.input.toNat ++ leBytes 8 temps ++ leBytes 8 (if standby then 0 else s.power.throttle) ++ [BitVec.ofNat 8 s.power.state.code])

/-- SET_CAP. -/
def execSetCap (watts : Nat) (s : State) : Res :=
  if s.power.state = .off then .next s else .next { s with power := { s.power with capMgmt := watts % 2 ^ 16 } }

/-- GET_CAUSE. -/
def execGetCause (s : State) : Res := s.sideband (leBytes 8 s.power.cause.toNat ++ leBytes 8 s.now)

/-- MCTP_CONTROL_MESSAGE: answered under DSP0236, which is outside this manual. -/
def execMctpControlMessage (msg : List Byte) (s : State) : Res := s.sideband (Config.mctpAnswer msg)

end Sys2Proof.Machine
end

