-- ==== Sys2Proof/Machine/ErrorUnit.lean ====
section
/-!
DEFINITION. Sys2Proof/Machine/ErrorUnit.lean: classes, owners of damaged data, second errors, the fatal sequence, units out of service
and their return (18_errors_and_dump, R469 to R487).
-/
namespace Sys2Proof.Machine

open Sys2Proof

/-! ## Classes and units (R472, R473) -/

/-- The class of an error (Tables 18.2 and 18.3): 0 CORRECTED, 1 REQUEST, 2 JOB, 3 DEVICE_FATAL. -/
def classOf (e : ErrInfo) : Nat :=
  if e.corrected then 0
  else if [2, 6, 12, 13, 14, 15].contains e.source then 3
  else match e.owner with
    | .critical => 3
    | .model _ | .adapter _ _ _ | .object _ _ _ | .context _ => 2
    | _ => 1

/-- The same unit of the same source (R478); SOURCE 3 and SOURCE 4 name one bank. -/
def sameUnit (a b : Nat × Nat) : Bool := a.2 == b.2 && (a.1 == b.1 || ((a.1 == 3 || a.1 == 4) && (b.1 == 3 || b.1 == 4)))

/-! ## Out of service (R485) -/

/-- The ranges of R486: 64 core groups, 16,384 banks, 32 ports, and the populated dies. -/
def State.unitExists (s : State) (k : UnitKind) (u : Nat) : Bool :=
  match k with
  | .group => decide (u < 64)
  | .bank => decide (u < 16384)
  | .port => decide (u < 32)
  | .die => decide (u < 512) && decide (u % 16 < Config.flashDies) && s.ftl.state != 0

/-- Every slice that holds a core group is recomposed without it (R485, Table 12.3). -/
def State.dropFromSlices (s : State) (g : Nat) : State :=
  let off : W64 := ~~~(1#64 <<< g)
  { s with jobs := s.jobs.map (fun (e : Nat × Job) =>
      if e.2.active && e.2.slice.groups.getLsbD g then
        let w := e.2.want.getD e.2.slice
        (e.1, { e.2 with want := some { w with groups := w.groups &&& off, serve := w.serve &&& off } })
      else e) }

/-- Take a unit out of service; its corrected errors count anew from then on (DESIGN CHOICE, log entry 53). -/
def State.takeOut (s : State) (k : UnitKind) (u : Nat) : State :=
  if s.unitAway k u then s
  else
    let s := { s with errs := { s.errs with units := mput s.errs.units (unitKey k u) { state := 1, failed := false }, corrected := mdel s.errs.corrected (unitKey k u) } }
    match k with
    | .group => s.dropFromSlices u
    | .bank => s.jobs.foldl (fun s e => s.relocateAll e.1 (fun a => gTier a == 1 && 64 * t1Pc a + t1Bank a == u) true) s
    | .port => (s.portDown u PortState.failed).assignIdents
    | .die => s.dieFail (u / 16) (u % 16)

/-- Units with more corrected errors in the last hour than ERR_THRESH allows are taken out (Table 18.10). -/
def State.threshold (s : State) : State :=
  s.errs.corrected.foldl (fun s e =>
    let kind : UnitKind := if e.1 / 2 ^ 16 = 0 then .group else .bank
    let limit := match kind with
      | .bank => fld (s.reg Reg.errThresh) 0 16
      | _ => fld (s.reg Reg.errThresh) 16 16
    if decide (e.1 / 2 ^ 16 < 2) && limit != 0 && decide (limit < (recent s.now e.2).length) then s.takeOut kind (e.1 % 2 ^ 16) else s) s

/-! ## Owners (R474 to R477) -/

/-- Live requests; those an uncorrectable error ends are ended with DATA_ERROR (R211). -/
def State.live (s : State) : List Nat := (s.reqs.filter (fun e => e.2.rstate != .free)).map (·.1)

/-- The step that an owner's context area holds: the requests of the job's running steps, while one of its groups runs another job's work. -/
def State.heldStep (s : State) (j : Nat) : List Nat :=
  if s.groups.any (fun g => (mget g.2.saved j).isSome) then
    s.serving.flatMap (fun v => if v.2.running && (mget s.models v.1).any (fun m => m.job == j) then v.2.entries.map (·.req) else [])
  else []

/-- The live requests that an error ends. -/
def State.hit (s : State) (o : Owner) : List Nat :=
  match o with
  | .working r => s.live.filter (· == r)
  | .committed i | .entry i => s.live.filter (fun r => (s.req r).session == i)
  | .model h => s.live.filter (fun r => (s.sess (s.req r).session).model == h)
  | .adapter j h v => s.live.filter (fun r => (s.req r).job == j && (s.sess (s.req r).session).adapter == h && (s.req r).adapterVer == v)
  | .object j kind h => s.live.filter (fun r => (s.req r).job == j && match s.raux? r with
      | none => false
      | some a =>
        if kind = 0 then (s.sess (s.req r).session).model == h && ((mget (s.job j).vocabs h).bind (·.current)) == some a.vocabVer
        else if kind = 1 then a.grammarHandle == h && ((mget (s.job j).grammars h).bind (·.current)) == some a.grammarVer
        else false)
  | .context j => s.live.filter (fun r => (s.heldStep j).contains r)
  | _ => []

/-- JOB, SESSION, OUTCOME and HANDLE of the record (Table 18.1). -/
def State.errOutcome (s : State) (o : Owner) : Option Nat × Nat × Nat × Nat :=
  match o with
  | .working r =>
    let n := (s.req r).session
    if (s.hit o).isEmpty then (none, 0, 0, 0)
    else (some (s.req r).job, n, if (s.aux n).damaged then Code.stateLost else Code.dataError, 0)
  | .committed i => (some (s.sess i).job, i, if (s.hit o).isEmpty then 0 else Code.stateLost, 0)
  | .entry i => (some (s.sess i).job, i, if (s.hit o).isEmpty then Code.entryCorrupt else Code.stateLost, 0)
  | .weightCopy j => (some j, 0, 0, 0)
  | .model h => ((mget s.models h).map (·.job), 0, if (s.hit o).isEmpty then 0 else Code.modelDamaged, h)
  | .adapter j h _ => (some j, 0, if (s.hit o).isEmpty then 0 else Code.modelDamaged, h)
  | .object j _ h => (some j, 0, Code.damageNotice, h)
  | .context j => (some j, 0, Code.damageNotice, 0)
  | .program n => ((mget s.progs n).map (·.ctx.job), 0, if (mget s.progs n).isSome then Code.dataError else 0, 0)
  | .search n => ((mget s.searches n).map (·.ctx.job), 0, if (mget s.searches n).isSome then Code.tierError else 0, 0)
  | .none | .critical => (none, 0, 0, 0)

/-- Mark the current version of an object damaged (R476): `kind` is 0 vocabulary, 1 grammar or its class bitmaps, 2 index header, 3 filter,
4 table row map, 5 a pass bitmap built from the filter. -/
def Job.damage (x : Job) (kind h : Nat) : Job :=
  let bytes (o : ByteObj) : ByteObj := { o with versions := o.versions.map (fun (v : ByteVer) => if o.current = some v.ver then { v with damaged := true } else v) }
  if kind = 0 then { x with vocabs := mchange x.vocabs h bytes }
  else if kind = 1 then { x with grammars := mchange x.grammars h bytes }
  else if kind = 2 then { x with indexes := mchange x.indexes h (fun o => { o with versions := o.versions.map (fun (v : IndexVer) =>
      if o.current = some v.ver then { v with damaged := true } else v) }) }
  else if kind = 4 then { x with tables := mchange x.tables h (fun o => { o with versions := o.versions.map (fun (v : TableVer) =>
      if o.current = some v.ver then { v with damaged := true } else v) }) }
  else { x with filters := mchange x.filters h (fun o => { o with versions := o.versions.map (fun (v : FilterVer) =>
      if o.current = some v.ver then { v with damaged := true } else v) }) }

/-- Searches and lookups bound to an object that has just been marked end with OBJECT_DAMAGED. -/
def State.endBound (s : State) (j kind h : Nat) : State :=
  let dead (x : Search) : Bool := x.ctx.job == j &&
    ((kind == 2 && x.index == h && ((s.index j h).bind (·.current)) == some x.ver) ||
     ((kind == 3 || kind == 5) && x.filters.any (fun f => f.1 == h && ((s.filter j h).bind (·.current)) == some f.2)))
  let s := s.searches.foldl (fun s (e : Nat × Search) => if dead e.2 then (s.searchOver e.1 e.2).complete e.2.ctx Code.objectDamaged else s) s
  s.lookups.foldl (fun s (e : Nat × Lookup) =>
    if kind = 4 ∧ e.2.ctx.job = j ∧ e.2.table = h ∧ ((s.table j h).bind (·.current)) = some e.2.ver then
      (s.lookupFree e.1 e.2).complete e.2.ctx Code.objectDamaged
    else s) s

/-- What becomes of the owner of data that failed its check (R474 to R476). -/
def State.ownerAct (s : State) (o : Owner) : State :=
  let hit := s.hit o
  match o with
  | .working _ => hit.foldl (fun s r => s.discardEnd r Code.dataError) s
  | .committed i =>
    if (s.sess i).state = .free then s
    else
      let s := s.modAux i (fun a => { a with damaged := true })
      let s := hit.foldl (fun s r => s.endReq r Code.stateLost false) s
      s.moveFails i Code.tierError true
  | .entry i =>
    if (s.sess i).state = .free then s
    else
      let s := s.modAux i (fun a => { a with damaged := true })
      if hit.isEmpty then s.endSession i else hit.foldl (fun s r => s.endReq r Code.stateLost false) s
  | .model h =>
    let s := { s with models := mchange s.models h (fun m => { m with damaged := true }) }
    hit.foldl (fun s r => s.discardEnd r Code.modelDamaged) s
  | .adapter j h ver =>
    let s := s.modJob j (fun x => { x with adapters := mchange x.adapters h (fun a => { a with versions := a.versions.map (fun (v : AdapterVer) =>
      if v.ver = ver then { v with damaged := true } else v) }) })
    hit.foldl (fun s r => s.discardEnd r Code.modelDamaged) s
  | .object j kind h =>
    let s := s.modJob j (fun x => x.damage kind h)
    let s := hit.foldl (fun s r => s.discardEnd r Code.objectDamaged) s
    (s.endBound j kind h).event j 0 Code.damageNotice h
  | .context j =>
    let s := hit.foldl (fun s r => s.discardEnd r Code.dataError) s
    let s := s.progs.foldl (fun s (e : Nat × Prog) =>
      if e.2.ctx.job = j ∧ (ones e.2.mask).any (fun g => (s.group g).job != j) = true then (s.stopProg e.1 Code.dataError []).endProg e.1 else s) s
    s.event j 0 Code.damageNotice 0
  | .program n => (s.stopProg n Code.dataError []).endProg n
  | .search n => s.searchEnded n true
  | .none | .weightCopy _ | .critical => s

/-! ## The fatal sequence (R480, R481) -/

/-- A DEVICE_FATAL error: the dump begins, unless one is in progress, is kept, or a reset is in progress. -/
def State.fatalError (s : State) (r : ErrRec) : State :=
  if s.power.level.isSome then s.raise Src.critical
  else if s.errs.dumping then (s.writeDump s.firmware.2.1 true false).raise Src.critical
  else
    let s := ({ s with errs := { s.errs with fatal := true } } : State).flashClose
    if bit (s.reg Reg.dumpCtl) 0 ∧ s.errs.dump.valid = true then
      ({ s with errs := { s.errs with dump := { s.errs.dump with skipped := true } } } : State).raise Src.critical
    else
      let d : Dump := { seq := s.errs.dump.seq + 1, skipped := s.errs.dump.skipped, time := s.now, cause := s.power.cause, trigger := some r,
                        well := s.errs.well.slots, reqs := s.reqs.map (fun (e : Nat × Req) => (e.1, s.peekReq e.1)), cache := s.sesCache.map s.peekSess
                        confExcluded := s.jobs.any (fun e => e.2.active && e.2.conf)
                        confGroups := s.jobs.foldl (fun (g : W64) e => if e.2.active && e.2.conf then g ||| e.2.slice.groups else g) 0 }
      { s with errs := { s.errs with dumping := true, dump := d } }

/-- DUMP_COMPLETE (R480 step 5). -/
def execDumpComplete (fwOk : Bool) (s : State) : Res :=
  if !s.errs.dumping then .next s else .next ((s.writeDump s.firmware.2.1 false fwOk).raise Src.critical)

/-- DUMP_ABANDON (R481): 100 ms have passed since step 1. -/
def execDumpAbandon (s : State) : Res :=
  if !s.errs.dumping || decide (s.now < s.errs.dump.time + 100000) then .next s else .next ((s.writeDump s.firmware.2.1 true false).raise Src.critical)

/-! ## Handling (R471, R478) -/

/-- Errors whose handling is complete: every request they ended is gone, and the steps that held them have ended. -/
def State.errDone (s : State) : State :=
  let busy (h : Handling) : Bool := (h.cls == 3 && s.errs.fatal) || !h.models.isEmpty ||
    h.reqs.any (fun id => s.reqId (id % 65536) == id && (s.req (id % 65536)).rstate != .free)
  { s with errs := { s.errs with handling := s.errs.handling.filter busy } }

/-- Record an error and act on it as its class and source require. An entry of the session table in HBM fails its check at its
next fill (R13, log entry 21). -/
def State.handleErr (s : State) (e : ErrInfo) (time cls : Nat) (esc queued : Bool) : State :=
  let (owner, s) : Owner × State := match e.owner with
    | .entry i =>
      if e.source ≠ 3 ∨ e.corrected ∨ (s.sess i).state = .free then (e.owner, s) else (.none, s.modAux i (fun a => { a with corrupt := true }))
    | o => (o, s)
  let hit := if e.corrected then [] else s.hit owner
  let ids := hit.map s.reqId
  let models := s.serving.filterMap (fun v => if v.2.running && v.2.entries.any (fun x => hit.contains x.req) then some v.1 else none)
  let (job, session, outcome, handle) := s.errOutcome owner
  let heard := s.errs.well.tail == s.errs.well.head
  let (r, s) := s.logErr
    { errRec cls e.source e.unit e.code e.addr with
      time := time, escalated := esc, queued := queued, job := job, detail := e.detail, outcome := if e.corrected then 0 else outcome
      handle := if e.corrected then 0 else handle, req := if ids.length = 1 then ids.headD 0 else 0
      session := if ids.length = 1 ∨ (outcome ≠ 0 ∧ e.corrected = false) then session else 0 }
  let s := if cls = 3 ∧ heard = false then s.errSignal else s
  let h : Handling := { source := e.source, unit := e.unit, cls := cls, reqs := ids, models := models }
  let s := { s with errs := { s.errs with handling := h :: s.errs.handling } }
  let s := if e.corrected then (s.noteCorrected e.source e.unit).threshold else s.ownerAct owner
  let s := if e.source = 10 ∧ e.corrected = false then s.takeOut .port e.unit else s
  let s := if esc ∧ cls = 2 then (match errUnit e.source e.unit with
      | some (k, u) => s.takeOut k u
      | none => s) else s
  (if cls = 3 then s.fatalError r else s).errDone

/-- ERROR_QUEUED (R478): the first queued error is handled once none is being handled; units that have passed their threshold go. -/
def State.nextErr (s : State) : State :=
  let s := s.errDone.threshold
  match s.errs.handling, s.errs.queued with
  | [], (e, t) :: rest => ({ s with errs := { s.errs with queued := rest } } : State).handleErr e t (classOf e) false true
  | _, _ => s

def execErrorQueued (s : State) : Res := .next s.nextErr

/-- ERROR_DETECTED (R472, R478, Table 18.4). PCI Express errors have no device class (Table 18.3). -/
def execErrorDetected (e : ErrInfo) (s : State) : Res :=
  if s.power.state ≠ .active ∨ e.source = 11 then .next s
  else
    let merge := if e.corrected then s.mergeSlot e.source e.unit e.code else none
    match merge with
    | some slot => .next ((s.mergeErr slot).noteCorrected e.source e.unit).threshold
    | none =>
      let s := (List.range s.errs.queued.length).foldl (fun s _ => s.nextErr) s.errDone
      let cls := classOf e
      match s.errs.handling.find? (fun h => sameUnit (h.source, h.unit) (e.source, e.unit)) with
      | some h => .next (s.handleErr e s.now (if cls = 3 then 3 else min 3 (h.cls + 1)) true false)
      | none =>
        match s.errs.handling with
        | [] => .next (s.handleErr e s.now cls false false)
        | h :: _ =>
          if cls = 3 ∨ h.cls < cls then .next (s.handleErr e s.now cls false false)
          else .next { s with errs := { s.errs with queued := s.errs.queued ++ [(e, s.now)] } }

/-! ## Registers of the unit (R469, R479, R482, R510) -/

/-- ERR_WELL_TAIL_WRITE: `fn` 0 is the device's well, else that function's. A count beyond the head is ignored. -/
def execErrWellTailWrite (fn : Nat) (v : W32) (s : State) : Res :=
  let move (w : ErrWell) : ErrWell := if (w.head - w.tail).toNat < (v - w.tail).toNat then w else { w with tail := v }
  if !s.regsUp then .next s
  else if fn = 0 then .next { s with errs := { s.errs with well := move s.errs.well } }
  else .next { s with errs := { s.errs with fnWells := mmod s.errs.fnWells fn {} move } }

/-- OVERFLOW_CLEAR (R479). -/
def execOverflowClear (fn : Nat) (s : State) : Res :=
  let clear (w : ErrWell) : ErrWell := { w with overflow := false, lost := [0, 0, 0, 0] }
  if !s.regsUp then .next s
  else if fn = 0 then .next { s with errs := { s.errs with well := clear s.errs.well } }
  else .next { s with errs := { s.errs with fnWells := mmod s.errs.fnWells fn {} clear } }

/-- RELEASE (R482). -/
def execRelease (s : State) : Res :=
  if !s.regsUp then .next s else .next { s with errs := { s.errs with dump := { s.errs.dump with valid := false } } }

/-! ## Out and back (R485, R486) -/

/-- UNIT_OUT. -/
def execUnitOut (kind : UnitKind) (unit : Nat) (s : State) : Res :=
  if !s.regsUp then .next s
  else if !s.unitExists kind unit then .next { s with errs := { s.errs with unitRefused := true } }
  else .next (s.takeOut kind unit)

/-- UNIT_RETURN: a unit that is out enters probation; one that is not is left as it is, and REFUSED is set. -/
def execUnitReturn (kind : UnitKind) (unit : Nat) (s : State) : Res :=
  if !s.regsUp then .next s
  else
    match mget s.errs.units (unitKey kind unit) with
    | some { state := 1, .. } =>
      if !s.unitExists kind unit then .next { s with errs := { s.errs with unitRefused := true } }
      else
        let s := { s with errs := { s.errs with units := mput s.errs.units (unitKey kind unit) { state := 2, failed := false } } }
        match kind with
        | .port => .next (s.setPort unit { s.port unit with state := s.portIdle unit })
        | _ => .next s
    | _ => .next { s with errs := { s.errs with unitRefused := true } }

/-- The SOURCE of a unit kind (R486). -/
def unitSource : UnitKind → Nat
  | .group => 0 | .bank => 3 | .port => 10 | .die => 9

/-- A self-test leaves a core group's store, and a bank's rows of the job row groups, at zero (Table 18.8). -/
def State.testLeaves (s : State) (kind : UnitKind) (unit : Nat) : State :=
  match kind with
  | .group => s.groupOff unit
  | .bank => { s with hbm := s.hbm.filter (fun (c : Host.Cell) => !(bankOf c.1 == unit && decide (s.devRg ≤ c.1 / 2 ^ 28) && decide (c.1 < hbmEnd))) }
  | _ => s

/-- SELF_TEST_DONE (R486): the unit is admitted by the next epoch, or stays out with TEST_FAILED and a record of its own, which is never
a second error. -/
def execSelfTestDone (kind : UnitKind) (unit : Nat) (pass : Bool) (s : State) : Res :=
  match mget s.errs.units (unitKey kind unit) with
  | some { state := 2, .. } =>
    let s := s.testLeaves kind unit
    if pass then
      let s := { s with errs := { s.errs with units := mdel s.errs.units (unitKey kind unit) } }
      match kind with
      | .port =>
        let o := s.port unit
        if o.ver = 0 then .next (s.setPort unit { o with state := s.portIdle unit })
        else .next ((s.setPort unit { o with state := PortState.up }).announce.assignIdents)
      | .die =>
        let ch := unit / 16
        .next { s with ftl := { s.ftl with failedDies := mput s.ftl.failedDies ch (mgetD s.ftl.failedDies ch 0 &&& ~~~(1#16 <<< (unit % 16))) } }
      | _ => .next s
    else
      let s := { s with errs := { s.errs with units := mput s.errs.units (unitKey kind unit) { state := 1, failed := true } } }
      let s := (s.logErr (errRec 0 (unitSource kind) unit 3 0)).2
      match kind with
      | .port => .next (s.portDown unit PortState.failed)
      | _ => .next s
  | _ => .next s

end Sys2Proof.Machine
end

