-- ==== Sys2Proof/Machine/Regs.lean ====
section
/-!
DEFINITION. Sys2Proof/Machine/Regs.lean: what the registers of BAR0 read as, and which of their fields are not reserved (R492 to R494
and the register map of each block). No command reads a register but CLK_LOCAL_READ_LOW; a write to one half of a register keeps the
other half as it reads.
-/
namespace Sys2Proof.Machine

open Sys2Proof

/-- A register: what it reads as, and its fields that are not reserved (first bit, width). -/
structure RegView where
  val : W64
  fields : List (Nat × Nat)
deriving DecidableEq, Repr

/-- A register with a value and fields. -/
def rv (v : Nat) (fs : List (Nat × Nat) := [(0, 64)]) : Option RegView := some { val := BitVec.ofNat 64 v, fields := fs }
/-- The 8 B at offset `o` of a run of bytes. -/
def rbytes (bs : List Byte) (o : Nat) : Option RegView := rv (at_ bs o 8)
/-- A plain register. -/
def State.rplain (s : State) (off : Nat) (fs : List (Nat × Nat) := [(0, 64)]) : Option RegView := some { val := s.reg off, fields := fs }
/-- A mask of the instances of a class that are busy. -/
def State.busyMask (s : State) (c : Nat) : Nat := (s.pool c).busy.foldl (fun n (e : Nat × EngCmd) => n ||| 1 <<< e.1) 0
/-- Index `k` of an array of registers of `n` entries, `stride` apart from `base`. -/
def slot (o base stride n : Nat) : Option Nat :=
  if base ≤ o ∧ o < base + stride * n ∧ (o - base) % stride = 0 then some ((o - base) / stride) else none

/-! ## HCI, RST, PWR, ERR, SEC -/

/-- Table 19.5 for function `fn`; in recovery only the first three answer. -/
def State.hciView (s : State) (fn o : Nat) : Option RegView :=
  let f := s.func fn
  let up (v : Nat) : Nat := if s.sec.boot = 2 then v else 0
  match o with
  | 0x00 => rv 0x00030002
  | 0x08 => rv (s.ident + (if fn = 0 then 0 else 1 <<< 26 + fn <<< 27)) [(0, 33)]
  | 0x10 => rv (0xF + 2 <<< 4 + 63 <<< 8 + 64 <<< 16 + 1 <<< 24 + 2 <<< 28 + 1 <<< 32 + 2 <<< 36) [(0, 14), (16, 7), (24, 16)]
  | 0x18 => rv (up (s.firmware.2.2.toNat + (s.firmware.1 % 128) <<< 32)) [(0, 39)]
  | 0x20 => rv (up f.verCtl.toNat) [(0, 17)]
  | 0x28 => rv (up (f.minor + f.major <<< 8 + b2n f.agreed <<< 16 + b2n f.refused <<< 17 + b2n f.busy <<< 18)) [(0, 19)]
  | 0x30 => rv (up f.winBase.toNat) [(30, 9)]
  | 0x38 => rv (up (f.badAccess.toNat + f.dmaFail.toNat <<< 32))
  | 0x40 => rv 0 [(0, 2), (48, 16)]
  | 0x48 => rv (up (s.jobs.foldl (fun n e => if e.2.active && e.2.func == fn then n ||| 1 <<< e.1 else n) 0))
  | _ => none

/-- Table 17.9 (R467). -/
def State.rstView (s : State) (o : Nat) : Option RegView :=
  let sel := s.reg Reg.blockCtl
  let k := fld sel 0 3; let i := fld sel 8 10
  match o with
  | 0x00 => rv 0x00010000
  | 0x08 => some { val := s.power.cause, fields := [(0, 10), (16, 32)] }
  | 0x10 => rv (s.power.stepDone + b2n s.power.ready <<< 4 + b2n s.power.draining <<< 5 + b2n s.power.hbmClean <<< 6) [(0, 7)]
  | 0x18 => rv s.power.fuse.toNat [(0, 8)]
  | 0x20 => rv 0 [(0, 8), (15, 1), (48, 16)]
  | 0x30 => rv (sel.toNat + b2n (s.offline k i) <<< 24) [(0, 3), (8, 10), (24, 2)]
  | 0x38 => rv (b2n (s.blockIdle k i) + b2n (s.offline k i) <<< 1 + b2n s.blockRefused <<< 3 + s.blockOff.length <<< 32) [(0, 4), (32, 16)]
  | _ => none

/-- Table 4.5. -/
def State.groupStat (s : State) (g : Nat) : Nat :=
  let x := s.group g
  let want := fld x.ctl 8 8
  let now := min want (if g < 32 then s.power.clampC0 else s.power.clampC1)
  let owner := if x.job < 64 then x.job else ((s.jobs.find? (fun e => e.2.active && e.2.slice.groups.getLsbD g)).map (·.1)).getD 0
  x.state + b2n x.denied <<< 4 + b2n (s.inSlice g) <<< 5 + (if s.inSlice g then owner else 0) <<< 6 + (if x.state = 0 then now else 0) <<< 12 +
    b2n (x.state == 0 && decide (now < want)) <<< 20

/-- Tables 17.12 and 4.3. -/
def State.pwrView (s : State) (o : Nat) : Option RegView :=
  let p := s.power
  match o with
  | 0x00 => rv 0x00010000
  | 0x08 => some { val := p.input, fields := [(0, 48)] }
  | 0x10 => some { val := p.temps, fields := [(0, 32)] }
  | 0x18 => s.rplain Reg.capHost [(0, 16)]
  | 0x20 => rv p.capMgmt [(0, 16)]
  | 0x28 => rv p.throttle [(0, 19)]
  | 0x30 => rv 0 [(0, 1)]
  | 0x40 => rv s.now
  | 0x48 => rv (b2n s.pins.osc + b2n s.pins.pcieClk <<< 1 + b2n s.pins.nlmClk <<< 2 + 7 <<< 3) [(0, 6)]
  | _ => match slot o 0x1000 8 64, slot o 0x1200 8 64 with
    | some g, _ => some { val := (s.group g).ctl, fields := [(0, 3), (8, 8), (32, 16)] }
    | _, some g => rv (s.groupStat g) [(0, 21)]
    | _, _ => none

/-- KIND of ERR_UNIT_CTL. -/
def unitKindOf (k : Nat) : UnitKind := match k with
  | 0 => .group
  | 1 => .bank
  | 2 => .port
  | _ => .die

/-- The bytes of the slots of a well of `n` slots. -/
def ErrWell.image (w : ErrWell) (n : Nat) : List Byte :=
  (List.range n).flatMap (fun i => match mget w.slots i with
    | some r => r.bytes
    | none => zeros 64)

/-- Table 18.10 (R488). -/
def State.errView (s : State) (o : Nat) : Option RegView :=
  let e := s.errs
  let sel := s.reg Reg.unitCtl
  match o with
  | 0x00 => rv 0x00010000
  | 0x08 => rv e.well.head.toNat [(0, 32)]
  | 0x10 => rv e.well.tail.toNat [(0, 32)]
  | 0x18 => rv (b2n e.well.overflow + b2n (!e.handling.isEmpty) <<< 1 + b2n e.fatal <<< 2 + b2n e.dumping <<< 3) [(0, 4)]
  | 0x20 => rv ((e.well.lost.zipIdx.map (fun (x : Nat × Nat) => x.1 <<< (16 * x.2))).foldl (· + ·) 0)
  | 0x28 => s.rplain Reg.errCtl [(0, 12), (16, 16)]
  | 0x30 => s.rplain Reg.errThresh [(0, 32)]
  | 0x60 => s.rplain Reg.dumpCtl [(0, 2)]
  | 0x68 => rv (b2n e.dump.valid + b2n e.dump.partial_ <<< 1 + b2n e.dump.skipped <<< 2 + b2n e.dump.fwOk <<< 3 + e.dump.seq.toNat <<< 32) [(0, 4), (32, 32)]
  | 0x70 => rv dumpBase
  | 0x78 => rv 0xFF0000000
  | 0x80 => s.rplain Reg.unitCtl [(0, 20)]
  | 0x88 =>
    let u := mget e.units (unitKey (unitKindOf (fld sel 0 2)) (fld sel 2 16))
    rv ((u.map (·.state)).getD 0 + b2n ((u.map (·.failed)).getD false) <<< 2 + b2n e.unitRefused <<< 3 + e.units.length <<< 32) [(0, 4), (32, 16)]
  | _ =>
    if 0x4000 ≤ o ∧ o < 0x8000 then rbytes (e.well.image 256) (o - 0x4000)
    else match slot o 0x40 8 4 with
      | some c => s.rplain (Reg.errClass c)
      | none => none

/-- Tables 16.8 and 16.9 (R446). The recovery registers read 0 outside recovery. -/
def State.secView (s : State) (o : Nat) : Option RegView :=
  let x := s.sec
  match o with
  | 0x00 => rv 0x00010000
  | 0x08 => rv (x.boot + b2n x.confActive <<< 2 + b2n x.debugSeen <<< 3 + b2n x.debugLock <<< 4 + b2n Config.noIdentity <<< 5) [(0, 6)]
  | 0x10 => rv (x.bootCause + x.bootMs <<< 32) [(0, 4), (32, 16)]
  | 0x40 => rv (s.rollbackCount + (s.firmware.1 % 128) <<< 16) [(0, 7), (16, 7)]
  | 0x48 => rv 0 [(0, 2)]
  | 0x1000 => if x.boot = 1 then s.rplain Reg.recCtl [(0, 16), (32, 24), (60, 2)] else rv 0 [(0, 16), (32, 24), (60, 2)]
  | 0x1008 => rv (if x.boot = 1 then b2n x.recDone <<< 1 + b2n x.recFail <<< 2 + x.recCause <<< 4 else 0) [(0, 3), (4, 4)]
  | _ =>
    if 0x20 ≤ o ∧ o < 0x40 then rbytes (leBytes 32 s.firmware.2.1.toNat) (o - 0x20)
    else if 0x50 ≤ o ∧ o < 0x60 then rbytes (leBytes 16 Config.serial.toNat) (o - 0x50)
    else if 0x8000 ≤ o ∧ o < 0x10000 then rv 0
    else match slot o 0x100 8 64 with
      | some j => let k := (s.job j).keys; rv (b2n k.locked + k.weight.length <<< 1 + k.held.length <<< 8) [(0, 11)]
      | none => none

/-! ## Job pages (Table 19.8) -/

/-- SHAPED of SW_STAT: items wait under R340. -/
def State.shapedWell (s : State) (j w : Nat) : Bool :=
  let q := (s.job j).subWell w
  q.enabled && q.head != q.tail && !(s.shaper (shaperKey .well j w)).may

/-- The offsets of an output ring as RING_CONS and RING_PROD show them. -/
def State.ringReg (s : State) (j w : Nat) (prod : Bool) : Nat := match ((s.job j).compWell w).ring with
  | none => 0
  | some r => if prod then r.prod else r.cons

def State.pageView (s : State) (j o : Nat) : Option RegView :=
  let x := s.job j
  if o < 0x400 then
    let q := x.subWell (o / 0x40)
    match o % 0x40 with
    | 0x00 => some { val := q.base, fields := [(0, 64)] }
    | 0x08 => some { val := q.cfg, fields := [(0, 7)] }
    | 0x10 => rv q.tail.toNat [(0, 32)]
    | 0x18 => rv q.head.toNat [(0, 32)]
    | 0x20 => rv (b2n q.cfgErr + b2n (s.shapedWell j (o / 0x40)) <<< 1 + b2n q.fetchErr <<< 2) [(0, 3)]
    | _ => none
  else if o < 0x800 then
    let q := x.compWell ((o - 0x400) / 0x40)
    match o % 0x40 with
    | 0x00 => some { val := q.base, fields := [(0, 64)] }
    | 0x08 => some { val := q.cfg, fields := [(0, 19), (24, 24)] }
    | 0x10 => rv q.tail.toNat [(0, 32)]
    | 0x18 => rv q.head.toNat [(0, 32)]
    | 0x20 => rv (b2n q.cfgErr + b2n q.full <<< 1 + b2n q.writeErr <<< 2) [(0, 3)]
    | _ => none
  else match slot o 0x800 8 16, slot o 0x880 8 16 with
    | some w, _ => rv (s.ringReg j w false) [(0, 30)]
    | _, some w => rv (s.ringReg j w true) [(0, 30)]
    | _, _ => if o = 0x900 then rv (b2n x.active + b2n x.conf <<< 1 + b2n x.quiesced <<< 2 + b2n x.keys.locked <<< 3) [(0, 4)] else none

/-! ## SCH (Tables 9.6, 9.8, 12.4, 12.5) -/

/-- SCH_MODEL (Table 9.8). -/
def State.modelStat (s : State) (h : Nat) : Nat := match mget s.models h with
  | none => 0
  | some m =>
    let share := cdiv m.len (max 1 (64 * popcnt (s.job m.job).slice.serve))
    let streamed := m.swap || decide (s.hotSlots m.job - 8 < share)
    (if m.resident then 2 else if streamed then 3 else 1) + b2n m.pinned <<< 2 + b2n m.swap <<< 3 + m.job <<< 4 +
      (mgetD s.serving h {}).est <<< 16 + (share % 2 ^ 16) <<< 32

/-- The slice area of a job. BUSY counts a recomposition that waits for another job's (R329). -/
def State.sliceView (s : State) (j o : Nat) : Option RegView :=
  let x := s.job j
  match o with
  | 0x00 => rv (b2n x.active + b2n x.conf <<< 5 + x.func <<< 8) [(0, 6), (8, 6)]
  | 0x08 => rv (b2n x.busy + b2n x.ignored <<< 1 + x.err <<< 4 + x.epoch.toNat <<< 32) [(0, 2), (4, 4), (32, 32)]
  | 0x40 => s.rplain (Reg.slice j + o) [(0, 32)]
  | 0x48 => s.rplain (Reg.slice j + o) [(0, 48)]
  | 0x50 => rv x.slice.groups.toNat
  | 0x58 => rv x.slice.serve.toNat
  | 0x80 => rv x.slice.ports.toNat
  | 0x88 => rv x.slice.slots.toNat
  | 0x90 => rv (s.ctxBytes j)
  | _ =>
    if o < 0x40 then s.rplain (Reg.slice j + o)
    else if o < 0x80 then rv (fld x.slice.pc (8 * (o - 0x60)) 64)
    else rv 0 []

/-- A shaper register (Table 12.8): CFG, or BAL. -/
def State.shaperView (s : State) (key o : Nat) : Option RegView :=
  let x := s.shaper key
  if o % 16 = 0 then some { val := x.cfg, fields := [(0, 56), (62, 2)] } else rv x.bal.toNat [(0, 32)]

/-- Tables 9.6 and 12.4 (R267, R343). -/
def State.schView (s : State) (o : Nat) : Option RegView :=
  let b := 0x200000 + o
  if o = 0 then rv 0x00010000
  else if o < 0x20 then s.rplain b
  else if 0x100 ≤ o ∧ o < 0x300 then s.rplain b [(0, 6), (8, 40)]
  else if 0x300 ≤ o ∧ o < 0x700 then s.rplain b
  else if 0x800 < o ∧ o < 0x1000 then rv (s.modelStat ((o - 0x800) / 8)) [(0, 10), (16, 32)]
  else if o = 0x1000 then rv s.devRg [(0, 11)]
  else if o = 0x1010 then s.rplain b [(0, 21), (24, 10)]
  else if 0x1100 ≤ o ∧ o < 0x1200 then rv (s.snapshot.getD ((o - 0x1100) / 8) 0)
  else if 0x1200 ≤ o ∧ o < 0x1240 then s.rplain b [(0, 32)]
  else if 0x2000 ≤ o ∧ o < 0x6000 then s.sliceView ((o - 0x2000) / 0x100) (o % 0x100)
  else if 0x6000 ≤ o ∧ o < 0x7000 then s.rplain b [(0, 16)]
  else if 0x7000 ≤ o ∧ o < 0x8000 then
    let c := o / 8 % 8
    if c < 5 then s.rplain b [(0, instances c)] else none
  else if 0x8000 ≤ o ∧ o < 0x9000 then s.rplain b
  else if 0x9000 ≤ o ∧ o < 0x9200 then s.rplain b
  else if 0x10000 ≤ o ∧ o < 0x14400 ∨ 0x18000 ≤ o ∧ o < 0x20000 then s.shaperView (o / 16 * 16) o
  else none

/-! ## The other blocks -/

/-- Tables 1.9 and 7.4 (R43, R203). -/
def State.sesView (s : State) (fn o : Nat) : Option RegView :=
  let b := 0x300000 + o
  if o = 0x00 then rv 0x00010000
  else if o = 0x08 then rv 0
  else if o = 0x10 then rv 0 [(0, 2)]
  else if o = 0x18 then s.rplain Reg.cacheStat
  else if o = 0x20 then rv ((s.sessions.filter (fun e => e.2.state != .free)).length + s.liveReqs <<< 32) [(0, 25), (32, 17)]
  else if o = 0x30 then some { val := (s.func fn).peekCtl, fields := [(0, 25), (31, 1)] }
  else if 0x40 ≤ o ∧ o < 0xC0 then rbytes (s.func fn).peek (o - 0x40)
  else if o = 0xC0 then s.rplain Reg.attStat
  else if o = 0xC8 then s.rplain Reg.evictStat
  else if o = 0xD0 then
    rv ((s.reg Reg.rebuilt).toNat + (s.sessAux.filter (fun e => e.2.unbound && (s.sess e.1).state != .free)).length) [(0, 25), (32, 7)]
  else if 0x100 ≤ o ∧ o < 0x300 then s.rplain b [(0, 25), (32, 17)]
  else if 0x300 ≤ o ∧ o < 0x500 then s.rplain b
  else if 0x500 ≤ o ∧ o < 0x700 then let j := (o - 0x500) / 8; rv (s.sessCount j + s.reqCount j <<< 32) [(0, 25), (32, 17)]
  else if 0x700 ≤ o ∧ o < 0x900 then s.rplain b [(0, 24), (32, 32)]
  else none

/-- A field of PMP_TIER_LAT: the mean of the first-grain latencies of the last 256 revivals from a tier (4: a peer), in µs. -/
def State.tierMean (s : State) (t : Nat) : Nat :=
  let l := mgetD s.tierLat t []
  min 0xFFFF (l.foldl (· + ·) 0 / max 1 l.length)

/-- Table 2.14 (R81). -/
def State.pmpView (s : State) (o : Nat) : Option RegView :=
  let b := 0x400000 + o
  if o = 0x00 then rv 0x00010000
  else if o = 0x08 then rv (s.busyMask Cls.pump)
  else if o = 0x10 then s.rplain Reg.checkStat
  else if o = 0x18 then rv (s.tierMean 2 + s.tierMean 3 <<< 16 + s.tierMean 4 <<< 32) [(0, 48)]
  else if 0x100 ≤ o ∧ o < 0x300 then s.rplain b [(0, 51), (52, 8)]
  else if 0x300 ≤ o ∧ o < 0x500 then s.rplain b [(0, 63)]
  else if 0x500 ≤ o ∧ o < 0x700 then rv (s.t1Used ((o - 0x500) / 8) + fld (s.reg b) 32 32 <<< 32)
  else none

/-- Tables 10.7 and 10.8 (R294). -/
def State.tokView (s : State) (o : Nat) : Option RegView :=
  let b := 0x500000 + o
  if o = 0x00 then rv 0x00010000
  else if o = 0x08 then rv (s.busyMask Cls.lane)
  else if o = 0x10 then s.rplain Reg.tokCache
  else if o = 0x18 then s.rplain Reg.sivStat [(0, 48)]
  else if 0x100 ≤ o ∧ o < 0x180 then
    let n := (o - 0x100) / 8
    let size := (mget s.privSlots n).map (·.2)
    rv ((s.reg b).toNat + b2n size.isSome <<< 15 + b2n ((s.slotVocab n).isSome && size.isNone) <<< 16 + (size.getD 0) <<< 32) [(0, 17), (32, 32)]
  else if 0x200 ≤ o ∧ o < 0x400 then s.rplain b [(0, 3)]
  else match slot o 0x1000 8 1024, slot o 0x3000 8 1024 with
    | some k, _ => rv (s.ringReg (k / 16) (k % 16) false) [(0, 30)]
    | _, some k => rv (s.ringReg (k / 16) (k % 16) true) [(0, 30)]
    | _, _ => none

/-- Table 11.11 (R322). -/
def State.wlkView (s : State) (o : Nat) : Option RegView :=
  let b := 0x600000 + o
  if o = 0x00 then rv 0x00010000
  else if o = 0x08 then rv (s.busyMask Cls.walker)
  else if o = 0x28 then rv (s.busyMask Cls.gather)
  else if 0x10 ≤ o ∧ o < 0x40 then s.rplain b
  else if 0x100 ≤ o ∧ o < 0x300 then s.rplain b [(0, 6), (16, 32)]
  else none

/-- Grains of a logical range that no map entry holds (FTL_FREE). -/
def Ftl.unmapped (f : Ftl) (r : Nat × Nat) : Nat := (r.2 - r.1) - (f.map.filter (fun e => decide (r.1 ≤ e.1) && decide (e.1 < r.2))).length

/-- FTL_WEAR: mean and highest erase count, RATED_PE and LIFE_USED. -/
def Ftl.wearReg (f : Ftl) : Nat :=
  let mean := (f.blocks.foldl (fun n (e : Nat × Block) => n + e.2.erases) 0) / max 1 totalBlocks
  let high := f.blocks.foldl (fun n (e : Nat × Block) => max n e.2.erases) 0
  min 0xFFFF mean + (min 0xFFFF high) <<< 16 + (Config.flashRatedPe % 2 ^ 16) <<< 32 + (min 255 (mean * 100 / max 1 Config.flashRatedPe)) <<< 48

/-- FTL_GEOM, as the parameter page gives it. -/
def ftlGeom : Nat :=
  Config.flashDies % 32 + (Config.flashPage % 2) <<< 5 + (Config.flashCell % 2) <<< 6 + (Config.flashBlocks % 2 ^ 16) <<< 8 +
    (Config.flashPages % 2 ^ 16) <<< 24 + (Config.flashRate % 2 ^ 12) <<< 40

/-- Table 14.5. -/
def State.ftlView (s : State) (o : Nat) : Option RegView :=
  let f := s.ftl
  let on (v : Nat) : Nat := if f.state = 0 then 0 else v
  match o with
  | 0x00 => rv 0x00010000
  | 0x08 => rv (f.state + b2n f.pfSeen <<< 2 + b2n f.denied <<< 3) [(0, 4)]
  | 0x10 => rv (on ftlGeom) [(0, 7), (8, 44)]
  | 0x18 => rv f.cap [(0, 32)]
  | 0x20 => rv f.cistern [(0, 32)]
  | 0x28 => rv (on (f.unmapped f.cisternRange % 2 ^ 32 + f.unmapped f.generalRange <<< 32))
  | 0x30 => s.rplain Reg.ftlWrites
  | 0x38 => s.rplain Reg.ftlNand
  | 0x40 => rv (on f.wearReg) [(0, 56)]
  | 0x48 => rv (on (f.retired + f.reserveLeft <<< 32))
  | 0x50 => s.rplain Reg.ftlRdCtl [(0, 48)]
  | 0x58 => rv (f.pfCount + f.pfUs <<< 16) [(0, 32)]
  | 0x60 => s.rplain Reg.ftlRebuild
  | _ => match slot o 0x100 8 32 with
    | some c => rv ((mgetD f.failedDies c 0).toNat + fld (s.reg (Reg.ftlCh c)) 32 32 <<< 32) [(0, 16), (32, 32)]
    | none => none

/-- Tables 13.8 to 13.11 (R375). Link replays are below the model: REPLAYS shows what its register holds. -/
def State.nlmView (s : State) (o : Nat) : Option RegView :=
  let f := s.fabric
  match o with
  | 0x00 => rv 0x00020000
  | 0x08 => rv (f.node + b2n f.coordinator <<< 16 + f.changes.toNat <<< 32) [(0, 17), (32, 32)]
  | 0x10 => rv (b2n f.tagConflict + f.xfers.length <<< 16) [(0, 1), (16, 16)]
  | 0x18 => s.rplain Reg.nlmOwn [(0, 36), (48, 16)]
  | 0x20 => s.rplain Reg.nlmDrop
  | _ =>
    if 0x100 ≤ o ∧ o < 0x180 then s.rplain (0x900000 + o) [(0, 4)]
    else match slot o 0x200 8 32 with
      | some l => let p := s.port l; rv (p.state + p.ver <<< 3 + p.lanes <<< 5 + p.peer <<< 16 + fld (s.reg (Reg.portStat l)) 32 32 <<< 32) [(0, 10), (16, 48)]
      | none => if 0x400 ≤ o ∧ o < 0x600 then s.rplain (0x900000 + o) [(0, 32)] else none

/-- Table 15.10 (R422). -/
def State.ckpView (s : State) (o : Nat) : Option RegView :=
  if o = 0x00 then rv 0x00010000
  else if o = 0x08 then s.rplain Reg.ckpStat
  else match slot o 0x100 8 64, slot o 0x300 8 64 with
    | some j, _ => rv (fld (s.reg (Reg.ckpJob j)) 0 1 + b2n (s.job j).quiesced <<< 2) [(0, 3)]
    | _, some j => rv (fld (s.reg (Reg.ckpJobStat j)) 0 48 + b2n (s.job j).ckpt.isSome <<< 48) [(0, 49)]
    | _, _ => none

/-- A sequencer area (Table 8.2). For a confidential job's context it reads 0 (R222). -/
def State.areaView (s : State) (n o : Nat) : Option RegView :=
  if s.areaClosed n then rv 0
  else
    let v := at_ (s.seq n).image o 8
    match o with
    | 0x08 => rv v [(0, 14)]
    | 0x10 => rv v [(0, 6), (8, 4), (16, 8)]
    | 0x18 => rv v [(0, 1), (4, 26)]
    | 0x20 => rv v [(0, 30)]
    | 0x28 => rv v [(0, 7), (8, 22)]
    | 0x38 => rv v [(0, 20), (32, 16)]
    | _ =>
      if 0x40 ≤ o ∧ o < 0x80 then rv v [(0, 16)]
      else if 0xC0 ≤ o ∧ o < 0x100 then rv 0 []
      else if 0x200 ≤ o ∧ o < 0x300 then rv v [(0, 15), (16, 15), (32, 15), (48, 15)]
      else rv v

/-! ## BAR0 -/

/-- Table 19.3: the register at an offset of the physical function's BAR0, a multiple of 8; `fn` says whose SES_PEEK and HCI registers are
meant. None: no table defines it. -/
def State.bar0 (s : State) (fn off : Nat) : Option RegView :=
  if off < 0x10000 then s.hciView fn off
  else if off < 0x20000 then s.rstView (off - 0x10000)
  else if off < 0x30000 then s.pwrView (off - 0x20000)
  else if off < 0x40000 then s.errView (off - 0x30000)
  else if off < 0x50000 then s.secView (off - 0x40000)
  else if off < 0x100000 then none
  else if off < 0x140000 then s.pageView ((off - 0x100000) / 0x1000) (off % 0x1000)
  else if off < 0x200000 then none
  else if off < 0x300000 then s.schView (off - 0x200000)
  else if off < 0x400000 then s.sesView fn (off - 0x300000)
  else if off < 0x500000 then s.pmpView (off - 0x400000)
  else if off < 0x600000 then s.tokView (off - 0x500000)
  else if off < 0x700000 then s.wlkView (off - 0x600000)
  else if off < 0x800000 then none
  else if off < 0x900000 then s.ftlView (off - 0x800000)
  else if off < 0xA00000 then s.nlmView (off - 0x900000)
  else if off < 0xB00000 then s.ckpView (off - 0xA00000)
  else if 0x1000000 ≤ off ∧ off < 0x1100000 then s.areaView ((off - 0x1000000) / 0x400) (off % 0x400)
  else none

/-- The function error well's registers (R510). -/
def State.vfeView (s : State) (fn o : Nat) : Option RegView :=
  let w := mgetD s.errs.fnWells fn {}
  match o with
  | 0x00 => rv w.head.toNat [(0, 32)]
  | 0x08 => rv w.tail.toNat [(0, 32)]
  | 0x10 => some { val := w.ctl, fields := [(0, 7)] }
  | 0x18 => rv (b2n w.overflow + (min 0xFFFF (w.lost.foldl (· + ·) 0)) <<< 16) [(0, 1), (16, 16)]
  | _ => if 0x1000 ≤ o ∧ o < 0x2000 then rbytes (w.image 64) (o - 0x1000) else none

end Sys2Proof.Machine
end

