-- ==== Sys2Proof/Machine/HostIf.lean ====
section
/-!
DEFINITION. Sys2Proof/Machine/HostIf.lean: wells and their registers, version negotiation, function-level reset, the host window and writes
to BAR0 (19_host_interface, R489 to R513).
-/
namespace Sys2Proof.Machine

open Sys2Proof

/-! ## Wells (R500, R501, R507, R508, R530) -/

/-- A descriptor whose KIND is not in Table 19.11: what follows its header has no layout, so no field of it is reserved. -/
def kBadKind (d : Desc) : Kind := { code := dfld d 0 0 16, since := 0, cwell := none, keys := false, preempt := false, fields := [(128, 384)] }

/-- BAD_KIND (R503). -/
def execBadKind (job well : Nat) (d : Desc) (s : State) : Res := s.takeUp (kBadKind d) job well d fun c s => .next (s.complete c Code.badKind)

/-- DOORBELL (R501): SW_TAIL moves, and the descriptors behind it wait. `unreadable`: the one at SW_HEAD cannot be read when the well is
served. SW_TAIL behind SW_HEAD or too far ahead of it is unpredictable (job) (R513): the register holds what was written, and the job's data
become free values (R6). -/
def execDoorbell (job well : Nat) (tail : W32) (unreadable : Bool) (s : State) : Res := s.ifUp <|
  let q := (s.job job).subWell well
  let n := (tail - q.head).toNat
  if !q.enabled then .next (s.modJob job (fun x => x.setSub well { q with tail := tail }))
  else
    let q := { q with tail := tail, arrivals := q.arrivals.take n ++ List.replicate (min n q.depth - q.arrivals.length) s.now }
    let s := (s.modJob job (fun x => x.setSub well q)).spoilIf (decide (q.depth < n)) job
    if !unreadable || n == 0 || !s.works || !((s.job job).compWell well).enabled then .next s
    else
      let s := s.modJob job (fun x => x.setSub well { q with cfg := setFld q.cfg 6 1 0, fetchErr := true })
      let s := if bit q.cfg 5 then s else s.dmaFailed job
      .next (s.post job well { tag := 0, status := Code.hostDmaError, kind := 0, swell := well, final := true, result := 0, req := 0, session := 0, sub := false })

/-- Vectors of a function (Table 19.2). -/
def vectorCount (fn : Nat) : Nat := if fn = 0 then 2048 else 64

/-- The conditions of R500 on a ring of entries of `size` bytes. -/
def State.ringOk (s : State) (j : Nat) (base v : W64) (size : Nat) : Bool :=
  let x := s.job j
  let n := fld v 0 5
  x.active && (s.func x.func).agreed && decide (4 ≤ n ∧ n ≤ 16) && fld base 0 12 == 0 &&
    (!(bit v 5) || s.inJobHbm j base.toNat (size * 2 ^ n))

/-- A completion well with room, or newly enabled: records and the work behind them proceed (R507, R530). -/
def State.wellProceeds (s : State) (j w : Nat) : State :=
  (State.drain (((s.job j).compWell w).waiting.length + 1) s j w).retryEnds j w

/-- WELL_CFG_WRITE of a completion well. -/
def State.cwCfg (s : State) (j w : Nat) (v : W64) : State :=
  let x := s.job j
  let q := x.compWell w
  let set (q : CompWell) : State := s.modJob j (fun x => x.setComp w q)
  if q.enabled then
    if bit v 6 then s else if (x.subWell w).enabled then set { q with cfgErr := true } else set { q with cfg := v }
  else if !(bit v 6) then set { q with cfg := v }
  else if s.ringOk j q.base v 32 && decide (fld v 8 11 < vectorCount x.func) then
    (set { q with cfg := v, tail := 0, head := 0, unsignalled := 0 }).wellProceeds j w
  else set { q with cfg := setFld v 6 1 0, cfgErr := true }

/-- WELL_CFG_WRITE of a submission well. -/
def State.swCfg (s : State) (j w : Nat) (v : W64) : State :=
  let x := s.job j
  let q := x.subWell w
  let set (q : SubWell) : State := s.modJob j (fun x => x.setSub w q)
  if q.enabled then (if bit v 6 then s else set { q with cfg := v })
  else if !(bit v 6) then set { q with cfg := v }
  else if s.ringOk j q.base v 64 && (x.compWell w).enabled then set { q with cfg := v, tail := 0, head := 0, arrivals := [] }
  else set { q with cfg := setFld v 6 1 0, cfgErr := true }

/-- WELL_CFG_WRITE (R500): while a well is enabled, every write is ignored but one that clears ENABLE; clearing it of a completion well whose
submission well is enabled is refused. -/
def execWellCfgWrite (job well : Nat) (completion : Bool) (v : W64) (s : State) : Res := s.ifUp <|
  if completion then
    if !onlyFields v [(0, 19), (24, 24)] then .fault .unpredictableDevice else .next (s.cwCfg job well v)
  else if !onlyFields v [(0, 7)] then .fault .unpredictableDevice
  else .next (s.swCfg job well v)

/-- CW_HEAD_WRITE (R507, Table 19.8): a value beyond CW_TAIL is ignored. -/
def execCwHeadWrite (job well : Nat) (v : W32) (s : State) : Res := s.ifUp <|
  let q := (s.job job).compWell well
  if q.unread < (v - q.head).toNat then .next s
  else .next ((s.modJob job (fun x => x.setComp well { q with head := v })).wellProceeds job well)

/-- A record read back from its 32 B (Table 19.12). -/
def recOf (bs : List Byte) : Rec :=
  { tag := BitVec.ofNat 64 (at_ bs 0 8), status := at_ bs 8 2, kind := at_ bs 10 2, swell := at_ bs 12 1 % 16, final := at_ bs 12 1 / 16 % 2 == 1,
    result := BitVec.ofNat 64 (at_ bs 16 8), req := at_ bs 24 4, session := at_ bs 28 3, sub := at_ bs 10 2 != 0 }

/-- COMPLETION_WRITE_FAIL (R530): the write of the newest record that host software has not consumed failed. It waits again, in front; the
well is disabled. A write to HBM does not fail this way. -/
def execCompletionWriteFail (job well : Nat) (s : State) : Res := s.ifUp <|
  let q := (s.job job).compWell well
  if !q.enabled || q.unread == 0 || bit q.cfg 5 then .next s
  else
    let n := q.tail - 1
    let a := q.base.toNat + 32 * (n.toNat % q.depth)
    let r := recOf ((Memory.readAll s.host a 32).getD (zeros 32))
    let q := { q with tail := n, waiting := r :: q.waiting, writeErr := true, cfg := setFld q.cfg 6 1 0, unsignalled := q.unsignalled - 1 }
    let s := ({ s with host := s.host.filter (fun (c : Host.Cell) => decide (c.1 < a) || decide (a + 32 ≤ c.1)) } : State).dmaFailed job
    .next (s.modJob job (fun x =>
      let x := x.setComp well q
      if r.sub && r.final then
        let w := x.subWell r.swell
        x.setSub r.swell { w with unfinished := w.unfinished + 1 }
      else x))

/-- COALESCE_TIMER (R508). -/
def execCoalesceTimer (job well : Nat) (s : State) : Res := s.ifUp <|
  let q := (s.job job).compWell well
  let us := fld q.cfg 32 16
  if bit q.cfg 7 = false ∨ q.unread = 0 ∨ q.unsignalled = 0 ∨ us = 0 ∨ s.now < q.oldest + us then .next s
  else .next ((s.modJob job (fun x => x.setComp well { q with unsignalled := 0 })).signal (s.job job).func (fld q.cfg 8 11))

/-! ## Versions and function-level reset (R497, R509) -/

/-- The versions of R497 (major, minor). -/
def hciVersions : List (Nat × Nat) := [(2, 4), (3, 0), (3, 1), (3, 2)]

/-- A well of a job bound to the function is enabled. -/
def State.wellsOn (s : State) (fn : Nat) : Bool :=
  s.jobs.any (fun e => e.2.active && e.2.func == fn && (e.2.sw.any (fun w => w.2.enabled) || e.2.cw.any (fun w => w.2.enabled)))

/-- HCI_VER_GO (R497): a write of HCI_VER_CTL. -/
def execHciVerGo (fn : Nat) (v : W64) (s : State) : Res := s.ifUp <|
  if !onlyFields v [(0, 17)] then .fault .unpredictableDevice
  else
    let minor := fld v 0 8; let major := fld v 8 8
    let s := s.modFunc fn (fun f => { f with verCtl := setFld v 16 1 0 })
    if !bit v 16 then .next s
    else if s.wellsOn fn then .next (s.modFunc fn (fun f => { f with busy := true }))
    else if hciVersions.contains (major, minor) then .next (s.modFunc fn (fun f => { f with agreed := true, minor := minor, major := major }))
    else .next (s.modFunc fn (fun f => { f with refused := true }))

/-- Wells disabled, with the descriptors not taken up dropped. -/
def Job.wellsOff (x : Job) : Job :=
  { x with sw := x.sw.map (fun (w : Nat × SubWell) => (w.1, { w.2 with cfg := setFld w.2.cfg 6 1 0, tail := w.2.head, arrivals := [] }))
           cw := x.cw.map (fun (w : Nat × CompWell) => (w.1, { w.2 with cfg := setFld w.2.cfg 6 1 0 })) }

/-- Records that wait are dropped, and no descriptor is in progress. -/
def Job.recordsOff (x : Job) : Job :=
  { x with sw := x.sw.map (fun (w : Nat × SubWell) => (w.1, { w.2 with unfinished := 0 }))
           cw := x.cw.map (fun (w : Nat × CompWell) => (w.1, { w.2 with waiting := [], unsignalled := 0 })) }

/-- A function-level reset (R509). One of the physical function covers the jobs of every virtual function. -/
def State.flr (s : State) (fn : Nat) : State :=
  let mine (j : Nat) : Bool := (s.job j).active && (fn == 0 || (s.job j).func == fn)
  let each (f : Job → Job) (s : State) : State := { s with jobs := s.jobs.map (fun (e : Nat × Job) => (e.1, if mine e.1 then f e.2 else e.2)) }
  let s := each Job.recordsOff ((each Job.wellsOff s).endWork mine none [])
  let clear (f : Func) : Func := { f with agreed := false, minor := 0, major := 0, winBase := 0, signals := [] }
  let s := if fn = 0 then { s with funcs := s.funcs.map (fun (e : Nat × Func) => (e.1, clear e.2)) } else s.modFunc fn clear
  s.startProgs

/-- FLR, and D3HOT_ENTRY (R489), which is handled as one. -/
def execFlr (fn : Nat) (s : State) : Res := s.ifUp <| .next (s.flr fn)
def execD3hotEntry (fn : Nat) (s : State) : Res := s.ifUp <| .next (s.flr fn)

/-! ## Writes to BAR0 (R10, R492 to R494) -/

/-- A write of one 64-bit register. `raw` is what was written, 0 in a half that was not; `v` has that half as the register reads. -/
structure RegWrite where
  raw : W64
  v : W64

/-- Set a plain register. -/
def State.setPlain (s : State) (off : Nat) (x : W64) : Res := .next (s.setReg off x)

/-- Table 19.5 for a function. -/
def State.hciWrite (s : State) (fn o : Nat) (w : RegWrite) : Res :=
  match o with
  | 0x20 => execHciVerGo fn w.v s
  | 0x28 => .next (s.modFunc fn (fun f => { f with refused := f.refused && !bit w.raw 17, busy := f.busy && !bit w.raw 18 }))
  | 0x30 => .next (s.modFunc fn (fun f => { f with winBase := w.v }))
  | 0x40 => if bit w.raw 1 then execResetReqSystem fn w.raw s else if bit w.raw 0 then execResetReqCore fn w.raw s else .next s
  | _ => .next s

/-- Tables 17.9 to 17.11. -/
def State.rstWrite (s : State) (o : Nat) (w : RegWrite) : Res :=
  match o with
  | 0x08 => .next { s with power := { s.power with cause := s.power.cause &&& ~~~(w.raw &&& 0xFF) } }
  | 0x20 => execFuseBurn w.raw s
  | 0x30 =>
    let k := fld w.v 0 3; let i := fld w.v 8 10
    if blockCount k ≤ i then .next { s with blockRefused := true }
    else
      (execBlockOffline k i (bit w.v 24) (s.setReg Reg.blockCtl (BitVec.ofNat 64 (k + i <<< 8)))).andThen fun s =>
        if bit w.raw 25 then execBlockReset k i s else .next s
  | 0x38 => .next { s with blockRefused := s.blockRefused && !bit w.raw 3 }
  | _ => .next s

/-- Tables 17.12 and 4.3. -/
def State.pwrWrite (s : State) (o : Nat) (w : RegWrite) : Res :=
  match o with
  | 0x18 => s.setPlain Reg.capHost w.v
  | 0x28 => .next { s with power := { s.power with capMiss := s.power.capMiss && !bit w.raw 18 } }
  | 0x30 => if bit w.raw 0 then execPwrStandbyEnter s else .next s
  | _ => match slot o 0x1000 8 64, slot o 0x1200 8 64 with
    | some g, _ => execPwrGroupCtlWrite g w.v s
    | _, some g => .next (s.setGroup g { s.group g with denied := (s.group g).denied && !bit w.raw 4 })
    | _, _ => .next s

/-- Table 18.10. -/
def State.errWrite (s : State) (o : Nat) (w : RegWrite) : Res :=
  match o with
  | 0x10 => execErrWellTailWrite 0 (w.v.setWidth 32) s
  | 0x18 => if bit w.raw 0 then execOverflowClear 0 s else .next s
  | 0x28 => s.setPlain Reg.errCtl w.v
  | 0x30 => s.setPlain Reg.errThresh w.v
  | 0x60 =>
    let s := s.setReg Reg.dumpCtl (BitVec.ofNat 64 (fld w.v 0 1))
    if bit w.raw 1 then execRelease s else .next s
  | 0x68 => .next { s with errs := { s.errs with dump := { s.errs.dump with skipped := s.errs.dump.skipped && !bit w.raw 2 } } }
  | 0x80 =>
    let k := unitKindOf (fld w.v 0 2); let u := fld w.v 2 16
    let s := s.setReg Reg.unitCtl (BitVec.ofNat 64 (fld w.v 0 18))
    (if bit w.raw 18 then execUnitOut k u s else .next s).andThen fun s => if bit w.raw 19 then execUnitReturn k u s else .next s
  | 0x88 => .next { s with errs := { s.errs with unitRefused := s.errs.unitRefused && !bit w.raw 3 } }
  | _ => .next s

/-- Table 16.8. In recovery, whether programming the boot flash fails is a free value. -/
def State.secWrite (s : State) (o : Nat) (w : RegWrite) : Res :=
  if o = 0x48 then (if bit w.raw 0 then execCommit s else .next s)
  else if s.sec.boot ≠ 1 then .next s
  else if o = 0x1000 then
    let s := s.setReg Reg.recCtl (setFld w.v 60 2 0)
    (if bit w.raw 60 then
        let (n, s) := s.draw
        execRecWrite (setFld w.v 60 1 1) [] (Config.freeBool n) s
      else .next s).andThen fun s => if bit w.raw 61 then execFinish s else .next s
  else .next s

/-- Table 19.8. -/
def State.pageWrite (s : State) (j o : Nat) (w : RegWrite) : Res :=
  let x := s.job j
  if o < 0x400 then
    let n := o / 0x40
    let q := x.subWell n
    let set (q : SubWell) : Res := .next (s.modJob j (fun x => x.setSub n q))
    match o % 0x40 with
    | 0x00 => if q.enabled then .next s else set { q with base := w.v }
    | 0x08 => execWellCfgWrite j n false w.v s
    | 0x10 =>
      let (k, s) := s.draw
      execDoorbell j n (w.v.setWidth 32) (!(bit q.cfg 5) && Config.freeBool k) s
    | 0x20 => set { q with cfgErr := q.cfgErr && !bit w.raw 0, fetchErr := q.fetchErr && !bit w.raw 2 }
    | _ => .next s
  else if o < 0x800 then
    let n := (o - 0x400) / 0x40
    let q := x.compWell n
    let set (q : CompWell) : Res := .next (s.modJob j (fun x => x.setComp n q))
    match o % 0x40 with
    | 0x00 => if q.enabled then .next s else set { q with base := w.v }
    | 0x08 => execWellCfgWrite j n true w.v s
    | 0x18 => execCwHeadWrite j n (w.v.setWidth 32) s
    | 0x20 => set { q with cfgErr := q.cfgErr && !bit w.raw 0, writeErr := q.writeErr && !bit w.raw 2 }
    | _ => .next s
  else match slot o 0x800 8 16 with
    | some n => execTokRingConsWrite j n w.v s
    | none => .next s

/-- SCH_JOB_CTL (Table 12.6): a write that asks for more than one of CREATE, DESTROY and RECOMPOSE does none. -/
def State.jobCtlWrite (s : State) (j : Nat) (w : RegWrite) : Res :=
  match bit w.raw 2, bit w.raw 3, bit w.raw 4 with
  | true, false, false => execCreate j w.v s
  | false, true, false => execDestroy j s
  | false, false, true => execRecompose j s
  | false, false, false => .next (if (s.job j).active then s else s.modJob j (fun x => { x with conf := bit w.v 5, func := fld w.v 8 6 }))
  | _, _, _ => .next (s.setJobErr j JobErr.bad)

/-- A register that R330 closes while the job is recomposed. -/
def State.requestWrite (s : State) (j off : Nat) (v : W64) : Res :=
  if (s.job j).busy then .next (s.modJob j (fun x => { x with ignored := true })) else s.setPlain off v

/-- Tables 9.6, 12.4 and 12.5. -/
def State.schWrite (s : State) (o : Nat) (w : RegWrite) : Res :=
  let b := 0x200000 + o
  if 0x100 ≤ o ∧ o < 0x300 ∨ 0x500 ≤ o ∧ o < 0x700 ∨ 0x1200 ≤ o ∧ o < 0x1240 ∨ 0x6000 ≤ o ∧ o < 0x7000 then s.setPlain b w.v
  else if o = 0x1010 then execSnap w.v s
  else if 0x2000 ≤ o ∧ o < 0x6000 then
    let j := (o - 0x2000) / 0x100
    match o % 0x100 with
    | 0x00 => s.jobCtlWrite j w
    | 0x08 => .next (s.modJob j (fun x => { x with ignored := x.ignored && !bit w.raw 1 }))
    | k => if k < 0x50 then s.requestWrite j b w.v else .next s
  else if 0x7000 ≤ o ∧ o < 0x8000 then s.requestWrite ((o - 0x7000) / 64) b w.v
  else if 0x9000 ≤ o ∧ o < 0x9200 then s.setPlain b (setFld w.v 0 12 0)
  else if o % 16 ≠ 0 then .next s
  else match slot o 0x10000 16 1024, slot o 0x14000 16 64, slot o 0x18000 16 2048 with
    | some k, _, _ => execShaperCfgWrite .well (k / 16) (k % 16) w.v s
    | _, some k, _ => execShaperCfgWrite .pump k 0 w.v s
    | _, _, some k => execShaperCfgWrite .egress (k / 32) (k % 32) w.v s
    | _, _, _ => .next s

/-- Tables 1.9 and 7.4. -/
def State.sesWrite (s : State) (fn o : Nat) (w : RegWrite) : Res :=
  let b := 0x300000 + o
  if o = 0x10 then (if bit w.raw 0 then execSesCacheFlush s else .next s)
  else if o = 0x30 then execSesPeek fn w.v s
  else if o = 0xD0 then
    let s := s.setReg Reg.rebuilt (BitVec.ofNat 64 (fld w.v 32 6 <<< 32))
    if bit w.raw 38 then execSesRebuiltDrop (fld w.v 32 6) s else .next s
  else if 0x100 ≤ o ∧ o < 0x500 ∨ 0x700 ≤ o ∧ o < 0x900 then s.setPlain b w.v
  else .next s

/-- Table 2.14. A DEMOTE_TIER other than 2 or 3 is unpredictable (device). -/
def State.pmpWrite (s : State) (o : Nat) (w : RegWrite) : Res :=
  let b := 0x400000 + o
  if 0x100 ≤ o ∧ o < 0x300 then
    if fld w.v 48 3 = 2 ∨ fld w.v 48 3 = 3 then s.setPlain b w.v else .fault .unpredictableDevice
  else if 0x300 ≤ o ∧ o < 0x500 then s.setPlain b w.v
  else if 0x500 ≤ o ∧ o < 0x700 then s.setPlain b (setFld w.v 0 32 0)
  else .next s

/-- Table 10.7. -/
def State.tokWrite (s : State) (o : Nat) (w : RegWrite) : Res :=
  if 0x200 ≤ o ∧ o < 0x400 then s.setPlain (0x500000 + o) w.v
  else match slot o 0x100 8 16, slot o 0x1000 8 1024 with
    | some n, _ => execPrivSlotWrite n (BitVec.ofNat 64 (fld w.v 0 15)) s
    | _, some k => execTokRingConsWrite (k / 16) (k % 16) w.v s
    | _, _ => .next s

/-- Table 14.5. -/
def State.ftlWrite (s : State) (o : Nat) (w : RegWrite) : Res :=
  match o with
  | 0x08 => .next { s with ftl := { s.ftl with pfSeen := s.ftl.pfSeen && !bit w.raw 2, denied := s.ftl.denied && !bit w.raw 3 } }
  | 0x20 => execFtlSplitWrite (w.v.setWidth 32) s
  | 0x50 => s.setPlain Reg.ftlRdCtl w.v
  | _ => .next s

/-- Table 13.8. -/
def State.nlmWrite (s : State) (o : Nat) (w : RegWrite) : Res :=
  match o with
  | 0x10 => .next { s with fabric := { s.fabric with tagConflict := s.fabric.tagConflict && !bit w.raw 0 } }
  | 0x18 => s.setPlain Reg.nlmOwn w.v
  | _ => match slot o 0x100 8 16, slot o 0x400 8 64 with
    | some n, _ => execPortCtlWrite n w.v s
    | _, some j => execJobTagWrite j (w.v.setWidth 32) s
    | _, _ => .next s

/-- Table 15.10. -/
def State.ckpWrite (s : State) (o : Nat) (w : RegWrite) : Res :=
  match slot o 0x100 8 64 with
  | some j =>
    let s := s.setReg (Reg.ckpJob j) (BitVec.ofNat 64 (fld w.v 0 1))
    if bit w.raw 1 then execResume j s else .next s
  | none => .next s

/-- A write to the register at an offset of the physical function's BAR0 that a table defines. -/
def State.bar0Write (s : State) (fn off : Nat) (w : RegWrite) : Res :=
  if off < 0x10000 then s.hciWrite fn off w
  else if off < 0x20000 then s.rstWrite (off - 0x10000) w
  else if off < 0x30000 then s.pwrWrite (off - 0x20000) w
  else if off < 0x40000 then s.errWrite (off - 0x30000) w
  else if off < 0x50000 then s.secWrite (off - 0x40000) w
  else if off < 0x140000 then s.pageWrite ((off - 0x100000) / 0x1000) (off % 0x1000) w
  else if off < 0x300000 then s.schWrite (off - 0x200000) w
  else if off < 0x400000 then s.sesWrite fn (off - 0x300000) w
  else if off < 0x500000 then s.pmpWrite (off - 0x400000) w
  else if off < 0x600000 then s.tokWrite (off - 0x500000) w
  else if off < 0x700000 then (if 0x600100 ≤ off then s.setPlain off w.v else .next s)
  else if off < 0x900000 then s.ftlWrite (off - 0x800000) w
  else if off < 0xA00000 then s.nlmWrite (off - 0x900000) w
  else s.ckpWrite (off - 0xA00000) w

/-- The function error well of a virtual function (R510). -/
def State.vfeWrite (s : State) (fn o : Nat) (w : RegWrite) : Res :=
  match o with
  | 0x08 => execErrWellTailWrite fn (w.v.setWidth 32) s
  | 0x10 => .next { s with errs := { s.errs with fnWells := mmod s.errs.fnWells fn {} (fun e => { e with ctl := w.v }) } }
  | 0x18 => if bit w.raw 0 then execOverflowClear fn s else .next s
  | _ => .next s

/-- Where an offset of a function's BAR0 leads. -/
inductive Target where
  /-- A register of the physical function's map, by its offset there. -/
  | reg (off : Nat)
  /-- A register of the function error well. -/
  | vfe (o : Nat)
  /-- Ignored without being counted. -/
  | closed
  /-- No table defines it. -/
  | nothing
deriving DecidableEq, Repr

/-- Tables 19.3 and 19.4. Job pages of jobs that are not bound to a virtual function, and HCI_RST_REQ there, are closed. -/
def State.target (s : State) (fn off : Nat) : Target :=
  if fn = 0 then .reg off
  else if off = 0x40 then .closed
  else if off < 0x1000 then .reg off
  else if 0x10000 ≤ off ∧ off < 0x12000 then .vfe (off - 0x10000)
  else if off = 0x20030 ∨ 0x20040 ≤ off ∧ off < 0x200C0 then .reg (0x300000 + (off - 0x20000))
  else if 0x40000 ≤ off ∧ off < 0x80000 then
    let x := s.job ((off - 0x40000) / 0x1000)
    if x.active && x.func == fn then .reg (0x100000 + (off - 0x40000)) else .closed
  else .nothing

/-- The bits of a register that its fields cover. -/
def RegView.mask (r : RegView) : W64 := r.fields.foldl (fun m f => setFld m f.1 f.2 (2 ^ f.2 - 1)) 0

/-- The half or the whole of a register that a write of `size` bytes at `off` names, and what is written with it. -/
def regWrite (view : RegView) (off size : Nat) (v : W64) : RegWrite :=
  if size = 8 then { raw := v, v := v }
  else
    let half := BitVec.ofNat 64 (fld v 0 32 <<< (8 * (off % 8)))
    { raw := half, v := setFld view.val (8 * (off % 8)) 32 (fld v 0 32) }

/-- A sequencer's area, written byte by byte in the half or whole (R220); closed to the host for a confidential job (R222). -/
def State.areaHost (s : State) (n off size : Nat) (v : W64) : Res :=
  if s.areaClosed n then .next s
  else match s.areaWrite n off (leBytes size v.toNat) with
    | none => .fault .unpredictableDevice
    | some s => .next s

/-- A write of `size` bytes to a register with view `r`: a reserved field that is not 0 is unpredictable (device) (R9). -/
def checked (r : RegView) (off size : Nat) (v : W64) (f : RegWrite → Res) : Res :=
  let w := regWrite r off size v
  if w.raw &&& ~~~r.mask ≠ 0 then .fault .unpredictableDevice else f w

/-- The registers that recovery serves (R426): the recovery chunk buffer, SEC_REC_CTL, and the read-only SEC_REC_STAT and identification registers. -/
def State.recoveryWrite (s : State) (off size : Nat) (v : W64) : Res :=
  if 0x48000 ≤ off ∧ off < 0x50000 then
    .next { s with sec := { s.sec with recBuf := Memory.write (some 0) s.sec.recBuf (off - 0x48000) (leBytes size v.toNat) } }
  else if ([0, 8, 0x10, Reg.recCtl, Reg.recCtl + 8].contains (off / 8 * 8)) = false then .next s
  else match s.bar0 0 (off / 8 * 8) with
    | none => .next s
    | some r => checked r off size v (fun w => if off / 8 * 8 = Reg.recCtl then s.secWrite 0x1000 w else .next s)

/-- REGISTER_WRITE (R10, R492): a write of 4 or 8 bytes to BAR0, naturally aligned, to a register that a table defines; any other is ignored
and counted. DBG is laid out elsewhere; it ignores writes while R440 disables it. -/
def execRegisterWrite (fn off size : Nat) (v : W64) (s : State) : Res :=
  if s.power.state = .active ∧ s.sec.boot = 1 ∧ s.power.level.isNone = true then
    if fn = 0 ∧ (size = 4 ∨ size = 8) ∧ off % size = 0 then s.recoveryWrite off size v else .next s
  else s.ifUp <|
    if (if fn = 0 then 0x10000000 else 0x80000) ≤ off then .next s
    else if (size ≠ 4 ∧ size ≠ 8) ∨ off % size ≠ 0 then .next (s.badAccess fn)
    else if fn = 0 ∧ 0xF00000 ≤ off ∧ off < 0x1000000 then
      if s.sec.confActive || s.sec.debugLock then .next s else .refused .otherManual
    else if fn = 0 ∧ 0x1000000 ≤ off ∧ off < 0x1100000 then s.areaHost ((off - 0x1000000) / 0x400) (off % 0x400) size v
    else match s.target fn (off / 8 * 8) with
      | .closed => .next s
      | .nothing => .next (s.badAccess fn)
      | .vfe o =>
        match s.vfeView fn o with
        | none => .next (s.badAccess fn)
        | some r => checked r off size v (s.vfeWrite fn o)
      | .reg o =>
        match s.bar0 fn o with
        | none => .next (s.badAccess fn)
        | some r => checked r off size v (s.bar0Write fn o)

end Sys2Proof.Machine
end

