-- ==== Sys2Proof/Machine/Matrix.lean ====
section
/-!
DEFINITION. Sys2Proof/Machine/Matrix.lean: the matrix slot of Fletegus: MTX instructions (R171 to R175, R88 to R95).
-/
namespace Sys2Proof.Machine

open Sys2Proof

/-! ## Operands in store -/

/-- Bytes of what a core's store reads as, and a signed byte. -/
def b8 (m : List Host.Cell) (a : Nat) : Nat := (Memory.get m a).toNat
def s8 (m : List Host.Cell) (a : Nat) : Int := (Memory.get m a).toInt

/-- NB of a matrix step: 0 means 256 blocks. -/
def blocksOf (f : FmtM) : Nat := if f.nb = 0 then 256 else f.nb.toNat

/-- Checks of several runs (address, bytes, alignment). -/
def runFaults (slots : BitVec 48) (rs : List (Nat × Nat × Nat)) : List (Cause × Nat) :=
  rs.flatMap (fun r => accessFaults slots r.1 r.2.1 r.2.2)

/-- Fields of a matrix word that its function does not have (R162, log entry 14), and Q, which is at most 16. -/
def mtxLegal (f : FmtM) (opf lf fl : Bool) : Bool :=
  f.rsv == 0 && (opf || f.opf == 0) && (lf || !f.lf) && (fl || !f.fl) && decide (f.q.toNat ≤ 16)

/-- Rows of a readout, fill or add: 1 to 32, within the tile. -/
def rowsLegal (f : FmtM) : Bool := decide (1 ≤ f.nb.toNat) && decide (f.row.toNat + f.nb.toNat ≤ 32)

/-- p[PD] counts as written when FL is 1. -/
def flWrites (f : FmtM) : List Nat := if f.fl then [wP f.pd.toNat] else []

/-- Sum of the terms of one element, and RANGE (R90 to R92). -/
def sumTerms (ts : List (BitVec 48 × Bool)) : BitVec 48 × Bool := ts.foldl (fun a t => (a.1 + t.1, a.2 || t.2)) (0, false)

/-! ## Steps (R172) -/

/-- MOUT (R110, R105): both operands in panel layout. -/
def execMout (c : Nat) (h : Head) (f : FmtM) (s : State) : Res :=
  s.word (.mout c h f) c h Slot.matrix [] (fun _ => mtxLegal f false false false) (fun e k =>
    let sa := (k.snap.sreg f.sa).toNat; let sb := (k.snap.sreg f.sb).toNat; let nb := blocksOf f
    let cands := runFaults e.slots [(sa, 1056 * nb, 32), (sb, 1056 * nb, 32)]
    if !cands.isEmpty then .fault cands
    else
      let t := k.regs.tile f.at_.toNat
      let cell (i j : Nat) := sumTerms ((List.range nb).flatMap (fun K => (List.range 32).map (fun x =>
        termOf (b8 e.mem (sa + 1024 * K + 32 * i + x)) (s8 e.mem (sa + 1024 * nb + 32 * K + i))
          (b8 e.mem (sb + 1024 * K + 32 * j + x)) (s8 e.mem (sb + 1024 * nb + 32 * K + j)) (t.row i))))
      let cells := (List.range 1024).map (fun n => cell (n / 32) (n % 32))
      let elems := (List.range 1024).map (fun n => (n, t.at (n / 32) (n % 32) + (cells.getD n (0, false)).1))
      .ok { k with regs := (k.regs.setTile f.at_.toNat { t with elems := elems }).raiseRange f.at_.toNat (cells.any Prod.snd) })

/-- The runs an MROW reads, with their alignment (Table 6.12). -/
def mrowRuns (f : FmtM) (sa sb sc nb : Nat) : List (Nat × Nat × Nat) :=
  let act := (List.range nb).flatMap (fun K =>
    [(sa + 256 * (K / 2) + 32 * (K % 2), 32, 1), (sa + 256 * (K / 2) + 64 + K % 2, 1, 1)])
  let w : List (Nat × Nat × Nat) :=
    if f.opf = 0 then [(sb, 1056 * nb, 32)]
    else if f.opf = 1 then
      (sb, 1, 32) :: (sc, 1, 4) :: (List.range 32).flatMap (fun j => [(sb + 96 * j, 24 * nb, 1), (sc + 4 * j, nb, 1)])
    else (sb, 1, 8) :: (List.range (32 * nb)).flatMap (fun i => [(sb + 96 * i, 24, 1), (sc + 4 * i, 1, 1)])
  (sa, 1, 32) :: act ++ w

/-- MROW (R111, R105): the activation in pair layout, the weights by the operand form. -/
def execMrow (c : Nat) (h : Head) (f : FmtM) (s : State) : Res :=
  s.word (.mrow c h f) c h Slot.matrix []
    (fun _ => mtxLegal f true false false &&
      (if f.opf = 0 then true else if f.opf = 1 then decide (1 ≤ f.nb.toNat ∧ f.nb.toNat ≤ 4)
       else if f.opf = 2 then decide (1 ≤ f.nb.toNat ∧ f.nb.toNat ≤ 2) else false))
    (fun e k =>
      let sa := (k.snap.sreg f.sa).toNat; let sb := (k.snap.sreg f.sb).toNat; let sc := (k.snap.sreg f.sc).toNat
      let nb := blocksOf f
      let cands := runFaults e.slots (mrowRuns f sa sb sc nb)
      if !cands.isEmpty then .fault cands
      else
        let t := k.regs.tile f.at_.toNat; let r := f.row.toNat
        let weight (K i j : Nat) : Nat × Int :=
          if f.opf = 0 then (b8 e.mem (sb + 1024 * K + 32 * j + i), s8 e.mem (sb + 1024 * nb + 32 * K + j))
          else if f.opf = 1 then (lift (l6Code (Memory.read e.mem (sb + 96 * j + 24 * K) 24) i), s8 e.mem (sc + 4 * j + K))
          else (lift (l6Code (Memory.read e.mem (sb + 96 * (32 * K + i)) 24) j), s8 e.mem (sc + 4 * (32 * K + i)))
        let cell (j : Nat) := sumTerms ((List.range nb).flatMap (fun K => (List.range 32).map (fun i =>
          let pa := sa + 256 * (K / 2)
          let (cw, ew) := weight K i j
          termOf (b8 e.mem (pa + 32 * (K % 2) + i)) (s8 e.mem (pa + 64 + K % 2)) cw ew (t.row r))))
        let cells := (List.range 32).map cell
        let elems := (List.range 32).foldl (fun m j => mput m (32 * r + j) (t.at r j + (cells.getD j (0, false)).1)) t.elems
        .ok { k with regs := (k.regs.setTile f.at_.toNat { t with elems := elems }).raiseRange f.at_.toNat (cells.any Prod.snd) })

/-- MCLR (R89): elements 0, row exponents from lanes 0 to 31 of v[SA], RANGE and SAT cleared. Other fields are 0. -/
def execMclr (c : Nat) (h : Head) (f : FmtM) (s : State) : Res :=
  s.word (.mclr c h f) c h Slot.matrix []
    (fun _ => mtxLegal f false false false && f.sb == 0 && f.sc == 0 && f.nb == 0 && f.row == 0 && f.q == 0 && f.pd == 0)
    (regsOnly fun o n =>
      let v := o.vreg f.sa
      let exps := (List.range 32).map (fun r => (r, (lane v r).extractLsb' 0 16))
      (n.setTile f.at_.toNat { elems := [], exps := exps }).clearTile f.at_.toNat)

/-! ## Readouts, fill and add (R173, R174) -/

/-- Address of row `i`: sa + i × sb, modulo 2^32. -/
def rowAddr (sa sb : W32) (i : Nat) : Nat := (sa + BitVec.ofNat 32 i * sb).toNat

/-- Run checks of the rows at sa with stride sb; the stride keeps the alignment too. -/
def rowFaults (slots : BitVec 48) (sa sb : W32) (rows n align : Nat) : List (Cause × Nat) :=
  (if sb.toNat % align = 0 then [] else [(Cause.align, sa.toNat)]) ++
    runFaults slots ((List.range rows).map (fun i => (rowAddr sa sb i, n, align)))

/-- Checks of the exponents at sc with a stride. -/
def expFaults (slots : BitVec 48) (sc stride : W32) (rows n align : Nat) : List (Cause × Nat) :=
  runFaults slots ((List.range rows).map (fun i => (rowAddr sc stride i, n, align)))

/-- FL: p[PD] receives the tile's flags after the instruction. -/
def withFl (f : FmtM) (r : CoreRegs) : CoreRegs :=
  if f.fl then r.setP f.pd.toNat (if r.tileFlag f.at_.toNat then BitVec.allOnes 64 else 0) else r

/-- MRDW: W32 readout. -/
def execMrdw (c : Nat) (h : Head) (f : FmtM) (s : State) : Res :=
  s.word (.mrdw c h f) c h Slot.matrix (flWrites f) (fun _ => mtxLegal f false false true && rowsLegal f) (fun e k =>
    let sa := k.snap.sreg f.sa; let sb := k.snap.sreg f.sb; let sc := k.snap.sreg f.sc; let n := f.nb.toNat
    let cands := rowFaults e.slots sa sb n 128 32 ++ expFaults e.slots sc 2 n 2 2
    if !cands.isEmpty then .fault cands
    else
      let t := k.regs.tile f.at_.toNat
      let rows := (List.range n).map (fun i => (List.range 32).map (fun j => readout (t.at (f.row.toNat + i) j) f.q.toNat))
      let k := (List.range n).foldl (fun k i =>
        let ws := (rows.getD i []).flatMap (fun x => leBytes 4 x.1.toNat)
        (k.later (.store (rowAddr sa sb i) ws)).later
          (.store (rowAddr sc 2 i) (leBytes 2 (BitVec.ofInt 16 (t.row (f.row.toNat + i) + f.q.toNat)).toNat))) k
      .ok { k with regs := withFl f (k.regs.raiseSat f.at_.toNat (rows.any (fun r => r.any Prod.snd))) })

/-- MRDR: raw readout, Q 0. -/
def execMrdr (c : Nat) (h : Head) (f : FmtM) (s : State) : Res :=
  s.word (.mrdr c h f) c h Slot.matrix (flWrites f) (fun _ => mtxLegal f false false true && rowsLegal f && f.q == 0) (fun e k =>
    let sa := k.snap.sreg f.sa; let sb := k.snap.sreg f.sb; let sc := k.snap.sreg f.sc; let n := f.nb.toNat
    let cands := rowFaults e.slots sa sb n 256 32 ++ expFaults e.slots sc 2 n 2 2
    if !cands.isEmpty then .fault cands
    else
      let t := k.regs.tile f.at_.toNat
      let k := (List.range n).foldl (fun k i =>
        let ws := (List.range 32).flatMap (fun j => leBytes 8 ((t.at (f.row.toNat + i) j).signExtend 64).toNat)
        (k.later (.store (rowAddr sa sb i) ws)).later
          (.store (rowAddr sc 2 i) (leBytes 2 (BitVec.ofInt 16 (t.row (f.row.toNat + i))).toNat))) k
      .ok { k with regs := withFl f k.regs })

/-- Stride of the exponents of MRQ: OPF 0 gives 1 B, 1 gives 4 B, 2 gives s[SB]. -/
def mrqStride (f : FmtM) (sb : W32) : W32 := if f.opf = 0 then 1 else if f.opf = 1 then 4 else sb

/-- MRQ: W32 readout, each row then re-quantized as one block with e = E_r + Q. -/
def execMrq (c : Nat) (h : Head) (f : FmtM) (s : State) : Res :=
  s.word (.mrq c h f) c h Slot.matrix (flWrites f) (fun _ => mtxLegal f true true true && rowsLegal f && f.opf != 3) (fun e k =>
    let sa := k.snap.sreg f.sa; let sb := k.snap.sreg f.sb; let sc := k.snap.sreg f.sc; let n := f.nb.toNat
    let stride := mrqStride f sb
    let cands := rowFaults e.slots sa sb n (if f.lf then 24 else 32) (if f.lf then 8 else 32) ++ expFaults e.slots sc stride n 1 1
    if !cands.isEmpty then .fault cands
    else
      let t := k.regs.tile f.at_.toNat
      let rows := (List.range n).map (fun i => (List.range 32).map (fun j => readout (t.at (f.row.toNat + i) j) f.q.toNat))
      let blocks := (List.range n).map (fun i =>
        requant (!f.lf) ((rows.getD i []).map (fun x => (x.1.toInt, t.row (f.row.toNat + i) + f.q.toNat))))
      let k := (List.range n).foldl (fun k i =>
        let b := blocks.getD i ⟨[], 0, false⟩
        let codes := if f.lf then l6Pack b.codes else b.codes.map (BitVec.ofNat 8)
        (k.later (.store (rowAddr sa sb i) codes)).later (.store (rowAddr sc stride i) [BitVec.ofInt 8 b.exp])) k
      let regs := (k.regs.raiseSat f.at_.toNat (rows.any (fun r => r.any Prod.snd))).raise (if blocks.any CodeBlock.sat then fSat else 0)
      .ok { k with regs := withFl f regs })

/-- Values of a raw row: the low 48 bits of 32 words of 8 B. -/
def rawRow (m : List Host.Cell) (a : Nat) : List (BitVec 48) := (List.range 32).map (fun j => BitVec.ofNat 48 (leNat (Memory.read m (a + 8 * j) 8)))

/-- MRFILL: rows and exponents from the layout of MRDR; the tile's flags stay. -/
def execMrfill (c : Nat) (h : Head) (f : FmtM) (s : State) : Res :=
  s.word (.mrfill c h f) c h Slot.matrix (flWrites f) (fun _ => mtxLegal f false false true && rowsLegal f) (fun e k =>
    let sa := k.snap.sreg f.sa; let sb := k.snap.sreg f.sb; let sc := k.snap.sreg f.sc; let n := f.nb.toNat
    let cands := rowFaults e.slots sa sb n 256 32 ++ expFaults e.slots sc 2 n 2 2
    if !cands.isEmpty then .fault cands
    else
      let t := (List.range n).foldl (fun (t : Tile) i =>
        let r := f.row.toNat + i
        let vs := rawRow e.mem (rowAddr sa sb i)
        { elems := (List.range 32).foldl (fun m j => mput m (32 * r + j) (vs.getD j 0)) t.elems
          exps := mput t.exps r (BitVec.ofNat 16 (leNat (Memory.read e.mem (rowAddr sc 2 i) 2))) }) (k.regs.tile f.at_.toNat)
      .ok { k with regs := withFl f (k.regs.setTile f.at_.toNat t) })

/-- MRADD: raw add, SC 0; only the values are read. -/
def execMradd (c : Nat) (h : Head) (f : FmtM) (s : State) : Res :=
  s.word (.mradd c h f) c h Slot.matrix (flWrites f) (fun _ => mtxLegal f false false true && rowsLegal f && f.sc == 0) (fun e k =>
    let sa := k.snap.sreg f.sa; let sb := k.snap.sreg f.sb; let n := f.nb.toNat
    let cands := rowFaults e.slots sa sb n 256 32
    if !cands.isEmpty then .fault cands
    else
      let t := (List.range n).foldl (fun (t : Tile) i =>
        let r := f.row.toNat + i
        let vs := rawRow e.mem (rowAddr sa sb i)
        { t with elems := (List.range 32).foldl (fun m j => mput m (32 * r + j) (t.at r j + vs.getD j 0)) t.elems })
        (k.regs.tile f.at_.toNat)
      .ok { k with regs := withFl f (k.regs.setTile f.at_.toNat t) })

end Sys2Proof.Machine
end

