-- ==== Sys2Proof/Machine/Scalar.lean ====
section
/-!
DEFINITION. Sys2Proof/Machine/Scalar.lean: the scalar slot of Fletegus: SCL (R166) and CTL (R182 to R184) instructions.
-/
namespace Sys2Proof.Machine

open Sys2Proof

/-! ## SCL (R166, Table 6.8) -/

/-- sd = op sa sb. -/
def sclOp (i : Instr) (op : W32 → W32 → W32) (c : Nat) (h : Head) (f : FmtR) (s : State) : Res :=
  s.word i c h Slot.scalar [wS f.rd] (fun _ => plainR f)
    (regsOnly fun o n => n.setS f.rd (op (o.sreg f.ra) (o.sreg f.rb)))

/-- sd = op sa IMM32. -/
def sclImm (i : Instr) (legal : Bool) (op : W32 → W32 → W32) (c : Nat) (h : Head) (f : FmtI) (s : State) : Res :=
  s.word i c h Slot.scalar [wS f.rd] (fun _ => f.rsv == 0 && legal)
    (regsOnly fun o n => n.setS f.rd (op (o.sreg f.ra) f.imm32))

/-- A compare writes all ones or all zeros (R130). -/
def allBits (b : Bool) : W64 := if b then BitVec.allOnes 64 else 0

def sclCmp (i : Instr) (op : W32 → W32 → Bool) (c : Nat) (h : Head) (f : FmtR) (s : State) : Res :=
  s.word i c h Slot.scalar [wP f.rd.toNat] (fun _ => plainR f && isP f.rd)
    (regsOnly fun o n => n.setP f.rd.toNat (allBits (op (o.sreg f.ra) (o.sreg f.rb))))

def sclCmpImm (i : Instr) (op : W32 → W32 → Bool) (c : Nat) (h : Head) (f : FmtI) (s : State) : Res :=
  s.word i c h Slot.scalar [wP f.rd.toNat] (fun _ => f.rsv == 0 && isP f.rd)
    (regsOnly fun o n => n.setP f.rd.toNat (allBits (op (o.sreg f.ra) f.imm32)))

/-- Predicate logic on all 64 bits. -/
def sclPred (i : Instr) (op : W64 → W64 → W64) (c : Nat) (h : Head) (f : FmtR) (s : State) : Res :=
  s.word i c h Slot.scalar [wP f.rd.toNat] (fun _ => plainR f && isP f.rd && isP f.ra && isP f.rb)
    (regsOnly fun o n => n.setP f.rd.toNat (op (o.preg f.ra.toNat) (o.preg f.rb.toNat)))

/-- A shift count: the low five bits. -/
def shamt (x : W32) : Nat := x.toNat % 32
def shlW (a b : W32) : W32 := a <<< shamt b
def shrW (a b : W32) : W32 := a >>> shamt b
def sraW (a b : W32) : W32 := a.sshiftRight (shamt b)
/-- High half of the signed product. -/
def mulhW (a b : W32) : W32 := ((a.signExtend 64 * b.signExtend 64) >>> 32).setWidth 32
def minW (a b : W32) : W32 := if a.sle b then a else b
def maxW (a b : W32) : W32 := if a.sle b then b else a
def minuW (a b : W32) : W32 := if a.ule b then a else b
def maxuW (a b : W32) : W32 := if a.ule b then b else a

/-- NOP: every other field is 0. -/
def execNop (c : Nat) (h : Head) (f : FmtR) (s : State) : Res :=
  s.word (.nop c h f) c h Slot.scalar [] (fun _ => plainR f && f.rd == 0 && f.ra == 0 && f.rb == 0 && f.rc == 0) (regsOnly fun _ n => n)
/-- ADD (Table 6.8). -/
def execAdd (c : Nat) (h : Head) (f : FmtR) (s : State) : Res := sclOp (.add c h f) (· + ·) c h f s
/-- SUB (Table 6.8). -/
def execSub (c : Nat) (h : Head) (f : FmtR) (s : State) : Res := sclOp (.sub c h f) (· - ·) c h f s
/-- MUL (Table 6.8). -/
def execMul (c : Nat) (h : Head) (f : FmtR) (s : State) : Res := sclOp (.mul c h f) (· * ·) c h f s
/-- MULH (Table 6.8). -/
def execMulh (c : Nat) (h : Head) (f : FmtR) (s : State) : Res := sclOp (.mulh c h f) mulhW c h f s
/-- AND (Table 6.8). -/
def execAnd (c : Nat) (h : Head) (f : FmtR) (s : State) : Res := sclOp (.and_ c h f) (· &&& ·) c h f s
/-- OR (Table 6.8). -/
def execOr (c : Nat) (h : Head) (f : FmtR) (s : State) : Res := sclOp (.or_ c h f) (· ||| ·) c h f s
/-- XOR (Table 6.8). -/
def execXor (c : Nat) (h : Head) (f : FmtR) (s : State) : Res := sclOp (.xor_ c h f) (· ^^^ ·) c h f s
/-- SHL (Table 6.8). -/
def execShl (c : Nat) (h : Head) (f : FmtR) (s : State) : Res := sclOp (.shl c h f) shlW c h f s
/-- SHR (Table 6.8). -/
def execShr (c : Nat) (h : Head) (f : FmtR) (s : State) : Res := sclOp (.shr c h f) shrW c h f s
/-- SRA (Table 6.8). -/
def execSra (c : Nat) (h : Head) (f : FmtR) (s : State) : Res := sclOp (.sra c h f) sraW c h f s
/-- MIN (Table 6.8). -/
def execMin (c : Nat) (h : Head) (f : FmtR) (s : State) : Res := sclOp (.min c h f) minW c h f s
/-- MAX (Table 6.8). -/
def execMax (c : Nat) (h : Head) (f : FmtR) (s : State) : Res := sclOp (.max c h f) maxW c h f s
/-- MINU (Table 6.8). -/
def execMinu (c : Nat) (h : Head) (f : FmtR) (s : State) : Res := sclOp (.minu c h f) minuW c h f s
/-- MAXU (Table 6.8). -/
def execMaxu (c : Nat) (h : Head) (f : FmtR) (s : State) : Res := sclOp (.maxu c h f) maxuW c h f s
/-- CMPEQ (Table 6.8). -/
def execCmpeq (c : Nat) (h : Head) (f : FmtR) (s : State) : Res := sclCmp (.cmpeq c h f) (· == ·) c h f s
/-- CMPNE (Table 6.8). -/
def execCmpne (c : Nat) (h : Head) (f : FmtR) (s : State) : Res := sclCmp (.cmpne c h f) (· != ·) c h f s
/-- CMPLT (Table 6.8). -/
def execCmplt (c : Nat) (h : Head) (f : FmtR) (s : State) : Res := sclCmp (.cmplt c h f) BitVec.slt c h f s
/-- CMPLTU (Table 6.8). -/
def execCmpltu (c : Nat) (h : Head) (f : FmtR) (s : State) : Res := sclCmp (.cmpltu c h f) BitVec.ult c h f s
/-- CMPLE (Table 6.8). -/
def execCmple (c : Nat) (h : Head) (f : FmtR) (s : State) : Res := sclCmp (.cmple c h f) BitVec.sle c h f s
/-- CMPLEU (Table 6.8). -/
def execCmpleu (c : Nat) (h : Head) (f : FmtR) (s : State) : Res := sclCmp (.cmpleu c h f) BitVec.ule c h f s
/-- PAND (Table 6.8). -/
def execPand (c : Nat) (h : Head) (f : FmtR) (s : State) : Res := sclPred (.pand c h f) (· &&& ·) c h f s
/-- POR (Table 6.8). -/
def execPor (c : Nat) (h : Head) (f : FmtR) (s : State) : Res := sclPred (.por c h f) (· ||| ·) c h f s
/-- PXOR (Table 6.8). -/
def execPxor (c : Nat) (h : Head) (f : FmtR) (s : State) : Res := sclPred (.pxor c h f) (· ^^^ ·) c h f s
/-- PANDN (Table 6.8). -/
def execPandn (c : Nat) (h : Head) (f : FmtR) (s : State) : Res := sclPred (.pandn c h f) (fun a b => a &&& ~~~b) c h f s
/-- ADDI (Table 6.8). -/
def execAddi (c : Nat) (h : Head) (f : FmtI) (s : State) : Res := sclImm (.addi c h f) true (· + ·) c h f s
/-- ANDI (Table 6.8). -/
def execAndi (c : Nat) (h : Head) (f : FmtI) (s : State) : Res := sclImm (.andi c h f) true (· &&& ·) c h f s
/-- ORI (Table 6.8). -/
def execOri (c : Nat) (h : Head) (f : FmtI) (s : State) : Res := sclImm (.ori c h f) true (· ||| ·) c h f s
/-- XORI (Table 6.8). -/
def execXori (c : Nat) (h : Head) (f : FmtI) (s : State) : Res := sclImm (.xori c h f) true (· ^^^ ·) c h f s
/-- SHLI (Table 6.8). -/
def execShli (c : Nat) (h : Head) (f : FmtI) (s : State) : Res := sclImm (.shli c h f) (decide (f.imm32.toNat < 32)) shlW c h f s
/-- SHRI (Table 6.8). -/
def execShri (c : Nat) (h : Head) (f : FmtI) (s : State) : Res := sclImm (.shri c h f) (decide (f.imm32.toNat < 32)) shrW c h f s
/-- SRAI (Table 6.8). -/
def execSrai (c : Nat) (h : Head) (f : FmtI) (s : State) : Res := sclImm (.srai c h f) (decide (f.imm32.toNat < 32)) sraW c h f s
/-- LI (Table 6.8). -/
def execLi (c : Nat) (h : Head) (f : FmtI) (s : State) : Res := sclImm (.li c h f) (f.ra == 0) (fun _ i => i) c h f s
/-- CMPEQI (Table 6.8). -/
def execCmpeqi (c : Nat) (h : Head) (f : FmtI) (s : State) : Res := sclCmpImm (.cmpeqi c h f) (· == ·) c h f s
/-- CMPLTI (Table 6.8). -/
def execCmplti (c : Nat) (h : Head) (f : FmtI) (s : State) : Res := sclCmpImm (.cmplti c h f) BitVec.slt c h f s
/-- CMPLTUI (Table 6.8). -/
def execCmpltui (c : Nat) (h : Head) (f : FmtI) (s : State) : Res := sclCmpImm (.cmpltui c h f) BitVec.ult c h f s

/-! ## CTL (R182 to R184) -/

/-- A taken branch: ALIGN and ADDRESS stop the whole bed (R184). -/
def branchTo (e : Env) (k : Core) (t : Nat) : Word :=
  let cands := (if t % 8 = 0 then [] else [(Cause.align, t)]) ++
    (if e.prog.codeBase ≤ t ∧ t < e.prog.codeBase + e.prog.code.length then [] else [(Cause.address, t)])
  if cands.isEmpty then .ok { k with target := some t } else .fault cands

def execBr (c : Nat) (h : Head) (f : FmtB) (s : State) : Res :=
  s.word (.br c h f) c h Slot.scalar [] (fun _ => f.rsv == 0 && f.rc == 0) (fun e k => branchTo e k f.target.toNat)

/-- CALL: the link register receives the address of the next bed, known when the bed ends. -/
def execCall (c : Nat) (h : Head) (f : FmtB) (s : State) : Res :=
  s.word (.call c h f) c h Slot.scalar [wS f.rc] (fun _ => f.rsv == 0)
    (fun e k => branchTo e (k.later (.link f.rc.toNat)) f.target.toNat)

def execJr (c : Nat) (h : Head) (f : FmtB) (s : State) : Res :=
  s.word (.jr c h f) c h Slot.scalar [] (fun _ => f.rsv == 0 && f.target == 0) (fun e k => branchTo e k (k.snap.sreg f.rc).toNat)

def execLoop (c : Nat) (h : Head) (f : FmtB) (s : State) : Res :=
  s.word (.loop c h f) c h Slot.scalar [wS f.rc] (fun _ => f.rsv == 0) (fun e k =>
    let v := k.snap.sreg f.rc - 1
    let k := { k with regs := k.regs.setS f.rc v }
    if v = 0 then .ok k else branchTo e k f.target.toNat)

/-- The special registers (Table 5.2). -/
def special (e : Env) (k : Core) (n : Nat) : W32 :=
  match n with
  | 0 => BitVec.ofNat 32 e.core
  | 1 => BitVec.ofNat 32 k.lcore
  | 2 => BitVec.ofNat 32 e.prog.ncores
  | 3 => k.snap.vstat
  | 4 => k.snap.tstat
  | _ => BitVec.ofNat 32 e.s.node

/-- IMM32 names a special register the image's version has (R183). -/
def specialOk (f : FmtI) (p : Prog) : Bool :=
  f.rsv == 0 && (decide (f.imm32.toNat < 5) || (f.imm32 == 5 && decide (1 ≤ p.minor)))

def execMfsr (c : Nat) (h : Head) (f : FmtI) (s : State) : Res :=
  s.word (.mfsr c h f) c h Slot.scalar [wS f.rd] (specialOk f)
    (fun e k => .ok { k with regs := k.regs.setS f.rd (special e k f.imm32.toNat) })

/-- MTSR: to VSTAT or TSTAT it clears the bits that sa sets; to a register marked RO it is ignored (R131, R183). -/
def execMtsr (c : Nat) (h : Head) (f : FmtI) (s : State) : Res :=
  s.word (.mtsr c h f) c h Slot.scalar [] (specialOk f) (regsOnly fun o n =>
    let v := o.sreg f.ra
    if f.imm32 = 3 then { n with vstat := w1c n.vstat v }
    else if f.imm32 = 4 then { n with tstat := w1c n.tstat v }
    else n)

/-- HALT: the core halts after its bed; sa is the exit value of logical core 0 (R149). -/
def execHalt (c : Nat) (h : Head) (f : FmtI) (s : State) : Res :=
  s.word (.halt c h f) c h Slot.scalar [] (fun _ => f.rsv == 0) (fun _ k => .ok (k.later (.halt (k.snap.sreg f.ra))))

end Sys2Proof.Machine
end

