-- ==== Sys2Proof/Machine/Vector.lean ====
section
/-!
DEFINITION. Sys2Proof/Machine/Vector.lean: the vector slot of Fletegus: VEC instructions (R167 to R170, R112, R100 to R104).
-/
namespace Sys2Proof.Machine

open Sys2Proof

/-! ## Lanes -/

/-- The bits of a lane an operation of a type reads (R112). -/
def laneBits (ty : Nat) (x : W32) : Nat := if ty = 2 then x.toNat % 65536 else x.toNat
/-- A lane of a type: an H16 operation takes bits [15:0] and leaves 0 in [31:16] (R112). -/
def typedLane (ty : Nat) (x : W32) : W32 := BitVec.ofNat 32 (laneBits ty x)
def fmtOf (ty : Nat) : Fmt := if ty = 2 then binary16 else binary32
def wordOf (r : Nat × Nat) : W32 × Nat := (BitVec.ofNat 32 r.1, r.2)

/-- Lanes of vd whose mask bit is 1 take their new value, the others keep theirs (R143); flags of lanes that change are
raised. -/
def mapLanes (mask : W64) (rd : BitVec 5) (g : Nat → W32 × Nat) (o n : CoreRegs) : CoreRegs :=
  let old := o.vreg rd
  let rs := (List.range 64).map (fun i => if mask.getLsbD i then g i else (lane old i, 0))
  (n.setV rd (ofLanes (rs.map Prod.fst))).raise (rs.foldl (fun a r => a ||| r.2) 0)

/-- The bits of p[RD] whose mask bit is 1 take their new value. -/
def mapBits (mask : W64) (rd : Nat) (g : Nat → Bool × Nat) (o n : CoreRegs) : CoreRegs :=
  let old := o.preg rd
  let rs := (List.range 64).map (fun i => if mask.getLsbD i then g i else (old.getLsbD i, 0))
  let bits := rs.foldr (fun r a => b2n r.1 + 2 * a) 0
  (n.setP rd (BitVec.ofNat 64 bits)).raise (rs.foldl (fun a r => a ||| r.2) 0)

/-- Reserved bits, LF and IMM16 of a VEC word; TY is in the given list. -/
def vecLegal (f : FmtR) (tys : List Nat) (code masked : Bool) : Bool :=
  f.rsv == 0 && f.imm16 == 0 && (code || !f.lf) && (masked || f.mask == 0) && tys.contains f.ty.toNat

/-- A lane operation on two vector registers. -/
def vec2 (i : Instr) (tys : List Nat) (g : Nat → W32 → W32 → W32 × Nat) (c : Nat) (h : Head) (f : FmtR) (s : State) : Res :=
  s.word i c h Slot.vector [wV f.rd] (fun _ => vecLegal f tys false true) (regsOnly fun o n =>
    let a := o.vreg f.ra; let b := o.vreg f.rb
    mapLanes (o.preg f.mask.toNat) f.rd (fun i => g f.ty.toNat (lane a i) (lane b i)) o n)

/-- An operation that is integer arithmetic on I32 and an IEEE operation on F32 and H16. -/
def typed (fi : W32 → W32 → W32) (ff : Fmt → Nat → Nat → Nat × Nat) (ty : Nat) (a b : W32) : W32 × Nat :=
  if ty = 0 then (fi a b, 0) else wordOf (ff (fmtOf ty) (laneBits ty a) (laneBits ty b))

def intOnly (fi : W32 → W32 → W32) (_ : Nat) (a b : W32) : W32 × Nat := (fi a b, 0)

def vmin (a b : W32) : W32 := if a.sle b then a else b
def vmax (a b : W32) : W32 := if a.sle b then b else a

/-- A lane compare (R130, R167). -/
def vecCmp (i : Instr) (fi : W32 → W32 → Bool) (ff : Fmt → Nat → Nat → Bool × Nat) (c : Nat) (h : Head) (f : FmtR) (s : State) : Res :=
  s.word i c h Slot.vector [wP f.rd.toNat] (fun _ => vecLegal f [0, 1, 2] false true && isP f.rd) (regsOnly fun o n =>
    let a := o.vreg f.ra; let b := o.vreg f.rb; let ty := f.ty.toNat
    mapBits (o.preg f.mask.toNat) f.rd.toNat (fun i =>
      if ty = 0 then (fi (lane a i) (lane b i), 0)
      else ff (fmtOf ty) (laneBits ty (lane a i)) (laneBits ty (lane b i))) o n)

/-- A lane operation on one vector register, of F32 or H16. -/
def vec1 (i : Instr) (tys : List Nat) (masked : Prog → Bool) (g : CoreRegs → Nat → W32 → W32 × Nat) (c : Nat) (h : Head) (f : FmtR)
    (s : State) : Res :=
  s.word i c h Slot.vector [wV f.rd] (fun p => vecLegal f tys false (masked p)) (regsOnly fun o n =>
    let a := o.vreg f.ra
    mapLanes (o.preg f.mask.toNat) f.rd (fun i => g o f.ty.toNat (lane a i)) o n)

/-! ## OP 0x08 -/

def execVadd (c : Nat) (h : Head) (f : FmtR) (s : State) : Res := vec2 (.vadd c h f) [0, 1, 2] (typed (· + ·) Fmt.add) c h f s
def execVsub (c : Nat) (h : Head) (f : FmtR) (s : State) : Res := vec2 (.vsub c h f) [0, 1, 2] (typed (· - ·) Fmt.sub) c h f s
def execVmul (c : Nat) (h : Head) (f : FmtR) (s : State) : Res := vec2 (.vmul c h f) [0, 1, 2] (typed (· * ·) Fmt.mul) c h f s

/-- VFMA: one rounding; on I32 the low 32 bits. -/
def execVfma (c : Nat) (h : Head) (f : FmtR) (s : State) : Res :=
  s.word (.vfma c h f) c h Slot.vector [wV f.rd] (fun _ => vecLegal f [0, 1, 2] false true) (regsOnly fun o n =>
    let a := o.vreg f.ra; let b := o.vreg f.rb; let d := o.vreg f.rc; let ty := f.ty.toNat
    mapLanes (o.preg f.mask.toNat) f.rd (fun i =>
      if ty = 0 then (lane a i * lane b i + lane d i, 0)
      else wordOf ((fmtOf ty).fma (laneBits ty (lane a i)) (laneBits ty (lane b i)) (laneBits ty (lane d i)))) o n)

def execVmin (c : Nat) (h : Head) (f : FmtR) (s : State) : Res := vec2 (.vmin c h f) [0, 1, 2] (typed vmin (fun t => t.minMax false)) c h f s
def execVmax (c : Nat) (h : Head) (f : FmtR) (s : State) : Res := vec2 (.vmax c h f) [0, 1, 2] (typed vmax (fun t => t.minMax true)) c h f s
def execVand (c : Nat) (h : Head) (f : FmtR) (s : State) : Res := vec2 (.vand c h f) [0] (intOnly (· &&& ·)) c h f s
def execVor (c : Nat) (h : Head) (f : FmtR) (s : State) : Res := vec2 (.vor c h f) [0] (intOnly (· ||| ·)) c h f s
def execVxor (c : Nat) (h : Head) (f : FmtR) (s : State) : Res := vec2 (.vxor c h f) [0] (intOnly (· ^^^ ·)) c h f s
def execVshl (c : Nat) (h : Head) (f : FmtR) (s : State) : Res := vec2 (.vshl c h f) [0] (intOnly (fun a b => a <<< (b.toNat % 32))) c h f s
def execVshr (c : Nat) (h : Head) (f : FmtR) (s : State) : Res := vec2 (.vshr c h f) [0] (intOnly (fun a b => a >>> (b.toNat % 32))) c h f s
def execVsra (c : Nat) (h : Head) (f : FmtR) (s : State) : Res :=
  vec2 (.vsra c h f) [0] (intOnly (fun a b => a.sshiftRight (b.toNat % 32))) c h f s
def execVcmpeq (c : Nat) (h : Head) (f : FmtR) (s : State) : Res := vecCmp (.vcmpeq c h f) (· == ·) Fmt.eq c h f s
def execVcmplt (c : Nat) (h : Head) (f : FmtR) (s : State) : Res := vecCmp (.vcmplt c h f) BitVec.slt Fmt.lt c h f s
def execVcmple (c : Nat) (h : Head) (f : FmtR) (s : State) : Res := vecCmp (.vcmple c h f) BitVec.sle Fmt.le c h f s

/-- VSEL: RC names a predicate. -/
def execVsel (c : Nat) (h : Head) (f : FmtR) (s : State) : Res :=
  s.word (.vsel c h f) c h Slot.vector [wV f.rd] (fun _ => vecLegal f [0, 1, 2] false true && isP f.rc) (regsOnly fun o n =>
    let a := o.vreg f.ra; let b := o.vreg f.rb; let p := o.preg f.rc.toNat
    mapLanes (o.preg f.mask.toNat) f.rd (fun i => (typedLane f.ty.toNat (if p.getLsbD i then lane a i else lane b i), 0)) o n)

def execVbcs (c : Nat) (h : Head) (f : FmtR) (s : State) : Res :=
  s.word (.vbcs c h f) c h Slot.vector [wV f.rd] (fun _ => vecLegal f [0, 1, 2] false true) (regsOnly fun o n =>
    mapLanes (o.preg f.mask.toNat) f.rd (fun _ => (typedLane f.ty.toNat (o.sreg f.ra), 0)) o n)

/-- VIDX. DESIGN CHOICE (log entry 53): sa + i is the integer sum in every type, of 16 bits where TY is H16; Table 6.9 names no type for it. -/
def execVidx (c : Nat) (h : Head) (f : FmtR) (s : State) : Res :=
  s.word (.vidx c h f) c h Slot.vector [wV f.rd] (fun _ => vecLegal f [0, 1, 2] false true) (regsOnly fun o n =>
    mapLanes (o.preg f.mask.toNat) f.rd (fun i => (typedLane f.ty.toNat (o.sreg f.ra + BitVec.ofNat 32 i), 0)) o n)

def execVext (c : Nat) (h : Head) (f : FmtR) (s : State) : Res :=
  s.word (.vext c h f) c h Slot.vector [wS f.rd] (fun _ => vecLegal f [0, 1, 2] false false) (regsOnly fun o n =>
    n.setS f.rd (typedLane f.ty.toNat (lane (o.vreg f.ra) ((o.sreg f.rb).toNat % 64))))

def execVins (c : Nat) (h : Head) (f : FmtR) (s : State) : Res :=
  s.word (.vins c h f) c h Slot.vector [wV f.rd] (fun _ => vecLegal f [0, 1, 2] false false) (regsOnly fun o n =>
    let old := o.vreg f.rd
    let at_ := (o.sreg f.rb).toNat % 64
    n.setV f.rd (ofLanes ((List.range 64).map (fun i => if i = at_ then typedLane f.ty.toNat (o.sreg f.ra) else lane old i))))

/-! ## Reductions (R101, R168) -/

/-- One level of the tree: lane 2i with lane 2i + 1. -/
def pairUp (op : Nat → Nat → Nat × Nat) : List (Nat × Nat) → List (Nat × Nat)
  | a :: b :: r => ((op a.1 b.1).1, a.2 ||| b.2 ||| (op a.1 b.1).2) :: pairUp op r
  | xs => xs

/-- The tree over 64 lanes: the value and the flags. -/
def reduceTree (op : Nat → Nat → Nat × Nat) (xs : List Nat) : Nat × Nat :=
  ((List.range 6).foldl (fun xs _ => pairUp op xs) (xs.map (fun x => (x, 0)))).headD (0, 0)

/-- A reduction: a lane whose mask bit is 0 enters as the identity. -/
def vecRed (i : Instr) (fi : W32 → W32 → W32) (ff : Fmt → Nat → Nat → Nat × Nat) (idI : W32) (idF : Fmt → Nat) (c : Nat) (h : Head)
    (f : FmtR) (s : State) : Res :=
  s.word i c h Slot.vector [wS f.rd] (fun _ => vecLegal f [0, 1, 2] false true) (regsOnly fun o n =>
    let a := o.vreg f.ra; let ty := f.ty.toNat; let m := o.preg f.mask.toNat
    let xs := (List.range 64).map (fun i =>
      if m.getLsbD i then laneBits ty (lane a i) else if ty = 0 then idI.toNat else idF (fmtOf ty))
    let op (x y : Nat) : Nat × Nat :=
      if ty = 0 then ((fi (BitVec.ofNat 32 x) (BitVec.ofNat 32 y)).toNat, 0) else ff (fmtOf ty) x y
    let r := reduceTree op xs
    (n.setS f.rd (BitVec.ofNat 32 r.1)).raise r.2)

def execVredadd (c : Nat) (h : Head) (f : FmtR) (s : State) : Res := vecRed (.vredadd c h f) (· + ·) Fmt.add 0 (fun _ => 0) c h f s
def execVredmax (c : Nat) (h : Head) (f : FmtR) (s : State) : Res :=
  vecRed (.vredmax c h f) vmax (fun t => t.minMax true) 0x80000000 (fun t => t.inf true) c h f s
def execVredmin (c : Nat) (h : Head) (f : FmtR) (s : State) : Res :=
  vecRed (.vredmin c h f) vmin (fun t => t.minMax false) 0x7FFFFFFF (fun t => t.inf false) c h f s

/-- VREDADDX: the pair sd grows by the unsigned sum, modulo 2^64. -/
def execVredaddx (c : Nat) (h : Head) (f : FmtR) (s : State) : Res :=
  s.word (.vredaddx c h f) c h Slot.vector [wS f.rd, wS (f.rd + 1)] (fun _ => vecLegal f [0] false true && isPair f.rd) (regsOnly fun o n =>
    let a := o.vreg f.ra; let m := o.preg f.mask.toNat
    let sum := (List.range 64).foldl (fun t i => if m.getLsbD i then t + (lane a i).toNat else t) 0
    n.setPair f.rd (o.pair f.rd + BitVec.ofNat 64 sum))

/-! ## OP 0x09: logarithms, conversions, re-quantization (Table 6.10) -/

def execVlog2 (c : Nat) (h : Head) (f : FmtR) (s : State) : Res :=
  vec1 (.vlog2 c h f) [1, 2] (fun p => decide (2 ≤ p.minor)) (fun _ ty a => wordOf ((fmtOf ty).log2 (laneBits ty a))) c h f s
def execVexp2 (c : Nat) (h : Head) (f : FmtR) (s : State) : Res :=
  vec1 (.vexp2 c h f) [1, 2] (fun p => decide (2 ≤ p.minor)) (fun _ ty a => wordOf ((fmtOf ty).exp2 (laneBits ty a))) c h f s

/-- Code and block exponent of a lane of a register in pair layout (R169). -/
def pairCode (l6 : Bool) (v : BitVec 2048) (i : Nat) : Nat × Int :=
  let bs := vecBytes v
  let b := i / 32
  (if l6 then l6Code (sub bs (32 * b) 24) (i % 32) else at_ bs (32 * b + i % 32) 1, sext 8 (at_ bs (64 + b) 1))

/-- A register in pair layout from two blocks. -/
def pairLayout (l6 : Bool) (b0 b1 : List Nat × Nat) : BitVec 2048 :=
  let codes (cs : List Nat) : List Byte := if l6 then l6Pack cs ++ zeros 8 else cs.map (BitVec.ofNat 8)
  ofBytes (codes b0.1 ++ codes b1.1 ++ [BitVec.ofNat 8 b0.2, BitVec.ofNat 8 b1.2] ++ zeros 190)

def expByte (b : Int) : Nat := (BitVec.ofInt 8 b).toNat

def execVlog2c (c : Nat) (h : Head) (f : FmtR) (s : State) : Res :=
  s.word (.vlog2c c h f) c h Slot.vector [wV f.rd] (fun _ => vecLegal f [0, 1, 2] true false) (regsOnly fun o n =>
    let a := o.vreg f.ra
    mapLanes (BitVec.allOnes 64) f.rd (fun i => let (x, b) := pairCode f.lf a i; wordOf (codeLog2 (!f.lf) x b)) o n)

def execVcvtc (c : Nat) (h : Head) (f : FmtR) (s : State) : Res :=
  s.word (.vcvtc c h f) c h Slot.vector [wV f.rd] (fun _ => vecLegal f [1, 2] true false) (regsOnly fun o n =>
    let a := o.vreg f.ra
    mapLanes (BitVec.allOnes 64) f.rd (fun i =>
      let (x, b) := pairCode f.lf a i
      wordOf (codeToFloat (fmtOf f.ty.toNat) (if f.lf then lift x else x) b)) o n)

/-- The signed exponent in s[RB][15:0]. -/
def rowExp (x : W32) : Int := (x.extractLsb' 0 16).toInt

def execVcvtw (c : Nat) (h : Head) (f : FmtR) (s : State) : Res :=
  vec1 (.vcvtw c h f) [1, 2] (fun _ => true) (fun o ty a => wordOf ((fmtOf ty).ofInt a.toInt (rowExp (o.sreg f.rb)))) c h f s

def execVcvtf (c : Nat) (h : Head) (f : FmtR) (s : State) : Res :=
  vec1 (.vcvtf c h f) [1, 2] (fun _ => true) (fun _ ty a =>
    wordOf (if ty = 2 then binary32.convert binary16 a.toNat else binary16.convert binary32 (a.toNat % 65536))) c h f s

def execVcvtif (c : Nat) (h : Head) (f : FmtR) (s : State) : Res :=
  vec1 (.vcvtif c h f) [1, 2] (fun _ => true) (fun _ ty a => wordOf ((fmtOf ty).ofInt a.toInt 0)) c h f s

def execVcvtfi (c : Nat) (h : Head) (f : FmtR) (s : State) : Res :=
  vec1 (.vcvtfi c h f) [1, 2] (fun _ => true) (fun _ ty a => (fmtOf ty).toI32 (laneBits ty a)) c h f s

/-- Two blocks re-quantized into pair layout (R97, R98). -/
def requantReg (l6 : Bool) (rd : BitVec 5) (xs : List ((Int × Int) × Nat)) (n : CoreRegs) : CoreRegs :=
  let b0 := requant (!l6) ((xs.take 32).map Prod.fst)
  let b1 := requant (!l6) ((xs.drop 32).map Prod.fst)
  let fl := xs.foldl (fun a x => a ||| x.2) (if b0.sat || b1.sat then fSat else 0)
  (n.setV rd (pairLayout l6 (b0.codes, expByte b0.exp) (b1.codes, expByte b1.exp))).raise fl

def execVrqf (c : Nat) (h : Head) (f : FmtR) (s : State) : Res :=
  s.word (.vrqf c h f) c h Slot.vector [wV f.rd] (fun _ => vecLegal f [1, 2] true false) (regsOnly fun o n =>
    let a := o.vreg f.ra; let ty := f.ty.toNat
    requantReg f.lf f.rd ((List.range 64).map (fun i => requantInput (fmtOf ty) (laneBits ty (lane a i)))) n)

def execVrqw (c : Nat) (h : Head) (f : FmtR) (s : State) : Res :=
  s.word (.vrqw c h f) c h Slot.vector [wV f.rd] (fun _ => vecLegal f [0, 1, 2] true false) (regsOnly fun o n =>
    let a := o.vreg f.ra; let e := rowExp (o.sreg f.rb)
    requantReg f.lf f.rd ((List.range 64).map (fun i => (((lane a i).toInt, e), 0))) n)

/-! ## Softmax (R103, R104) -/

/-- Every lane is written; the mask names the valid positions. -/
def validLanes (valid : W64) (rd : BitVec 5) (g : Nat → W32 × Nat) (o n : CoreRegs) : CoreRegs :=
  mapLanes (BitVec.allOnes 64) rd (fun i => if valid.getLsbD i then g i else (0, 0)) o n

def execSmxx (c : Nat) (h : Head) (f : FmtR) (s : State) : Res :=
  s.word (.smxx c h f) c h Slot.vector [wV f.rd] (fun _ => vecLegal f [1] false true) (regsOnly fun o n =>
    let a := o.vreg f.ra
    validLanes (o.preg f.mask.toNat) f.rd (fun i =>
      let d := binary32.sub (lane a i).toNat (o.sreg f.rb).toNat
      let m := binary32.mul d.1 (o.sreg f.rc).toNat
      wordOf (m.1, d.2 ||| m.2)) o n)

/-- SMXE: the exponential of a NaN is stated nowhere: a free function of the NaN (log entry 15). -/
def execSmxe (c : Nat) (h : Head) (f : FmtR) (s : State) : Res :=
  s.word (.smxe c h f) c h Slot.vector [wV f.rd] (fun _ => vecLegal f [0, 1, 2] false true) (regsOnly fun o n =>
    let a := o.vreg f.ra
    validLanes (o.preg f.mask.toNat) f.rd (fun i => (softExp (lane a i).toNat).getD (Config.expOfNan (lane a i), 0)) o n)

/-- Codes of R103 from x and lam. The q of a lane whose x − lam is no finite number, and the exponent of a block with no valid
position or beyond its byte, are stated nowhere: free functions of what they depend on (R159, log entry 15). -/
def softCodes (f : FmtR) (lam : Nat × Nat) (o n : CoreRegs) : CoreRegs :=
  let a := o.vreg f.ra; let m := o.preg f.mask.toNat
  let rs := (List.range 64).map (fun i => if m.getLsbD i then softQ (lane a i).toNat lam.1 else (none, 0))
  let qs := (List.range 64).map (fun i =>
    if m.getLsbD i then some (((rs.getD i (none, 0)).1).getD (Config.softQOpen (lane a i) (BitVec.ofNat 32 lam.1))) else none)
  let b0 := softBlock (qs.take 32)
  let b1 := softBlock (qs.drop 32)
  let ex (b : Option Int) (qs : List (Option Int)) : Nat := match b with
    | some b => expByte b
    | none => Config.softExpOpen qs
  (n.setV f.rd (pairLayout false (b0.1, ex b0.2 (qs.take 32)) (b1.1, ex b1.2 (qs.drop 32)))).raise (rs.foldl (fun t r => t ||| r.2) lam.2)

def execSmxc (c : Nat) (h : Head) (f : FmtR) (s : State) : Res :=
  s.word (.smxc c h f) c h Slot.vector [wV f.rd] (fun _ => vecLegal f [0, 1, 2] false true && isPair f.rb)
    (regsOnly fun o n => softCodes f (softLam (o.pair f.rb).toNat) o n)

def execSmxl (c : Nat) (h : Head) (f : FmtR) (s : State) : Res :=
  s.word (.smxl c h f) c h Slot.vector [wS f.rd] (fun p => vecLegal f [0, 1, 2] false true && isPair f.ra && decide (2 ≤ p.minor))
    (regsOnly fun o n =>
      let r := softLam (o.pair f.ra).toNat
      (n.setS f.rd (BitVec.ofNat 32 r.1)).raise r.2)

def execSmxcl (c : Nat) (h : Head) (f : FmtR) (s : State) : Res :=
  s.word (.smxcl c h f) c h Slot.vector [wV f.rd] (fun p => vecLegal f [0, 1, 2] false true && decide (2 ≤ p.minor))
    (regsOnly fun o n => softCodes f ((o.sreg f.rb).toNat, 0) o n)

end Sys2Proof.Machine
end

