-- ==== Sys2Proof/Machine/Dispatch.lean ====
section
/-!
DEFINITION. Sys2Proof/Machine/Dispatch.lean: what each command does, one arm per constructor.
-/
namespace Sys2Proof.Machine

open Sys2Proof

def exec (i : Instr) (s : State) : Host.Outcome State Fault Refusal :=
  match i with
  | .openSession job well d => Sys2Proof.Machine.execOpenSession job well d s
  | .submitTurn job well d => Sys2Proof.Machine.execSubmitTurn job well d s
  | .toolReturn job well d => Sys2Proof.Machine.execToolReturn job well d s
  | .park job well d => Sys2Proof.Machine.execPark job well d s
  | .close job well d => Sys2Proof.Machine.execClose job well d s
  | .endRequest job well d => Sys2Proof.Machine.execEndRequest job well d s
  | .migrate job well d => Sys2Proof.Machine.execMigrate job well d s
  | .placeQuery job well d => Sys2Proof.Machine.execPlaceQuery job well d s
  | .registerT3 job well d => Sys2Proof.Machine.execRegisterT3 job well d s
  | .runProgram job well d => Sys2Proof.Machine.execRunProgram job well d s
  | .loadModel job well d => Sys2Proof.Machine.execLoadModel job well d s
  | .unloadModel job well d => Sys2Proof.Machine.execUnloadModel job well d s
  | .loadAdapter job well d => Sys2Proof.Machine.execLoadAdapter job well d s
  | .loadVocab job well d => Sys2Proof.Machine.execLoadVocab job well d s
  | .loadGrammar job well d => Sys2Proof.Machine.execLoadGrammar job well d s
  | .setOutput job well d => Sys2Proof.Machine.execSetOutput job well d s
  | .loadIndex job well d => Sys2Proof.Machine.execLoadIndex job well d s
  | .loadFilter job well d => Sys2Proof.Machine.execLoadFilter job well d s
  | .tombstone job well d => Sys2Proof.Machine.execTombstone job well d s
  | .indexWrite job well d => Sys2Proof.Machine.execIndexWrite job well d s
  | .indexWriteApply job index => Sys2Proof.Machine.execIndexWriteApply job index s
  | .search job well d => Sys2Proof.Machine.execSearch job well d s
  | .loadTable job well d => Sys2Proof.Machine.execLoadTable job well d s
  | .tableSwap job well d => Sys2Proof.Machine.execTableSwap job well d s
  | .embedLookup job well d => Sys2Proof.Machine.execEmbedLookup job well d s
  | .tableUpdate job well d => Sys2Proof.Machine.execTableUpdate job well d s
  | .tableStep job well d => Sys2Proof.Machine.execTableStep job well d s
  | .migrateRows job well d => Sys2Proof.Machine.execMigrateRows job well d s
  | .embedDocs job well d => Sys2Proof.Machine.execEmbedDocs job well d s
  | .setGroup job well d => Sys2Proof.Machine.execSetGroup job well d s
  | .splitTurn job well d => Sys2Proof.Machine.execSplitTurn job well d s
  | .checkpoint job well d => Sys2Proof.Machine.execCheckpoint job well d s
  | .preemptNotice job well d => Sys2Proof.Machine.execPreemptNotice job well d s
  | .restore job well d => Sys2Proof.Machine.execRestore job well d s
  | .ckptFree job well d => Sys2Proof.Machine.execCkptFree job well d s
  | .attest job well d => Sys2Proof.Machine.execAttest job well d s
  | .installKeys job well d => Sys2Proof.Machine.execInstallKeys job well d s
  | .fwUpdate job well d => Sys2Proof.Machine.execFwUpdate job well d s
  | .badKind job well d => Sys2Proof.Machine.execBadKind job well d s
  | .doorbell job well tail unreadable => Sys2Proof.Machine.execDoorbell job well tail unreadable s
  | .wellCfgWrite job well completion v => Sys2Proof.Machine.execWellCfgWrite job well completion v s
  | .cwHeadWrite job well v => Sys2Proof.Machine.execCwHeadWrite job well v s
  | .completionWriteFail job well => Sys2Proof.Machine.execCompletionWriteFail job well s
  | .coalesceTimer job well => Sys2Proof.Machine.execCoalesceTimer job well s
  | .tokRingConsWrite job well v => Sys2Proof.Machine.execTokRingConsWrite job well v s
  | .chunkWriteFail req => Sys2Proof.Machine.execChunkWriteFail req s
  | .hciVerGo fn v => Sys2Proof.Machine.execHciVerGo fn v s
  | .resetReqCore fn v => Sys2Proof.Machine.execResetReqCore fn v s
  | .resetReqSystem fn v => Sys2Proof.Machine.execResetReqSystem fn v s
  | .flr fn => Sys2Proof.Machine.execFlr fn s
  | .d3hotEntry fn => Sys2Proof.Machine.execD3hotEntry fn s
  | .hostWindowAccess fn off len write => Sys2Proof.Machine.execHostWindowAccess fn off len write s
  | .registerWrite fn off size v => Sys2Proof.Machine.execRegisterWrite fn off size v s
  | .stepBoundary job model us => Sys2Proof.Machine.execStepBoundary job model us s
  | .sessionExpiry session => Sys2Proof.Machine.execSessionExpiry session s
  | .gracePeriodEnd session => Sys2Proof.Machine.execGracePeriodEnd session s
  | .idleDemotion session => Sys2Proof.Machine.execIdleDemotion session s
  | .t1PressureDemotion job => Sys2Proof.Machine.execT1PressureDemotion job s
  | .grainLand req res => Sys2Proof.Machine.execGrainLand req res s
  | .tierLate req => Sys2Proof.Machine.execTierLate req s
  | .tierError req damaged => Sys2Proof.Machine.execTierError req damaged s
  | .moveComplete session => Sys2Proof.Machine.execMoveComplete session s
  | .moveAbandon session => Sys2Proof.Machine.execMoveAbandon session s
  | .moveFailed session code damaged => Sys2Proof.Machine.execMoveFailed session code damaged s
  | .pumpTakeUp pump checkOk => Sys2Proof.Machine.execPumpTakeUp pump checkOk s
  | .pumpDescriptorDone pump => Sys2Proof.Machine.execPumpDescriptorDone pump s
  | .engineCommandEnd cls inst cyc fail remote => Sys2Proof.Machine.execEngineCommandEnd cls inst cyc fail remote s
  | .shaperToken kind job idx => Sys2Proof.Machine.execShaperToken kind job idx s
  | .histSample => Sys2Proof.Machine.execHistSample s
  | .contextSwitch group cyc => Sys2Proof.Machine.execContextSwitch group cyc s
  | .nop core h f => Sys2Proof.Machine.execNop core h f s
  | .add core h f => Sys2Proof.Machine.execAdd core h f s
  | .sub core h f => Sys2Proof.Machine.execSub core h f s
  | .mul core h f => Sys2Proof.Machine.execMul core h f s
  | .mulh core h f => Sys2Proof.Machine.execMulh core h f s
  | .and_ core h f => Sys2Proof.Machine.execAnd core h f s
  | .or_ core h f => Sys2Proof.Machine.execOr core h f s
  | .xor_ core h f => Sys2Proof.Machine.execXor core h f s
  | .shl core h f => Sys2Proof.Machine.execShl core h f s
  | .shr core h f => Sys2Proof.Machine.execShr core h f s
  | .sra core h f => Sys2Proof.Machine.execSra core h f s
  | .min core h f => Sys2Proof.Machine.execMin core h f s
  | .max core h f => Sys2Proof.Machine.execMax core h f s
  | .minu core h f => Sys2Proof.Machine.execMinu core h f s
  | .maxu core h f => Sys2Proof.Machine.execMaxu core h f s
  | .cmpeq core h f => Sys2Proof.Machine.execCmpeq core h f s
  | .cmpne core h f => Sys2Proof.Machine.execCmpne core h f s
  | .cmplt core h f => Sys2Proof.Machine.execCmplt core h f s
  | .cmpltu core h f => Sys2Proof.Machine.execCmpltu core h f s
  | .cmple core h f => Sys2Proof.Machine.execCmple core h f s
  | .cmpleu core h f => Sys2Proof.Machine.execCmpleu core h f s
  | .pand core h f => Sys2Proof.Machine.execPand core h f s
  | .por core h f => Sys2Proof.Machine.execPor core h f s
  | .pxor core h f => Sys2Proof.Machine.execPxor core h f s
  | .pandn core h f => Sys2Proof.Machine.execPandn core h f s
  | .addi core h f => Sys2Proof.Machine.execAddi core h f s
  | .andi core h f => Sys2Proof.Machine.execAndi core h f s
  | .ori core h f => Sys2Proof.Machine.execOri core h f s
  | .xori core h f => Sys2Proof.Machine.execXori core h f s
  | .shli core h f => Sys2Proof.Machine.execShli core h f s
  | .shri core h f => Sys2Proof.Machine.execShri core h f s
  | .srai core h f => Sys2Proof.Machine.execSrai core h f s
  | .li core h f => Sys2Proof.Machine.execLi core h f s
  | .cmpeqi core h f => Sys2Proof.Machine.execCmpeqi core h f s
  | .cmplti core h f => Sys2Proof.Machine.execCmplti core h f s
  | .cmpltui core h f => Sys2Proof.Machine.execCmpltui core h f s
  | .vadd core h f => Sys2Proof.Machine.execVadd core h f s
  | .vsub core h f => Sys2Proof.Machine.execVsub core h f s
  | .vmul core h f => Sys2Proof.Machine.execVmul core h f s
  | .vfma core h f => Sys2Proof.Machine.execVfma core h f s
  | .vmin core h f => Sys2Proof.Machine.execVmin core h f s
  | .vmax core h f => Sys2Proof.Machine.execVmax core h f s
  | .vand core h f => Sys2Proof.Machine.execVand core h f s
  | .vor core h f => Sys2Proof.Machine.execVor core h f s
  | .vxor core h f => Sys2Proof.Machine.execVxor core h f s
  | .vshl core h f => Sys2Proof.Machine.execVshl core h f s
  | .vshr core h f => Sys2Proof.Machine.execVshr core h f s
  | .vsra core h f => Sys2Proof.Machine.execVsra core h f s
  | .vcmpeq core h f => Sys2Proof.Machine.execVcmpeq core h f s
  | .vcmplt core h f => Sys2Proof.Machine.execVcmplt core h f s
  | .vcmple core h f => Sys2Proof.Machine.execVcmple core h f s
  | .vsel core h f => Sys2Proof.Machine.execVsel core h f s
  | .vbcs core h f => Sys2Proof.Machine.execVbcs core h f s
  | .vidx core h f => Sys2Proof.Machine.execVidx core h f s
  | .vext core h f => Sys2Proof.Machine.execVext core h f s
  | .vins core h f => Sys2Proof.Machine.execVins core h f s
  | .vredadd core h f => Sys2Proof.Machine.execVredadd core h f s
  | .vredmax core h f => Sys2Proof.Machine.execVredmax core h f s
  | .vredmin core h f => Sys2Proof.Machine.execVredmin core h f s
  | .vredaddx core h f => Sys2Proof.Machine.execVredaddx core h f s
  | .vlog2 core h f => Sys2Proof.Machine.execVlog2 core h f s
  | .vexp2 core h f => Sys2Proof.Machine.execVexp2 core h f s
  | .vlog2c core h f => Sys2Proof.Machine.execVlog2c core h f s
  | .vcvtc core h f => Sys2Proof.Machine.execVcvtc core h f s
  | .vcvtw core h f => Sys2Proof.Machine.execVcvtw core h f s
  | .vcvtf core h f => Sys2Proof.Machine.execVcvtf core h f s
  | .vcvtif core h f => Sys2Proof.Machine.execVcvtif core h f s
  | .vcvtfi core h f => Sys2Proof.Machine.execVcvtfi core h f s
  | .vrqf core h f => Sys2Proof.Machine.execVrqf core h f s
  | .vrqw core h f => Sys2Proof.Machine.execVrqw core h f s
  | .smxx core h f => Sys2Proof.Machine.execSmxx core h f s
  | .smxe core h f => Sys2Proof.Machine.execSmxe core h f s
  | .smxc core h f => Sys2Proof.Machine.execSmxc core h f s
  | .smxl core h f => Sys2Proof.Machine.execSmxl core h f s
  | .smxcl core h f => Sys2Proof.Machine.execSmxcl core h f s
  | .mout core h f => Sys2Proof.Machine.execMout core h f s
  | .mrow core h f => Sys2Proof.Machine.execMrow core h f s
  | .mclr core h f => Sys2Proof.Machine.execMclr core h f s
  | .mrdw core h f => Sys2Proof.Machine.execMrdw core h f s
  | .mrdr core h f => Sys2Proof.Machine.execMrdr core h f s
  | .mrq core h f => Sys2Proof.Machine.execMrq core h f s
  | .mrfill core h f => Sys2Proof.Machine.execMrfill core h f s
  | .mradd core h f => Sys2Proof.Machine.execMradd core h f s
  | .ldw core h f => Sys2Proof.Machine.execLdw core h f s
  | .stw core h f => Sys2Proof.Machine.execStw core h f s
  | .vld core h f => Sys2Proof.Machine.execVld core h f s
  | .vst core h f => Sys2Proof.Machine.execVst core h f s
  | .rwr core h f => Sys2Proof.Machine.execRwr core h f s
  | .rwrv core h f => Sys2Proof.Machine.execRwrv core h f s
  | .hld core h f => Sys2Proof.Machine.execHld core h f s
  | .hst core h f => Sys2Proof.Machine.execHst core h f s
  | .send core h f => Sys2Proof.Machine.execSend core h f s
  | .put core h f => Sys2Proof.Machine.execPut core h f s
  | .fenceL core h f => Sys2Proof.Machine.execFenceL core h f s
  | .fenceM core h f => Sys2Proof.Machine.execFenceM core h f s
  | .seminc core h f => Sys2Proof.Machine.execSeminc core h f s
  | .semwait core h f => Sys2Proof.Machine.execSemwait core h f s
  | .bar core h f => Sys2Proof.Machine.execBar core h f s
  | .br core h f => Sys2Proof.Machine.execBr core h f s
  | .call core h f => Sys2Proof.Machine.execCall core h f s
  | .jr core h f => Sys2Proof.Machine.execJr core h f s
  | .loop core h f => Sys2Proof.Machine.execLoop core h f s
  | .mfsr core h f => Sys2Proof.Machine.execMfsr core h f s
  | .mtsr core h f => Sys2Proof.Machine.execMtsr core h f s
  | .halt core h f => Sys2Proof.Machine.execHalt core h f s
  | .programTimeout prog => Sys2Proof.Machine.execProgramTimeout prog s
  | .remoteWriteLand src dst => Sys2Proof.Machine.execRemoteWriteLand src dst s
  | .hbmCopyDone core idx => Sys2Proof.Machine.execHbmCopyDone core idx s
  | .sendLand p => Sys2Proof.Machine.execSendLand p s
  | .groupAutoRetain g => Sys2Proof.Machine.execGroupAutoRetain g s
  | .pwrGroupCtlWrite g v => Sys2Proof.Machine.execPwrGroupCtlWrite g v s
  | .seqGo n v => Sys2Proof.Machine.execSeqGo n v s
  | .seqAbort n => Sys2Proof.Machine.execSeqAbort n s
  | .microHalt n dev => Sys2Proof.Machine.execMicroHalt n dev s
  | .microNop n dev => Sys2Proof.Machine.execMicroNop n dev s
  | .segend n dev => Sys2Proof.Machine.execSegend n dev s
  | .rop n dev ecc => Sys2Proof.Machine.execRop n dev ecc s
  | .maj n dev ecc => Sys2Proof.Machine.execMaj n dev ecc s
  | .microFill n dev => Sys2Proof.Machine.execMicroFill n dev s
  | .popc n dev ecc => Sys2Proof.Machine.execPopc n dev ecc s
  | .microIdx n dev => Sys2Proof.Machine.execMicroIdx n dev s
  | .microLoop n dev => Sys2Proof.Machine.execMicroLoop n dev s
  | .segmentEnd n => Sys2Proof.Machine.execSegmentEnd n s
  | .refreshDue n => Sys2Proof.Machine.execRefreshDue n s
  | .hbmSelfRefresh pc => Sys2Proof.Machine.execHbmSelfRefresh pc s
  | .sesCacheFlush => Sys2Proof.Machine.execSesCacheFlush s
  | .sesPeek fn v => Sys2Proof.Machine.execSesPeek fn v s
  | .sesRebuiltDrop job => Sys2Proof.Machine.execSesRebuiltDrop job s
  | .create job v => Sys2Proof.Machine.execCreate job v s
  | .destroy job => Sys2Proof.Machine.execDestroy job s
  | .recompose job => Sys2Proof.Machine.execRecompose job s
  | .recomposeCommit job => Sys2Proof.Machine.execRecomposeCommit job s
  | .shaperCfgWrite kind job idx v => Sys2Proof.Machine.execShaperCfgWrite kind job idx v s
  | .snap v => Sys2Proof.Machine.execSnap v s
  | .privSlotWrite n v => Sys2Proof.Machine.execPrivSlotWrite n v s
  | .jobTagWrite job tag => Sys2Proof.Machine.execJobTagWrite job tag s
  | .portCtlWrite n v => Sys2Proof.Machine.execPortCtlWrite n v s
  | .ftlSplitWrite v => Sys2Proof.Machine.execFtlSplitWrite v s
  | .resume job => Sys2Proof.Machine.execResume job s
  | .errWellTailWrite fn v => Sys2Proof.Machine.execErrWellTailWrite fn v s
  | .overflowClear fn => Sys2Proof.Machine.execOverflowClear fn s
  | .release => Sys2Proof.Machine.execRelease s
  | .unitOut kind unit => Sys2Proof.Machine.execUnitOut kind unit s
  | .unitReturn kind unit => Sys2Proof.Machine.execUnitReturn kind unit s
  | .selfTestDone kind unit pass => Sys2Proof.Machine.execSelfTestDone kind unit pass s
  | .fuseBurn v => Sys2Proof.Machine.execFuseBurn v s
  | .blockOffline kind index on => Sys2Proof.Machine.execBlockOffline kind index on s
  | .blockReset kind index => Sys2Proof.Machine.execBlockReset kind index s
  | .pwrStandbyEnter => Sys2Proof.Machine.execPwrStandbyEnter s
  | .clkLocalReadLow => Sys2Proof.Machine.execClkLocalReadLow s
  | .commit => Sys2Proof.Machine.execCommit s
  | .recWrite v chunk spiError => Sys2Proof.Machine.execRecWrite v chunk spiError s
  | .finish => Sys2Proof.Machine.execFinish s
  | .powerEval watts millivolts10 milliamps10 tC0 tC1 tH tHbm => Sys2Proof.Machine.execPowerEval watts millivolts10 milliamps10 tC0 tC1 tH tHbm s
  | .thermalTrip => Sys2Proof.Machine.execThermalTrip s
  | .powerApply => Sys2Proof.Machine.execPowerApply s
  | .powerLoss => Sys2Proof.Machine.execPowerLoss s
  | .overVoltage => Sys2Proof.Machine.execOverVoltage s
  | .resetInFall => Sys2Proof.Machine.execResetInFall s
  | .resetInRise => Sys2Proof.Machine.execResetInRise s
  | .powerFailWarning us => Sys2Proof.Machine.execPowerFailWarning us s
  | .powerFailClear => Sys2Proof.Machine.execPowerFailClear s
  | .coreResetAccept => Sys2Proof.Machine.execCoreResetAccept s
  | .resetRelease => Sys2Proof.Machine.execResetRelease s
  | .standby => Sys2Proof.Machine.execStandby s
  | .wake sensors => Sys2Proof.Machine.execWake sensors s
  | .getIdent => Sys2Proof.Machine.execGetIdent s
  | .getTelemetry sensors => Sys2Proof.Machine.execGetTelemetry sensors s
  | .setCap watts => Sys2Proof.Machine.execSetCap watts s
  | .getCause => Sys2Proof.Machine.execGetCause s
  | .errorDetected e => Sys2Proof.Machine.execErrorDetected e s
  | .errorQueued => Sys2Proof.Machine.execErrorQueued s
  | .dumpComplete fwOk => Sys2Proof.Machine.execDumpComplete fwOk s
  | .dumpAbandon => Sys2Proof.Machine.execDumpAbandon s
  | .linkUp port ver lanes peerSerial peerNode peerPort => Sys2Proof.Machine.execLinkUp port ver lanes peerSerial peerNode peerPort s
  | .linkDown port failed => Sys2Proof.Machine.execLinkDown port failed s
  | .probe port serial node peerPort => Sys2Proof.Machine.execProbe port serial node peerPort s
  | .topologyRecord r => Sys2Proof.Machine.execTopologyRecord r s
  | .identifierAssignment serial node => Sys2Proof.Machine.execIdentifierAssignment serial node s
  | .acknowledgement src vc seq => Sys2Proof.Machine.execAcknowledgement src vc seq s
  | .retransmitTimer dst vc => Sys2Proof.Machine.execRetransmitTimer dst vc s
  | .unreachable node => Sys2Proof.Machine.execUnreachable node s
  | .handoffOut xfer m => Sys2Proof.Machine.execHandoffOut xfer m s
  | .ready xfer => Sys2Proof.Machine.execReady xfer s
  | .refused xfer reason => Sys2Proof.Machine.execRefused xfer reason s
  | .handoffGrain xfer n res g => Sys2Proof.Machine.execHandoffGrain xfer n res g s
  | .handoffIn xfer epoch index => Sys2Proof.Machine.execHandoffIn xfer epoch index s
  | .relinquished xfer epoch => Sys2Proof.Machine.execRelinquished xfer epoch s
  | .query xfer epoch => Sys2Proof.Machine.execQuery xfer epoch s
  | .mine xfer => Sys2Proof.Machine.execMine xfer s
  | .notMine xfer => Sys2Proof.Machine.execNotMine xfer s
  | .reclaimed xfer epoch => Sys2Proof.Machine.execReclaimed xfer epoch s
  | .abort xfer => Sys2Proof.Machine.execAbort xfer s
  | .peerFree src addr => Sys2Proof.Machine.execPeerFree src addr s
  | .orphanTimer xfer => Sys2Proof.Machine.execOrphanTimer xfer s
  | .phaseTimer xfer => Sys2Proof.Machine.execPhaseTimer xfer s
  | .peerExtentExpiry addr => Sys2Proof.Machine.execPeerExtentExpiry addr s
  | .collectivePacket job group p => Sys2Proof.Machine.execCollectivePacket job group p s
  | .collectiveTimeout job group seq => Sys2Proof.Machine.execCollectiveTimeout job group seq s
  | .gatherRequest node tag table row => Sys2Proof.Machine.execGatherRequest node tag table row s
  | .updateItem node tag table step row lr grad => Sys2Proof.Machine.execUpdateItem node tag table step row lr grad s
  | .stepMark node tag table step => Sys2Proof.Machine.execStepMark node tag table step s
  | .stepBudgetTimer job table step => Sys2Proof.Machine.execStepBudgetTimer job table step s
  | .rowCopyDone job table row ok => Sys2Proof.Machine.execRowCopyDone job table row ok s
  | .v1Write p => Sys2Proof.Machine.execV1Write p s
  | .ckptEntries job rank shards sessions => Sys2Proof.Machine.execCkptEntries job rank shards sessions s
  | .commitNotice job => Sys2Proof.Machine.execCommitNotice job s
  | .abortNotice job code => Sys2Proof.Machine.execAbortNotice job code s
  | .ckptBudget job => Sys2Proof.Machine.execCkptBudget job s
  | .stripeClose stream die => Sys2Proof.Machine.execStripeClose stream die s
  | .stripePadTimer stream die => Sys2Proof.Machine.execStripePadTimer stream die s
  | .trimJournalWrite => Sys2Proof.Machine.execTrimJournalWrite s
  | .garbageCollection => Sys2Proof.Machine.execGarbageCollection s
  | .readRefresh ch die plane block => Sys2Proof.Machine.execReadRefresh ch die plane block s
  | .eraseFail ch die plane block => Sys2Proof.Machine.execEraseFail ch die plane block s
  | .pageProgramFail ch die plane block page => Sys2Proof.Machine.execPageProgramFail ch die plane block page s
  | .dieFail ch die => Sys2Proof.Machine.execDieFail ch die s
  | .osc25mLoss present => Sys2Proof.Machine.execOsc25mLoss present s
  | .pcieLinkRetrain gen width => Sys2Proof.Machine.execPcieLinkRetrain gen width s
  | .jtagInstruction ir trace => Sys2Proof.Machine.execJtagInstruction ir trace s
  | .mctpControlMessage msg => Sys2Proof.Machine.execMctpControlMessage msg s
  | .packetForward p => Sys2Proof.Machine.execPacketForward p s
  | .creditGrant port vc units => Sys2Proof.Machine.execCreditGrant port vc units s
  | .nack dst vc seq => Sys2Proof.Machine.execNack dst vc seq s
  | .peerTierGrains node tag write addr grains ttlUs => Sys2Proof.Machine.execPeerTierGrains node tag write addr grains ttlUs s
  | .commitNoticeTimeout job => Sys2Proof.Machine.execCommitNoticeTimeout job s

end Sys2Proof.Machine
end

