-- ==== Sys2Proof/Machine/Tick.lean ====
section
/-!
DEFINITION. Sys2Proof/Machine/Tick.lean: the passing of time: what a step does when no command waits (log entry 2).
-/
namespace Sys2Proof.Machine

open Sys2Proof

/-- R427: the image of a FW_UPDATE has been written over the old one. -/
def State.fwWritten (s : State) (c : DescCtx) (im : List Byte) : State :=
  ({ s with sec := { s.sec with fwWrite := none, spi := Memory.write none s.sec.spi 0 im, spiGood := true } }).complete c Code.ok

/-- R455: the local clock counts microseconds while the input is above the turn-on threshold and OSC_25M is present. How long the
writing of a firmware image takes is open: it may end at any of them (R427). -/
def State.tick (s : State) : State :=
  if s.power.state = .off || !s.pins.osc then s
  else
    let s := { s with power := { s.power with clock := (s.power.clock + 1) % 2 ^ 64 } }
    match s.sec.fwWrite with
    | none => s
    | some (c, im) =>
      let (n, s) := s.draw
      if Config.freeBool n then s.fwWritten c im else s

end Sys2Proof.Machine
end

