-- ==== Sys2Proof/Safety.lean ====
section
/-!
DEFINITION. Sys2Proof/Safety.lean: the words that claims about the machine are stated in: memories in canonical form, descriptors that
reach their own effect, words of a bed that take effect.
-/
namespace Sys2Proof.Machine

open Sys2Proof

/-! ## Canonical form -/

/-- The keys of a collection rise strictly. -/
def keysRise {α : Type} : Map α → Bool
  | [] => true
  | [_] => true
  | a :: b :: m => decide (a.1 < b.1) && keysRise (b :: m)

/-- Every byte memory is in canonical form: HBM and the stores of cores, live or saved, read 0 where nothing is listed; host memory cannot
be read there. -/
def State.memWf (s : State) : Bool :=
  Memory.wf (some 0) s.hbm && Memory.wf none s.host && s.cores.all (fun c => Memory.wf (some 0) c.2.store) &&
    s.groups.all (fun g => g.2.saved.all (fun m => m.2.all (fun c => Memory.wf (some 0) c.2.store)))

/-! ## Descriptors -/

/-- The descriptor is taken up and passes the checks every kind has (R501, R502, R531): its own effect follows. -/
structure State.Serves (s : State) (k : Kind) (job well : Nat) (d : Desc) : Prop where
  may : s.mayTake job well d = true
  fields : onlyFields d (headerFields ++ k.fields) = true
  common : (s.takenUp job well).commonCheck k job d = none

/-- The state once the session engine has taken up an operation on session `i`: its entry is in the cache, or is served by bypass (R12). -/
def State.opened (s : State) (i : Nat) : State := (s.sesAccess i).1

/-- The session a descriptor names is one of its job's, and its entry reads back whole (R13, R19, R532). -/
structure State.Names (s : State) (job i : Nat) : Prop where
  used : (s.sess i).state ≠ .free
  intact : (s.sesAccess i).2 = false
  bound : (s.aux i).unbound = false
  own : (s.sess i).job = job

/-! ## Words of a bed -/

/-- The word `i` stands where core `c`, which runs program `p`, takes its next one, and the word takes effect (R135 to R137, R161). -/
structure State.Issues (s : State) (i : Instr) (c : Nat) (h : Head) (slot : Nat) (writes : List Nat) (p : Prog) : Prop where
  runs : s.running c = some p
  inCode : p.covers (s.startWord c).wordAt = true
  stands : encodeFletegus i = some (s.fetched c p)
  fits : (s.startWord c).admits h slot writes = true
  takes : (s.startWord c).takes h = true

/-- The core with the word counted to its bed, as the word's own effect finds it. -/
def State.wordCore (s : State) (c slot : Nat) (writes : List Nat) : Core := (s.startWord c).joined slot writes

/-- The state a word's operands are read from, and what the word sees. -/
def State.atWord (s : State) (c : Nat) (p : Prog) : State := (s.firstBed (s.startWord c).prog p).setCore c (s.startWord c)
def State.envOf (s : State) (c : Nat) (p : Prog) : Env := (s.atWord c p).wordEnv c p

/-- The state past a word that leaves its core as `k`: the last word of a bed issues it. -/
def State.wordDone (s : State) (c : Nat) (h : Head) (p : Prog) (k : Core) : State := (s.atWord c p).advance h (s.envOf c p) k

/-! ## Microwords of a bank sequencer -/

/-- A context of sequencer `n` runs its segment and stands at the word `w` of row `m` of Table 8.8, which its segment has time for
(R223, R226). -/
structure State.Microruns (s : State) (n : Nat) (dev : Bool) (m : Micro) (w : W32) : Prop where
  runs : (s.seq n).running = some dev
  busy : ((s.seq n).ctx dev).busy = true
  up : s.power.level = none
  word : mgetD ((s.seq n).ctx dev).words ((s.seq n).ctx dev).pc 0 = w
  row : microOf w = some m
  fits : (s.seq n).segNs + microCost w m ≤ 2000

end Sys2Proof.Machine
end

