-- ==== Sys2Proof/Certificates/Slice0/Obligations.lean ====
section
/-!
DEFINITION. Sys2Proof/Certificates/Slice0/Obligations.lean: the statements about the model that are to be proved.
-/
open Sys2Proof Sys2Proof.Machine

/-- A step takes the front command and runs it on everything but that command. -/
def Obligations.StepRunsFrontCommand : Prop :=
  ∀ (c : Instr) (rest : List Instr) (s : State), step { s with pending := c :: rest } = exec c { s with pending := rest }

/-- R455, log entry 2 (DESIGN CHOICE): the tick is what a step does when no command waits. -/
def Obligations.EmptyQueueTicks : Prop :=
  ∀ s : State, s.pending = [] →
    (s.power.state = .off ∨ s.pins.osc = false → step s = .next s) ∧
    (s.power.state ≠ .off → s.pins.osc = true →
      (∃ t, step s = .next t ∧ t.power.clock = (s.power.clock + 1) % 2 ^ 64) ∧
      (s.sec.fwWrite = none → step s = .next { s with power := { s.power with clock := (s.power.clock + 1) % 2 ^ 64 } }))

/-- R455, R457, R462: what power application leaves. -/
def Obligations.PowerOnState : Prop :=
  let s := State.reset
  s.pending = [] ∧ (∀ i, (s.sess i).state = .free) ∧ (∀ i, (s.req i).rstate = .free) ∧ (∀ j, (s.job j).active = false) ∧
    (∀ f, (s.func f).agreed = false) ∧ s.power.clock = 0 ∧ s.power.ready = false ∧ s.power.level = some 3 ∧ bit s.power.cause 0 = true ∧
    s.errs.well.head = 0 ∧ s.errs.well.tail = 0 ∧ (∀ a, Memory.get s.hbm a = 0) ∧ (∀ n, (s.seq n).holds = false) ∧
    (∀ c, (s.core c).halted = true) ∧ s.progs = []

/-- The invariant of MemoryStaysCanonical holds at the start. -/
def Obligations.ResetMemoryCanonical : Prop := State.reset.memWf = true

/-- Whatever the command, HBM, host memory and every core's store stay in the one form that makes equal memories equal data. -/
def Obligations.MemoryStaysCanonical : Prop := ∀ s t : State, s.memWf = true → step s = .next t → t.memWf = true

/-- What one write does to every byte of a memory, and what the canonical form is for. -/
def Obligations.MemoryReadsBack : Prop :=
  (∀ (z : Option Byte) (m : List Host.Cell) (a : Nat) (bs : List Byte), Memory.wf z m = true →
    Memory.wf z (Memory.write z m a bs) = true ∧
    (∀ x, x < a ∨ a + bs.length ≤ x → Memory.find (Memory.write z m a bs) x = Memory.find m x) ∧
    (∀ x b, bs[x]? = some b → Memory.find (Memory.write z m a bs) (a + x) = if some b = z then none else some b)) ∧
  ∀ (z : Option Byte) (m m' : List Host.Cell), Memory.wf z m = true → Memory.wf z m' = true →
    (∀ x, Memory.find m x = Memory.find m' x) → m = m'

/-- Tables 6.1 to 6.15: decode of encode, and encode of decode, for every Fletegus instruction with every operand at every value. -/
def Obligations.FletegusWordsRoundTrip : Prop :=
  (∀ (i : Instr) (w : W64), encodeFletegus i = some w → ∃ c, decodeFletegus c w = some i) ∧
  (∀ (c : Nat) (w : W64) (i : Instr), decodeFletegus c w = some i → encodeFletegus i = some w) ∧
  (∀ (c c' : Nat) (w : W64) (i : Instr), decodeFletegus c w = some i → decodeFletegus c' w = some i → c = c')

/-- Table 6.16, word by word. -/
def Obligations.FletegusExampleWords : Prop :=
  ∀ c : Nat,
    decodeFletegus c 0x840094A000000040 = some (.addi c ⟨true, 0, false⟩ ⟨5, 5, 0, 0x40⟩) ∧
    decodeFletegus c 0x10020C221C400000 = some (.vfma c ⟨false, 0, false⟩ { rd := 3, ra := 1, rb := 2, rc := 3, mask := 4, ty := 1, lf := false, rsv := 0, imm16 := 0 }) ∧
    decodeFletegus c 0xA004A12A04001000 = some (.mrow c ⟨true, 0, false⟩
      { at_ := 1, sa := 8, sb := 9, sc := 10, nb := 4, row := 0, q := 0, opf := 1, pd := 0, fl := false, lf := false, rsv := 0 }) ∧
    decodeFletegus c 0xB2074A80C02FC000 = some (.hld c ⟨true, 0, false⟩
      { rl := 20, rt := 21, rx := 0, sem := 6, semd := 0, seg := 2, len := 63, rsv := 0 }) ∧
    decodeFletegus c 0xC002C0000000C000 = some (.put c ⟨true, 0, false⟩
      { rl := 12, rt := 0, rx := 0, sem := 0, semd := 0, seg := 0, len := 3, rsv := 0 }) ∧
    decodeFletegus c 0xD00180E000002023 = some (.seminc c ⟨true, 0, false⟩ ⟨0, 7, 0, 0x2023⟩) ∧
    decodeFletegus c 0xE0E2000000000340 = some (.br c ⟨true, 3, true⟩ ⟨0, 0, 0x340⟩)

/-- R501, R502, R531 for every descriptor kind; and what a reserved field that is not 0 adds (R6, R9, R513): the descriptor runs on, and the
job's data are spoiled after it (log entry 5, DESIGN CHOICE), nobody else's: no session or request of another job, no byte outside the job's
HBM, no job, core, pool or well changes with it. -/
def Obligations.DescriptorGate : Prop :=
  ∀ (s : State) (job well : Nat) (d : Desc),
    ∀ e ∈ ([
      (.openSession, kOpenSession), (.submitTurn, kSubmitTurn), (.park, kPark), (.close, kClose), (.endRequest, kEndRequest),
        (.migrate, kMigrate), (.placeQuery, kPlaceQuery), (.registerT3, kRegisterT3), (.runProgram, kRunProgram),
        (.loadModel, kLoadModel), (.unloadModel, kUnloadModel), (.loadAdapter, kLoadAdapter), (.loadVocab, kLoadVocab),
        (.loadGrammar, kLoadGrammar), (.setOutput, kSetOutput), (.loadIndex, kLoadIndex), (.loadFilter, kLoadFilter),
        (.tombstone, kTombstone), (.indexWrite, kIndexWrite), (.search, kSearch), (.loadTable, kLoadTable), (.tableSwap, kTableSwap),
        (.embedLookup, kEmbedLookup), (.tableUpdate, kTableUpdate), (.tableStep, kTableStep), (.migrateRows, kMigrateRows),
        (.embedDocs, kEmbedDocs), (.setGroup, kSetGroup), (.splitTurn, kSplitTurn), (.checkpoint, kCheckpoint),
        (.preemptNotice, kPreemptNotice), (.restore, kRestore), (.ckptFree, kCkptFree), (.attest, kAttest),
        (.installKeys, kInstallKeys), (.fwUpdate, kFwUpdate),
        (.toolReturn, if bit d 367 then { kToolReturn with cwell := none } else kToolReturn), (.badKind, kBadKind d)] : List ((Nat → Nat → Desc → Instr) × Kind)),
      (s.mayTake job well d = false → exec (e.1 job well d) s = .next s) ∧
      (∀ code, s.mayTake job well d = true → onlyFields d (headerFields ++ e.2.fields) = false → (s.takenUp job well).commonCheck e.2 job d = some code →
        exec (e.1 job well d) s = .next (((s.takenUp job well).complete { descCtx e.2 job well d with cw := well } code).spoil job)) ∧
      (∀ code, s.mayTake job well d = true → onlyFields d (headerFields ++ e.2.fields) = true → (s.takenUp job well).commonCheck e.2 job d = some code →
        exec (e.1 job well d) s = .next ((s.takenUp job well).complete { descCtx e.2 job well d with cw := well } code)) ∧
      ((s.func (s.job job).func).verIndex < e.2.since → s.mayTake job well d = true → onlyFields d (headerFields ++ e.2.fields) = true →
        exec (e.1 job well d) s = .next ((s.takenUp job well).complete { descCtx e.2 job well d with cw := well } Code.kindUnsupported)) ∧
      (Memory.wf (some 0) s.hbm = true →
        let t := s.spoil job
        (∀ k, (s.sess k).job ≠ job → t.sess k = s.sess k) ∧ (∀ k, (s.req k).job ≠ job → mget t.reqAux k = mget s.reqAux k) ∧
        (∀ a, s.inJobHbm job a 1 = false → Memory.find t.hbm a = Memory.find s.hbm a) ∧ Memory.wf (some 0) t.hbm = true ∧
        t.jobs = s.jobs ∧ t.reqs = s.reqs ∧ t.sessAux = s.sessAux ∧ t.cores = s.cores ∧ t.groups = s.groups ∧ t.pools = s.pools ∧ t.host = s.host ∧
        t.funcs = s.funcs ∧ t.power = s.power ∧ t.errs = s.errs)

/-- R501, R502: taking up one descriptor. -/
def Obligations.TakingUp : Prop :=
  ∀ (s : State) (j w : Nat) (d : Desc),
    (s.mayTake j w d = true → ((s.job j).subWell w).enabled = true ∧ ((s.job j).compWell w).enabled = true ∧
      ((s.job j).subWell w).head ≠ ((s.job j).subWell w).tail ∧ (bit d 16 = true → ((s.job j).subWell w).unfinished = 0)) ∧
    (let t := s.takenUp j w
     ((t.job j).subWell w).head = ((s.job j).subWell w).head + 1 ∧ ((t.job j).subWell w).tail = ((s.job j).subWell w).tail ∧
     ((t.job j).subWell w).unfinished = ((s.job j).subWell w).unfinished + 1 ∧
     (∀ v, v ≠ w → (t.job j).subWell v = (s.job j).subWell v) ∧ (t.job j).cw = (s.job j).cw ∧
     (∀ i, i ≠ j → t.job i = s.job i) ∧ t.sessions = s.sessions ∧ t.reqs = s.reqs ∧ t.hbm = s.hbm ∧ t.host = s.host ∧ t.funcs = s.funcs)

/-- R505, R507, Table 19.12: the FINAL record of a descriptor. -/
def Obligations.CompletionRecords : Prop :=
  ∀ (s : State) (c : DescCtx) (status result req session : Nat), c.sw < 16 →
    let q := (s.job c.job).compWell c.cw
    let r : Rec := { tag := c.tag, status := status, kind := c.kind, swell := c.sw, final := true, result := BitVec.ofNat 64 result,
                     req := req, session := session, sub := true }
    let t := s.complete c status result req session
    (q.enabled = false ∨ q.depth ≤ q.unread →
      t = s.modJob c.job (fun x => x.setComp c.cw { q with waiting := q.waiting ++ [r] })) ∧
    (q.room = true → bit q.cfg 5 = false → Memory.wf none s.host = true →
      let a := q.base.toNat + 32 * (q.tail.toNat % q.depth)
      let mark := c.sw + 16 + 128 * (if q.tail.toNat / q.depth % 2 = 0 then 1 else 0)
      Memory.readAll t.host a 32 = some (leBytes 8 c.tag.toNat ++ leBytes 2 status ++ leBytes 2 c.kind ++ [BitVec.ofNat 8 mark, 0, 0, 0] ++
        leBytes 8 result ++ leBytes 4 req ++ leBytes 3 session ++ [0]) ∧
      (∀ x, x < a ∨ a + 32 ≤ x → Memory.find t.host x = Memory.find s.host x) ∧
      ((t.job c.job).compWell c.cw).tail = q.tail + 1 ∧ ((t.job c.job).compWell c.cw).waiting = [] ∧
      ((t.job c.job).subWell c.sw).unfinished = ((s.job c.job).subWell c.sw).unfinished - 1 ∧ t.hbm = s.hbm ∧ t.sessions = s.sessions)

/-- R503. -/
def Obligations.BadKinds : Prop :=
  ∀ (s : State) (job well : Nat) (d : Desc), Instr.wf (.badKind job well d) = true → s.Serves (kBadKind d) job well d →
    exec (.badKind job well d) s = .next ((s.takenUp job well).complete { job := job, sw := well, cw := well, tag := BitVec.ofNat 64 (fld d 32 64), kind := fld d 0 16 } 0x0D01)

/-- R348: the one command whose effect this manual does not give. -/
def Obligations.NoOtherManual : Prop := ∀ (p : Packet) (s : State), exec (.v1Write p) s = .refused .otherManual

/-- R500, R501, R507: the register writes of a well: DOORBELL, WELL_CFG_WRITE (of either well) and CW_HEAD_WRITE complete, with the register
each leaves. A SW_TAIL beyond the ring is R513's error of the job: it is written, and the job's data are spoiled (R6, log entry 5). -/
def Obligations.Wells : Prop :=
  ∀ (s : State) (j w : Nat), s.regsUp = true →
    let q := (s.job j).subWell w
    let k := (s.job j).compWell w
    let sub (x : SubWell) : State := s.modJob j (fun y => y.setSub w x)
    let comp (x : CompWell) : State := s.modJob j (fun y => y.setComp w x)
    (∀ tail : W32, q.enabled = true →
      ((tail - q.head).toNat ≤ q.depth → ∃ at_, exec (.doorbell j w tail false) s = .next (sub { q with tail := tail, arrivals := at_ }) ∧
        at_.length = (tail - q.head).toNat) ∧
      (q.depth < (tail - q.head).toNat → ∃ at_, exec (.doorbell j w tail false) s = .next ((sub { q with tail := tail, arrivals := at_ }).spoil j)) ∧
      (0 < (tail - q.head).toNat → (tail - q.head).toNat ≤ q.depth → s.works = true → k.room = true → bit q.cfg 5 = true →
        ∃ t, exec (.doorbell j w tail true) s = .next t ∧ ((t.job j).subWell w).enabled = false ∧ ((t.job j).subWell w).fetchErr = true ∧
          ((t.job j).compWell w).tail = k.tail + 1)) ∧
    (∀ v : W64, onlyFields v [(0, 7)] = true →
      (q.enabled = true → bit v 6 = true → exec (.wellCfgWrite j w false v) s = .next s) ∧
      (bit v 6 = false → exec (.wellCfgWrite j w false v) s = .next (sub { q with cfg := v })) ∧
      (q.enabled = false → bit v 6 = true → s.ringOk j q.base v 64 = true → k.enabled = true →
        exec (.wellCfgWrite j w false v) s = .next (sub { q with cfg := v, tail := 0, head := 0, arrivals := [] })) ∧
      (q.enabled = false → bit v 6 = true → (s.ringOk j q.base v 64 = false ∨ k.enabled = false) →
        exec (.wellCfgWrite j w false v) s = .next (sub { q with cfg := setFld v 6 1 0, cfgErr := true }))) ∧
    (∀ v : W64, onlyFields v [(0, 19), (24, 24)] = true →
      (k.enabled = true → bit v 6 = true → exec (.wellCfgWrite j w true v) s = .next s) ∧
      (k.enabled = true → bit v 6 = false → q.enabled = true → exec (.wellCfgWrite j w true v) s = .next (comp { k with cfgErr := true })) ∧
      (bit v 6 = false → q.enabled = false → exec (.wellCfgWrite j w true v) s = .next (comp { k with cfg := v })) ∧
      (k.enabled = false → bit v 6 = true → s.ringOk j k.base v 32 = true → fld v 8 11 < vectorCount (s.job j).func →
        exec (.wellCfgWrite j w true v) s = .next ((comp { k with cfg := v, tail := 0, head := 0, unsignalled := 0 }).wellProceeds j w))) ∧
    (∀ v : W32, (v - k.head).toNat ≤ k.unread → exec (.cwHeadWrite j w v) s = .next ((comp { k with head := v }).wellProceeds j w)) ∧
    (∀ v : W32, k.unread < (v - k.head).toNat → exec (.cwHeadWrite j w v) s = .next s)

/-- R530 and R508. -/
def Obligations.RecordsThatFail : Prop :=
  ∀ (s : State) (j w : Nat), s.regsUp = true →
    let q := (s.job j).compWell w
    let f := (s.job j).func
    (q.enabled = true → q.unread ≠ 0 → bit q.cfg 5 = false →
      ∃ t r, exec (.completionWriteFail j w) s = .next t ∧ ((t.job j).compWell w).waiting = r :: q.waiting ∧ ((t.job j).compWell w).writeErr = true ∧
        ((t.job j).compWell w).enabled = false ∧ ((t.job j).compWell w).tail = q.tail - 1 ∧ (t.func f).dmaFail = (s.func f).dmaFail + 1 ∧
        (∀ i, i ≠ j → t.job i = s.job i) ∧ t.hbm = s.hbm ∧ t.sessions = s.sessions) ∧
    (bit q.cfg 7 = true → q.unread ≠ 0 → q.unsignalled ≠ 0 → fld q.cfg 32 16 ≠ 0 → q.oldest + fld q.cfg 32 16 ≤ s.now →
      ∃ t, exec (.coalesceTimer j w) s = .next t ∧ (t.func f).signals = fld q.cfg 8 11 :: (s.func f).signals ∧
        ((t.job j).compWell w).unsignalled = 0 ∧ ((t.job j).compWell w).tail = q.tail ∧ t.hbm = s.hbm ∧ t.host = s.host)

/-- R497, R509. -/
def Obligations.VersionsAndFunctionReset : Prop :=
  ∀ (s : State) (fn : Nat), s.regsUp = true →
    (∀ v : W64, onlyFields v [(0, 17)] = true → bit v 16 = true →
      (s.wellsOn fn = true → exec (.hciVerGo fn v) s = .next (s.modFunc fn (fun f => { f with verCtl := setFld v 16 1 0, busy := true }))) ∧
      (s.wellsOn fn = false → (fld v 8 8, fld v 0 8) ∈ [(2, 4), (3, 0), (3, 1), (3, 2)] →
        exec (.hciVerGo fn v) s = .next (s.modFunc fn (fun f => { f with verCtl := setFld v 16 1 0, agreed := true, minor := fld v 0 8, major := fld v 8 8 }))) ∧
      (s.wellsOn fn = false → (fld v 8 8, fld v 0 8) ∉ [(2, 4), (3, 0), (3, 1), (3, 2)] →
        exec (.hciVerGo fn v) s = .next (s.modFunc fn (fun f => { f with verCtl := setFld v 16 1 0, refused := true })))) ∧
    (∃ t, exec (.flr fn) s = .next t ∧ exec (.d3hotEntry fn) s = .next t ∧ (t.func fn).agreed = false ∧ (t.func fn).winBase = 0)

/-- R166, Table 6.8: the result of every SCL instruction, in its register, register-immediate, compare and predicate forms. Writing
p0 changes nothing. -/
def Obligations.ScalarUnit : Prop :=
  ∀ (c : Nat) (h : Head) (s : State) (p : Prog),
    (∀ f : FmtR, plainR f = true →
      ∀ e ∈ ([(.add, fun a b => BitVec.ofInt 32 (a.toInt + b.toInt)), (.sub, fun a b => BitVec.ofInt 32 (a.toInt - b.toInt)),
          (.mul, fun a b => BitVec.ofInt 32 (a.toInt * b.toInt)), (.mulh, fun a b => BitVec.ofInt 32 (a.toInt * b.toInt / 2 ^ 32)),
          (.and_, fun a b => a &&& b), (.or_, fun a b => a ||| b), (.xor_, fun a b => a ^^^ b),
          (.shl, fun a b => BitVec.ofNat 32 (a.toNat * 2 ^ (b.toNat % 32))), (.shr, fun a b => BitVec.ofNat 32 (a.toNat / 2 ^ (b.toNat % 32))),
          (.sra, fun a b => BitVec.ofInt 32 (a.toInt / 2 ^ (b.toNat % 32))),
          (.min, fun a b => BitVec.ofInt 32 (min a.toInt b.toInt)), (.max, fun a b => BitVec.ofInt 32 (max a.toInt b.toInt)),
          (.minu, fun a b => BitVec.ofNat 32 (min a.toNat b.toNat)), (.maxu, fun a b => BitVec.ofNat 32 (max a.toNat b.toNat))] :
            List ((Nat → Head → FmtR → Instr) × (W32 → W32 → W32))),
        s.Issues (e.1 c h f) c h Slot.scalar [wS f.rd] p →
        let k := s.wordCore c Slot.scalar [wS f.rd]
        exec (e.1 c h f) s =
          .next (s.wordDone c h p { k with regs := { k.regs with s := mput k.regs.s f.rd.toNat (e.2 (k.snap.sreg f.ra) (k.snap.sreg f.rb)) } })) ∧
    (∀ f : FmtI, f.rsv = 0 →
      ∀ e ∈ ([(.addi, true, fun a i => BitVec.ofInt 32 (a.toInt + i.toInt)), (.andi, true, fun a i => a &&& i), (.ori, true, fun a i => a ||| i),
          (.xori, true, fun a i => a ^^^ i), (.shli, decide (f.imm32.toNat < 32), fun a i => BitVec.ofNat 32 (a.toNat * 2 ^ i.toNat)),
          (.shri, decide (f.imm32.toNat < 32), fun a i => BitVec.ofNat 32 (a.toNat / 2 ^ i.toNat)),
          (.srai, decide (f.imm32.toNat < 32), fun a i => BitVec.ofInt 32 (a.toInt / 2 ^ i.toNat)), (.li, f.ra == 0, fun _ i => i)] :
            List ((Nat → Head → FmtI → Instr) × Bool × (W32 → W32 → W32))),
        e.2.1 = true → s.Issues (e.1 c h f) c h Slot.scalar [wS f.rd] p →
        let k := s.wordCore c Slot.scalar [wS f.rd]
        exec (e.1 c h f) s =
          .next (s.wordDone c h p { k with regs := { k.regs with s := mput k.regs.s f.rd.toNat (e.2.2 (k.snap.sreg f.ra) f.imm32) } })) ∧
    (∀ f : FmtR, plainR f = true → f.rd.toNat < 8 →
      ∀ e ∈ ([(.cmpeq, fun a b => decide (a = b)), (.cmpne, fun a b => decide (a ≠ b)), (.cmplt, fun a b => decide (a.toInt < b.toInt)),
          (.cmpltu, fun a b => decide (a.toNat < b.toNat)), (.cmple, fun a b => decide (a.toInt ≤ b.toInt)),
          (.cmpleu, fun a b => decide (a.toNat ≤ b.toNat))] : List ((Nat → Head → FmtR → Instr) × (W32 → W32 → Bool))),
        s.Issues (e.1 c h f) c h Slot.scalar [wP f.rd.toNat] p →
        let k := s.wordCore c Slot.scalar [wP f.rd.toNat]
        exec (e.1 c h f) s =
          .next (s.wordDone c h p { k with regs := if f.rd = 0 then k.regs else
            { k.regs with p := mput k.regs.p f.rd.toNat (if e.2 (k.snap.sreg f.ra) (k.snap.sreg f.rb) then BitVec.allOnes 64 else 0) } })) ∧
    (∀ f : FmtI, f.rsv = 0 → f.rd.toNat < 8 →
      ∀ e ∈ ([(.cmpeqi, fun a i => decide (a = i)), (.cmplti, fun a i => decide (a.toInt < i.toInt)),
          (.cmpltui, fun a i => decide (a.toNat < i.toNat))] : List ((Nat → Head → FmtI → Instr) × (W32 → W32 → Bool))),
        s.Issues (e.1 c h f) c h Slot.scalar [wP f.rd.toNat] p →
        let k := s.wordCore c Slot.scalar [wP f.rd.toNat]
        exec (e.1 c h f) s =
          .next (s.wordDone c h p { k with regs := if f.rd = 0 then k.regs else
            { k.regs with p := mput k.regs.p f.rd.toNat (if e.2 (k.snap.sreg f.ra) f.imm32 then BitVec.allOnes 64 else 0) } })) ∧
    (∀ f : FmtR, plainR f = true → f.rd.toNat < 8 → f.ra.toNat < 8 → f.rb.toNat < 8 →
      ∀ e ∈ ([(.pand, fun a b => a && b), (.por, fun a b => a || b), (.pxor, fun a b => a != b), (.pandn, fun a b => a && !b)] :
          List ((Nat → Head → FmtR → Instr) × (Bool → Bool → Bool))),
        s.Issues (e.1 c h f) c h Slot.scalar [wP f.rd.toNat] p →
        let k := s.wordCore c Slot.scalar [wP f.rd.toNat]
        ∃ v : W64, exec (e.1 c h f) s =
          .next (s.wordDone c h p { k with regs := if f.rd = 0 then k.regs else { k.regs with p := mput k.regs.p f.rd.toNat v } }) ∧
          ∀ i < 64, v.getLsbD i = e.2 ((k.snap.preg f.ra.toNat).getLsbD i) ((k.snap.preg f.rb.toNat).getLsbD i)) ∧
    (∀ f : FmtR, plainR f = true → f.rd = 0 → f.ra = 0 → f.rb = 0 → f.rc = 0 → s.Issues (.nop c h f) c h Slot.scalar [] p →
      exec (.nop c h f) s = .next (s.wordDone c h p (s.wordCore c Slot.scalar [])))

/-- Table 6.15, R182 to R184: the CTL instructions, for a branch that is taken to an aligned address of the code range. -/
def Obligations.ControlTransfers : Prop :=
  ∀ (c : Nat) (h : Head) (s : State) (p : Prog),
    (∀ f : FmtB, f.rsv = 0 →
      (f.rc = 0 → f.target.toNat % 8 = 0 → p.covers f.target.toNat = true → s.Issues (.br c h f) c h Slot.scalar [] p →
        exec (.br c h f) s = .next (s.wordDone c h p { s.wordCore c Slot.scalar [] with target := some f.target.toNat })) ∧
      (f.target.toNat % 8 = 0 → p.covers f.target.toNat = true → s.Issues (.call c h f) c h Slot.scalar [wS f.rc] p →
        exec (.call c h f) s = .next (s.wordDone c h p { (s.wordCore c Slot.scalar [wS f.rc]).later (.link f.rc.toNat) with target := some f.target.toNat })) ∧
      (f.target = 0 → s.Issues (.jr c h f) c h Slot.scalar [] p →
        let k := s.wordCore c Slot.scalar []
        (k.snap.sreg f.rc).toNat % 8 = 0 → p.covers (k.snap.sreg f.rc).toNat = true →
        exec (.jr c h f) s = .next (s.wordDone c h p { k with target := some (k.snap.sreg f.rc).toNat })) ∧
      (s.Issues (.loop c h f) c h Slot.scalar [wS f.rc] p →
        let k := s.wordCore c Slot.scalar [wS f.rc]
        let v := k.snap.sreg f.rc - 1
        (v = 0 ∨ f.target.toNat % 8 = 0 ∧ p.covers f.target.toNat = true) →
        exec (.loop c h f) s = .next (s.wordDone c h p
          { k with regs := k.regs.setS f.rc v, target := if v = 0 then k.target else some f.target.toNat }))) ∧
    (∀ f : FmtI, f.rsv = 0 →
      (f.imm32.toNat < 6 → (f.imm32 = 5 → 1 ≤ p.minor) → s.Issues (.mfsr c h f) c h Slot.scalar [wS f.rd] p →
        let k := s.wordCore c Slot.scalar [wS f.rd]
        let v : W32 := [BitVec.ofNat 32 c, BitVec.ofNat 32 k.lcore, BitVec.ofNat 32 p.ncores, k.snap.vstat, k.snap.tstat,
          BitVec.ofNat 32 s.node].getD f.imm32.toNat 0
        exec (.mfsr c h f) s = .next (s.wordDone c h p { k with regs := k.regs.setS f.rd v })) ∧
      (f.imm32.toNat < 6 → (f.imm32 = 5 → 1 ≤ p.minor) → s.Issues (.mtsr c h f) c h Slot.scalar [] p →
        let k := s.wordCore c Slot.scalar []
        exec (.mtsr c h f) s = .next (s.wordDone c h p { k with regs :=
          { k.regs with vstat := if f.imm32 = 3 then k.regs.vstat &&& ~~~(k.snap.sreg f.ra) else k.regs.vstat,
                        tstat := if f.imm32 = 4 then k.regs.tstat &&& ~~~(k.snap.sreg f.ra) else k.regs.tstat } })) ∧
      (s.Issues (.halt c h f) c h Slot.scalar [] p →
        let k := s.wordCore c Slot.scalar []
        exec (.halt c h f) s = .next (s.wordDone c h p (k.later (.halt (k.snap.sreg f.ra))))))

/-- R138, R155, R182: what a word that took effect leads to, when no word of its bed leaves anything for the issue beside registers. -/
def Obligations.BedGoesOn : Prop :=
  ∀ (s : State) (c : Nat) (h : Head) (p : Prog) (k : Core), s.running c = some p → k.prog = (s.core c).prog →
    let u : State := if p.startAt.isSome then s else { s with progs := mput s.progs k.prog { p with startAt := some s.now } }
    (h.endBed = false → s.wordDone c h p k = u.setCore c { k with bedPos := k.bedPos + 1 }) ∧
    (h.endBed = true → k.late = [] →
      s.wordDone c h p k = u.setCore c { k with
        pc := (match k.target with
          | some t => t
          | none => k.pc + 8 * (k.bedPos + 1)) % 2 ^ 20
        bedPos := 0, bedSlots := [], bedWrites := [], target := none, beds := (k.beds + 1) % 2 ^ 64 })

/-- R161, R143: with bit 0 of p[PR] equal to PS, a word has no effect and no fault of its own, whatever its other fields hold. -/
def Obligations.WordsWithoutEffect : Prop :=
  ∀ (c : Nat) (h : Head) (f : FmtR) (s : State) (p : Prog),
    ∀ e ∈ ([(.add, Slot.scalar, [wS f.rd]), (.mulh, Slot.scalar, [wS f.rd]), (.cmplt, Slot.scalar, [wP f.rd.toNat]),
        (.pand, Slot.scalar, [wP f.rd.toNat]), (.vadd, Slot.vector, [wV f.rd]), (.vfma, Slot.vector, [wV f.rd]),
        (.vcmpeq, Slot.vector, [wP f.rd.toNat]), (.vext, Slot.vector, [wS f.rd]), (.vredadd, Slot.vector, [wS f.rd]),
        (.ldw, Slot.memory, [wS f.rd]), (.vld, Slot.memory, [wV f.rd]), (.stw, Slot.memory, []), (.vst, Slot.memory, [])] :
          List ((Nat → Head → FmtR → Instr) × Nat × List Nat)),
      s.running c = some p → p.covers (s.startWord c).wordAt = true → encodeFletegus (e.1 c h f) = some (s.fetched c p) →
      (s.startWord c).admits h e.2.1 e.2.2 = true →
      ((s.startWord c).snap.preg h.pr.toNat).getLsbD 0 = h.ps →
      exec (e.1 c h f) s = .next (s.wordDone c h p (s.wordCore c e.2.1 e.2.2))

/-- R137, R157, R162, R165, R184: a faulting word stops its program: it is being stopped, or has already ended and been completed. A
command whose word is not the one at the core's PC, where an instruction stands, does nothing: it names no event of the core. -/
def Obligations.ProgramFaults : Prop :=
  ∀ (c : Nat) (h : Head) (f : FmtR) (b : FmtB) (s : State) (p : Prog), s.running c = some p →
    (p.covers (s.startWord c).wordAt = false →
      exec (.add c h f) s = .next ((s.atWord c p).wordFault c [(.address, (s.startWord c).wordAt)])) ∧
    (p.covers (s.startWord c).wordAt = true → encodeFletegus (.add c h f) = some (s.fetched c p) →
      (s.startWord c).admits h Slot.scalar [wS f.rd] = false →
      exec (.add c h f) s = .next ((s.atWord c p).wordFault c [(.bed, (s.startWord c).pc)])) ∧
    (s.Issues (.add c h f) c h Slot.scalar [wS f.rd] p → plainR f = false →
      exec (.add c h f) s = .next ((s.atWord c p).wordFault c [(.illegal, (s.startWord c).pc)])) ∧
    (s.Issues (.br c h b) c h Slot.scalar [] p → b.rsv = 0 → b.rc = 0 → b.target.toNat % 8 ≠ 0 → p.covers b.target.toNat = true →
      exec (.br c h b) s = .next ((s.atWord c p).wordFault c [(.align, b.target.toNat)])) ∧
    (let w := s.fetched c p
     p.covers (s.startWord c).wordAt = true → encodeFletegus (.add c h f) ≠ some w →
      (decodeFletegus c w = none → (s.startWord c).admits (decHead w) (wildSlot w (s.startWord c).bedPos) [] = true →
        (s.startWord c).takes (decHead w) = true →
        exec (.add c h f) s = .next ((s.atWord c p).wordFault c [(.illegal, (s.startWord c).pc)])) ∧
      (decodeFletegus c w ≠ none → exec (.add c h f) s = .next s)) ∧
    (∀ cause a,
      let t := (s.atWord c p).wordFault c [(cause, a)]
      ((mget t.progs (s.core c).prog).isNone = true ∨
        (mget t.progs (s.core c).prog).any (fun q => q.stopping.any (fun x => x.1 == Code.programFault)) = true))

/-- Table 6.9, R143, R167: lane operations on two vector registers and VFMA, for every type the table gives them. -/
def Obligations.VectorLaneOps : Prop :=
  ∀ (c : Nat) (h : Head) (f : FmtR) (s : State) (p : Prog),
    let k := s.wordCore c Slot.vector [wV f.rd]
    let m := k.snap.preg f.mask.toNat
    let x (i : Nat) := lane (k.snap.vreg f.ra) i
    let y (i : Nat) := lane (k.snap.vreg f.rb) i
    let z (i : Nat) := lane (k.snap.vreg f.rc) i
    (f.ty = 0 → vecLegal f [0] false true = true →
      ∀ e ∈ ([(.vadd, fun i => BitVec.ofInt 32 ((x i).toInt + (y i).toInt)), (.vsub, fun i => BitVec.ofInt 32 ((x i).toInt - (y i).toInt)),
          (.vmul, fun i => BitVec.ofInt 32 ((x i).toInt * (y i).toInt)),
          (.vfma, fun i => BitVec.ofInt 32 ((x i).toInt * (y i).toInt + (z i).toInt)),
          (.vmin, fun i => BitVec.ofInt 32 (min (x i).toInt (y i).toInt)), (.vmax, fun i => BitVec.ofInt 32 (max (x i).toInt (y i).toInt)),
          (.vand, fun i => x i &&& y i), (.vor, fun i => x i ||| y i), (.vxor, fun i => x i ^^^ y i),
          (.vshl, fun i => BitVec.ofNat 32 ((x i).toNat * 2 ^ ((y i).toNat % 32))), (.vshr, fun i => BitVec.ofNat 32 ((x i).toNat / 2 ^ ((y i).toNat % 32))),
          (.vsra, fun i => BitVec.ofInt 32 ((x i).toInt / 2 ^ ((y i).toNat % 32)))] : List ((Nat → Head → FmtR → Instr) × (Nat → W32))),
        s.Issues (e.1 c h f) c h Slot.vector [wV f.rd] p →
        ∃ v : BitVec 2048, exec (e.1 c h f) s = .next (s.wordDone c h p { k with regs := { k.regs with v := mput k.regs.v f.rd.toNat v } }) ∧
          ∀ i < 64, lane v i = if m.getLsbD i then e.2 i else lane (k.snap.vreg f.rd) i) ∧
    (f.ty ≠ 0 → vecLegal f [1, 2] false true = true →
      let t := if f.ty = 2 then binary16 else binary32
      let w (a : W32) : Nat := if f.ty = 2 then a.toNat % 65536 else a.toNat
      ∀ e ∈ ([(.vadd, fun i => t.add (w (x i)) (w (y i))), (.vsub, fun i => t.sub (w (x i)) (w (y i))), (.vmul, fun i => t.mul (w (x i)) (w (y i))),
          (.vfma, fun i => t.fma (w (x i)) (w (y i)) (w (z i))), (.vmin, fun i => t.minMax false (w (x i)) (w (y i))),
          (.vmax, fun i => t.minMax true (w (x i)) (w (y i)))] : List ((Nat → Head → FmtR → Instr) × (Nat → Nat × Nat))),
        s.Issues (e.1 c h f) c h Slot.vector [wV f.rd] p →
        ∃ (v : BitVec 2048) (fl : Nat),
          exec (e.1 c h f) s = .next (s.wordDone c h p
            { k with regs := { k.regs with v := mput k.regs.v f.rd.toNat v, vstat := k.regs.vstat ||| BitVec.ofNat 32 (fl % 64) } }) ∧
          (∀ i < 64, lane v i = if m.getLsbD i then BitVec.ofNat 32 (e.2 i).1 else lane (k.snap.vreg f.rd) i) ∧
          ∀ b, fl.testBit b = true ↔ ∃ i < 64, m.getLsbD i = true ∧ (e.2 i).2.testBit b = true)

/-- Table 6.9: VCMP*, VSEL, VBCS, VIDX, VEXT and VINS; of type H16 they take the low half of a lane and leave 0 above it (R112). That VIDX
adds integers in every type is the model's choice (log entry 53). -/
def Obligations.VectorMoves : Prop :=
  ∀ (c : Nat) (h : Head) (f : FmtR) (s : State) (p : Prog),
    let narrow (x : W32) : W32 := if f.ty = 2 then BitVec.ofNat 32 (x.toNat % 65536) else x
    (f.ty = 0 → f.rd.toNat < 8 → vecLegal f [0] false true = true →
      let k := s.wordCore c Slot.vector [wP f.rd.toNat]
      let x (i : Nat) := lane (k.snap.vreg f.ra) i
      let y (i : Nat) := lane (k.snap.vreg f.rb) i
      ∀ e ∈ ([(.vcmpeq, fun i => decide (x i = y i)), (.vcmplt, fun i => decide ((x i).toInt < (y i).toInt)),
          (.vcmple, fun i => decide ((x i).toInt ≤ (y i).toInt))] : List ((Nat → Head → FmtR → Instr) × (Nat → Bool))),
        s.Issues (e.1 c h f) c h Slot.vector [wP f.rd.toNat] p →
        ∃ v : W64, exec (e.1 c h f) s = .next (s.wordDone c h p { k with regs := if f.rd = 0 then k.regs else
            { k.regs with p := mput k.regs.p f.rd.toNat v } }) ∧
          ∀ i < 64, v.getLsbD i = if (k.snap.preg f.mask.toNat).getLsbD i then e.2 i else (k.snap.preg f.rd.toNat).getLsbD i) ∧
    (vecLegal f [0, 1, 2] false true = true →
      let k := s.wordCore c Slot.vector [wV f.rd]
      ∀ e ∈ ([(.vsel, decide (f.rc.toNat < 8), fun i => narrow (if (k.snap.preg f.rc.toNat).getLsbD i then lane (k.snap.vreg f.ra) i else lane (k.snap.vreg f.rb) i)),
          (.vbcs, true, fun _ => narrow (k.snap.sreg f.ra)), (.vidx, true, fun i => narrow (k.snap.sreg f.ra + BitVec.ofNat 32 i))] :
            List ((Nat → Head → FmtR → Instr) × Bool × (Nat → W32))),
        e.2.1 = true → s.Issues (e.1 c h f) c h Slot.vector [wV f.rd] p →
        ∃ v : BitVec 2048, exec (e.1 c h f) s = .next (s.wordDone c h p { k with regs := { k.regs with v := mput k.regs.v f.rd.toNat v } }) ∧
          ∀ i < 64, lane v i = if (k.snap.preg f.mask.toNat).getLsbD i then e.2.2 i else lane (k.snap.vreg f.rd) i) ∧
    (vecLegal f [0, 1, 2] false false = true → s.Issues (.vext c h f) c h Slot.vector [wS f.rd] p →
      let k := s.wordCore c Slot.vector [wS f.rd]
      exec (.vext c h f) s = .next (s.wordDone c h p
        { k with regs := k.regs.setS f.rd (narrow (lane (k.snap.vreg f.ra) ((k.snap.sreg f.rb).toNat % 64))) })) ∧
    (vecLegal f [0, 1, 2] false false = true → s.Issues (.vins c h f) c h Slot.vector [wV f.rd] p →
      let k := s.wordCore c Slot.vector [wV f.rd]
      ∃ v : BitVec 2048, exec (.vins c h f) s = .next (s.wordDone c h p { k with regs := { k.regs with v := mput k.regs.v f.rd.toNat v } }) ∧
        ∀ i < 64, lane v i = if i = (k.snap.sreg f.rb).toNat % 64 then narrow (k.snap.sreg f.ra) else lane (k.snap.vreg f.rd) i)

/-- R101, R168: reductions over the lanes of p[MK]. -/
def Obligations.VectorReductions : Prop :=
  ∀ (c : Nat) (h : Head) (f : FmtR) (s : State) (p : Prog),
    (let k := s.wordCore c Slot.vector [wS f.rd]
      let m := k.snap.preg f.mask.toNat
      let x (i : Nat) := lane (k.snap.vreg f.ra) i
      let on := (List.range 64).filter (fun i => m.getLsbD i)
      (f.ty = 0 → vecLegal f [0] false true = true →
        ∃ a b d : W32,
          (s.Issues (.vredadd c h f) c h Slot.vector [wS f.rd] p → exec (.vredadd c h f) s = .next (s.wordDone c h p { k with regs := k.regs.setS f.rd a })) ∧
          (s.Issues (.vredmax c h f) c h Slot.vector [wS f.rd] p → exec (.vredmax c h f) s = .next (s.wordDone c h p { k with regs := k.regs.setS f.rd b })) ∧
          (s.Issues (.vredmin c h f) c h Slot.vector [wS f.rd] p → exec (.vredmin c h f) s = .next (s.wordDone c h p { k with regs := k.regs.setS f.rd d })) ∧
          a = BitVec.ofNat 32 (on.foldl (fun t i => t + (x i).toNat) 0) ∧
          b.toInt = on.foldl (fun t i => max t (x i).toInt) (-2 ^ 31) ∧ d.toInt = on.foldl (fun t i => min t (x i).toInt) (2 ^ 31 - 1)) ∧
      (f.ty ≠ 0 → vecLegal f [1, 2] false true = true →
        let t := if f.ty = 2 then binary16 else binary32
        let enter (ident : Nat) : List Nat := (List.range 64).map (fun i => if m.getLsbD i then (if f.ty = 2 then (x i).toNat % 65536 else (x i).toNat) else ident)
        ∀ e ∈ ([(.vredadd, reduceTree t.add (enter 0)), (.vredmax, reduceTree (t.minMax true) (enter (t.inf true))),
            (.vredmin, reduceTree (t.minMax false) (enter (t.inf false)))] : List ((Nat → Head → FmtR → Instr) × (Nat × Nat))),
          s.Issues (e.1 c h f) c h Slot.vector [wS f.rd] p →
          exec (e.1 c h f) s = .next (s.wordDone c h p
            { k with regs := (k.regs.setS f.rd (BitVec.ofNat 32 e.2.1)).raise e.2.2 }))) ∧
    (f.ty = 0 → f.rd.toNat % 2 = 0 → vecLegal f [0] false true = true → s.Issues (.vredaddx c h f) c h Slot.vector [wS f.rd, wS (f.rd + 1)] p →
      let k := s.wordCore c Slot.vector [wS f.rd, wS (f.rd + 1)]
      let sum := (List.range 64).foldl (fun t i => if (k.snap.preg f.mask.toNat).getLsbD i then t + (lane (k.snap.vreg f.ra) i).toNat else t) 0
      let v := ((k.snap.sreg f.rd).toNat + 2 ^ 32 * (k.snap.sreg (f.rd + 1)).toNat + sum) % 2 ^ 64
      exec (.vredaddx c h f) s = .next (s.wordDone c h p
        { k with regs := (k.regs.setS f.rd (BitVec.ofNat 32 v)).setS (f.rd + 1) (BitVec.ofNat 32 (v / 2 ^ 32)) }))

/-- Table 6.10: conversions, logarithms and re-quantization. The masked forms of VLOG2 and VEXP2 need version 1.2. -/
def Obligations.VectorConversions : Prop :=
  ∀ (c : Nat) (h : Head) (f : FmtR) (s : State) (p : Prog),
    let k := s.wordCore c Slot.vector [wV f.rd]
    let t := if f.ty = 2 then binary16 else binary32
    let x (i : Nat) := lane (k.snap.vreg f.ra) i
    let w (i : Nat) : Nat := if f.ty = 2 then (x i).toNat % 65536 else (x i).toNat
    let put (v : BitVec 2048) (fl : W32) : State :=
      s.wordDone c h p { k with regs := { k.regs with v := mput k.regs.v f.rd.toNat v, vstat := k.regs.vstat ||| fl } }
    (f.ty ≠ 0 → vecLegal f [1, 2] false true = true →
      ∀ e ∈ ([(.vlog2, decide (f.mask = 0) || decide (2 ≤ p.minor), fun i => BitVec.ofNat 32 (t.log2 (w i)).1),
          (.vexp2, decide (f.mask = 0) || decide (2 ≤ p.minor), fun i => BitVec.ofNat 32 (t.exp2 (w i)).1),
          (.vcvtw, true, fun i => BitVec.ofNat 32 (t.ofInt (x i).toInt (rowExp (k.snap.sreg f.rb))).1),
          (.vcvtf, true, fun i => BitVec.ofNat 32
            (if f.ty = 2 then binary32.convert binary16 (x i).toNat else binary16.convert binary32 ((x i).toNat % 65536)).1),
          (.vcvtif, true, fun i => BitVec.ofNat 32 (t.ofInt (x i).toInt 0).1),
          (.vcvtfi, true, fun i => (t.toI32 (w i)).1)] : List ((Nat → Head → FmtR → Instr) × Bool × (Nat → W32))),
        e.2.1 = true → s.Issues (e.1 c h f) c h Slot.vector [wV f.rd] p →
        ∃ v fl, exec (e.1 c h f) s = .next (put v fl) ∧
          ∀ i < 64, lane v i = if (k.snap.preg f.mask.toNat).getLsbD i then e.2.2 i else lane (k.snap.vreg f.rd) i) ∧
    (vecLegal f [0, 1, 2] true false = true → s.Issues (.vlog2c c h f) c h Slot.vector [wV f.rd] p →
      ∃ v fl, exec (.vlog2c c h f) s = .next (put v fl) ∧
        ∀ i < 64, lane v i = BitVec.ofNat 32 (codeLog2 (!f.lf) (pairCode f.lf (k.snap.vreg f.ra) i).1 (pairCode f.lf (k.snap.vreg f.ra) i).2).1) ∧
    (f.ty ≠ 0 → vecLegal f [1, 2] true false = true → s.Issues (.vcvtc c h f) c h Slot.vector [wV f.rd] p →
      ∃ v fl, exec (.vcvtc c h f) s = .next (put v fl) ∧
        ∀ i < 64, lane v i =
          let q := pairCode f.lf (k.snap.vreg f.ra) i
          BitVec.ofNat 32 (codeToFloat t (if f.lf then lift q.1 else q.1) q.2).1) ∧
    (f.ty ≠ 0 → vecLegal f [1, 2] true false = true → s.Issues (.vrqf c h f) c h Slot.vector [wV f.rd] p →
      let q := (List.range 64).map (fun i => (requantInput t (w i)).1)
      let b0 := requant (!f.lf) (q.take 32)
      let b1 := requant (!f.lf) (q.drop 32)
      ∃ fl, exec (.vrqf c h f) s = .next (put (pairLayout f.lf (b0.codes, expByte b0.exp) (b1.codes, expByte b1.exp)) fl)) ∧
    (vecLegal f [0, 1, 2] true false = true → s.Issues (.vrqw c h f) c h Slot.vector [wV f.rd] p →
      let q := (List.range 64).map (fun i => ((x i).toInt, rowExp (k.snap.sreg f.rb)))
      let b0 := requant (!f.lf) (q.take 32)
      let b1 := requant (!f.lf) (q.drop 32)
      ∃ fl, exec (.vrqw c h f) s = .next (put (pairLayout f.lf (b0.codes, expByte b0.exp) (b1.codes, expByte b1.exp)) fl))

/-- R103, R104, R170: the softmax group completes, changes only its destination and VSTAT, and SMXX zeroes invalid lanes; SMXE writes the
exponential of R103 wherever the rule states one. -/
def Obligations.SoftmaxWords : Prop :=
  ∀ (c : Nat) (h : Head) (f : FmtR) (s : State) (p : Prog),
    (let k := s.wordCore c Slot.vector [wV f.rd]
      ∀ e ∈ ([(.smxx, vecLegal f [1] false true), (.smxe, vecLegal f [0, 1, 2] false true),
          (.smxc, vecLegal f [0, 1, 2] false true && decide (f.rb.toNat % 2 = 0)),
          (.smxcl, vecLegal f [0, 1, 2] false true && decide (2 ≤ p.minor))] : List ((Nat → Head → FmtR → Instr) × Bool)),
        e.2 = true → s.Issues (e.1 c h f) c h Slot.vector [wV f.rd] p →
        ∃ v fl, exec (e.1 c h f) s =
          .next (s.wordDone c h p { k with regs := { k.regs with v := mput k.regs.v f.rd.toNat v, vstat := k.regs.vstat ||| fl } })) ∧
    (s.Issues (.smxe c h f) c h Slot.vector [wV f.rd] p → vecLegal f [0, 1, 2] false true = true →
      let k := s.wordCore c Slot.vector [wV f.rd]
      ∃ v fl, exec (.smxe c h f) s =
          .next (s.wordDone c h p { k with regs := { k.regs with v := mput k.regs.v f.rd.toNat v, vstat := k.regs.vstat ||| fl } }) ∧
        ∀ i < 64, ((k.snap.preg f.mask.toNat).getLsbD i = false → lane v i = 0) ∧
          (∀ r, (k.snap.preg f.mask.toNat).getLsbD i = true → softExp (lane (k.snap.vreg f.ra) i).toNat = some r → lane v i = r.1)) ∧
    (s.Issues (.smxx c h f) c h Slot.vector [wV f.rd] p → vecLegal f [1] false true = true →
      let k := s.wordCore c Slot.vector [wV f.rd]
      ∃ v fl, exec (.smxx c h f) s =
          .next (s.wordDone c h p { k with regs := { k.regs with v := mput k.regs.v f.rd.toNat v, vstat := k.regs.vstat ||| fl } }) ∧
        ∀ i < 64, lane v i = if (k.snap.preg f.mask.toNat).getLsbD i then
          BitVec.ofNat 32 (binary32.mul (binary32.sub (lane (k.snap.vreg f.ra) i).toNat (k.snap.sreg f.rb).toNat).1 (k.snap.sreg f.rc).toNat).1 else 0) ∧
    (s.Issues (.smxl c h f) c h Slot.vector [wS f.rd] p → vecLegal f [0, 1, 2] false true = true → f.ra.toNat % 2 = 0 → 2 ≤ p.minor →
      let k := s.wordCore c Slot.vector [wS f.rd]
      ∃ v fl, exec (.smxl c h f) s = .next (s.wordDone c h p { k with regs := { k.regs.setS f.rd v with vstat := k.regs.vstat ||| fl } }))

/-- R171 to R174: every matrix instruction, with legal fields and runs that the core may access. The rest of the core stays as it is. -/
def Obligations.MatrixWords : Prop :=
  ∀ (c : Nat) (h : Head) (f : FmtM) (s : State) (p : Prog),
    let T := f.at_.toNat
    let slots := (s.job p.ctx.job).slice.slots
    let n := f.nb.toNat
    let mem := (s.envOf c p).mem
    (let k := s.wordCore c Slot.matrix []
      let t := k.regs.tile T
      let a := (k.snap.sreg f.sa).toNat; let b := (k.snap.sreg f.sb).toNat; let e := (k.snap.sreg f.sc).toNat
      (mtxLegal f false false false = true → runFaults slots [(a, 1056 * blocksOf f, 32), (b, 1056 * blocksOf f, 32)] = [] →
        s.Issues (.mout c h f) c h Slot.matrix [] p →
        ∃ (t' : Tile) (fl : Bool), exec (.mout c h f) s = .next (s.wordDone c h p { k with regs := (k.regs.setTile T t').raiseRange T fl }) ∧
          t'.exps = t.exps ∧ ∀ i < 32, ∀ j < 32, t'.at i j = t.at i j +
            ((List.range (blocksOf f)).flatMap (fun K => (List.range 32).map (fun x =>
              (termOf (b8 mem (a + 1024 * K + 32 * i + x)) (s8 mem (a + 1024 * blocksOf f + 32 * K + i))
                (b8 mem (b + 1024 * K + 32 * j + x)) (s8 mem (b + 1024 * blocksOf f + 32 * K + j)) (t.row i)).1))).sum) ∧
      (mtxLegal f true false false = true → f.opf = 0 → runFaults slots (mrowRuns f a b e (blocksOf f)) = [] → s.Issues (.mrow c h f) c h Slot.matrix [] p →
        ∃ (t' : Tile) (fl : Bool), exec (.mrow c h f) s = .next (s.wordDone c h p { k with regs := (k.regs.setTile T t').raiseRange T fl }) ∧
          t'.exps = t.exps ∧ (∀ i, i ≠ f.row.toNat → ∀ j < 32, t'.at i j = t.at i j) ∧
          ∀ j < 32, t'.at f.row.toNat j = t.at f.row.toNat j +
            ((List.range (blocksOf f)).flatMap (fun K => (List.range 32).map (fun i =>
              (termOf (b8 mem (a + 256 * (K / 2) + 32 * (K % 2) + i)) (s8 mem (a + 256 * (K / 2) + 64 + K % 2))
                (b8 mem (b + 1024 * K + 32 * j + i)) (s8 mem (b + 1024 * blocksOf f + 32 * K + j)) (t.row f.row.toNat)).1))).sum) ∧
      (mtxLegal f true false false = true → (f.opf = 1 ∧ 1 ≤ n ∧ n ≤ 4 ∨ f.opf = 2 ∧ 1 ≤ n ∧ n ≤ 2) →
        runFaults slots (mrowRuns f a b e (blocksOf f)) = [] → s.Issues (.mrow c h f) c h Slot.matrix [] p →
        ∃ (t' : Tile) (fl : Bool), exec (.mrow c h f) s = .next (s.wordDone c h p { k with regs := (k.regs.setTile T t').raiseRange T fl }) ∧
          t'.exps = t.exps ∧ ∀ i, i ≠ f.row.toNat → ∀ j < 32, t'.at i j = t.at i j) ∧
      (mtxLegal f false false false = true → f.sb = 0 → f.sc = 0 → f.nb = 0 → f.row = 0 → f.q = 0 → f.pd = 0 → s.Issues (.mclr c h f) c h Slot.matrix [] p →
        ∃ t' : Tile, exec (.mclr c h f) s = .next (s.wordDone c h p { k with regs := (k.regs.setTile T t').clearTile T }) ∧
          (∀ i j, t'.at i j = 0) ∧ ∀ r < 32, t'.row r = ((lane (k.snap.vreg f.sa) r).extractLsb' 0 16).toInt)) ∧
    (rowsLegal f = true →
      let k := s.wordCore c Slot.matrix (flWrites f)
      let t := k.regs.tile T
      let sa := k.snap.sreg f.sa; let sb := k.snap.sreg f.sb; let sc := k.snap.sreg f.sc
      let at_ (i : Nat) : Nat := (sa + BitVec.ofNat 32 i * sb).toNat
      let exp (i stride : Nat) : Nat := (sc + BitVec.ofNat 32 i * BitVec.ofNat 32 stride).toNat
      let w (i j : Nat) := readout (t.at (f.row.toNat + i) j) f.q.toNat
      let flag (r : CoreRegs) : CoreRegs := if f.fl then r.setP f.pd.toNat (if r.tileFlag T then BitVec.allOnes 64 else 0) else r
      let sat := (List.range n).any (fun i => (List.range 32).any (fun j => (w i j).2))
      (mtxLegal f false false true = true → rowFaults slots sa sb n 128 32 ++ expFaults slots sc 2 n 2 2 = [] →
        s.Issues (.mrdw c h f) c h Slot.matrix (flWrites f) p →
        exec (.mrdw c h f) s = .next (s.wordDone c h p { k with
          regs := flag (k.regs.raiseSat T sat)
          late := k.late ++ (List.range n).flatMap (fun i =>
            [.store (at_ i) ((List.range 32).flatMap (fun j => leBytes 4 (w i j).1.toNat)),
             .store (exp i 2) (leBytes 2 (BitVec.ofInt 16 (t.row (f.row.toNat + i) + f.q.toNat)).toNat)]) })) ∧
      (mtxLegal f false false true = true → f.q = 0 → rowFaults slots sa sb n 256 32 ++ expFaults slots sc 2 n 2 2 = [] →
        s.Issues (.mrdr c h f) c h Slot.matrix (flWrites f) p →
        exec (.mrdr c h f) s = .next (s.wordDone c h p { k with
          regs := flag k.regs
          late := k.late ++ (List.range n).flatMap (fun i =>
            [.store (at_ i) ((List.range 32).flatMap (fun j => leBytes 8 ((t.at (f.row.toNat + i) j).signExtend 64).toNat)),
             .store (exp i 2) (leBytes 2 (BitVec.ofInt 16 (t.row (f.row.toNat + i))).toNat)]) })) ∧
      (mtxLegal f true true true = true → f.opf ≠ 3 →
        rowFaults slots sa sb n (if f.lf then 24 else 32) (if f.lf then 8 else 32) ++ expFaults slots sc (mrqStride f sb) n 1 1 = [] →
        s.Issues (.mrq c h f) c h Slot.matrix (flWrites f) p →
        let q (i : Nat) := requant (!f.lf) ((List.range 32).map (fun j => ((w i j).1.toInt, t.row (f.row.toNat + i) + f.q.toNat)))
        exec (.mrq c h f) s = .next (s.wordDone c h p { k with
          regs := flag ((k.regs.raiseSat T sat).raise (if (List.range n).any (fun i => (q i).sat) then fSat else 0))
          late := k.late ++ (List.range n).flatMap (fun i =>
            [.store (at_ i) (if f.lf then l6Pack (q i).codes else (q i).codes.map (BitVec.ofNat 8)),
             .store (sc + BitVec.ofNat 32 i * mrqStride f sb).toNat [BitVec.ofInt 8 (q i).exp]]) })) ∧
      (mtxLegal f false false true = true → rowFaults slots sa sb n 256 32 ++ expFaults slots sc 2 n 2 2 = [] →
        s.Issues (.mrfill c h f) c h Slot.matrix (flWrites f) p →
        ∃ t' : Tile, exec (.mrfill c h f) s = .next (s.wordDone c h p { k with regs := flag (k.regs.setTile T t') }) ∧
          ∀ i j, j < 32 → t'.at i j = if f.row.toNat ≤ i ∧ i < f.row.toNat + n then
              BitVec.ofNat 48 (leNat (Memory.read mem (at_ (i - f.row.toNat) + 8 * j) 8)) else t.at i j) ∧
      (mtxLegal f false false true = true → f.sc = 0 → rowFaults slots sa sb n 256 32 = [] → s.Issues (.mradd c h f) c h Slot.matrix (flWrites f) p →
        ∃ t' : Tile, exec (.mradd c h f) s = .next (s.wordDone c h p { k with regs := flag (k.regs.setTile T t') }) ∧ t'.exps = t.exps ∧
          ∀ i j, j < 32 → t'.at i j = if f.row.toNat ≤ i ∧ i < f.row.toNat + n then
              t.at i j + BitVec.ofNat 48 (leNat (Memory.read mem (at_ (i - f.row.toNat) + 8 * j) 8)) else t.at i j))

/-- R164, R176: LDW, VLD, STW and VST; and what the issue of a bed with one store leaves of the core's store. A load reads the store with the
grains that stand in it (R50, R53). -/
def Obligations.LoadsAndStores : Prop :=
  ∀ (c : Nat) (h : Head) (f : FmtR) (s : State) (p : Prog), memLegal f = true →
    let slots := (s.job p.ctx.job).slice.slots
    let mem := (s.envOf c p).mem
    let A (k : Core) : Nat := (k.snap.sreg f.ra + f.imm16.signExtend 32).toNat
    let clear (a n : Nat) : Prop := p.codeBase + p.code.length ≤ a ∨ a + n ≤ p.codeBase
    (f.rb = 0 → s.Issues (.ldw c h f) c h Slot.memory [wS f.rd] p →
      let k := s.wordCore c Slot.memory [wS f.rd]
      accessFaults slots (A k) 4 4 = [] →
      exec (.ldw c h f) s = .next (s.wordDone c h p
        { k with regs := k.regs.setS f.rd (BitVec.ofNat 32 (leNat (Memory.read mem (A k) 4))) })) ∧
    (f.rb = 0 → s.Issues (.vld c h f) c h Slot.memory [wV f.rd] p →
      let k := s.wordCore c Slot.memory [wV f.rd]
      accessFaults slots (A k) 256 32 = [] →
      exec (.vld c h f) s = .next (s.wordDone c h p
        { k with regs := k.regs.setV f.rd (BitVec.ofNat 2048 (leNat (Memory.read mem (A k) 256))) })) ∧
    (f.rd = 0 →
      let k := s.wordCore c Slot.memory []
      (s.Issues (.stw c h f) c h Slot.memory [] p → accessFaults slots (A k) 4 4 = [] → clear (A k) 4 →
        exec (.stw c h f) s = .next (s.wordDone c h p { k with late := k.late ++ [.store (A k) (leBytes 4 (k.snap.sreg f.rb).toNat)] }) ∧
        (k.late = [] → h.endBed = true → Memory.wf (some 0) k.store = true → ∀ t, exec (.stw c h f) s = .next t → (t.core c).regs = k.regs ∧
          (∀ x, x < A k ∨ A k + 4 ≤ x → Memory.get (t.core c).store x = Memory.get k.store x) ∧
          leNat (Memory.read (t.core c).store (A k) 4) = (k.snap.sreg f.rb).toNat)) ∧
      (s.Issues (.vst c h f) c h Slot.memory [] p → accessFaults slots (A k) 256 32 = [] → clear (A k) 256 →
        exec (.vst c h f) s = .next (s.wordDone c h p { k with late := k.late ++ [.store (A k) (leBytes 256 (k.snap.vreg f.rb).toNat)] })))

/-- R134, R147, R176 to R179: what leaves a core. -/
def Obligations.CopiesAndSends : Prop :=
  ∀ (c : Nat) (h : Head) (f : FmtP) (s : State) (p : Prog), f.rsv = 0 →
    let issues (i : Instr) : Prop := s.Issues i c h Slot.memory [] p
    let e := s.envOf c p
    let k := s.wordCore c Slot.memory []
    let a := (k.snap.sreg f.rl).toNat; let t := k.snap.sreg f.rt; let n := 64 * (f.len.toNat + 1)
    let done (x : Late) : Host.Outcome State Fault Refusal :=
      if 32 ≤ k.inFlight then .next ((s.atWord c p).setCore c { (s.startWord c).rollback with wait := .inflight })
      else .next (s.wordDone c h p { k with late := k.late ++ [x] })
    (issues (.rwr c h f) → f.rx = 0 → f.sem = 0 → f.semd = 0 → f.seg = 0 → accessFaults e.slots a n 64 = [] → remoteFaults e t n = [] →
      exec (.rwr c h f) s = done (.flight (.write (p.core (fld t 20 12)) (fld t 0 20) (Memory.read e.mem a n)))) ∧
    (issues (.rwrv c h f) → f.rl = 0 → f.sem = 0 → f.semd = 0 → f.seg = 0 → f.len = 3 → remoteFaults e t 256 = [] →
      exec (.rwrv c h f) s = done (.flight (.write (p.core (fld t 20 12)) (fld t 0 20) (leBytes 256 (k.snap.vreg f.rx).toNat)))) ∧
    (∀ g : Seg, p.segs[f.seg.toNat]? = some g → t.toNat % 64 = 0 → t.toNat + n ≤ g.size → accessFaults e.slots a n 64 = [] → f.rx = 0 → f.semd = 0 →
      (issues (.hld c h f) → g.rd = true → exec (.hld c h f) s = done (.flight (.load (g.base + t.toNat) a n f.sem.toNat none))) ∧
      (issues (.hst c h f) → g.wr = true → exec (.hst c h f) s = done (.flight (.store (g.base + t.toNat) (Memory.read e.mem a n) f.sem.toNat)))) ∧
    (issues (.send c h f) →
      let x := k.snap.sreg f.rx
      f.seg = 0 → 1 ≤ p.minor → fld x 28 4 = 0 → accessFaults e.slots a n 64 = [] → fld t 0 20 % 64 = 0 → fld t 0 20 + n ≤ 0xC0000 →
      e.s.routeErr e.job (fld x 0 16) = none → e.s.jobTag e.job ≠ 0 →
      exec (.send c h f) s = done (.send (fld x 0 16) (fld x 16 12) (fld t 0 20) f.semd.toNat f.sem.toNat (Memory.read e.mem a n)
        (faultRecord k k.bedPos .fabric (fld t 0 20)))) ∧
    (issues (.put c h f) → f.rt = 0 → f.rx = 0 → f.sem = 0 → f.semd = 0 → f.seg = 0 → accessFaults e.slots a (32 * (f.len.toNat + 1)) 32 = [] →
      exec (.put c h f) s = .next (if (e.s.pumpDescs.filter (fun x => x.2.core == c && !x.2.taken)).length + (f.len.toNat + 1) ≤ 64 then
          s.wordDone c h p { k with late := k.late ++ [.put a (f.len.toNat + 1)] }
        else (s.atWord c p).setCore c { (s.startWord c).rollback with wait := .puts }))

/-- R141, R142, R144, R146, R180, R181: the SYN instructions. -/
def Obligations.Synchronisation : Prop :=
  ∀ (c : Nat) (h : Head) (f : FmtI) (s : State) (p : Prog), f.rsv = 0 → f.rd = 0 →
    let issues (i : Instr) : Prop := s.Issues i c h Slot.memory [] p
    let k := s.wordCore c Slot.memory []
    let n := fld f.imm32 0 5; let v := fld f.imm32 5 8
    let leave (x : Late) := s.wordDone c h p { k with late := k.late ++ [x] }
    (f.ra = 0 → f.imm32 = 0 → (issues (.fenceL c h f) → exec (.fenceL c h f) s = .next (leave .fenceL)) ∧
      (issues (.fenceM c h f) → exec (.fenceM c h f) s = .next (leave .fenceM))) ∧
    (issues (.seminc c h f) → f.ra = 0 → f.imm32.toNat < 2 ^ 13 → v ≠ 0 → exec (.seminc c h f) s = .next (leave (.inc n v))) ∧
    (issues (.seminc c h f) → f.imm32.toNat < 2 ^ 14 → f.imm32.getLsbD 13 = true → v ≠ 0 → (k.snap.sreg f.ra).toNat < p.ncores →
      exec (.seminc c h f) s = .next (leave (.flight (.inc (p.core (k.snap.sreg f.ra).toNat) n v)))) ∧
    (issues (.seminc c h f) → f.imm32.toNat < 2 ^ 14 → f.imm32.getLsbD 13 = true → v ≠ 0 → p.ncores ≤ (k.snap.sreg f.ra).toNat →
      exec (.seminc c h f) s = .next ((s.atWord c p).wordFault c [(.coreset, (k.snap.sreg f.ra).toNat)])) ∧
    (issues (.semwait c h f) → f.ra = 0 → f.imm32.toNat < 2 ^ 13 → v ≠ 0 →
      exec (.semwait c h f) s = .next (if v ≤ (mgetD k.sems n 0).toNat then leave (.dec n v)
        else (s.atWord c p).setCore c { (s.startWord c).rollback with wait := .sem n v })) ∧
    (issues (.bar c h f) → f.ra = 0 → f.imm32.toNat < 8 → (f.imm32.toNat < 4 ∨ 1 ≤ p.minor) → exec (.bar c h f) s = .next (leave (.bar f.imm32.toNat)))

/-- R31, Table 1.1. Opening writes no byte of HBM unless an entry leaves the cache for the new one (R12). -/
def Obligations.SessionsOpen : Prop :=
  ∀ (s : State) (job well : Nat) (d : Desc) (m : Model), s.Serves kOpenSession job well d →
    let s0 := s.takenUp job well
    s.sessions.length < 2 ^ 24 → s0.sessCount job < fld (s0.reg (Reg.jobQuota job)) 0 25 → s0.modelOf job (dfld d 16 0 8) = some m →
    (dfld d 20 0 16 = 0xFFFF ∨ ((s0.job job).adapterCurrent (dfld d 20 0 16)).isSome = true) →
    (dfld d 22 0 16 = 0 ∨ ((mget (s0.job job).grammars (dfld d 22 0 16)).bind ByteObj.cur).isSome = true) →
    ∃ (i : Nat) (t : State), i < 2 ^ 24 ∧ (s.sess i).state = .free ∧
      exec (.openSession job well d) s = .next (t.complete (descCtx kOpenSession job well d) Code.ok i 0 i) ∧
      (t.sess i).state = .open ∧ (t.sess i).job = job ∧ (t.sess i).model = dfld d 16 0 8 ∧ (t.sess i).prio = dfld d 16 8 3 ∧
      (t.sess i).pinned = bit d 139 ∧ (t.sess i).eventWell = dfld d 16 12 4 ∧ (t.sess i).ownerEpoch = 1 ∧ (t.sess i).len = 0 ∧
      (t.sess i).retained = 0 ∧ (t.sess i).adapter = dfld d 20 0 16 ∧ (t.sess i).grammar = dfld d 22 0 16 ∧
      (t.sess i).seed = BitVec.ofNat 64 (dfld d 24 0 64) ∧ (t.sess i).curReq = 0 ∧ (t.sess i).conf = (s.job job).conf ∧
      (t.sess i).expiry = (s.now + min (if dfld d 32 0 32 = 0 then fld (s.reg (Reg.jobTtl job)) 0 32 else dfld d 32 0 32) 100000000 * 1000000) % 2 ^ 48 ∧
      (t.aux i).layers = m.layers ∧ (t.aux i).kvh = m.kvh ∧ (t.aux i).modelDigest = m.digest ∧
      (∀ k, k ≠ i → t.sess k = s.sess k) ∧ t.reqs = s.reqs ∧ t.host = s.host ∧
      (s.sesBypass = none → s.sesCache.length < 65536 → t.hbm = s.hbm)

/-- R35, R36, Table 1.3. A CLOSE of a RUNNING or PAUSED session waits, beside those that wait already, for its request to end. -/
def Obligations.SessionsClose : Prop :=
  ∀ (s : State) (job well : Nat) (d : Desc),
    (s.Serves kClose job well d →
      let i := dfld d 16 0 24
      let c := descCtx kClose job well d
      let s1 := ((s.takenUp job well).opened i).touch i
      (s.takenUp job well).Names job i → s1.gone i = false →
      ((s1.aux i).closing = [] → (s1.sess i).state = .open ∨ (s1.sess i).state = .toolWait ∨ (s1.sess i).state = .parked →
        gTier (s1.sess i).root ≠ 2 → gTier (s1.sess i).root ≠ 4 → (s1.aux i).peerExtent = none → (s1.aux i).waitTrim = false →
        (s1.aux i).waitPeer = false → (s1.aux i).move = none →
        ∃ t : State, exec (.close job well d) s = .next (t.complete c Code.ok 0 0 i) ∧ (t.sess i).state = .free ∧ (∀ k, k ≠ i → t.sess k = s.sess k) ∧
          t.reqs = s.reqs ∧ t.host = s.host ∧ (s.sesBypass = none → s.sesCache.length < 65536 → t.hbm = s.hbm)) ∧
      ((s1.sess i).state = .running ∨ (s1.sess i).state = .paused →
        exec (.close job well d) s = .next ((s1.setAux i { s1.aux i with closing := (s1.aux i).closing ++ [c] }).endReq ((s1.sess i).curReq % 65536) Code.closed false))) ∧
    (s.Serves kEndRequest job well d →
      let s0 := s.takenUp job well
      let id := dfld d 16 0 32
      let i := id % 65536
      let c := descCtx kEndRequest job well d
      let t := s0.complete c Code.ok 0 id (s0.req i).session
      ((s0.req i).rstate = .free ∨ (s0.req i).gen ≠ id / 65536 → exec (.endRequest job well d) s = .next (s0.complete c Code.staleRequest)) ∧
      ((s0.req i).rstate ≠ .free → (s0.req i).rstate ≠ .ending → (s0.req i).gen = id / 65536 → (s0.req i).job = job →
        exec (.endRequest job well d) s = .next (if t.rstateOf i = .decode ∧ bit d 160 = false then t.endReq i Code.hostEnded true
          else t.discardEnd i Code.hostEnded)))

/-- R32, R533, Tables 1.3 and 1.4: SUBMIT_TURN and TOOL_RETURN. The first two clauses say in plain terms when each accepts a turn of token IDs with the
default parameter block; the third says it for every turn that passes the checks, and what acceptance leaves; the last is TOOL_RETURN with
CANCEL. -/
def Obligations.Turns : Prop :=
  ∀ (s : State) (job well : Nat) (d : Desc),
    let i := dfld d 16 0 24
    let s1 := ((s.takenUp job well).opened i).touch i
    let n := dfld d 40 0 32
    let plain (st : SState) (m : Model) (v : ByteVer) (bs : List Byte) : Prop :=
      (s.takenUp job well).Names job i ∧ (s.sess i).state = st ∧ s1.gone i = false ∧ (s1.aux i).damaged = false ∧ (s1.sess i).grammar = 0 ∧
        (s1.sess i).adapter = 0xFFFF ∧ dfld d 48 0 64 = 0 ∧ dfld d 24 0 21 ≠ 0 ∧ dfld d 16 28 3 ≤ 4 ∧ dfld d 44 16 16 = 0 ∧
        s1.modelOf job (s1.sess i).model = some m ∧ m.damaged = false ∧ m.digest = (s1.aux i).modelDigest ∧
        (mget (s1.job job).vocabs (s1.sess i).model).bind ByteObj.cur = some v ∧ v.damaged = false ∧
        ((s1.job job).compWell (dfld d 44 0 4)).ring.isSome = true ∧ (s1.job job).conf = false ∧ bit d 365 = true ∧ 1 ≤ n ∧
        s1.addrOk job d 32 (4 * n) = true ∧ s1.fetch d 32 (4 * n) = some bs ∧ (∀ k < n, at_ bs (4 * k) 4 < vocabSize v.image) ∧
        (s1.sess i).len + n ≤ 2 ^ 20 ∧ s1.liveReqs < 65536 ∧ s1.reqCount job < fld (s1.reg (Reg.jobQuota job)) 32 17
    let accepted (e : Host.Outcome State Fault Refusal) (c : DescCtx) : Prop :=
      ∃ (u : State) (r : Nat), e = .next (u.record { c with cw := well } Code.ok false 0 (u.reqId r) i) ∧ (s1.req r).rstate = .free ∧
        (u.sess i).state = .running ∧ (u.sess i).curReq = u.reqId r ∧ (u.req r).rstate = .queued ∧ (u.req r).session = i ∧ (u.req r).job = job ∧
        (u.req r).maxNew = dfld d 24 0 21
    (∀ m v bs, s.Serves kSubmitTurn job well d → plain .open m v bs → accepted (exec (.submitTurn job well d) s) (descCtx kSubmitTurn job well d)) ∧
    (∀ m v bs, bit d 367 = false → s.Serves kToolReturn job well d → plain .toolWait m v bs →
      accepted (exec (.toolReturn job well d) s) (descCtx kToolReturn job well d)) ∧
    (∀ (tool : Bool) (p : SState) (t : TurnIn),
      let k := if tool then kToolReturn else kSubmitTurn
      let c := descCtx k job well d
      let s2 : State := { s1 with freeCtr := s1.freeCtr + 1 }
      let e := exec (if tool then .toolReturn job well d else .submitTurn job well d) s
      (tool = true → bit d 367 = false) → s.Serves k job well d → (s.takenUp job well).Names job i → s2.turnState i tool = some p →
      s2.turnCheck job i k.code d true (Config.freeNat s1.freeCtr % 65536) = { got := .ok t, spoilt := false } →
      (p = .parked → e = .next (s2.acceptTurn c i d t p)) ∧
      ((s2.sess i).state = p → p ≠ .parked → (s2.aux i).damaged = false →
        ∃ u : State, e = .next (u.record { c with cw := well } Code.ok false 0 (u.reqId t.index) i) ∧
          (u.sess i).state = .running ∧ (u.sess i).curReq = u.reqId t.index ∧ (u.sess i).len = (s.sess i).len ∧
          (u.req t.index).rstate = .queued ∧ (u.req t.index).job = job ∧ (u.req t.index).session = i ∧
          (u.req t.index).cwell = dfld d 44 0 4 ∧ (u.req t.index).startLen = (s.sess i).len ∧ (u.req t.index).maxNew = dfld d 24 0 21 ∧
          (u.req t.index).arrival = s.now ∧
          (u.req t.index).deadline = (if dfld d 20 0 32 = 0 then 0 else (s.now + dfld d 20 0 32) % 2 ^ 64) ∧
          (u.req t.index).prio = (if bit d 155 then dfld d 16 24 3 else (s.sess i).prio) ∧
          (∀ n, n ≠ i → u.sess n = s.sess n) ∧ (∀ n, n ≠ t.index → u.req n = s.req n))) ∧
    (let k : Kind := { kToolReturn with cwell := none }
     bit d 367 = true → s.Serves k job well d → (s.takenUp job well).Names job i → s1.gone i = false → (s1.sess i).state = .toolWait →
      exec (.toolReturn job well d) s =
        .next ((s1.setSess i { s1.sess i with state := .open }).complete (descCtx k job well d) Code.ok 0 0 i))

/-- R34, R61, R67, R72, R73, R289. A REGISTER_T3 with GRAINS 0 of a region that is not registered completes with OK: the model's choice (log entry 53). -/
def Obligations.Placement : Prop :=
  ∀ (s : State) (job well : Nat) (d : Desc),
    let s0 := s.takenUp job well
    let i := dfld d 16 0 24
    (s.Serves kPark job well d → s0.Names job i →
      let s1 := (s0.opened i).touch i
      let tier := dfld d 16 24 3
      let ttl := s1.ttlPark job (dfld d 20 0 32)
      let c := descCtx kPark job well d
      let s2 := s1.modAux i (fun a => { a with expWait := dfld d 24 0 32, waitFrom := s1.now })
      (tier = 2 ∨ tier = 3) → s1.gone i = false → ((s1.sess i).state = .open ∨ (s1.sess i).state = .toolWait) →
      s1.targetErr job tier (dfld d 28 0 16) = none →
      (bit d 155 = true →
        let wait := dfld d 24 0 32
        let p := s1.reg (Reg.jobPolicy job)
        let ms := if wait = 0 ∨ fld p 16 16 < wait then fld p 0 16 else 2 * wait
        ∃ t : State, exec (.park job well d) s = .next (t.complete c Code.ok 0 0 i) ∧ t.sess i = s1.sess i ∧
          (t.aux i).grace = some { due := s.now + 1000 * ms, tier := tier, region := dfld d 28 0 16, ttl := ttl, evict := bit d 156 } ∧
          (∀ k, k ≠ i → t.sess k = s.sess k ∧ t.aux k = s1.aux k)) ∧
      (bit d 155 = false → (s2.aux i).move = none → (s2.startPark i .park tier (dfld d 28 0 16) ttl (bit d 156) (some c)).1.isOk = true →
        ∃ (t : State) (m : Move), exec (.park job well d) s = .next t ∧ (t.sess i).state = .moving ∧ (t.aux i).move = some m ∧ m.kind = .park ∧ m.tier = tier ∧
          m.ctx = some c ∧ m.src = (s1.sess i).state ∧ (∀ k, k ≠ i → t.sess k = s.sess k))) ∧
    (s.Serves kMigrate job well d → s0.Names job i →
      let s1 := (s0.opened i).touch i
      let tier := dfld d 16 24 3
      let c := descCtx kMigrate job well d
      tier ≤ 1 → s1.gone i = false → ((s1.sess i).state = .open ∨ (s1.sess i).state = .toolWait ∨ (s1.sess i).state = .parked) →
      let data := (s1.sess i).grains.filter (fun g => g.kind != 2)
      (s1.aux i).move = none → (tier = 0 → data.length ≤ (s1.t0Places job (s1.allGrains.map (fun e => e.2.addr))).length) →
      (tier = 1 → s1.t1Room job data.length = true) →
      ∃ (t : State) (m : Move), exec (.migrate job well d) s = .next t ∧ (t.sess i).state = .moving ∧ (t.aux i).move = some m ∧ m.kind = .migrate ∧ m.tier = tier ∧
        m.ctx = some c ∧ m.src = (s1.sess i).state ∧ (∀ k, k ≠ i → t.sess k = s.sess k)) ∧
    (s.Serves kPlaceQuery job well d → s0.Names job i → s0.gone i = false →
      ∃ (t : State) (bytes : List Byte), exec (.placeQuery job well d) s = .next ((t.wr false (dfld d 24 0 64) bytes).complete (descCtx kPlaceQuery job well d) Code.ok 0 0 i) ∧
        bytes.length = 64 ∧ (∀ k < 5, at_ bytes (4 * k) 4 =
          (((s.sess i).grains.filter (fun g => g.kind != 2)).filter (fun g => gTier g.addr == k)).length % 2 ^ 32) ∧
        at_ bytes 52 1 = (s.sess i).state.code ∧ t.sessions = s.sessions ∧ t.reqs = s.reqs) ∧
    (s.Serves kRegisterT3 job well d → dfld d 16 0 16 ≤ 255 →
      let n := dfld d 16 0 16
      let c := descCtx kRegisterT3 job well d
      (dfld d 20 0 32 ≠ 0 → dfld d 24 0 14 = 0 → mget (s.job job).regions n = none →
        ∃ t : State, exec (.registerT3 job well d) s = .next (t.complete c Code.ok) ∧
          mget (t.job job).regions n = some { iova := BitVec.ofNat 64 (dfld d 24 0 64), grains := dfld d 20 0 32, sealed := bit d 144, used := [] } ∧
          (∀ k, k ≠ n → mget (t.job job).regions k = mget (s.job job).regions k) ∧ t.sessions = s.sessions) ∧
      (dfld d 24 0 14 ≠ 0 → exec (.registerT3 job well d) s = .next (s0.complete c Code.badRegion)) ∧
      (dfld d 20 0 32 = 0 → dfld d 24 0 14 = 0 → s0.regionUsed job n = false →
        ∃ t : State, exec (.registerT3 job well d) s = .next (t.complete c Code.ok) ∧ mget (t.job job).regions n = none ∧ t.sessions = s.sessions)) ∧
    (s.Serves kSetOutput job well d →
      let w := dfld d 16 0 4
      let n := dfld d 32 0 5
      let c := descCtx kSetOutput job well d
      (16 ≤ n → n ≤ 30 → dfld d 24 0 12 = 0 → ((s.job job).compWell w).ring = none →
        ∃ t : State, exec (.setOutput job well d) s = .next (t.complete c Code.ok) ∧
          ((t.job job).compWell w).ring = some { iova := BitVec.ofNat 64 (dfld d 24 0 64), log2 := n, cons := 0, prod := 0 } ∧ t.sessions = s.sessions) ∧
      (n = 0 → s0.ringInUse job w = false →
        ∃ t : State, exec (.setOutput job well d) s = .next (t.complete c Code.ok) ∧ ((t.job job).compWell w).ring = none ∧ t.sessions = s.sessions))

/-- R59, R62, R67, R69, R78, R79, R25: grace periods, demotions, the ends of moves, and the sweep. `o` is the state once the session engine has taken the
session up (R12). -/
def Obligations.MovesStartAndEnd : Prop :=
  ∀ (s : State) (i : Nat), s.power.ready = true →
    let x := s.sess i
    let o := s.opened i
    (∀ g, (s.aux i).grace = some g → g.due ≤ s.now → (x.state = .open ∨ x.state = .toolWait) → s.expired i = false → (s.sesAccess i).2 = false →
      (s.aux i).move = none →
      ((o.modAux i (fun a => { a with grace := none })).startPark i .demote g.tier g.region g.ttl g.evict none).1.isOk = true →
      ∃ (t : State) (m : Move), exec (.gracePeriodEnd i) s = .next t ∧ (t.sess i).state = .moving ∧ (t.aux i).move = some m ∧ m.kind = .demote ∧ m.tier = g.tier ∧
        (t.aux i).grace = none ∧ (∀ k, k ≠ i → t.sess k = s.sess k)) ∧
    (let p := o.reg (Reg.jobPolicy x.job)
     let idle := fld (s.reg (Reg.jobPolicy x.job)) 32 16
     let place := if fld p 48 3 = 3 then fld p 52 8 else 0
     s.demotable i = true → (s.aux i).move = none → (s.sesAccess i).2 = false →
      (o.startPark i .demote (fld p 48 3) place (o.ttlPark x.job 0) true none).1.isOk = true →
      (idle ≠ 0 → idle * 1000000 < (s.now % 2 ^ 48 + 2 ^ 48 - x.lastActive) % 2 ^ 48 →
        ∃ (t : State) (m : Move), exec (.idleDemotion i) s = .next t ∧ (t.sess i).state = .moving ∧ (t.aux i).move = some m ∧ m.kind = .demote ∧ m.tier = fld p 48 3) ∧
      (s.sessions.filter (fun e => e.2.job == x.job && s.demotable e.1) = [(i, x)] → 15 * s.t1Limit x.job ≤ 16 * s.t1Used x.job →
        7 * s.t1Limit x.job < 8 * (s.t1Used x.job - s.leaving x.job) →
        ∃ (t : State) (m : Move), exec (.t1PressureDemotion x.job) s = .next t ∧ (t.sess i).state = .moving ∧ (t.aux i).move = some m ∧ m.kind = .demote)) ∧
    (∀ m, (s.aux i).move = some m → x.state = .moving → (∀ k n, (s.aux k).move = some n → n.needT1 = 0) →
      (m.abandoned = false → (s.aux i).damaged = false → (s.sesAccess i).2 = false → m.kind ≠ .handoff → s.moveWaits i = false →
        (m.tier = 2 → (mget s.ftl.objects (gAddr m.dest)).any (·.complete) = true) →
        (m.src = .parked → gTier x.root = 3 → o.extentT3 i = .inl .ok) →
        ∃ t : State, exec (.moveComplete i) s = .next t ∧ (t.sess i).root = m.dest ∧ (t.sess i).grains = m.grains ∧ (t.sess i).retained = m.retained ∧
          (t.aux i).move = none ∧ (2 ≤ m.tier → (t.sess i).state = .parked) ∧
          (m.tier ≤ 1 → m.kind ≠ .cancel → (t.sess i).state = if x.toolp then .toolWait else .open) ∧
          (∀ k, k ≠ i → t.sess k = s.sess k)) ∧
      (m.abandoned = false → (s.aux i).damaged = false → (s.sesAccess i).2 = false → m.kind ≠ .handoff → s.moveWaits i = false →
        (m.tier = 2 → (mget s.ftl.objects (gAddr m.dest)).any (·.complete) = true) →
        m.src = .parked → gTier x.root = 3 → o.extentT3 i = .inl .damaged →
        ∃ t : State, exec (.moveComplete i) s = .next t ∧ (t.sess i).state = .parked ∧ (t.sess i).root = x.root ∧ (t.aux i).damaged = true) ∧
      (m.abandoned = true → ∃ t : State, exec (.moveAbandon i) s = .next t ∧ (t.aux i).move = none ∧ (∀ k, k ≠ i → t.sess k = s.sess k)) ∧
      (∀ code damaged, m.abandoned = false → m.kind ≠ .handoff →
        ∃ t : State, exec (.moveFailed i code damaged) s = .next t ∧ (t.sess i).state = m.src ∧ (t.aux i).move = none ∧
          (t.aux i).damaged = ((s.aux i).damaged || damaged) ∧ (t.sess i).root = x.root ∧ (t.sess i).len = x.len ∧
          (∀ k, k ≠ i → t.sess k = s.sess k))) ∧
    (s.expired i = true → (s.sesAccess i).2 = false →
      ∃ t : State, exec (.sessionExpiry i) s = .next t ∧ ((t.sess i).state = .ending ∨ (t.sess i).state = .free) ∧ (∀ k, k ≠ i → t.sess k = s.sess k)) ∧
    (x.state ≠ .free → (s.sesAccess i).2 = true → exec (.sessionExpiry i) s = .next (o.entryCorrupt i))

/-- R49, R62, R75 to R77, R291, R292: grains that land, in revival order, and enter the working list; a grain of T3 that the host has changed ends
the request; the ends for lateness and read failures; failed chunks; ring space. -/
def Obligations.RevivalAndOutput : Prop :=
  ∀ (s : State),
    (∀ (r : Nat) (a : ReqAux), s.power.ready = true → s.raux? r = some a → a.ended = none →
      let i := (s.req r).session
      let root := (s.sess i).root
      (∀ (g : SGrain) (rest : List SGrain), a.landed < a.extent → a.revive = g :: rest → g.kind ≠ 2 → s.moveWaits i = false →
        (gTier root ≠ 3 → ∀ res ∈ [Landing.ok, .secondOk],
          ∃ (t : State) (b : ReqAux), exec (.grainLand r res) s = .next t ∧ t.raux? r = some b ∧ b.landed = a.landed + 1 ∧ b.revive = rest ∧
            g ∈ b.work ∧ t.reqs = s.reqs ∧ t.sessions = s.sessions) ∧
        (gTier root ≠ 3 → gTier root ≠ 2 → exec (.grainLand r .damaged) s = .next ((s.countChecks 2 0).endReq r Code.stateLost false)) ∧
        (∀ bs res, gTier root = 3 → s.readT3 i a.landed = some (bs, false) →
          exec (.grainLand r res) s = .next ((s.countChecks 2 0).endReq r Code.stateLost false)) ∧
        (∀ res, gTier root = 3 → s.readT3 i a.landed = none → exec (.grainLand r res) s = .next (s.endReq r Code.tierError false))) ∧
      ((a.landed < a.extent ∨ a.needT1 ≠ 0) → a.budget < s.now → exec (.tierLate r) s = .next (s.endReq r Code.tierLate false)) ∧
      (a.landed < a.extent → exec (.tierError r false) s = .next (s.endReq r Code.tierError false) ∧
        exec (.tierError r true) s = .next ((s.countChecks 2 0).endReq r Code.stateLost false))) ∧
    (∀ (r : Nat) (a : ReqAux), s.power.ready = true → s.raux? r = some a →
      ∃ (u : State) (v : ReqAux), exec (.chunkWriteFail r) s = .next (u.discardEnd r Code.hostDmaError) ∧ u.raux? r = some v ∧ v.chunkFailed = true ∧
        (u.func (s.job (s.req r).job).func).dmaFail = (s.func (s.job (s.req r).job).func).dmaFail + 1 ∧ u.sessions = s.sessions ∧ u.reqs = s.reqs) ∧
    (∀ (j w : Nat) (v : W64) (g : OutRing), s.regsUp = true → fld v 30 34 = 0 → ((s.job j).compWell w).ring = some g →
      let size := 2 ^ g.log2
      let freed := (s.modJob j (fun x => x.setComp w { x.compWell w with ring := some { g with cons := fld v 0 30 % size } })).retryEnds j w
      (fld v 0 30 < size → (fld v 0 30 + size - g.cons) % size ≤ (g.prod + size - g.cons) % size →
        exec (.tokRingConsWrite j w v) s = .next freed) ∧
      (size ≤ fld v 0 30 ∨ (g.prod + size - g.cons) % size < (fld v 0 30 + size - g.cons) % size →
        exec (.tokRingConsWrite j w v) s = .next (freed.spoil j)))

/-- R240, R241. -/
def Obligations.ServingSteps : Prop :=
  ∀ (s : State) (job model us : Nat) (m : Model), s.modelOf job model = some m → s.works = true → s.stepMayEnd model = true →
    s.fabric.colls.any (fun c => c.job == job && c.group == model) = false →
    let u := (((((s.quiesce job model).endStep model us m).takePolicy job).boundaryOutput job model).pausing job).admitReqs job model
    exec (.stepBoundary job model us) s = .next (u.startStep job model) ∧
    (let parts := ((u.modelReqs job model).filterMap (fun e => (u.raux? e.1).bind (fun a => if u.takesPart e.1 a then some (e.1, a) else none))).take 4096
     u.groupsReady job = true → u.lengthTable job parts ≠ [] → mget (u.job job).fabGroups model = none →
      ∃ t : State, exec (.stepBoundary job model us) s = .next t ∧ (mgetD t.serving model {}).running = true ∧
        (mgetD t.serving model {}).entries = u.lengthTable job parts ∧ t.sessions = u.sessions)

/-- R335, R339 to R342, R63. -/
def Obligations.EnginesAndShapers : Prop :=
  ∀ s : State,
    (∀ (kind : ShaperKind) (job idx : Nat), s.power.ready = true →
      let k := shaperKey kind job idx
      let x := s.shaper k
      bit x.cfg 63 = true →
      let t := (s.now - x.last) * fld x.cfg 0 32 + x.frac
      exec (.shaperToken kind job idx) s = .next { s with shapers := mput s.shapers k { x with
        bal := BitVec.ofInt 32 (max (min (x.bal.toInt + (t / 1000 : Nat)) (fld x.cfg 32 24 : Nat)) x.bal.toInt), last := s.now, frac := t % 1000 } }) ∧
    (∀ (kind : ShaperKind) (job idx : Nat) (v : W64), s.regsUp = true → fld v 56 6 = 0 →
      let y : Shaper := { cfg := setFld v 62 1 0, bal := if bit v 62 then BitVec.ofNat 32 (fld v 32 24) else 0, last := s.now, frac := 0 }
      exec (.shaperCfgWrite kind job idx v) s = .next { s with shapers := mput s.shapers (shaperKey kind job idx) y }) ∧
    (∀ (j i : Nat) (x : Job), s.power.ready = true → fld (s.reg Reg.histCtl) 0 16 ≠ 0 → s.jobs = [(j, x)] → x.active = true → x.conf = false → i < 16 →
      ∃ t : State, exec .histSample s = .next t ∧
        (let b := histBin ((x.subWell i).tail - (x.subWell i).head).toNat
         mgetD (mgetD t.hists (2 ^ 8 * j + i) {}).depth b 0 = (mgetD (mgetD s.hists (2 ^ 8 * j + i) {}).depth b 0 + 1) % 2 ^ 64) ∧
        t.jobs = s.jobs ∧ t.pools = s.pools ∧ t.regs = s.regs) ∧
    (∀ v : W64, s.regsUp = true → fld v 34 30 = 0 → fld v 21 3 = 0 → bit v 32 = true →
      let j := fld v 24 6
      let h := mgetD s.hists (qid (fld v 30 2) j (fld v 16 5)) {}
      fld v 16 5 < queueCount (fld v 30 2) → (s.job j).conf = false →
      ∃ t : State, exec (.snap v) s = .next t ∧ t.snapshot = (List.range 16).map (fun b => mgetD h.depth b 0) ++ (List.range 16).map (fun b => mgetD h.delay b 0) ∧
        (bit v 33 = false → t.hists = s.hists) ∧ (bit v 33 = true → t.hists = mdel s.hists (qid (fld v 30 2) j (fld v 16 5))) ∧ t.jobs = s.jobs) ∧
    (∀ (pump n : Nat) (e : EngCmd) (x : PumpDesc) (p : Prog) (ok : Bool), s.power.ready = true → mget (s.pool Cls.pump).busy pump = none →
      let s1 := s.pick Cls.pump pump
      mget (s1.pool Cls.pump).busy pump = some e → e.work = .pump n → mget s1.pumpDescs n = some x → mget s1.progs x.prog = some p →
      let bs := s1.descBytes x p.ctx.job
      let y : PumpDesc := { x with taken := true, waited := false }
      let src := s1.grainRead p.ctx.job (gPlus (BitVec.ofNat 64 (at_ bs 8 8)) x.done)
      (s.descHeld x p = [] → x.status = 0 →
        (s1.descOk p bs = true → at_ bs 0 1 % 16 = 0 → (at_ bs 0 1).testBit 4 = false →
          let m := min 64 (descCount bs - x.done)
          ∃ t : State, exec (.pumpTakeUp pump ok) s = .next t ∧ mget t.pumpDescs n = some { y with done := x.done + m } ∧
            (m = 1 → t = { s1.grainWrite p.ctx.job (gPlus (BitVec.ofNat 64 (at_ bs 16 8)) x.done) src with
              pumpDescs := mput s1.pumpDescs n { y with done := x.done + m } })) ∧
        (s1.descOk p bs = true → (at_ bs 0 1 % 16 = 1 ∨ (at_ bs 0 1).testBit 4 = true) → x.done < descCount bs → (ok = false ∨ grainSound false src = false) →
          exec (.pumpTakeUp pump ok) s = .next { s1.countChecks 2 0 with pumpDescs := mput s1.pumpDescs n { y with status := 1 } }) ∧
        (s1.descOk p bs = false → exec (.pumpTakeUp pump ok) s = .next { s1 with pumpDescs := mput s1.pumpDescs n { y with status := 2 } })) ∧
      (s.descHeld x p ≠ [] → x.waited = false →
        exec (.pumpTakeUp pump ok) s = .next { s.countHeld (s.descHeld x p) with pumpDescs := mput s.pumpDescs n { x with waited := true } })) ∧
    (∀ (pump n : Nat) (e : EngCmd) (x : PumpDesc) (p : Prog), s.power.ready = true → mget (s.pool Cls.pump).busy pump = some e → e.work = .pump n →
      mget s.pumpDescs n = some x → mget s.progs x.prog = some p → x.over (s.descBytes x p.ctx.job) = true →
      exec (.pumpDescriptorDone pump) s = .next (s.descDone n x)) ∧
    (∀ (cls inst cyc : Nat) (f : Bool) (r : List (Nat × List Byte)) (x : EngCmd), s.power.ready = true → mget (s.pool cls).busy inst = some x →
      x.work = .sieve ∨ x.work = .passMap ∨ x.work = .turn →
      ∃ u : State, exec (.engineCommandEnd cls inst cyc f r) s = .next (u.dispatch cls).looks ∧ mget (u.pool cls).busy inst = none ∧
        u.reg (Reg.acct x.job cls) = s.reg (Reg.acct x.job cls) + BitVec.ofNat 64 cyc ∧ u.sessions = s.sessions ∧ u.jobs = s.jobs) ∧
    (∀ (g b cyc : Nat) (q : Pool), s.power.ready = true →
      let a := (s.group g).job
      let p := s.pool Cls.cgrp
      let p := { p with deficit := mput p.deficit a (mgetD p.deficit a 0 + (s.estimate Cls.cgrp a : Int) - (cyc : Int)), est := mput p.est a cyc }
      let held (n : Nat) := (s.group n).job == a && (s.jobs.filter (fun e => e.2.active && e.2.slice.groups.getLsbD n)).length > 1
      let has (j : Nat) := (s.job j).active && (s.job j).slice.groups.getLsbD g && s.workOn j g
      let mine := (List.range 64).filter (fun n => held n && (s.workOn a n || n == g))
      let s1 := ((s.setPool Cls.cgrp p).account Cls.cgrp a 0 0 cyc).chargeSteps a cyc
      let deep := (p.deficit.map (fun e => e.2.natAbs)).foldl max 0
      a ≠ 64 → g < 64 → held g = true → s.atBoundary a mine = true → (List.range 64).any has = true →
      p.serve has (fun j => s1.share j Cls.cgrp) (fun _ => s1.quant Cls.cgrp) (fun j => s1.estimate Cls.cgrp j) (64 * (deep + 2) + 64) = some (b, q) →
      b ≠ a → (s.job b).slice.groups.getLsbD g = true →
      ∃ t : State, exec (.contextSwitch g cyc) s = .next t ∧ (t.group g).job = b ∧ (t.group g).lastJob = b ∧ t.sessions = s.sessions ∧ t.hbm = s1.hbm)

/-- R116, R122, R126, R144, R147, R148, R152, R156. -/
def Obligations.Programs : Prop :=
  ∀ s : State,
    (∀ (job well : Nat) (d : Desc) (im av binds : List Byte), s.Serves kRunProgram job well d →
      let s0 := s.takenUp job well
      let x := s0.job job
      let len := dfld d 24 0 32
      let args := dfld d 40 0 64
      let mask := BitVec.ofNat 64 (dfld d 32 0 64)
      let segs := imageSegs im binds
      s0.addrOk job d 16 len = true → (args = 0 ∨ s0.addrOk job d 40 256 = true) → (dfld d 48 0 64 = 0 ∨ s0.addrOk job d 48 128 = true) →
      s0.fetch d 16 len = some im → (if args = 0 then av = zeros 256 else s0.fetch d 40 256 = some av) →
      (if at_ im 48 1 = 0 then binds = [] else s0.fetch d 48 128 = some binds) →
      imageLayoutOk im len = true → at_ im 5 1 = 1 → at_ im 4 1 ≤ 2 → imageDigestOk im = true → x.conf = false →
      popcnt mask = at_ im 8 1 → mask &&& ~~~x.groupsNow = 0 → (at_ im 6 2 / 2 % 2 = 0 ∨ fld mask 0 32 = 0 ∨ fld mask 32 32 = 0) →
      mask &&& x.slice.serve = 0 → segs.all (fun g => s0.bindOk job g.base g.size) = true →
      let p : Prog :=
        { ctx := descCtx kRunProgram job well d, minor := at_ im 4 1, mask := mask, entry := at_ im 12 4, codeBase := at_ im 24 4,
          code := sub im (at_ im 16 4) (at_ im 20 4), dataBase := at_ im 36 4, data := sub im (at_ im 28 4) (at_ im 32 4), argBase := at_ im 40 4,
          args := av, segs := segs, limit := dfld d 28 0 28, faultAddr := BitVec.ofNat 64 (dfld d 56 0 64), started := false, startAt := none, exit := 0 }
      exec (.runProgram job well d) s =
        .next ({ s0 with progs := mput s0.progs s0.nextProg p, nextProg := s0.nextProg + 1 } : State).startProgs ∧
      (s.progs = [] → x.ckpt = none → (ones mask).any (s.offline 0) = false →
        (∀ g ∈ ones mask, (s.group g).job = 64 ∨ (s.group g).job = job) →
        ∃ t : State, exec (.runProgram job well d) s = .next t ∧ mget t.progs s.nextProg = some { p with started := true } ∧
          ∀ l < p.ncores, (t.core (p.core l)).pc = p.entry ∧ (t.core (p.core l)).halted = false ∧ (t.core (p.core l)).lcore = l ∧
            (t.core (p.core l)).prog = s.nextProg ∧ mget (t.core (p.core l)).regs.s 1 = some (BitVec.ofNat 32 l))) ∧
    (∀ (n t : Nat) (p : Prog), s.power.ready = true → mget s.progs n = some p → p.started = true → p.startAt = some t → p.limitUs ≤ s.now - t →
      exec (.programTimeout n) s = .next ((s.stopProg n Code.programTimeout []).endProg n)) ∧
    (∀ (c a : Nat) (dst sem v : Nat) (data : List Byte) (rest : List Flight), s.power.ready = true →
      let k := s.core c
      let j := (s.group (coreGroup c)).job
      let left : List Flight := if data.drop 64 = [] then rest else .write dst (a + 64) (data.drop 64) :: rest
      (k.flight = .write dst a data :: rest →
        exec (.remoteWriteLand c dst) s = .next ((s.setCore c { k with flight := left }).storeAt j dst a (data.take 64)) ∧
        ∀ t, exec (.remoteWriteLand c dst) s = .next t → (t.jobCore j dst).store = Memory.write (some 0) (s.jobCore j dst).store a (data.take 64)) ∧
      (k.flight = .inc dst sem v :: rest →
        exec (.remoteWriteLand c dst) s = .next (((s.setCore c { k with flight := rest }).wakeFor dst).incSem j dst sem v))) ∧
    (∀ (c i a n sem : Nat) (w : Option Nat) (data : List Byte) (h : Nat), s.power.ready = true → h < 2 ^ 39 →
      let k := s.core c
      let j := (s.group (coreGroup c)).job
      let s1 := s.setCore c { k with flight := k.flight.eraseIdx i }
      (k.flight[i]? = some (.load h a n sem w) → s.segmentsAt h n = [] →
        exec (.hbmCopyDone c i) s = .next (((s1.storeAt j c a (s.hbmRead h n)).incSem j c sem 1).endProg k.prog)) ∧
      (∀ q qs, k.flight[i]? = some (.load h a n sem none) → s.segmentsAt h n = q :: qs →
        exec (.hbmCopyDone c i) s = .next ((s.setCore c { k with flight := k.flight.set i (.load h a n sem (some (s.seq q).held.length)) }).countHeld (q :: qs))) ∧
      (k.flight[i]? = some (.store h data sem) → s.t1Held h data.length = [] →
        exec (.hbmCopyDone c i) s = .next (((s1.wr true h data).incSem j c sem 1).endProg k.prog))) ∧
    (∀ (p : Packet) (j : Nat) (data : List Byte) (u : State) (q : Prog), s.power.ready = true → s.arrive p = .deliver j data u →
      let c := fld p.arg 0 12
      let a := fld p.arg 12 20
      mget s.progs (s.core c).prog = some q → q.started = true → q.ctx.job = j → (s.group (coreGroup c)).job = j → a + data.length ≤ 0xC0000 →
      exec (.sendLand p) s = .next (((u.storeAt j c a data).incSem j c (fld p.arg 32 5) 1).reply p Msg.ack)) ∧
    (∀ g : Nat, s.power.ready = true → (s.group g).state = 0 → s.groupHalted g = true → fld (s.group g).ctl 0 2 = 1 →
      ∃ t : State, exec (.groupAutoRetain g) s = .next t ∧ (t.group g).state = 1 ∧
        (∀ c ∈ groupCores g, (t.core c).regs = {} ∧ (t.core c).store = (s.core c).store ∧ (t.core c).sems = (s.core c).sems) ∧
        (∀ c, c ∉ groupCores g → t.core c = s.core c) ∧ (∀ n, n ≠ g → t.group n = s.group n) ∧ t.hbm = s.hbm) ∧
    (∀ (g : Nat) (v : W64), s.regsUp = true → onlyFields v [(0, 3), (8, 8), (32, 16)] = true →
      (fld v 0 2 = 0 → 11 ≤ fld v 8 8 → fld v 8 8 ≤ 33 → exec (.pwrGroupCtlWrite g v) s = .next (s.setGroup g { s.group g with ctl := v, state := 0 })) ∧
      (fld v 0 2 = 3 ∨ fld v 8 8 < 11 ∨ 33 < fld v 8 8 ∨ (fld v 0 2 = 2 ∧ s.inSlice g = true) →
        exec (.pwrGroupCtlWrite g v) s = .next (s.setGroup g { s.group g with denied := true })))

/-- R492, R494, R495, R43, R42, R273, R358, R388. -/
def Obligations.HostAccess : Prop :=
  ∀ s : State, s.regsUp = true →
    (∀ (j : Nat) (v : W64), j < 64 →
      (v &&& ~~~(0x0000FFFFFFFFFF3F : W64) = 0 → exec (.registerWrite 0 (0x200100 + 8 * j) 8 v) s = .next (s.setReg (Reg.jobServe j) v)) ∧
      (v &&& ~~~(0x0000FFFFFFFFFF3F : W64) ≠ 0 → exec (.registerWrite 0 (0x200100 + 8 * j) 8 v) s = .fault .unpredictableDevice)) ∧
    (∀ (fn off size : Nat) (v : W64), off < 0x80000 → (size ≠ 4 ∧ size ≠ 8) ∨ off % size ≠ 0 →
      exec (.registerWrite fn off size v) s = .next (s.modFunc fn (fun f => { f with badAccess := f.badAccess + 1 }))) ∧
    (∀ (fn j o : Nat) (v : W64), fn ≠ 0 → j < 64 → o < 0x1000 → o % 8 = 0 → ((s.job j).active = false ∨ (s.job j).func ≠ fn) →
      exec (.registerWrite fn (0x40000 + 0x1000 * j + o) 8 v) s = .next s) ∧
    (∀ (fn off n : Nat), off + n ≤ 0x100000000 →
      s.segmentsAt ((s.func fn).winBase.toNat + off) (min n (hbmEnd - ((s.func fn).winBase.toNat + off))) = [] →
      ∃ t : State, exec (.hostWindowAccess fn off n none) s = .next t ∧ t.busOut.length = n ∧ t.hbm = s.hbm ∧ t.host = s.host ∧ t.sessions = s.sessions ∧
        (hbmEnd ≤ (s.func fn).winBase.toNat + off → 0 < n → t.busOut = zeros n ∧ (t.func fn).badAccess = (s.func fn).badAccess + 1)) ∧
    (∀ (fn off j : Nat) (b : Byte), off < 0x100000000 →
      let a := (s.func fn).winBase.toNat + off
      s.windowClosed fn a true = false → a / 2 ^ 28 ≥ s.devRg → s.hbmOwner a = some j →
      exec (.hostWindowAccess fn off 1 (some [b])) s = .next ((({ s with freeCtr := s.freeCtr + 1 } : State).wrHbm a [b]).spoil j)) ∧
    (∀ (fn i : Nat), i < 2 ^ 24 → (s.sess i).state ≠ .free → (s.sess i).conf = false → (s.sesAccess i).2 = false →
      (fn = 0 ∨ (s.aux i).unbound = false ∧ (s.job (s.sess i).job).func = fn →
        ∃ t : State, exec (.sesPeek fn (BitVec.ofNat 64 (i + 2 ^ 31))) s = .next t ∧ (t.func fn).peek = (s.sess i).image ++ zeros 64 ∧ t.sessions = s.sessions) ∧
      (fn ≠ 0 → (s.aux i).unbound = true ∨ (s.job (s.sess i).job).func ≠ fn →
        ∃ t : State, exec (.sesPeek fn (BitVec.ofNat 64 (i + 2 ^ 31))) s = .next t ∧ (t.func fn).peek = zeros 128 ∧ t.sessions = s.sessions)) ∧
    (∃ t : State, exec .sesCacheFlush s = .next t ∧ t.sessions = s.sessions ∧ t.host = s.host ∧
      (Memory.wf (some 0) s.hbm = true → ∀ a, 2 ^ 30 ≤ a → (s.sesCache ++ s.sesBypass.toList).all (fun k => decide (k < 2 ^ 24)) = true → Memory.get t.hbm a = Memory.get s.hbm a)) ∧
    (∀ job i : Nat, s.sessAux = [(i, s.aux i)] → (s.aux i).unbound = true → (s.sess i).job = job → (s.sess i).state = .parked →
      ∃ t : State, exec (.sesRebuiltDrop job) s = .next t ∧ ((t.sess i).state = .ending ∨ (t.sess i).state = .free)) ∧
    (∀ (job : Nat) (tag : W32),
      (tag ≠ 0 → (∃ k < 64, k ≠ job ∧ s.jobTag k = tag) →
        exec (.jobTagWrite job tag) s = .next { s with fabric := { s.fabric with tagConflict := true } }) ∧
      (tag = 0 ∨ (∀ k < 64, k ≠ job → s.jobTag k ≠ tag) →
        ∃ t : State, exec (.jobTagWrite job tag) s = .next t ∧ t.jobTag job = tag ∧ t.sessions = s.sessions ∧ t.jobs = s.jobs)) ∧
    (∀ (n : Nat) (v : W64), n < 16 → fld v 17 15 = 0 →
      ∃ t : State, exec (.privSlotWrite n v) s = .next t ∧ t.reg (Reg.privSlot n) = BitVec.ofNat 64 (fld v 0 15) ∧ t.sessions = s.sessions ∧ t.jobs = s.jobs) ∧
    (∀ v : W32, s.ftl.state ≠ 0 →
      (s.ftl.cap < v.toNat → exec (.ftlSplitWrite v) s = .next { s with ftl := { s.ftl with denied := true } }) ∧
      (v.toNat ≤ s.ftl.cap → (∀ e ∈ s.ftl.map, (e.1 < s.ftl.cistern ↔ e.1 < v.toNat)) →
        exec (.ftlSplitWrite v) s = .next { s with ftl := { s.ftl with cistern := v.toNat } })) ∧
    (exec .clkLocalReadLow s = .next { s with busOut := leBytes 4 s.now, power := { s.power with latchHigh := some (BitVec.ofNat 32 (s.now / 2 ^ 32)) } })

/-- R214, R215, R223 to R226, R230, Table 8.8. -/
def Obligations.Microwords : Prop :=
  ∀ (s : State) (n : Nat) (dev : Bool) (w : W32),
    let q := s.seq n
    let x := q.ctx dev
    let b := q.bank dev w
    let put (y : SeqCtx) : State := s.setSeq n (q.setCtx dev y)
    (∀ c : Nat, x.pc < 255 → s.seqNext n dev c = s.setSeq n (({ q with segNs := q.segNs + c } : Seq).setCtx dev { x with pc := x.pc + 1 })) ∧
    (s.Microruns n dev .halt w → ∃ t : State, exec (.microHalt n dev) s = .next t ∧ ((t.seq n).ctx dev).done = true ∧
      ((t.seq n).ctx dev).busy = false ∧ (t.seq n).running = none ∧ (t.seq n).boundary = true ∧ t.hbm = s.hbm) ∧
    (s.Microruns n dev .nop w → exec (.microNop n dev) s = .next (s.seqNext n dev 2)) ∧
    (s.Microruns n dev .segend w → x.pc < 255 → ∃ t : State, exec (.segend n dev) s = .next t ∧ ((t.seq n).ctx dev).pc = x.pc + 1 ∧
      (t.seq n).running = none ∧ (t.seq n).boundary = true ∧ ((t.seq n).ctx dev).busy = true ∧ t.hbm = s.hbm) ∧
    (s.Microruns n dev .rop w → ∀ d a e : Nat,
      rowAddrs ([q.operand n dev b (fld w 18 7), q.operand n dev b (fld w 11 7)] ++ (if fld w 26 2 = 3 then [] else [q.operand n dev b (fld w 4 7)])) =
        .ok (if fld w 26 2 = 3 then [d, a] else [d, a, e]) →
      (∃ bs : List Byte, exec (.rop n dev .clean) s = .next ((s.setRows q.winJob [d] bs).seqNext n dev (microCost w .rop)) ∧ bs.length = 1024 ∧
        ∀ k < 1024, bs[k]? = some (
          let u := (s.row a).getD k 0
          let v := (s.row e).getD k 0
          let r := [u &&& v, u ||| v, u ^^^ v, u].getD (fld w 26 2) 0
          if bit w 25 then ~~~r else r)) ∧
      exec (.rop n dev .correctable) s = .next ((s.setSeq n (q.endSegment dev)).edgeCorrected a) ∧
      exec (.rop n dev .uncorrectable) s = .next (s.seqFault n dev SeqCause.data)) ∧
    (s.Microruns n dev .maj w → ∀ a e f : Nat,
      rowAddrs ([18, 11, 4].map (fun lo => (q.operand n dev b (fld w lo 7)).onlyTemp)) = .ok [a, e, f] →
      ∃ bs : List Byte, exec (.maj n dev .clean) s = .next ((s.setRows q.winJob [a, e, f] bs).seqNext n dev 40) ∧ bs.length = 1024 ∧
        ∀ k < 1024, bs[k]? = some (
          let u := (s.row a).getD k 0
          let v := (s.row e).getD k 0
          let z := (s.row f).getD k 0
          (u &&& v) ||| (u &&& z) ||| (v &&& z))) ∧
    (s.Microruns n dev .fill w → ∀ a : Nat, rowAddrs [(q.operand n dev b (fld w 18 7)).onlyTemp] = .ok [a] →
      ∃ bs : List Byte, exec (.microFill n dev) s = .next ((s.setRows q.winJob [a] bs).seqNext n dev 20) ∧ bs.length = 1024 ∧
        ∀ k < 1024, bs[k]? = (leBytes 16 (mgetD x.pats (if bit w 13 then fld (mgetD x.idx (fld w 10 3) 0) 0 4 else fld w 14 4) 0).toNat)[k % 16]?) ∧
    (s.Microruns n dev .popc w → ∀ a : Nat, rowAddrs [q.operand n dev b (fld w 11 7)] = .ok [a] →
      let r := edgeCount (s.row a)
      let y : SeqCtx := { x with readouts := x.readouts + 1 }
      (bit x.dest 0 = true → dev = false →
        exec (.popc n dev .clean) s = .next ((s.setSeq n (({ q with out := mput q.out (x.readouts % 4) r } : Seq).setCtx false y)).seqNext n dev 25)) ∧
      (bit x.dest 0 = false → 64 * fld x.dest 16 14 + 64 * x.readouts + 64 ≤ 0xC0000 →
        let j := s.ctxJob q dev (fld x.dest 4 12)
        let k := s.jobCore j (fld x.dest 4 12)
        exec (.popc n dev .clean) s = .next (((put y).setJobCore j (fld x.dest 4 12)
          { k with store := Memory.write (some 0) k.store (64 * fld x.dest 16 14 + 64 * x.readouts) r }).seqNext n dev 25))) ∧
    (s.Microruns n dev .idx w →
      let imm := BitVec.ofNat 16 (fld w 0 16)
      let src := mgetD x.idx (fld w 20 3) 0 + imm
      let set (v : BitVec 16) : State := (put { x with idx := mput x.idx (fld w 23 3) v }).seqNext n dev 2
      (fld w 26 2 = 0 → exec (.microIdx n dev) s = .next (set imm)) ∧
      (fld w 26 2 = 1 → exec (.microIdx n dev) s = .next (set src)) ∧
      (fld w 26 2 = 2 → src.toNat ≤ 127 → exec (.microIdx n dev) s = .next (set (mgetD x.list src.toNat 0))) ∧
      (fld w 26 2 = 2 → 127 < src.toNat → exec (.microIdx n dev) s = .next (s.seqFault n dev SeqCause.list))) ∧
    (s.Microruns n dev .loop w →
      let v := mgetD x.idx (fld w 22 3) 0 - 1
      x.pc < 255 → ∃ t : State, exec (.microLoop n dev) s = .next t ∧ mgetD ((t.seq n).ctx dev).idx (fld w 22 3) 0 = v ∧
        ((t.seq n).ctx dev).pc = (if v = 0 then x.pc + 1 else fld w 0 8) ∧ (t.seq n).running = none ∧ (t.seq n).boundary = true ∧ t.hbm = s.hbm)

/-- R218, R220, R227, R228, R231, R449. -/
def Obligations.BankSequencers : Prop :=
  ∀ (s : State) (n : Nat),
    let q := s.seq n
    (∀ v : W64, s.regsUp = true → s.areaClosed n = false → onlyFields v [(0, 14)] = true → bit v 8 = true → bit v 9 = false →
      (q.user.busy = true → exec (.seqGo n v) s = .next (s.setSeq n { q with busyGo := true, busyWr := true })) ∧
      (q.user.busy = false → q.owned = true → s.offline 6 n = false → bit q.user.dest 0 = true → bit q.user.noteReg 0 = false →
        ∃ t : State, exec (.seqGo n v) s = .next t ∧ (t.seq n).user.busy = true ∧ (t.seq n).user.pc = fld v 0 8 ∧ (t.seq n).user.readouts = 0 ∧
          (q.running = none → q.boundary = false → q.dev.busy = false → (t.seq n).running = some false) ∧ t.hbm = s.hbm)) ∧
    (s.regsUp = true → s.areaClosed n = false → q.user.busy = true →
      ∃ t : State, exec (.seqAbort n) s = .next t ∧ (t.seq n).user.busy = false ∧ (t.seq n).user.aborted = true ∧ (t.seq n).user.stopPc = q.user.pc ∧
        (q.running = some false → (t.seq n).running = none ∧ (t.seq n).boundary = true) ∧ t.hbm = s.hbm) ∧
    (s.power.ready = true → q.boundary = true → s.winHeld = [] →
      ∃ t : State, exec (.segmentEnd n) s = .next t ∧ t.hbm = q.held.foldl (fun m e => Memory.write (some 0) m e.1 e.2) s.hbm ∧
        (t.seq n).boundary = false ∧ (t.seq n).held = [] ∧ (t.seq n).postponed = 0 ∧
        (q.running = none → (t.seq n).running = if q.user.busy && q.dev.busy then some (!q.lastDev) else if q.user.busy then some false
          else if q.dev.busy then some true else none)) ∧
    (s.power.ready = true → q.running.isSome = true → q.postponed < 4 →
      ∃ t : State, exec (.refreshDue n) s = .next t ∧ (t.seq n).postponed = q.postponed + 1 ∧ (t.seq n).running = q.running ∧ t.hbm = s.hbm) ∧
    (∀ pc : Nat, s.power.ready = true → pc ∉ s.refreshing → exec (.hbmSelfRefresh pc) s = .next { s with refreshing := pc :: s.refreshing })

/-- R323, R324, R329 to R332, R407, R440, R441. -/
def Obligations.Jobs : Prop :=
  ∀ (s : State) (j : Nat),
    (∀ v : W64, s.regsUp = true →
      ((s.job j).active = true ∨ (bit v 5 = true ∧ s.sec.debugSeen = true) → exec (.create j v) s = .next (s.setJobErr j JobErr.bad)) ∧
      ((s.job j).active = false → (bit v 5 = false ∨ s.sec.debugSeen = false) →
        ∃ t : State, exec (.create j v) s = .next t ∧ t.job j = { active := true, conf := bit v 5, func := fld v 8 6 } ∧
          (∀ k, k ≠ j → t.job k = s.job k) ∧ t.reg (Reg.jobServe j) = regReset (Reg.jobServe j) ∧ t.reg (Reg.jobQuota j) = 0 ∧ t.jobTag j = 0 ∧
          t.sec.confActive = (s.sec.confActive || bit v 5) ∧ t.sec.debugLock = (s.sec.debugLock || bit v 5) ∧
          t.sessions = s.sessions ∧ t.hbm = s.hbm)) ∧
    (s.regsUp = true →
      let x := s.job j
      (x.active = false → exec (.destroy j) s = .next (s.setJobErr j JobErr.bad)) ∧
      (x.active = true → x.slice.isEmpty = false ∨ s.sessCount j ≠ 0 ∨ s.holdsObjects j = true ∨ s.progs.any (fun e => e.2.ctx.job == j) = true →
        exec (.destroy j) s = .next (s.setJobErr j JobErr.notEmpty)) ∧
      (x.active = true → x.slice.isEmpty = true → s.sessCount j = 0 → s.holdsObjects j = false → s.progs.any (fun e => e.2.ctx.job == j) = false →
        ∃ t : State, exec (.destroy j) s = .next t ∧ (t.job j).active = false ∧ (t.job j).keys = {} ∧ (∀ k, k ≠ j → t.job k = s.job k) ∧
          t.sec.confActive = t.jobs.any (fun e => e.2.active && e.2.conf) ∧ t.sessions = s.sessions ∧ t.hbm = s.hbm)) ∧
    (s.regsUp = true →
      let e := s.recomposeErr j (s.wanted j)
      ((s.job j).active = true → (s.job j).want = none →
        exec (.recompose j) s = .next (s.modJob j (fun x => { x with err := e, want := if e = JobErr.ok then some (s.wanted j) else none }))) ∧
      ((s.job j).active = true → (s.job j).want.isSome = true → exec (.recompose j) s = .next (s.modJob j (fun x => { x with ignored := true })))) ∧
    (∀ w : Slice, s.power.ready = true → (s.job j).want = some w →
      let x := s.job j
      let goneG := x.slice.groups &&& ~~~w.groups
      let gonePc := x.slice.pc &&& ~~~w.pc
      (goneG = 0 ∧ gonePc = 0) ∨ (s.serving.any (fun e => e.2.running && (mget s.models e.1).any (fun m => m.job == j)) = false ∧
        s.seqs.any (fun e => e.2.running.isSome && e.2.owned && e.2.winJob == j) = false ∧
        s.progs.any (fun e => e.2.ctx.job == j && (e.2.mask &&& goneG) != 0) = false) →
      ∃ t : State, exec (.recomposeCommit j) s = .next t ∧ (t.job j).slice = w ∧ (t.job j).want = none ∧ (t.job j).epoch = x.epoch + 1 ∧
        (∀ k, k ≠ j → t.job k = s.job k) ∧
        (∀ a, gonePc.getLsbD (a / 2 ^ 20 % 256) = true → s.devRg ≤ a / 2 ^ 28 → a < hbmEnd → Memory.get t.hbm a = 0) ∧
        (∀ g < 64, (w.groups &&& ~~~x.slice.groups).getLsbD g = true → (t.group g).state = 0) ∧
        (∀ p < 256, (w.pc &&& ~~~x.slice.pc).getLsbD p = true → j < 64 → ∀ k < 4, (t.seq (4 * p + k)).owned = true ∧ (t.seq (4 * p + k)).winJob = j)) ∧
    (s.regsUp = true → exec (.resume j) s = .next (s.modJob j (fun x => { x with quiesced := false })))

/-- R255 to R258, R262 to R264, R274, R277, R475. -/
def Obligations.LoadedObjects : Prop :=
  ∀ (s : State) (job well : Nat) (d : Desc),
    let s0 := s.takenUp job well
    (s.Serves kLoadModel job well d → ∀ im : List Byte, s0.loadImage job d 16 (dfld d 24 0 64) (bit d 266) (dfld d 36 0 32) = .ok im →
      modelFormOk im = true → modelShapeOk im = true →
      let h := dfld d 32 0 8
      let swap := bit d 264 || (s.func (s.job job).func).verIndex == 0
      let c := descCtx kLoadModel job well d
      let share := cdiv (grainsOf im.length) (max 1 (64 * popcnt (s.job job).slice.serve))
      ((if h = 0 then ∃ i, 1 ≤ i ∧ i ≤ 255 ∧ mget s.models i = none else mget s.models h = none) → s0.objectRoom job (grainsOf im.length) = true →
        (bit d 265 = true → swap = false ∧ ((s0.members job).filter (·.pinned)).foldl (fun t m => t + m.share) 0 + share ≤ s0.hotRoom job) →
        ∃ (t : State) (k : Nat) (m : Model), exec (.loadModel job well d) s = .next (t.complete c Code.ok k) ∧ 1 ≤ k ∧ k ≤ 255 ∧ (h ≠ 0 → k = h) ∧
          mget s.models k = none ∧ mget t.models k = some m ∧ m.job = job ∧ m.layers = at_ im 6 2 ∧ m.kvh = at_ im 8 1 ∧ m.qpk = at_ im 9 1 ∧
          m.width = 128 * at_ im 12 2 ∧ m.vocab = at_ im 16 4 ∧ m.digest = sha256 im ∧ m.len = grainsOf im.length ∧ m.swap = swap ∧
          m.pinned = bit d 265 ∧ m.resident = false ∧ m.damaged = false ∧ (∀ i, i ≠ k → mget t.models i = mget s.models i) ∧
          t.sessions = s.sessions ∧ t.reqs = s.reqs) ∧
      (∀ m : Model, h ≠ 0 → mget s.models h = some m → m.job = job → m.damaged = true → m.digest = sha256 im →
        ∃ t : State, exec (.loadModel job well d) s = .next (t.complete c Code.ok h) ∧
          mget t.models h = some { m with damaged := false, repairs := m.repairs + 1 } ∧ t.sessions = s.sessions)) ∧
    (s.Serves kUnloadModel job well d →
      let h := dfld d 16 0 8
      (s.modelOf job h).isSome = true →
      s.sessions.any (fun e => e.2.state != .free && e.2.job == job && !(s.aux e.1).unbound && e.2.model == h) = false →
      ∃ t : State, exec (.unloadModel job well d) s = .next (t.complete (descCtx kUnloadModel job well d) Code.ok) ∧ mget t.models h = none ∧
        mget t.serving h = none ∧ (∀ i, i ≠ h → mget t.models i = mget s.models i) ∧
        (∀ k o, mget (t.job job).adapters k = some o → o.versions.all (fun v => v.model != h) = true) ∧ t.sessions = s.sessions) ∧
    (s.Serves kLoadAdapter job well d →
      let h := dfld d 28 0 16
      let o := mgetD (s.job job).adapters h { current := none, last := 0, versions := [] }
      let c := descCtx kLoadAdapter job well d
      (bit d 248 = true → s.modelAlien job (dfld d 30 0 8) = false → o.current.isSome = true →
        ∃ t : State, exec (.loadAdapter job well d) s = .next (t.complete c Code.ok) ∧
          mget (t.job job).adapters h = some { o with current := none, versions := o.inUse } ∧ t.sessions = s.sessions ∧ t.models = s.models) ∧
      (∀ (m : Model) (im : List Byte), bit d 248 = false → s.modelOf job (dfld d 30 0 8) = some m → m.damaged = false →
        s0.loadImage job d 16 (dfld d 24 0 32) (bit d 249) (dfld d 32 0 32) = .ok im → h ≠ 0xFFFF → adapterOk im m = true → o.inUse.length < 4 →
        s0.roomAfter job o.goes (grainsOf im.length) = true →
        let v := o.last % 0xFFFF + 1
        ∃ (t : State) (x : AdapterVer), exec (.loadAdapter job well d) s = .next (t.complete c Code.ok v) ∧
          mget (t.job job).adapters h = some { current := some v, last := v, versions := o.inUse ++ [x] } ∧ x.ver = v ∧ x.model = dfld d 30 0 8 ∧
          x.rank = at_ im 5 1 ∧ x.image = im ∧ x.users = 0 ∧ x.damaged = false ∧ t.sessions = s.sessions ∧ t.models = s.models)) ∧
    (s.Serves kLoadVocab job well d →
      let m := dfld d 30 0 8
      let o := mgetD (s.job job).vocabs m { current := none, last := 0, versions := [] }
      let c := descCtx kLoadVocab job well d
      (bit d 248 = true → s.modelAlien job m = false → o.current.isSome = true →
        ∃ t : State, exec (.loadVocab job well d) s = .next (t.complete c Code.ok) ∧ mget (t.job job).vocabs m = some o.withdraw ∧ t.sessions = s.sessions) ∧
      (∀ (x : Model) (im : List Byte), bit d 248 = false → s.modelOf job m = some x → s0.addrOk job d 16 (dfld d 24 0 32) = true →
        s0.fetch d 16 (dfld d 24 0 32) = some im → vocabOk im (dfld d 24 0 32) x.vocab = true → o.inUse < 2 →
        s0.roomAfter job o.goes (grainsOf (dfld d 24 0 32)) = true →
        ∃ t : State, exec (.loadVocab job well d) s = .next (t.complete c Code.ok) ∧ mget (t.job job).vocabs m = some (o.load m im 0) ∧
          t.sessions = s.sessions ∧ t.models = s.models)) ∧
    (s.Serves kLoadGrammar job well d →
      let h := dfld d 28 0 16
      let len := dfld d 24 0 32
      let o := mgetD (s.job job).grammars h { current := none, last := 0, versions := [] }
      let c := descCtx kLoadGrammar job well d
      (bit d 248 = true → h ≠ 0 → h ≠ 0xFFFF → s.modelAlien job (dfld d 30 0 8) = false → o.current.isSome = true →
        ∃ t : State, exec (.loadGrammar job well d) s = .next (t.complete c Code.ok) ∧ mget (t.job job).grammars h = some o.withdraw ∧ t.sessions = s.sessions) ∧
      (∀ (x : Model) (im : List Byte), bit d 248 = false → h ≠ 0 → h ≠ 0xFFFF → s.modelOf job (dfld d 30 0 8) = some x → s0.addrOk job d 16 len = true →
        s0.fetch d 16 len = some im →
        (let gone := (o.versions.filter (fun y => y.users == 0)).foldl (fun n v => n + v.classes) 0
         grammarCheck im len x.vocab (s0.roomAfter job o.goes (grainsOf len) && decide (s0.sieveClasses - gone + grammarClasses im ≤ sieveArea)) = none) →
        o.inUse < 2 →
        ∃ t : State, exec (.loadGrammar job well d) s = .next (t.complete c Code.ok) ∧
          mget (t.job job).grammars h = some (o.load (dfld d 30 0 8) im (grammarClasses im)) ∧ t.sessions = s.sessions ∧ t.models = s.models))

/-- R296, R301 to R304. -/
def Obligations.Indexes : Prop :=
  ∀ (s : State) (job well : Nat) (d : Desc),
    let s0 := s.takenUp job well
    let h := dfld d 16 0 16
    (s.Serves kLoadIndex job well d →
      let o := (s.index job h).getD { current := none, last := 0, versions := [] }
      let c := descCtx kLoadIndex job well d
      let len := dfld d 32 0 64
      (bit d 384 = true → o.current.isSome = true →
        ∃ (t : State) (p : Index), exec (.loadIndex job well d) s = .next (t.complete c Code.ok) ∧ t.index job h = some p ∧ p.current = none ∧ t.sessions = s.sessions) ∧
      (∀ im : List Byte, bit d 384 = false → s0.loadImage job d 24 len false 0 = .ok im → 1 ≤ h → h ≤ 0xFFFE → indexOk im len = true →
        (o.versions.filter (·.busy)).length < 2 →
        let hot := min (dfld d 40 0 33) (ixNodes im)
        let cold := grainsOf ((ixNodes im - hot) * ixRec im)
        let v := o.last % 0xFFFF + 1
        s0.roomAfter job ((o.versions.filter (fun v => !v.busy)).foldl (fun n v => n + v.grains) 0) (grainsOf (64 + hot * ixRec im)) = true →
        (cold = 0 ∨ (s0.generalPlace job cold (im.drop (ixAt im hot))).isSome = true) →
        ∃ (t : State) (p : Index) (x : IndexVer), exec (.loadIndex job well d) s = .next (t.complete c Code.ok) ∧ t.index job h = some p ∧
          p.current = some v ∧ x ∈ p.versions ∧ x.ver = v ∧ x.image = indexLoaded im ∧ x.hot = hot ∧ x.epoch = 1 ∧ x.users = 0 ∧ t.sessions = s.sessions)) ∧
    (s.Serves kLoadFilter job well d →
      let f := dfld d 18 0 16
      let o := (s.filter job f).getD { index := h, current := none, last := 0, versions := [] }
      let c := descCtx kLoadFilter job well d
      let len := dfld d 32 0 64
      (bit d 384 = true → o.current.isSome = true →
        ∃ (t : State) (p : Filter), exec (.loadFilter job well d) s = .next (t.complete c Code.ok) ∧ t.filter job f = some p ∧ p.current = none) ∧
      (∀ (v : IndexVer) (im : List Byte), bit d 384 = false → (s.index job h).bind Index.cur = some v → s0.loadImage job d 24 len false 0 = .ok im →
        1 ≤ f → f ≤ 0xFFFE → len = cdiv (ixNodes v.image) 8 → (o.versions.filter (fun v => v.users != 0)).length < 2 →
        s0.roomAfter job ((o.versions.filter (fun v => v.users == 0)).foldl (fun n v => n + v.grains) 0) (grainsOf len) = true →
        ∃ (t : State) (p : Filter) (x : FilterVer), exec (.loadFilter job well d) s = .next (t.complete c Code.ok) ∧ t.filter job f = some p ∧ p.index = h ∧
          p.current = some (o.last % 0xFFFF + 1) ∧ x ∈ p.versions ∧ x.ver = o.last % 0xFFFF + 1 ∧ x.bits = im ∧ x.users = 0)) ∧
    (∀ (o : Index) (v : IndexVer), s.index job h = some o → o.cur = some v → v.damaged = false →
      let n := dfld d 20 0 32
      (∀ bs : List Byte, s.Serves kTombstone job well d → v.epoch ≠ 0xFFFFFFFF → s0.addrOk job d 24 (4 * n) = true → s0.fetch d 24 (4 * n) = some bs →
        ∃ w : IndexVer, exec (.tombstone job well d) s = .next ((s0.setIndex job h (o.setVer w)).complete (descCtx kTombstone job well d) Code.ok) ∧
          w.ver = v.ver ∧ w.epoch = v.epoch + 1 ∧ w.users = v.users ∧
          (n = 1 → w.image = (let id := at_ bs 0 4
            if id < ixNodes v.image ∧ at_ v.image (ixAt v.image id) 4 = 0 then patch v.image (ixAt v.image id) (leBytes 4 (v.epoch + 1)) else v.image))) ∧
      (∀ bs : List Byte, s.Serves kIndexWrite job well d →
        let item := 64 + ixRec v.image
        let items := (List.range n).map (fun k => (at_ bs (item * k) 4, sub bs (item * k + 64) (ixRec v.image)))
        s0.addrOk job d 24 (item * n) = true → s0.fetch d 24 (item * n) = some bs → (∀ k < n, zeroRun bs (item * k + 4) 60 = true) →
        items.all (fun x => decide (x.1 < ixNodes v.image) && recOk v.image x.2) = true →
        exec (.indexWrite job well d) s = .next (s0.setIndex job h (o.setVer { v with writes := v.writes ++ [(descCtx kIndexWrite job well d, items)] }))) ∧
      (∀ q : List Byte, s.Serves kSearch job well d → dfld d 23 0 3 = 0 → 1 ≤ dfld d 18 0 11 → dfld d 18 0 11 ≤ dfld d 20 0 11 → dfld d 20 0 11 ≤ 1024 →
        (∀ i < 3, dfld d 22 0 6 / 4 ^ i % 4 ≠ 3) → fld d 384 6 = 0 → ((s.job job).conf = true → dhbm d 40 = true ∧ dhbm d 48 = true) →
        s0.addrOk job d 40 (ixDim v.image + ixDim v.image / 32) = true → s0.addrOk job d 48 (16 + 16 * dfld d 18 0 11) = true →
        s0.fetch d 40 (ixDim v.image + ixDim v.image / 32) = some q →
        ∃ (u : State) (x : Search), exec (.search job well d) s = .next (u.feedWalkers job) ∧ mget u.searches s.nextWork = some x ∧
          x.ctx = descCtx kSearch job well d ∧ x.index = h ∧ x.ver = v.ver ∧ x.epoch = v.epoch ∧ x.k = dfld d 18 0 11 ∧ x.l = dfld d 20 0 11 ∧
          x.query = q ∧ x.resAddr = daddr d 48 ∧ x.held = v.writes.length ∧ x.filters = [] ∧ u.sessions = s.sessions)) ∧
    (∀ (i : Nat) (o : Index) (v : IndexVer) (c : DescCtx) (items : List (Nat × List Byte)) (rest : List (DescCtx × List (Nat × List Byte))),
      s.power.ready = true → s.index job i = some o → o.versions.find? (fun v => !v.writes.isEmpty && v.users == 0) = some v →
      v.writes = (c, items) :: rest → o.current = some v.ver →
      ∃ (u : State) (p : Index) (x : IndexVer), exec (.indexWriteApply job i) s = .next ((u.complete c Code.ok).feedWalkers job) ∧ u.index job i = some p ∧
        x ∈ p.versions ∧ x.ver = v.ver ∧ x.image = items.foldl (fun im y => patch im (ixAt im y.1) y.2) v.image ∧ x.writes = rest ∧ x.epoch = v.epoch)

/-- R299: the queue of a walk: in order, without tombstoned nodes, and of at most L entries unless the entry points alone are more. -/
def Obligations.SearchOrder : Prop :=
  ∀ (im q : List Byte) (e l most : Nat),
    let w := walk im q e l most
    w.queue.Pairwise (fun a b => a.1 < b.1 ∨ (a.1 = b.1 ∧ a.2.1 ≤ b.2.1)) ∧ w.queue.length ≤ max l (at_ im 9 1) ∧ (∀ x ∈ w.queue, ixTomb im e x.2.1 = false) ∧
    (most ≠ 0 → w.expanded ≤ most)

/-- R308 to R311, R314, R315, R317, R319. -/
def Obligations.Tables : Prop :=
  ∀ (s : State) (job well : Nat) (d : Desc),
    let s0 := s.takenUp job well
    let h := dfld d 16 0 16
    (∀ im hs : List Byte, s.Serves kLoadTable job well d →
      let hot := dfld d 40 0 32
      let tier := dfld d 56 0 2
      let o := (s.table job h).getD emptyTable
      let rl := rowLen (tbDim im)
      let loc := (im.length - 256) / max 1 rl
      let hots := (List.range hot).map (fun k => at_ hs (8 * k) 8)
      let tails := (List.range loc).filter (fun r => !hots.contains r)
      let cold := grainsOf (tails.length * rl)
      let v := o.last % 0xFFFF + 1
      s0.loadImage job d 24 (dfld d 32 0 64) false 0 = .ok im → s0.addrOk job d 48 (8 * hot) = true → s0.fetch d 48 (8 * hot) = some hs →
      1 ≤ h → h ≤ 0xFFFE → tableOk im (dfld d 32 0 64) s.node = true → (∀ r ∈ hots, r < loc) → hots.Nodup → 2 ≤ tier → o.versions.length < 2 →
      s0.roomAfter job 0 (grainsOf (hot * rl) + grainsOf (8 * loc)) = true →
      (cold = 0 ∨ ∃ a u, s0.areaTake job tier (dfld d 57 0 8) cold (tails.flatMap (fun r => sub im (256 + r * rl) rl)) = .ok (a, u)) →
      ∃ (t : State) (p : Table) (x : TableVer), exec (.loadTable job well d) s = .next (t.complete (descCtx kLoadTable job well d) Code.ok v) ∧
        t.table job h = some p ∧ p.current = o.current ∧ p.versions = o.versions ++ [x] ∧ x.ver = v ∧ x.fresh = true ∧ x.dim = tbDim im ∧
        x.rows = tbRows im ∧ x.nodes = tbNodes im ∧ x.users = 0 ∧
        (∀ r < loc, ∃ e, mget x.rowMap r = some e ∧ e.bytes = sub im (256 + r * rl) rl ∧ e.tier = if r ∈ hots then 1 else tier) ∧
        t.sessions = s.sessions) ∧
    (∀ (o : Table) (y : TableVer), s.Serves kTableSwap job well d →
      let v := dfld d 18 0 16
      s.table job h = some o → o.versions.find? (fun y => y.ver == v) = some y →
      ∃ (t : State) (p : Table), exec (.tableSwap job well d) s = .next (t.complete (descCtx kTableSwap job well d) Code.ok) ∧
        t.table job h = some p ∧ p.current = some v ∧ p.items = o.items ∧ (∀ w ∈ p.versions, w.ver = v ∨ w.fresh = true ∨ o.busy w = true) ∧
        t.sessions = s.sessions) ∧
    (∀ (o : Table) (v : TableVer), s0.bindTable job h = .ok (o, v) →
      (∀ ob ib wb : List Byte, s.Serves kEmbedLookup job well d →
        let nb := dfld d 18 0 16
        let fmt := dfld d 20 0 1
        let off := (List.range (nb + 1)).map (fun b => at_ ob (4 * b) 4)
        let n := off.getD nb 0
        let idx := (List.range n).map (fun i => at_ ib (8 * i) 8)
        nb ≠ 0 → dfld d 20 1 5 ≤ 16 → daddr d 48 % 64 = 0 → s0.addrOk job d 32 (4 * (nb + 1)) = true →
        s0.addrOk job d 48 (nb * bagStride v.dim fmt) = true → ((s.job job).conf = true → dhbm d 48 = true) →
        s0.fetch d 32 (4 * (nb + 1)) = some ob →
        (∀ b < nb, off.getD b 0 ≤ off.getD (b + 1) 0 ∧ off.getD (b + 1) 0 - off.getD b 0 ≤ 65536) →
        s0.addrOk job d 24 (8 * n) = true → s0.addrOk job d 40 (n + cdiv n 32) = true → s0.fetch d 24 (8 * n) = some ib →
        s0.fetch d 40 (n + cdiv n 32) = some wb → (∀ r ∈ idx, r < v.rows) →
        ∃ (t : State) (x : Lookup), exec (.embedLookup job well d) s = .next t ∧ mget t.lookups s.nextWork = some x ∧
          x.ctx = descCtx kEmbedLookup job well d ∧ x.table = h ∧ x.ver = v.ver ∧ x.idx = idx ∧ x.off = off ∧ x.weights = wb ∧ x.left = nb ∧
          x.outAddr = daddr d 48 ∧ t.table job h = some (o.setVer { v with users := v.users + 1 }) ∧ t.sessions = s.sessions ∧ t.hbm = s.hbm) ∧
      (∀ bs : List Byte, s.Serves kTableUpdate job well d →
        let step := dfld d 20 0 32
        let n := dfld d 40 0 32
        let item := 8 + 4 * v.dim
        o.applied.all (fun a => decide (a < step)) = true → s0.addrOk job d 24 (item * n) = true → s0.fetch d 24 (item * n) = some bs →
        (∀ k < n, at_ bs (item * k) 8 < v.rows) →
        ((s.job job).updBytes + n * item ≤ s0.updCap job o step * 2 ^ 20) →
        ∃ (t : State) (p : Table), exec (.tableUpdate job well d) s = .next (t.complete (descCtx kTableUpdate job well d) Code.ok) ∧
          t.table job h = some p ∧ p.versions = o.versions ∧ p.items.take o.items.length = o.items ∧
          (p.items.drop o.items.length).map (fun i => (i.node, i.step, i.row, i.lr.toNat, i.ver)) =
            (((List.range n).map (fun k => at_ bs (item * k) 8)).filter (fun r => v.owner r == s.node)).map (fun r =>
              (s.node, step, v.local_ r, dfld d 44 0 32, v.ver)) ∧ t.sessions = s.sessions) ∧
      (s.Serves kTableStep job well d →
        let step := dfld d 20 0 32
        let c := descCtx kTableStep job well d
        (v.nodes.length ≤ 1 ∨ (s.job job).fabGroups.any (fun g => g.2.failed && v.nodes.all (fun n => g.2.nodes.contains n)) = false) →
        o.stepWait = none → (∀ k, o.doneStep = some k → step = k + 1) → o.failed.contains step = false → 0 < dfld d 44 0 32 →
        ∃ (t : State) (p : Table), exec (.tableStep job well d) s = .next t ∧ t.table job h = some p ∧ p.marks = (s.node, step) :: o.marks ∧
          p.items = o.items ∧ p.versions = o.versions ∧
          p.stepWait = some (c, step, if v.nodes.all (fun n => ((s.node, step) :: o.marks).contains (n, step)) then none else some (s.now + dfld d 44 0 32)) ∧
          t.sessions = s.sessions) ∧
      (∀ bs : List Byte, s.Serves kMigrateRows job well d → dfld d 56 0 2 = 1 →
        let n := dfld d 40 0 32
        let rows := (List.range n).map (fun k => at_ bs (8 * k) 8)
        s0.addrOk job d 24 (8 * n) = true → s0.fetch d 24 (8 * n) = some bs → n ≠ 0 → rows.Nodup →
        (∀ r ∈ rows, ∃ e, mget v.rowMap r = some e ∧ e.migrating = none) →
        s0.roomAfter job 0 (grainsOf ((2 * v.rowMap.length + v.olds.length) * rowLen v.dim) + grainsOf (8 * v.rowMap.length)) = true →
        ∃ (t : State) (p : Table) (x : TableVer), exec (.migrateRows job well d) s = .next t ∧ t.table job h = some p ∧ x ∈ p.versions ∧ x.ver = v.ver ∧
          (∀ r ∈ rows, ∃ e, mget x.rowMap r = some e ∧ e.migrating.isSome = true ∧
            (mget v.rowMap r).map (fun y => (y.tier, y.region, y.offset, y.bytes)) = some (e.tier, e.region, e.offset, e.bytes)) ∧
          (∀ r, r ∉ rows → mget x.rowMap r = mget v.rowMap r) ∧ t.sessions = s.sessions)) ∧
    (∀ (m : Model) (ls : List Byte) (texts : List (List Byte)), s.Serves kEmbedDocs job well d →
      let mh := dfld d 16 0 8
      let n := dfld d 18 0 16
      let vec := if bit d 137 then 4 * m.width else m.width + m.width / 32
      let stride := cdiv (16 + vec) 64 * 64
      let docs := (List.range n).map (fun k =>
        (decide (2 ^ 63 ≤ at_ ls (16 * k) 8), at_ ls (16 * k) 8 % 2 ^ 63, 4 * at_ ls (16 * k + 8) 4))
      s.modelOf job mh = some m → m.damaged = false → m.encoder = true → n ≠ 0 → dfld d 20 0 17 ≤ 65536 → daddr d 40 % 64 = 0 → bit d 136 = true →
      s0.addrOk job d 32 (16 * n) = true → s0.addrOk job d 40 (stride * n) = true → ((s.job job).conf = true → dhbm d 40 = true) →
      s0.fetch d 32 (16 * n) = some ls → (∀ x ∈ docs, s0.badAddr job x.1 x.2.1 x.2.2 = false) → docs.mapM (fun x => s0.rd x.1 x.2.1 x.2.2) = some texts →
      (∀ b ∈ texts, ∀ k < b.length / 4, at_ b (4 * k) 4 < m.vocab) →
      ∃ t : State, exec (.embedDocs job well d) s = .next (t.complete (descCtx kEmbedDocs job well d) Code.ok) ∧ t.sessions = s.sessions ∧ t.jobs = s0.jobs)

/-- R313 to R318, R358. -/
def Obligations.TableTraffic : Prop :=
  ∀ (s : State), s.power.ready = true →
    (∀ (node : Nat) (tag : W32) (table step row : Nat) (lr : W32) (grad : List W32), s.jobOfTag tag = none →
      exec (.gatherRequest node tag table row) s = .next (s.dropped 0) ∧ exec (.updateItem node tag table step row lr grad) s = .next (s.dropped 0) ∧
      exec (.stepMark node tag table step) s = .next (s.dropped 0)) ∧
    (∀ (node : Nat) (tag : W32) (j h : Nat) (o : Table) (v : TableVer), s.jobOfTag tag = some j → s.table j h = some o → o.cur = some v →
      (∀ (row : Nat) (e : TableRow), v.owner row = s.node → row < v.rows → v.damaged = false → mget v.rowMap (v.local_ row) = some e →
        exec (.gatherRequest node tag h row) s = .next (s.send j 6 Msg.response node h (tableArg h) (leBytes 8 row ++ e.bytes)).1) ∧
      (∀ (step row : Nat) (lr : W32) (grad : List W32), v.owner row = s.node → row < v.rows → grad.length = v.dim →
        o.applied.all (fun a => decide (a < step)) = true → (s.job j).updBytes + 8 + 4 * grad.length ≤ s.updCap j o step * 2 ^ 20 →
        let i : UpdItem := { node := node, step := step, row := v.local_ row, lr := lr, grad := grad, ver := v.ver, cap := s.updCap j o step }
        exec (.updateItem node tag h step row lr grad) s = .next (s.setTable j h { o with items := o.items ++ [i] })) ∧
      (∀ (step : Nat), o.marks.contains (node, step) = false → o.doneStep.all (fun n => decide (n < step)) = true →
        (o.stepWait = none → exec (.stepMark node tag h step) s = .next (s.setTable j h { o with marks := (node, step) :: o.marks })) ∧
        (∀ (c : DescCtx) (due : Nat), o.stepWait = some (c, step, some due) → o.failed.contains step = false →
          v.nodes.all (fun n => ((node, step) :: o.marks).contains (n, step)) = true →
          let o' : Table := { o with marks := (node, step) :: o.marks, stepWait := some (c, step, none) }
          exec (.stepMark node tag h step) s = .next ((s.setTable j h o').enqueue Cls.gather
             { job := j, share := 0, req := 0, since := 0, cost := 0, work := .apply j h })))) ∧
    (∀ (j h step due : Nat) (o : Table) (v : TableVer) (c : DescCtx), s.table j h = some o → o.cur = some v → o.stepWait = some (c, step, some due) →
      due ≤ s.now → v.nodes.all (fun n => o.marks.contains (n, step)) = false →
      ∃ (t : State) (p : Table), exec (.stepBudgetTimer j h step) s = .next (t.complete c Code.stepIncomplete) ∧ t.table j h = some p ∧
        p.stepWait = none ∧ p.doneStep = some step ∧ p.applied = o.applied ∧ p.items = o.items.filter (fun i => decide (step < i.step)) ∧
        p.current = o.current ∧ t.sessions = s.sessions ∧ t.hbm = s.hbm) ∧
    (∀ (j h row tier region lim : Nat) (o : Table) (v : TableVer) (e : TableRow), s.table j h = some o →
      o.versions.find? (fun v => (mget v.rowMap row).any (fun e => e.migrating.isSome)) = some v → mget v.rowMap row = some e →
      e.migrating = some (tier, region, lim) → o.migWait = [] → o.current = some v.ver → (o.versions.map (·.ver)).Nodup →
      (∃ (t : State) (p : Table) (x : TableVer) (n : TableRow), exec (.rowCopyDone j h row true) s = .next t ∧ t.table j h = some p ∧
        p.migEpoch = o.migEpoch + 1 ∧ x ∈ p.versions ∧ x.ver = v.ver ∧ mget x.rowMap row = some n ∧ n.tier = tier ∧ n.region = region ∧ n.bytes = e.bytes ∧
        n.migrating = none ∧ (∀ r, r ≠ row → mget x.rowMap r = mget v.rowMap r) ∧ t.sessions = s.sessions) ∧
      (∃ (t : State) (p : Table) (x : TableVer) (n : TableRow), exec (.rowCopyDone j h row false) s = .next t ∧ t.table j h = some p ∧
        p.migEpoch = o.migEpoch ∧ x ∈ p.versions ∧ x.ver = v.ver ∧ mget x.rowMap row = some n ∧ n.tier = e.tier ∧ n.region = e.region ∧
        n.offset = e.offset ∧ n.bytes = e.bytes ∧ n.migrating = none ∧ t.sessions = s.sessions))

/-- R345 to R347, R352 to R356, R361, R420, R485, R486. -/
def Obligations.FabricPorts : Prop :=
  ∀ s : State,
    (s.regsUp = true →
      (∀ (n : Nat) (v : W64), n < 16 →
        (onlyFields v [(0, 4)] = true → ∃ t : State, exec (.portCtlWrite n v) s = .next t ∧ t.reg (Reg.portCtl n) = v ∧
          (∀ l, l = 2 * n ∨ l = 2 * n + 1 → (t.port l).ver = 0 ∧ (t.port l).state =
            (match mget s.errs.units (unitKey .port l) with
              | some u => if u.state = 2 then PortState.probation else PortState.failed
              | none => if bit v 0 = true ∧ (bit v 1 = true ∨ l % 2 = 0) then PortState.training else PortState.down)) ∧
          t.sessions = s.sessions ∧ t.reqs = s.reqs ∧ t.hbm = s.hbm) ∧
        (onlyFields v [(0, 4)] = false → exec (.portCtlWrite n v) s = .fault .unpredictableDevice)) ∧
      (∀ port ver lanes serial node pport : Nat,
        let u := mget s.errs.units (unitKey .port port)
        let e := exec (.linkUp port ver lanes serial node pport) s
        (s.linkAllowed port ver lanes = true → (s.port port).state ≠ PortState.up → u.all (fun x => x.state != 1) = true →
          ∃ t : State, e = .next t ∧ (t.port port).state = (if u.isSome then PortState.probation else PortState.up) ∧ (t.port port).ver = ver ∧
            (t.port port).lanes = lanes ∧ (t.port port).peerSerial = serial ∧ (t.port port).peer = node ∧ (t.port port).peerPort = pport ∧
            (u = none → s.fabric.gen < t.fabric.gen) ∧ (u.isSome = true → t.fabric.gen = s.fabric.gen ∧ t.fabric.topo = s.fabric.topo) ∧
            (∀ l, l ≠ port → (t.port l).state = (s.port l).state) ∧ t.sessions = s.sessions ∧ t.hbm = s.hbm) ∧
        (s.linkAllowed port ver lanes = false → e = .next s)) ∧
      (∀ (port : Nat) (failed : Bool), port < 32 →
        ∃ t : State, exec (.linkDown port failed) s = .next t ∧ (t.port port).ver = 0 ∧
          (failed = true → (t.port port).state = PortState.failed ∧ (mget t.errs.units (unitKey .port port)).map (·.state) = some 1) ∧
          (failed = false → (t.port port).state = s.portIdle port ∧ t.errs = s.errs) ∧ t.sessions = s.sessions ∧ t.hbm = s.hbm) ∧
      (∀ port serial node pport : Nat, (s.port port).state = PortState.up →
        let o := s.port port
        let e := exec (.probe port serial node pport) s
        (o.peerSerial = serial ∧ o.peer = node ∧ o.peerPort = pport → e = .next s) ∧
        (o.peerSerial ≠ serial ∨ o.peer ≠ node ∨ o.peerPort ≠ pport →
          ∃ t : State, e = .next t ∧ (t.port port).peerSerial = serial ∧ (t.port port).peer = node ∧ (t.port port).peerPort = pport ∧
            (t.port port).state = PortState.up ∧ s.fabric.gen < t.fabric.gen ∧ t.sessions = s.sessions)) ∧
      (∀ r : TopoRec,
        let old := s.fabric.topo.find? (fun x => x.serial == r.serial)
        (r.serial = ownSerial ∨ old.any (fun x => decide (r.gen ≤ x.gen)) = true → exec (.topologyRecord r) s = .next s) ∧
        (r.serial ≠ ownSerial → old.all (fun x => decide (x.gen < r.gen)) = true → old.all (fun x => x.node == r.node) = true →
          ∃ (t : State) (x : TopoRec), exec (.topologyRecord r) s = .next t ∧ x ∈ t.fabric.topo ∧ x.serial = r.serial ∧ x.gen = r.gen ∧ x.links = r.links ∧
            s.fabric.changes < t.fabric.changes ∧ t.sessions = s.sessions)) ∧
      (∀ serial node : Nat, 1 ≤ node → node < 0xFFFF →
        (serial = ownSerial → s.node = 0xFFFF →
          ∃ t : State, exec (.identifierAssignment serial node) s = .next t ∧ t.node = node ∧ t.fabric.gen = s.fabric.gen + 1 ∧ t.sessions = s.sessions) ∧
        (serial = ownSerial → s.node ≠ 0xFFFF → exec (.identifierAssignment serial node) s = .next s))) ∧
    (∀ (job well : Nat) (d : Desc), s.Serves kSetGroup job well d →
      let s0 := s.takenUp job well
      let h := dfld d 16 0 8
      let n := dfld d 17 0 7
      let c := descCtx kSetGroup job well d
      (h = 0 ∨ n = 1 ∨ 64 < n → exec (.setGroup job well d) s = .next (s0.complete c Code.badGroup)) ∧
      (h ≠ 0 → n = 0 → ∃ t : State, exec (.setGroup job well d) s = .next (t.complete c Code.ok) ∧ mget (t.job job).fabGroups h = none ∧
        (∀ k, k ≠ h → mget (t.job job).fabGroups k = mget (s.job job).fabGroups k) ∧ t.models = s.models) ∧
      (∀ bs : List Byte, h ≠ 0 → 2 ≤ n → n ≤ 64 → s0.addrOk job d 24 (2 * n) = true → s0.fetch d 24 (2 * n) = some bs →
        let nodes := (List.range n).map (fun k => at_ bs (2 * k) 2)
        rising nodes = true → nodes.contains s.node = true → s.node ≠ 0xFFFF →
        (∀ k ∈ nodes, k = s.node ∨ ∃ r ∈ s.fabric.topo, r.node = k) →
        ∃ (t : State) (g : FabGroup), exec (.setGroup job well d) s = .next (t.complete c Code.ok) ∧ mget (t.job job).fabGroups h = some g ∧ g.nodes = nodes ∧
          g.collUs = (if dfld d 20 0 32 = 0 then 10000 else dfld d 20 0 32) ∧ g.digest = sha256 bs ∧
          ((mget (s.job job).fabGroups h).all (fun o => !o.failed) = true → g.failed = false ∧ t.models = s.models) ∧
          (∀ k, k ≠ h → mget (t.job job).fabGroups k = mget (s.job job).fabGroups k) ∧ t.sessions = s.sessions))

/-- R349 to R351, R356 to R358, R72, R370. -/
def Obligations.FabricPackets : Prop :=
  ∀ s : State,
    (s.power.ready = true →
      (∀ (node vc seq : Nat),
        let hit := s.fabric.unacked.find? (fun u => u.pkt.dst == node && u.pkt.vc == vc && u.pkt.seq == seq)
        (hit = none → exec (.acknowledgement node vc seq) s = .next s ∧ exec (.nack node vc seq) s = .next s) ∧
        (∀ u : OutPkt, hit = some u →
          let left := s.fabric.unacked.erase u
          let a : State := { s with fabric := { s.fabric with unacked := left, unreachable := s.fabric.unreachable.filter (· != node) } }
          let b : State := { s with fabric := { s.fabric with unacked := left } }
          (u.pkt.type ≠ Msg.send → exec (.nack node vc seq) s = .next b) ∧
          (u.pkt.type ≠ Msg.send → u.pkt.type ≠ Msg.peerFree → exec (.acknowledgement node vc seq) s = .next a) ∧
          (u.pkt.type = Msg.peerFree → exec (.acknowledgement node vc seq) s = .next (a.peerSettled node (some u.pkt.arg))) ∧
          (∀ (j c n : Nat) (rec : List Byte), u.pkt.type = Msg.send → s.sendersTo node (some seq) = [(j, c, n, rec)] →
            exec (.acknowledgement node vc seq) s = .next ((a.dropSend j c node (some seq)).endProg n) ∧
            exec (.nack node vc seq) s = .next (b.sendFails node (some seq))))) ∧
      (∀ node vc : Nat,
        let due (u : OutPkt) : Bool := u.pkt.dst == node && u.pkt.vc == vc && decide (u.last + 100 ≤ s.now)
        ∃ t : State, exec (.retransmitTimer node vc) s = .next t ∧
          t.fabric.unacked = s.fabric.unacked.map (fun u => if due u then { u with last := s.now } else u) ∧ t.sessions = s.sessions ∧ t.jobs = s.jobs ∧
          (s.fabric.unacked.any due = false → t = s)) ∧
      (∀ node : Nat,
        let v := fld (s.reg Reg.nlmOwn) 48 16
        let us := if v = 0 then 10000 else 100 * v
        let late := s.fabric.unacked.any (fun u => u.pkt.dst == node && decide (u.first + us ≤ s.now))
        let f : Fabric := { s.fabric with unreachable := node :: s.fabric.unreachable.filter (· != node) }
        exec (.unreachable node) s = .next (if late then ({ s with fabric := f } : State).nodeLost node else s)) ∧
      (∀ (node : Nat) (tag : W32) (addr : W64) (gs : List (List Byte)) (ttl j : Nat), s.jobOfTag tag = some j →
        let key := gAddr addr % 2 ^ 32
        let count := gs.length
        let range := s.ftl.cisternRange
        (s.ftl.state ≠ 0 → s.ftl.state ≠ 3 → mget s.fabric.held key = none → s.ftl.runFree key count range.1 range.2 = true →
          ∃ (t : State) (h : HeldExtent), exec (.peerTierGrains node tag true addr gs ttl) s = .next t ∧ mget t.fabric.held key = some h ∧ h.owner = node ∧
            h.job = j ∧ h.count = count ∧ h.grains = gs ∧ h.tag = tag ∧ h.expiry = (if ttl = 0 then none else some (s.now + ttl)) ∧
            (∀ k, k ≠ key → mget t.fabric.held k = mget s.fabric.held k) ∧ t.sessions = s.sessions) ∧
        (∀ h : HeldExtent, mget s.fabric.held key = some h →
          exec (.peerTierGrains node tag true addr gs ttl) s = .next s ∧
          (h.tag ≠ tag → exec (.peerTierGrains node tag false addr gs ttl) s = .next s) ∧
          (h.tag = tag → ∃ t : State, exec (.peerTierGrains node tag false addr gs ttl) s = .next t ∧ t.fabric.held = s.fabric.held ∧
            t.sessions = s.sessions))) ∧
      (∀ (node : Nat) (addr : W64) (h : HeldExtent),
        let key := gAddr addr % 2 ^ 32
        mget s.fabric.held key = some h →
        (h.owner = node → ∃ t : State, exec (.peerFree node addr) s = .next t ∧ mget t.fabric.held key = none ∧
          (∀ k, k ≠ key → mget t.fabric.held k = mget s.fabric.held k) ∧ t.sessions = s.sessions) ∧
        (h.owner ≠ node → exec (.peerFree node addr) s = .next s) ∧
        (∀ e : Nat, h.expiry = some e → e ≤ s.now → ∃ t : State, exec (.peerExtentExpiry addr) s = .next t ∧ mget t.fabric.held key = none ∧
          t.sessions = s.sessions) ∧
        (h.expiry.all (fun e => decide (s.now < e)) = true → exec (.peerExtentExpiry addr) s = .next s))) ∧
    (s.regsUp = true →
      (∀ p : Packet,
        let q : Packet := { p with hops := p.hops - 1 }
        (p.dst = s.node → exec (.packetForward p) s = .next s) ∧
        (p.dst ≠ s.node → p.hops ≤ 1 → exec (.packetForward p) s = .next (s.dropped 48)) ∧
        (p.dst ≠ s.node → 1 < p.hops → s.choosePort (s.portsTo p.dst none) q = none → exec (.packetForward p) s = .next (s.dropped 32)) ∧
        (∀ l : Nat, p.dst ≠ s.node → 1 < p.hops → s.choosePort (s.portsTo p.dst none) q = some l →
          ∃ t : State, exec (.packetForward p) s = .next t ∧ (t.port l).queue.Sublist ((s.port l).queue ++ [q]) ∧
            (∀ k, k ≠ l → t.port k = s.port k) ∧ t.sessions = s.sessions ∧ t.jobs = s.jobs ∧ t.hbm = s.hbm)) ∧
      (∀ port vc units : Nat,
        let o := s.port port
        (o.state ≠ PortState.up → o.state ≠ PortState.probation → exec (.creditGrant port vc units) s = .next s) ∧
        (o.state = PortState.up ∨ o.state = PortState.probation →
          ∃ t : State, exec (.creditGrant port vc units) s = .next t ∧ (t.port port).queue.Sublist o.queue ∧
            ((t.port port).queue = o.queue → mgetD (t.port port).credits vc 0 = mgetD o.credits vc 0 + units) ∧
            (∀ k, k ≠ port → t.port k = s.port k) ∧ t.sessions = s.sessions ∧ t.jobs = s.jobs)))

/-- R364, R365, R367, R368, R371 to R373. -/
def Obligations.OwnershipSent : Prop :=
  ∀ s : State,
    (∀ (job well : Nat) (d : Desc) (bs : List Byte),
      let s0 := s.takenUp job well
      let i := dfld d 16 0 24
      let s1 := (s0.opened i).touch i
      let e : Desc := BitVec.ofNat 512 (leNat bs)
      let tool := dfld e 0 0 16 == 0x0103
      let s2 : State := { s1 with freeCtr := s1.freeCtr + 1 }
      let prior := if (s2.sess i).state = .moving then none else s2.turnState i tool
      let offered : Prop := ∃ (t : State) (k : Nat) (r : Xfer), exec (.splitTurn job well d) s = .next t ∧ t.xfer k = some r ∧ r.outbound = true ∧
        r.session = i ∧ r.epoch = (s1.sess i).ownerEpoch + 1 ∧ r.peer = dfld d 20 0 16 ∧ r.phase = .offered ∧
        r.ctx = some (descCtx kSplitTurn job well d) ∧ r.turn = some e ∧ ((s1.aux i).move = none → t.sessions = s1.sessions)
      s.Serves kSplitTurn job well d → s0.Names job i → s1.addrOk job d 24 64 = true → s1.fetch d 24 64 = some bs →
      (dfld e 0 0 16 = 0x0102 ∨ (dfld e 0 0 16 = 0x0103 ∧ bit e 367 = false)) → dfld e 16 0 24 = i → onlyFields e (imageFields tool) = true →
      s1.routeErr job (dfld d 20 0 16) = none → (s1.aux i).unsettled = false → s1.fabric.xfers.length < 65536 → s1.outXfer i = none →
      (∀ u : TurnIn, s2.turnCheck job i (dfld e 0 0 16) e prior.isSome (Config.freeNat s1.freeCtr % 65536) true = { got := .ok u, spoilt := false } →
        offered) ∧
      (∀ (m : Model) (v : ByteVer) (ids : List Byte),
        let n := dfld e 40 0 32
        (s1.sess i).state = (if tool then .toolWait else .open) → s1.gone i = false → (s1.sess i).grammar = 0 → (s1.sess i).adapter = 0xFFFF →
        dfld e 48 0 64 = 0 → dfld e 24 0 21 ≠ 0 → dfld e 16 28 3 ≤ 4 → dfld e 44 16 16 = 0 → s1.modelOf job (s1.sess i).model = some m →
        m.damaged = false → m.digest = (s1.aux i).modelDigest → (mget (s1.job job).vocabs (s1.sess i).model).bind ByteObj.cur = some v →
        v.damaged = false → (s1.job job).conf = false → bit e 365 = true → 1 ≤ n → s1.addrOk job e 32 (4 * n) = true →
        s1.fetch e 32 (4 * n) = some ids → (∀ k < n, at_ ids (4 * k) 4 < vocabSize v.image) → (s1.sess i).len + n ≤ 2 ^ 20 →
        s1.liveReqs < 65536 → s1.reqCount job < fld (s1.reg (Reg.jobQuota job)) 32 17 → offered)) ∧
    (s.power.ready = true → ∀ (n : Nat) (x : Xfer), s.xfer n = some x → x.outbound = true →
      let i := x.session
      (x.phase = .offered →
        (x.turn = none → exec (.ready n) s = .next ((s.setXfer n { x with phase := .sending }).enqueueMove i x.total)) ∧
        (∀ (e : Desc) (c : DescCtx), x.turn = some e → x.ctx = some c → exec (.ready n) s = .next (s.readySplit n x c e)) ∧
        (∀ reason : Nat, ∃ t : State, exec (.refused n reason) s = .next (t.complete? x.ctx Code.handoffRefused reason 0 i) ∧ t.xfer n = none ∧
          (∀ m : Move, (s.aux i).move = some m → (t.sess i).state = m.src ∧ (t.aux i).move = none) ∧ (∀ k, k ≠ i → t.sess k = s.sess k))) ∧
      (∀ epoch index : Nat,
        (∀ m : Move, (s.sess i).state = .moving → (s.aux i).move = some m → m.kind = .handoff → m.abandoned = false → x.turn = none → x.phase ≠ .reclaimed →
          ∃ t : State, exec (.handoffIn n epoch index) s = .next (t.complete? x.ctx Code.ok index 0 i) ∧ (t.sess i).state = .free ∧ t.xfer n = none ∧
            (∀ k, k ≠ i → (t.sess k).state = (s.sess k).state)) ∧
        (x.phase = .reclaimed → exec (.handoffIn n epoch index) s = .next (s.own x.job n x.peer Msg.reclaimed (leBytes 4 (s.sess i).ownerEpoch)) ∧
          exec (.relinquished n epoch) s = .next (s.delXfer n)) ∧
        (∀ a : ReqAux, (x.phase = .sending ∨ x.phase = .sent) → x.turn.isSome = true → s.raux? x.req = some a → a.xfer = n →
          exec (.handoffIn n epoch index) s = .next (((s.handedCarried x index).own x.job n x.peer Msg.relinquished (leBytes 4 epoch)).delXfer n))) ∧
      exec (.mine n) s = .next (s.setXfer n { x with waitIn := true, queries := 0 }) ∧
      (∀ m : Move, x.phase ≠ .reclaimed → (x.turn = none ∨ x.phase = .offered) → (s.aux i).move = some m → (s.aux i).damaged = false →
        (s.aux i).closing = [] →
        let back (u : Res) : Prop := ∃ t : State, u = .next t ∧ (t.sess i).state = m.src ∧ (t.sess i).ownerEpoch = x.epoch + 1 ∧
          (t.xfer n).map (·.phase) = some .reclaimed ∧ (∀ k, k ≠ i → t.sess k = s.sess k)
        back (exec (.notMine n) s) ∧
        (s.fabric.peerFrees = [] → x.since + s.orphanUs ≤ s.now → x.waitIn = false → s.queryMax ≤ x.queries → back (exec (.orphanTimer n) s))) ∧
      (x.turn.isSome = true → x.phase ≠ .offered → x.phase ≠ .reclaimed → exec (.notMine n) s = .next (s.splitBack n x true)) ∧
      (s.fabric.peerFrees = [] → x.phase ≠ .reclaimed → x.waitIn = false → x.since + s.orphanUs ≤ s.now → x.queries < s.queryMax →
        ∃ t : State, exec (.orphanTimer n) s = .next t ∧ t.xfer n = some { x with queries := x.queries + 1, since := s.now } ∧ t.sessions = s.sessions) ∧
      (x.turn.isSome = true → (x.phase = .sending ∨ x.phase = .sent) → x.since + (if x.phaseUs = 0 then 20000 else x.phaseUs) ≤ s.now →
        exec (.phaseTimer n) s = .next (s.splitBack n x true)))

/-- R364 to R368, R372, R373. -/
def Obligations.OwnershipReceived : Prop :=
  ∀ s : State, s.power.ready = true →
    (∀ (n : Nat) (m : HandoffMsg), s.xfer n = none →
      (s.jobOfTag m.tag = none → exec (.handoffOut n m) s = .next ((s.refuseXfer n).ownRaw n m.sender Msg.refused m.tag [BitVec.ofNat 8 Reason.noJob])) ∧
      (∀ j : Nat, s.jobOfTag m.tag = some j → s.modelByDigest j m.modelDigest m.pairs = none →
        ∃ t : State, exec (.handoffOut n m) s = .next t ∧ (t.xfer n).map (·.phase) = some .refused ∧ t.sessions = s.sessions) ∧
      (∀ j : Nat, s.jobOfTag m.tag = some j → (s.modelByDigest j m.modelDigest m.pairs).isSome = true →
        (m.adapter = 0xFFFF ∨ ((s.job j).adapterCurrent m.adapter).isSome = true) → s.sessions.length < 2 ^ 24 →
        s.sessCount j < fld (s.reg (Reg.jobQuota j)) 0 25 → s.fabric.xfers.length < 65536 → toCistern m = false → s.t1Room j m.grains = true →
        (m.carried = true → ((s.job j).compWell m.cwell).ring.isSome = true) →
        ∃ (t : State) (x : Xfer), exec (.handoffOut n m) s = .next t ∧ t.xfer n = some x ∧ x.outbound = false ∧ x.phase = .receiving ∧ x.peer = m.sender ∧
          x.epoch = m.epoch ∧ x.total = m.grains ∧ x.got = 0 ∧ x.msg = some m ∧ x.job = j ∧ t.sessions = s.sessions ∧ t.hbm = s.hbm)) ∧
    (∀ (n : Nat) (x : Xfer) (m : HandoffMsg), s.xfer n = some x → x.outbound = false → x.phase = .receiving → x.msg = some m → toCistern m = false →
      m.carried = false →
      (∀ (g : XferGrain) (k : Nat), k ≠ x.got → exec (.handoffGrain n k .ok g) s = .next s) ∧
      (∀ g : XferGrain, exec (.handoffGrain n x.got .damaged g) s = .next (s.countReg Reg.checkStat 0 32 2)) ∧
      (∀ g : SGrain, x.got + 1 < x.total →
        ∃ (t : State) (y : Xfer), exec (.handoffGrain n x.got .ok (.kv g)) s = .next t ∧ t.xfer n = some y ∧ y.got = x.got + 1 ∧
          y.grains.length = x.grains.length + 1 ∧ y.grains.take x.grains.length = x.grains ∧
          y.grains.getLast?.map (fun h => (h.lgn, h.kind, h.slots, h.epoch)) = some (g.lgn, g.kind, g.slots, m.epoch) ∧ t.sessions = s.sessions) ∧
      (∀ (g : SGrain) (h : Nat) (md : Model), x.got + 1 = x.total → s.modelByDigest x.job m.modelDigest m.pairs = some (h, md) → s.sessions.length < 2 ^ 24 →
        ∃ (t : State) (i : Nat), exec (.handoffGrain n x.got .ok (.kv g)) s = .next t ∧ (s.sess i).state = .free ∧ i < 2 ^ 24 ∧
          (t.sess i).state = stateOfCode m.srcState ∧ (t.sess i).job = x.job ∧ (t.sess i).model = h ∧ (t.sess i).ownerEpoch = m.epoch ∧
          (t.sess i).len = m.len ∧ (t.sess i).retained = m.retained ∧ (t.sess i).seed = m.seed ∧ (t.sess i).scounter = m.scounter ∧
          (t.sess i).toolp = m.toolp ∧ (t.aux i).unsettled = true ∧ (t.xfer n).map (fun y => (y.phase, y.session)) = some (.entered, i) ∧
          (∀ k, k ≠ i → t.sess k = s.sess k))) ∧
    (∀ (n : Nat) (x : Xfer), s.xfer n = some x → x.outbound = false →
      (x.phase = .entered →
        exec (.relinquished n x.epoch) s = .next ((s.modAux x.session (fun a => { a with unsettled := false })).delXfer n) ∧
        exec (.query n x.epoch) s = .next (s.answerQuery n Msg.mine) ∧ exec (.abort n) s = .next s ∧
        (∀ epoch : Nat, epoch ≤ (s.sess x.session).ownerEpoch → exec (.reclaimed n epoch) s = .next s) ∧
        (∀ epoch : Nat, (s.sess x.session).ownerEpoch < epoch →
          exec (.reclaimed n epoch) s = .next (((s.loseClaim x.session).own x.job n x.peer Msg.relinquished (leBytes 4 epoch)).delXfer n)) ∧
        (s.fabric.peerFrees = [] → x.since + s.orphanUs ≤ s.now →
          exec (.orphanTimer n) s =
            .next ((s.setXfer n { x with since := s.now }).own x.job n x.peer Msg.handoffIn (leBytes 4 x.epoch ++ leBytes 4 x.session)))) ∧
      (x.phase = .receiving →
        let off (u : Res) : Prop := ∃ (t : State) (y : Xfer), u = .next t ∧ t.xfer n = some y ∧ y.phase = .refused ∧ y.grains = [] ∧ y.outbound = false ∧
          t.sessions = s.sessions
        off (exec (.abort n) s) ∧ off (exec (.query n x.epoch) s) ∧
        (x.msg.any (·.carried) = true → x.offeredAt + (if x.phaseUs = 0 then 20000 else x.phaseUs) ≤ s.now → off (exec (.phaseTimer n) s)))) ∧
    (∀ n epoch : Nat, s.xfer n = none →
      (∃ t : State, exec (.query n epoch) s = .next t ∧ (t.xfer n).map (·.phase) = some .refused ∧ t.sessions = s.sessions) ∧
      exec (.ready n) s = .next s ∧ exec (.notMine n) s = .next s ∧ exec (.relinquished n epoch) s = .next s)

/-- R361 to R363. -/
def Obligations.Collectives : Prop :=
  (∀ (a b : BitVec 48), collOp 0 a b = a + b ∧ collOp 1 a b = (if sext 8 a.toNat < sext 8 b.toNat then b else a)) ∧
  ∀ (s : State) (job group : Nat), s.power.ready = true →
    (∀ (g : FabGroup) (p : CollPacket), mget (s.job job).fabGroups group = some g →
      let hit (c : Coll) : Bool := c.job == job && c.group == group && c.seq == p.seq
      (p.digest ≠ g.digest → exec (.collectivePacket job group p) s = .next (s.collFail job group)) ∧
      (p.digest = g.digest → s.fabric.colls.find? hit = none → exec (.collectivePacket job group p) s =
        .next (if p.seq < g.next then s else { s with fabric := { s.fabric with early := s.fabric.early ++ [(job, group, p)] } })) ∧
      (∀ c : Coll, p.digest = g.digest → s.fabric.colls.find? hit = some c → p.op = c.op →
        let n := g.nodes.length
        let first := if p.op = 2 then p.chunk else p.chunk + 1
        let last := if p.op = 2 then n - 1 else 2 * n - 2
        p.chunk < n → (first + p.hop) % n = s.rank g → 1 ≤ p.hop → p.hop ≤ last →
        let own := (chunkRange c.part.length n p.chunk).map (fun k => c.part.getD k 0)
        let elems := if p.op ≠ 2 ∧ p.hop < n then p.elems.zipWith (collOp p.op) own else p.elems
        let c' := if p.op = 2 ∨ n - 1 ≤ p.hop then { c with done := mput c.done p.chunk elems } else c
        let ended : Bool := if p.op = 2 then !c'.done.isEmpty else c'.done.length == n
        ∃ t : State, exec (.collectivePacket job group p) s = .next (if ended then t.collDone job group c.op (c'.done.flatMap (·.2)) else t) ∧
          t.fabric.colls = s.fabric.colls.filter (fun x => !hit x) ++ (if ended then [] else [c']) ∧
          (p.hop = last → t.fabric.sendSeq = s.fabric.sendSeq) ∧ t.sessions = s.sessions ∧ t.jobs = s.jobs ∧ t.serving = s.serving ∧ t.hbm = s.hbm ∧
          (∀ (op : Nat) (total : List (BitVec 48)),
            (s.modelOf job group = none ∨ (mgetD s.serving group {}).running = false ∨ (mgetD s.serving group {}).sharded = false) →
            t.models = s.models ∧ t.collDone job group op total = t))) ∧
    (∀ (seq : Nat) (c : Coll), s.fabric.colls.find? (fun c => c.job == job && c.group == group && c.seq == seq) = some c →
      (c.deadline ≤ s.now → exec (.collectiveTimeout job group seq) s = .next (s.collFail job group)) ∧
      (s.now < c.deadline → exec (.collectiveTimeout job group seq) s = .next s)) ∧
    (s.modelOf job group = none → (s.collFail job group).fabric.colls = s.fabric.colls.filter (fun c => !(c.job == job && c.group == group)) ∧
      (s.collFail job group).sessions = s.sessions)

/-- R401, R402, R405 to R407, R410, R411, R413. -/
def Obligations.Checkpoints : Prop :=
  (∀ (s : State) (job well : Nat) (d : Desc) (preempt : Bool),
    let k := if preempt then kPreemptNotice else kCheckpoint
    let s0 := s.takenUp job well
    let c := descCtx k job well d
    let e := exec (if preempt then .preemptNotice job well d else .checkpoint job well d) s
    let target := dfld d 32 0 3
    let grains := if bit d 262 then 3 else 1
    s.Serves k job well d →
    ((s.job job).ckpt.isSome = true → e = .next (s0.complete c Code.ckptBusy)) ∧
    ((s.job job).ckpt = none → (preempt = true → dfld d 36 0 32 ≠ 0) → dfld d 48 0 17 ≤ 65536 → dfld d 34 0 8 = 0 → dfld d 40 0 64 = 0 →
      bit d 259 = false → bit d 260 = false → bit d 261 = false →
      (target = 2 → dfld d 52 0 16 = 0 → dfld d 54 0 16 = 0 → dfld d 56 0 28 = 0 → s0.targetErr job 2 0 = none → s.ftl.state ≠ 3 →
        (s0.generalPlace job grains []).isSome = true →
        ∃ t : State, e = .next t ∧ t.sessions = s.sessions ∧ t.reqs = s.reqs ∧ (t.job job).quiesced = ((s.job job).quiesced || preempt) ∧
          ((∃ p : Ckpt, (t.job job).ckpt = some p ∧ p.ctx = c ∧ p.manifest.isSome = true ∧ p.id = BitVec.ofNat 64 (dfld d 16 0 64) ∧
              p.step = BitVec.ofNat 64 (dfld d 24 0 64) ∧ p.shards = [] ∧ p.sessions = []) ∨
            ((t.job job).ckpt = none ∧ fld (t.reg (Reg.ckpJobStat job)) 32 16 = Code.ok))) ∧
      (∀ r : T3Region,
        let off := dfld d 56 0 28
        target = 3 → (s.job job).conf = false → grains ≤ dfld d 54 0 16 → dfld d 54 0 16 ≤ 4096 → s0.targetErr job 3 (dfld d 52 0 16) = none →
        mget (s.job job).regions (dfld d 52 0 16) = some r → r.runFree off (dfld d 54 0 16) = true →
        ∃ t : State, e = .next (t.complete c Code.ok off) ∧ t.sessions = s.sessions ∧ t.reqs = s.reqs ∧ (t.job job).ckpt = none ∧
          (t.job job).quiesced = ((s.job job).quiesced || preempt) ∧ t.rd false (r.at_ off) 4 = some (leBytes 4 0x4E414D43) ∧
          t.rd false (r.at_ off + 8) 16 = some (leBytes 8 (dfld d 16 0 64) ++ leBytes 8 (dfld d 24 0 64)) ∧
          fld (t.reg (Reg.ckpJobStat job)) 0 32 = dfld d 24 0 32 ∧ t.hbm = s.hbm))) ∧
  (∀ (s : State) (j i : Nat) (k : Ckpt) (toolp : Bool) (root : W64) (u : State), k.target = 2 →
    s.extentPlace j 2 0 (extentLen (s.pairs i) (s.sess i).retained) = (.ok root, u) →
    ∃ (k' : Ckpt) (t : State) (r : SessRecord), s.ckptSession j k i toolp = .ok (k', t) ∧ k'.sessions = k.sessions ++ [r] ∧ r.index = i ∧ r.rank = k.rank ∧
      r.grains = extentLen (s.pairs i) (s.sess i).retained ∧ r.modelDigest = (s.aux i).modelDigest ∧ r.addr = gAddr root ∧ k'.shards = k.shards ∧
      t.sessions = s.sessions ∧ t.sessAux = s.sessAux) ∧
  ∀ (s : State) (job : Nat), s.power.ready = true →
    ((s.job job).ckpt = none → ∀ (code rank : Nat) (xs : List ShardEntry) (ys : List SessRecord),
      exec (.ckptEntries job rank xs ys) s = .next s ∧ exec (.commitNotice job) s = .next s ∧ exec (.abortNotice job code) s = .next s ∧
      exec (.ckptBudget job) s = .next s ∧ exec (.commitNoticeTimeout job) s = .next s) ∧
    (∀ k : Ckpt, (s.job job).ckpt = some k →
      let ends (r : Res) (code : Nat) : Prop := ∃ t : State, r = .next (t.complete k.ctx code) ∧ (t.job job).ckpt = none ∧ t.sessions = s.sessions ∧ t.reqs = s.reqs
      (∀ (rank : Nat) (xs : List ShardEntry) (ys : List SessRecord), k.rank = 0 → k.list = [] → k.tables = [] → s.ckptDurable k = true → rank ≠ 0 →
        rank < (s.ckptNodes job k).length → rank ∉ k.ranks → (∃ r < (s.ckptNodes job k).length, r ≠ 0 ∧ r ≠ rank ∧ r ∉ k.ranks) →
        let k' : Ckpt := { k with ranks := rank :: k.ranks, shards := k.shards ++ xs, sessions := k.sessions ++ ys }
        exec (.ckptEntries job rank xs ys) s = .next (s.modJob job (fun x => { x with ckpt := some k' }))) ∧
      (k.rank ≠ 0 → k.sentAt.isSome = true →
        ∃ t : State, exec (.commitNotice job) s = .next (t.complete k.ctx Code.ok) ∧ (t.job job).ckpt = none ∧
          fld (t.reg (Reg.ckpJobStat job)) 0 32 = fld k.step 0 32 ∧ fld (t.reg (Reg.ckpJobStat job)) 32 16 = Code.ok ∧ t.sessions = s.sessions) ∧
      (∀ code : Nat, ends (exec (.abortNotice job code) s) code) ∧
      (∀ due : Nat, k.deadline = some due →
        (s.now < due → exec (.ckptBudget job) s = .next s) ∧
        (due ≤ s.now → s.rootLost job k = false → ends (exec (.ckptBudget job) s) Code.ckptBudget) ∧
        (due ≤ s.now → s.rootLost job k = true → ends (exec (.ckptBudget job) s) Code.ckptGroupFailed)) ∧
      (∀ sent : Nat, k.deadline = none → k.sentAt = some sent → s.rootLost job k = true →
        sent + ((mget (s.job job).fabGroups k.group).map (·.collUs)).getD 10000 ≤ s.now →
        ends (exec (.commitNoticeTimeout job) s) Code.ckptGroupFailed))

/-- R414 to R418. -/
def Obligations.Restores : Prop :=
  ∀ (s : State),
    (∀ (job well : Nat) (d : Desc) (smap : List Byte) (p : Nat × Nat × Nat),
      let s0 := s.takenUp job well
      s0.addrOk job d 24 1024 = true → s0.fetch d 24 1024 = some smap → mapPlace (sub smap (16 * dfld d 18 0 6) 16) = some p →
      (s.Serves kRestore job well d → ∀ (g : Nat × List Nat), s0.ckptGroup job (dfld d 16 0 8) = .ok g → dfld d 40 0 17 ≤ 65536 → daddr d 48 % 64 = 0 →
        let c := descCtx kRestore job well d
        let n := dfld d 40 0 17
        (∀ e : Nat, dfld d 32 0 64 = 0 → s0.readManifest job p (dfld d 20 0 32) (bit d 139) = .error e → exec (.restore job well d) s = .next (s0.complete c e)) ∧
        (∀ (lb man : List Byte) (u0 u1 u2 : State) (ps qs : List (Nat × Nat × Nat)) (heads all : List (List Byte)) (fills : List (List Byte)),
          let es := if dfld d 32 0 64 = 0 then [] else (List.range n).map (fun i => sub lb (128 * i) 128)
          (dfld d 32 0 64 ≠ 0 → s0.addrOk job d 32 (128 * n) = true ∧ s0.fetch d 32 (128 * n) = some lb) →
          (∀ e ∈ es, listReserved e = true ∧ listOk e = true ∧ s0.badAddr job true (listAddr e) (listPiece e).len = false) →
          s0.readManifest job p (dfld d 20 0 32) (bit d 139) = .ok (man, u0) → dfld d 48 0 64 = 0 → dfld d 56 0 64 = 0 →
          (manifestShards man).mapM (fun e => mapPlace (sub smap (16 * e.rank) 16)) = some ps →
          (manifestSess man).mapM (fun e => mapPlace (sub smap (16 * e.rank) 16)) = some qs →
          u0.srcAll job (((manifestShards man).zip ps).map (fun e => (e.2, e.1.addr, 192))) = .ok (heads, u1) →
          (∀ h ∈ heads, at_ h 8 8 = at_ man 16 8) → manifestSess man = [] →
          u1.srcAll job (((manifestShards man).zip ps).map (fun e => (e.2, e.1.addr, e.1.len))) = .ok (all, u2) →
          (∀ e ∈ (manifestShards man).zip all, sha256 e.2 = e.1.digest ∧ shardOk e.2 = true ∧ at_ e.2 16 8 = e.1.tensor.toNat) →
          es.mapM (fun e => (listPiece e).filled (all.map readPiece)) = some fills → bit d 136 = false → bit d 137 = false → bit d 138 = false →
          (s.job job).restores = [] →
          ∃ t : State, exec (.restore job well d) s = .next (t.complete c Code.ok) ∧ t.sessions = s.sessions ∧ t.reqs = s.reqs ∧
            (∀ (e b : List Byte), es = [e] → fills = [b] → Memory.wf (some 0) s.hbm = true → s.seqs.all (fun q => !q.2.holds) = true → t.rd true (listAddr e) b.length = some b) ∧
            (es = [] → t.hbm = s.hbm))) ∧
      (s.Serves kCkptFree job well d →
        let c := descCtx kCkptFree job well d
        let g := dfld d 20 0 32
        let read := s.jobs.any (fun e => e.2.restores.any (fun r => r.place == (p.1, p.2.1, p.2.2 + g)))
        (read = true → exec (.ckptFree job well d) s = .next (s0.complete c Code.ckptBusy)) ∧
        (∀ (man : List Byte) (u : State), read = false → s0.readManifest job p g false = .ok (man, u) →
          ∃ t : State, exec (.ckptFree job well d) s = .next (t.complete c Code.ok) ∧ t.sessions = s.sessions ∧ t.reqs = s.reqs ∧ t.hbm = s.hbm ∧
            (p.1 = 2 → p.2.1 = s.node → mget t.ftl.objects g = none) ∧
            (∀ (e : ShardEntry) (q : Nat × Nat × Nat), e ∈ manifestShards man → mapPlace (sub smap (16 * e.rank) 16) = some q → q.1 = 2 → q.2.1 = s.node →
              mget t.ftl.objects e.addr = none) ∧
            (∀ (e : SessRecord) (q : Nat × Nat × Nat), e ∈ manifestSess man → mapPlace (sub smap (16 * e.rank) 16) = some q → q.1 = 2 → q.2.1 = s.node →
              mget t.ftl.objects e.addr = none)))) ∧
    (∀ (j : Nat) (r : Restore),
      (∀ (old i : Nat) (x : Session) (a : SessAux), r.adapters = [] → r.tables = [] → r.sessions = [(old, i, x, a)] →
        ∃ t : State, s.restoreDone j r = t.complete r.ctx Code.ok ∧ t.sess i = x ∧ t.aux i = a ∧ (∀ k, k ≠ i → t.sess k = s.sess k) ∧ t.jobs = s.jobs) ∧
      (∀ (h : Nat) (v : AdapterVer), r.adapters = [(h, v)] → r.tables = [] → r.sessions = [] → r.report = none →
        let o := mgetD (s.job j).adapters h { current := none, last := 0, versions := [] }
        ∃ t : State, s.restoreDone j r = t.complete r.ctx Code.ok ∧ t.sessions = s.sessions ∧
          mget (t.job j).adapters h = some { current := some (o.last % 0xFFFF + 1), last := o.last % 0xFFFF + 1, versions := o.inUse ++ [{ v with ver := o.last % 0xFFFF + 1 }] }) ∧
      (∀ (h step : Nat) (v : TableVer), r.adapters = [] → r.tables = [(h, v, step)] → r.sessions = [] → r.report = none →
        ∃ (t : State) (o : Table) (y : TableVer), s.restoreDone j r = t.complete r.ctx Code.ok ∧ t.sessions = s.sessions ∧ t.table j h = some o ∧
          o.current = some y.ver ∧ y ∈ o.versions ∧ y.rowMap = v.rowMap ∧ y.fresh = false ∧ o.doneStep = some step ∧ o.applied = some step))

/-- R382 to R387, R389 to R393, R395, R396. -/
def Obligations.FlashEvents : Prop :=
  ∀ s : State,
    (s.regsUp = true →
      (∀ (stream die n : Nat) (sb : SuperBlock), s.ftl.openSuper stream die = some (n, sb) → s.ftl.stopped = false →
        let u := s.stripeClosed stream die
        (sb.fill.length = stripeGrains → exec (.stripeClose stream die) s = .next u.looks) ∧
        (sb.fill.length ≠ stripeGrains → exec (.stripeClose stream die) s = .next s) ∧
        (sb.fill ≠ [] → fld (s.reg Reg.ftlRdCtl) 32 16 ≤ s.now - sb.filledAt → exec (.stripePadTimer stream die) s = .next u.looks) ∧
        (s.now - sb.filledAt < fld (s.reg Reg.ftlRdCtl) 32 16 → exec (.stripePadTimer stream die) s = .next s) ∧
        (sb.fill.length ≤ stripeGrains → (∀ g ∈ sb.fill, g.2.2 = 0 → g.2.1 ≠ 0x100 → (mget u.ftl.map g.1).isSome = true) ∧ s.ftl.seq < u.ftl.seq ∧
          u.sessions = s.sessions ∧ u.jobs = s.jobs)) ∧
      (∃ t : State, exec .trimJournalWrite s = .next t ∧ t.ftl.durable = s.ftl.durable ++ s.ftl.trims ∧ t.ftl.trims = [] ∧ t.ftl.map = s.ftl.map ∧
        t.reqs = s.reqs ∧ (s.sessAux.all (fun e => !e.2.waitTrim) = true → t.sessions = s.sessions)) ∧
      (∃ t : State, exec .garbageCollection s = .next t ∧ t.ftl.map = s.ftl.map ∧ t.sessions = s.sessions ∧ t.jobs = s.jobs ∧
        (64 ≤ s.ftl.freeSupers ∨ s.ftl.stopped = true → t = s)) ∧
      (∀ ch die plane block : Nat,
        let k := blockKey ch die plane block
        (∃ t : State, exec (.readRefresh ch die plane block) s = .next t ∧ t.ftl.map = s.ftl.map ∧ t.sessions = s.sessions ∧
          (2 ≤ s.ftl.state → s.ftl.stopped = false → s.ftl.victims.contains (s.ftl.block k).owner = false → s.ftl.eraseBlocks.contains k = false →
            k ∈ t.ftl.eraseBlocks ∨ (t.ftl.block k).owner = 0)) ∧
        (2 ≤ s.ftl.state → (s.ftl.block k).retired = false →
          let bad (t : State) : Prop := (t.ftl.block k).retired = true ∧ t.ftl.retired = s.ftl.retired + 1 ∧ t.ftl.map = s.ftl.map ∧ t.sessions = s.sessions ∧
            (s.ftl.state = 2 → t.ftl.state = if (totalBlocks * 12 / 100 - (s.ftl.retired + 1)) * 100 < 4 * totalBlocks then 3 else 2)
          (∃ t : State, exec (.eraseFail ch die plane block) s = .next t ∧ bad t) ∧
          (∀ page : Nat, ∃ t : State, exec (.pageProgramFail ch die plane block page) s = .next t ∧ bad t))) ∧
      (∀ ch die : Nat, s.ftl.state ≠ 0 → ch < 32 → die < 16 → s.ftl.dieFailed ch die = false →
        ∃ t : State, exec (.dieFail ch die) s = .next t ∧ t.ftl.map = s.ftl.map ∧ t.sessions = s.sessions ∧
          (if die < Config.flashDies then t.ftl.dieFailed ch die = true ∧ (mget t.errs.units (unitKey .die (16 * ch + die))).map (·.state) = some 1
           else t = s))) ∧
    (s.regsUp = false → ∀ a b c d e : Nat, exec (.stripeClose a b) s = .next s ∧ exec .garbageCollection s = .next s ∧ exec .trimJournalWrite s = .next s ∧
      exec (.readRefresh a b c d) s = .next s ∧ exec (.pageProgramFail a b c d e) s = .next s) ∧
    (∀ us : Nat, 2 ≤ s.ftl.state → s.power.state ≠ .off →
      ∃ t : State, exec (.powerFailWarning us) s = .next t ∧ t.pins.pwrFail = false ∧ t.ftl.stopped = true ∧ t.ftl.durable = s.ftl.durable ++ s.ftl.trims ∧
        t.ftl.trims = [] ∧ t.ftl.map = s.ftl.map ∧ t.ftl.pfSeen = true ∧ t.ftl.pfCount = min 65535 (s.ftl.pfCount + 1) ∧ t.ftl.pfUs = min us 1700 ∧
        (∀ m ∈ s.flashMoves, ∀ e ∈ t.ftl.objects, e.1 ≠ m.2.1) ∧ (∀ e ∈ t.ftl.supers, e.2.fill = []) ∧ t.reqs = s.reqs) ∧
    (s.ftl.stopped = true → ∃ t : State, exec .powerFailClear s = .next t ∧ t.pins.pwrFail = true ∧ t.ftl.stopped = false) ∧
    (s.ftl.stopped = false → exec .powerFailClear s = .next { s with pins := { s.pins with pwrFail := true } })

/-- R469 to R472, R478 to R482, R485, R486, R510. -/
def Obligations.ErrorUnit : Prop :=
  ∀ s : State,
    (∀ r : ErrRec, r.cls ≤ 3 →
      let p := s.logErr r
      let w := s.errs.well
      p.1.seq = s.errs.seq + 1 ∧ p.2.errs.seq = s.errs.seq + 1 ∧ p.1.cls = r.cls ∧ p.1.source = r.source ∧ p.1.unit = r.unit ∧ p.1.code = r.code ∧
        (r.queued = false → p.1.time = s.now) ∧ p.2.reg (Reg.errClass r.cls) = s.reg (Reg.errClass r.cls) + 1 ∧
        (w.unread < 256 → p.2.errs.well.head = w.head + 1 ∧ mget p.2.errs.well.slots (w.head.toNat % 256) = some p.1 ∧ p.2.errs.well.tail = w.tail) ∧
        (256 ≤ w.unread → p.2.errs.well.head = w.head ∧ p.2.errs.well.slots = w.slots ∧ p.2.errs.well.overflow = true) ∧
        (∀ j : Nat, r.job = some j → (s.job j).conf = true → p.1.conf = true ∧ p.1.addr = 0 ∧ p.1.detail = 0) ∧
        p.2.sessions = s.sessions ∧ p.2.reqs = s.reqs ∧ p.2.hbm = s.hbm) ∧
    (∀ e : ErrInfo,
      (s.power.state ≠ .active ∨ e.source = 11 → exec (.errorDetected e) s = .next s) ∧
      (s.power.state = .active → e.source ≠ 11 →
        (∀ slot : Nat, e.corrected = true → s.mergeSlot e.source e.unit e.code = some slot →
          exec (.errorDetected e) s = .next ((s.mergeErr slot).noteCorrected e.source e.unit).threshold) ∧
        ((e.corrected = false ∨ s.mergeSlot e.source e.unit e.code = none) → s.errs.queued = [] →
          (s.errs.handling = [] → exec (.errorDetected e) s = .next (s.handleErr e s.now (classOf e) false false)) ∧
          (∀ h : Handling, s.errs.handling = [h] → s.errDone = s →
            (sameUnit (h.source, h.unit) (e.source, e.unit) = true →
              exec (.errorDetected e) s = .next (s.handleErr e s.now (if classOf e = 3 then 3 else min 3 (h.cls + 1)) true false)) ∧
            (sameUnit (h.source, h.unit) (e.source, e.unit) = false → classOf e ≠ 3 → classOf e ≤ h.cls →
              exec (.errorDetected e) s = .next { s with errs := { s.errs with queued := [(e, s.now)] } }))))) ∧
    (∀ (e : ErrInfo) (at_ : Nat) (rest : List (ErrInfo × Nat)), s.errs.handling = [] → s.threshold = s → s.errs.queued = (e, at_) :: rest →
      exec .errorQueued s = .next (({ s with errs := { s.errs with queued := rest } } : State).handleErr e at_ (classOf e) false true)) ∧
    (s.regsUp = true →
      (∀ v : W32,
        let w := s.errs.well
        ((v - w.tail).toNat ≤ (w.head - w.tail).toNat →
          exec (.errWellTailWrite 0 v) s = .next { s with errs := { s.errs with well := { w with tail := v } } }) ∧
        ((w.head - w.tail).toNat < (v - w.tail).toNat → exec (.errWellTailWrite 0 v) s = .next s)) ∧
      (∀ (fn : Nat) (v : W32), fn ≠ 0 →
        let w := mgetD s.errs.fnWells fn {}
        ∃ t : State, exec (.errWellTailWrite fn v) s = .next t ∧ t.errs.well = s.errs.well ∧ t.sessions = s.sessions ∧
          ((v - w.tail).toNat ≤ (w.head - w.tail).toNat → mget t.errs.fnWells fn = some { w with tail := v })) ∧
      exec (.overflowClear 0) s = .next { s with errs := { s.errs with well := { s.errs.well with overflow := false, lost := [0, 0, 0, 0] } } } ∧
      exec .release s = .next { s with errs := { s.errs with dump := { s.errs.dump with valid := false } } } ∧
      (∀ (k : UnitKind) (u : Nat),
        let x := mget s.errs.units (unitKey k u)
        (s.unitExists k u = false → exec (.unitOut k u) s = .next { s with errs := { s.errs with unitRefused := true } }) ∧
        (s.unitExists k u = true → exec (.unitOut k u) s = .next (s.takeOut k u)) ∧
        (x.map (·.state) = some 1 → s.unitExists k u = true →
          ∃ t : State, exec (.unitReturn k u) s = .next t ∧ mget t.errs.units (unitKey k u) = some { state := 2, failed := false } ∧ t.sessions = s.sessions) ∧
        (x.all (fun y => y.state != 1) = true → exec (.unitReturn k u) s = .next { s with errs := { s.errs with unitRefused := true } }))) ∧
    (∀ g : Nat, g < 64 → s.unitAway .group g = false →
      let t := s.takeOut .group g
      (mget t.errs.units (unitKey .group g)).map (·.state) = some 1 ∧ t.sessions = s.sessions ∧
        (∀ j : Nat, (s.job j).active = true → (s.job j).slice.groups.getLsbD g = true →
          ∃ w : Slice, (t.job j).want = some w ∧ w.groups.getLsbD g = false ∧ w.serve.getLsbD g = false)) ∧
    (∀ (k : UnitKind) (u : Nat), (mget s.errs.units (unitKey k u)).map (·.state) = some 2 →
      (∃ t : State, exec (.selfTestDone k u true) s = .next t ∧ mget t.errs.units (unitKey k u) = none ∧ t.sessions = s.sessions) ∧
      (∃ t : State, exec (.selfTestDone k u false) s = .next t ∧ mget t.errs.units (unitKey k u) = some { state := 1, failed := true } ∧
        t.errs.seq = s.errs.seq + 1 ∧ t.sessions = s.sessions)) ∧
    (∀ fwOk : Bool,
      let f := s.firmware.2.1
      (s.errs.dumping = false → exec (.dumpComplete fwOk) s = .next s ∧ exec .dumpAbandon s = .next s) ∧
      (s.errs.dumping = true → exec (.dumpComplete fwOk) s = .next ((s.writeDump f false fwOk).raise Src.critical) ∧
        (s.errs.dump.time + 100000 ≤ s.now → exec .dumpAbandon s = .next ((s.writeDump f true false).raise Src.critical)) ∧
        (s.now < s.errs.dump.time + 100000 → exec .dumpAbandon s = .next s)) ∧
      (let d := (s.writeDump f false fwOk).errs.dump
       d.valid = true ∧ d.partial_ = false ∧ d.fwOk = fwOk ∧ d.seq = s.errs.dump.seq ∧ (s.writeDump f false fwOk).errs.dumping = false) ∧
      (let d := (s.writeDump f true false).errs.dump
       d.valid = true ∧ d.partial_ = true ∧ (s.writeDump f true false).errs.dumping = false))

/-- R425 to R427, R430 to R433, R458. -/
def Obligations.Security : Prop :=
  ∀ s : State,
    (∀ (job well : Nat) (d : Desc),
      let s0 := s.takenUp job well
      let x := s.job job
      (s.Serves kAttest job well d →
        let c := descCtx kAttest job well d
        let a := dfld d 48 0 64
        let total := 37552 + Config.certChain.length
        (x.keys.held.length < 2 ^ 32 →
          if Config.noIdentity = true then exec (.attest job well d) s = .next (s0.complete c Code.noIdentity)
          else if dfld d 56 0 32 < total then exec (.attest job well d) s = .next (s0.complete c Code.reportSpace)
          else ∃ (t : State) (id : Nat) (h : BitVec 256) (b : Nat), exec (.attest job well d) s = .next (t.complete c Code.ok total) ∧
            (a % 64 = 0 → b = a) ∧ b / 64 = a / 64 ∧ (id, h) ∈ (t.job job).keys.held ∧
            mget x.keys.held id = none ∧ (t.job job).keys.held.length ≤ 4 ∧ t.rd false b 4 = some (leBytes 4 0x54544156) ∧
            t.rd false (b + 8) 4 = some (leBytes 4 (s.jobTag job).toNat) ∧ t.rd false (b + 16) 32 = some (leBytes 32 (dfld d 16 0 256)) ∧
            (t.job job).keys.weight = x.keys.weight ∧ t.sessions = s.sessions ∧ t.hbm = s.hbm)) ∧
      (s.Serves kInstallKeys job well d → s0.addrOk job d 24 (dfld d 32 0 32) = true →
        let c := descCtx kInstallKeys job well d
        let id := dfld d 16 0 32
        let s1 := s0.modJob job (fun x => { x with keys := { x.keys with held := x.keys.held.filter (fun h => h.1 != id) } })
        (x.keys.held.find? (fun h => h.1 == id) = none → exec (.installKeys job well d) s = .next (s0.complete c Code.noReport)) ∧
        (∀ (h : BitVec 256) (blob : List Byte), x.keys.held.find? (fun h => h.1 == id) = some (id, h) → s0.fetch d 24 (dfld d 32 0 32) = some blob →
          let e := s1.bundleCode job (openBundle h blob)
          if e ≠ Code.ok then exec (.installKeys job well d) s = .next (s1.complete c e)
          else ∃ t : State, exec (.installKeys job well d) s = .next (t.complete c Code.ok) ∧ t.sessions = s.sessions ∧ t.hbm = s.hbm ∧
            (x.conf = true → (t.job job).keys.locked = true) ∧
            (∀ ks : List BundleKey, openBundle h blob = some ks → (t.job job).keys = (s1.job job).keys.install x.conf ks))) ∧
      (s.Serves kFwUpdate job well d → x.func = 0 →
        let c := descCtx kFwUpdate job well d
        let len := dfld d 24 0 32
        s0.addrOk job d 16 len = true → s.sec.fwWrite = none → len ≤ 2 ^ 24 → ∀ im : List Byte, s0.fetch d 16 len = some im →
        let e := if at_ im 8 4 = len then fwCheck im s.rollbackCount else 1
        exec (.fwUpdate job well d) s = .next (if e = 0 then { s0 with sec := { s0.sec with fwWrite := some (c, im) } }
          else s0.complete c (if e = 1 ∨ e = 4 then Code.fwBad else if e = 3 then Code.fwRollback else Code.fwSignature)))) ∧
    (s.sec.boot = 2 → exec .commit s = .next { s with sec := { s.sec with rollback := max s.sec.rollback (s.firmware.1 % 128) } }) ∧
    (s.sec.boot ≠ 2 → exec .commit s = .next s) ∧
    (∀ (v : W64) (chunk : List Byte) (fail : Bool), bit v 60 = false → exec (.recWrite v chunk fail) s = .next s) ∧
    (∀ (v : W64) (chunk : List Byte), s.sec.boot = 1 → bit v 60 = true → onlyFields v [(0, 16), (32, 24), (60, 2)] = true →
      (∃ t : State, exec (.recWrite v chunk true) s = .next t ∧ t.sec.recFail = true ∧ t.sec.recCause = 6 ∧ t.sec.spi = s.sec.spi ∧ t.jobs = s.jobs) ∧
      (∃ t : State, exec (.recWrite v chunk false) s = .next t ∧ t.sec.spiGood = false ∧ t.sec.recFail = s.sec.recFail ∧ t.jobs = s.jobs ∧
        (Memory.wf (some 0) s.sec.recBuf = true → fld v 0 16 < 32768 → fld v 0 16 < chunk.length → fld v 32 24 + fld v 0 16 < 2 ^ 24 →
          Memory.readAll t.sec.spi (fld v 32 24) (fld v 0 16 + 1) = some (chunk.take (fld v 0 16 + 1))))) ∧
    (s.sec.boot = 1 → s.power.level = none →
      let e := fwCheck s.spiImage s.rollbackCount
      if e = 0 then ∃ t : State, exec .finish s = .next t ∧ t.sec.recDone = true ∧ t.sec.recFail = false ∧ t.power.level = some 1 ∧ t.power.ready = false
      else exec .finish s = .next { s with sec := { s.sec with recDone := false, recFail := true, recCause := e } }) ∧
    (∀ v : W64, s.regsUp = true → fld v 48 16 = 0xF05E → onlyFields v [(0, 8), (15, 1), (48, 16)] = true →
      exec (.fuseBurn v) s = .next (if bit v 15 = false ∨ s.jobs.any (fun e => e.2.active) = true then s
        else { s with power := { s.power with fuse := s.power.fuse ||| BitVec.ofNat 8 (fld v 0 8) } }))

/-- R449, R450, R457 to R466, R40, R41. -/
def Obligations.Resets : Prop :=
  ∀ s : State,
    (∀ (fn : Nat) (v : W64),
      (fn ≠ 0 ∨ s.regsUp = false ∨ fld v 48 16 ≠ 0x5E7A → exec (.resetReqCore fn v) s = .next s ∧ exec (.resetReqSystem fn v) s = .next s) ∧
      (s.regsUp = true → fld v 48 16 = 0x5E7A → onlyFields v [(0, 2), (48, 16)] = true →
        exec (.resetReqCore 0 v) s = .next (s.raise (if bit v 1 then Src.hostSystem else Src.hostCore)) ∧
        exec (.resetReqSystem 0 v) s = .next (s.raise Src.hostSystem))) ∧
    (∀ src : Nat, src < 6 → s.power.state = .active → s.power.level = none →
      let l := s.power.levelOf src
      let t := s.raise src
      (l ≠ 0 → t.power.level = some l ∧ fld t.power.cause 8 2 = l % 4 ∧ bit t.power.cause src = true ∧ t.power.ready = false ∧ t.pins.resetOut = false ∧
        t.power.acceptedAt = s.now ∧ t.errs.fatal = false ∧ (s.power.prep = 0 → fld t.power.cause 16 32 = min (2 ^ 32 - 1) (fld s.power.cause 16 32 + 1))) ∧
      (l = 0 → s.power.draining = false → t = { s with power := { s.power with draining := true, drainAt := s.now, prep := srcBit src } })) ∧
    (let p : State := { s with pins := { s.pins with resetIn := false } }
     (s.pins.resetIn = false → exec .resetInFall s = .next s) ∧
      (s.pins.resetIn = true → s.power.state ≠ .standby → exec .resetInFall s = .next (p.raise Src.pin)) ∧
      (s.pins.resetIn = true → s.power.state = .standby →
        ∃ t : State, exec .resetInFall s = .next t ∧ t.pins.resetIn = false ∧ (t.power.state = .standby ∨ (t.power.state = .active ∧ t.power.level = some 3))) ∧
      exec .resetInRise s = .next { s with pins := { s.pins with resetIn := true } }) ∧
    (s.power.draining = false → exec .coreResetAccept s = .next s) ∧
    (s.power.state = .active → s.power.draining = true → s.power.level = none → (∀ e ∈ s.sessions, e.2.t0 = false) →
      exec .coreResetAccept s = .next (s.accept 0 s.power.prep false false)) ∧
    (∀ l : Nat, s.power.level = some l → s.power.state = .active →
      (s.now < s.power.acceptedAt + 2000 → exec .resetRelease s = .next s) ∧
      (s.power.acceptedAt + 2000 ≤ s.now → (s.power.pinSource = true → s.pins.resetIn = true) → s.pins.osc = true → bit s.pins.straps 4 = false →
        ∃ t : State, exec .resetRelease s = .next t ∧ t.power.level = none ∧ t.pins.resetOut = true ∧ t.reqs = [] ∧ t.reqAux = [] ∧ t.cores = [] ∧
          (l = 0 → t.power.ready = true ∧ t.pools = [] ∧ t.serving = []) ∧
          (l ≠ 0 → t.pending = s.pending ∧ t.jobs = [] ∧ t.models = [] ∧ t.progs = [] ∧
            (s.sec.spi = [] → s.sec.spiGood = true → t.power.ready = true ∧ t.sec.boot = 2 ∧ (Config.flashPresent = false → t.sessions = [])) ∧
            (s.sec.spiGood = false → t.sec.boot = 1 ∧ t.power.ready = false ∧ t.sessions = [])) ∧
          (2 ≤ l → t.hbm = []) ∧ (l = 1 → t.hbm = s.hbm.filter (fun c => decide (dumpBase ≤ c.1) && decide (c.1 < dumpBase + dumpSize))))) ∧
    (let gone (r : Res) : Prop := ∃ t : State, r = .next t ∧ t.power.state = .standby ∧ t.power.ready = false ∧ t.power.level = none ∧ t.jobs = [] ∧
        t.sessions = [] ∧ t.hbm = [] ∧ t.power.cause = s.power.cause
     (s.power.state = .active → s.power.level = none → gone (exec .standby s) ∧ (s.regsUp = true → gone (exec .pwrStandbyEnter s))) ∧
      (s.power.state ≠ .active → exec .standby s = .next s ∧ exec .pwrStandbyEnter s = .next s)) ∧
    (∀ sensors : List Nat,
      (s.power.state = .standby → (∀ x ∈ sensors, x < 95) → ∃ t : State, exec (.wake sensors) s = .next t ∧ t.power.state = .active ∧
        t.power.level = some 3 ∧ bit t.power.cause 5 = true ∧ t.power.ready = false) ∧
      (s.power.state = .standby → (∃ x ∈ sensors, 95 ≤ x) → exec (.wake sensors) s = .next s)) ∧
    (s.regsUp = true → ∀ kind i : Nat,
      let k := unitOf kind i
      (blockCount kind ≤ i → ∀ on : Bool, exec (.blockOffline kind i on) s = .next { s with blockRefused := true }) ∧
      (i < blockCount kind →
        (s.offline kind i = false → exec (.blockOffline kind i false) s = .next s ∧
          (let t : State := { s with blockOff := s.blockOff ++ [k] }
           exec (.blockOffline kind i true) s = .next (if 1 ≤ kind ∧ kind ≤ 5 then t.dispatch (kind - 1) else t))) ∧
        (s.offline kind i = true → ∃ t : State, exec (.blockOffline kind i false) s = .next t ∧ t.offline kind i = false ∧ t.sessions = s.sessions ∧
          (kind = 0 → (mget t.errs.units (unitKey .group i)).map (·.state) = some 2))) ∧
      (s.offline kind i = false ∨ s.blockIdle kind i = false → exec (.blockReset kind i) s = .next { s with blockRefused := true }) ∧
      (i < blockCount kind → s.offline kind i = true → s.blockIdle kind i = true →
        (kind = 0 → exec (.blockReset kind i) s = .next (s.groupOff i)) ∧ (kind = 6 → exec (.blockReset kind i) s = .next (s.clearSeq i)) ∧
        (kind = 6 → (s.clearSeq i).seq i = { dev := { words := (s.seq i).dev.words }, win := (s.seq i).win, ref := (s.seq i).ref } ∧
          (s.clearSeq i).hbm = (s.seq i).heldWrites (s.seq i).held.length s.hbm) ∧
        (kind ≠ 0 → kind ≠ 6 → exec (.blockReset kind i) s = .next (if kind = 2 ∧ 60 ≤ i then s.placeLane (i - 60) else s))))

/-- R447, R451 to R453, R455, R490, R511, R440, R441. -/
def Obligations.PowerAndSideband : Prop :=
  ∀ s : State,
    (s.power.state ≠ .active → ∀ w v a x y z h : Nat, exec (.powerEval w v a x y z h) s = .next s ∧ exec .thermalTrip s = .next s) ∧
    (s.power.state = .active →
      let tripped (r : Res) : Prop := ∃ t : State, r = .next t ∧ t.power.state = .standby ∧ bit t.power.cause 6 = true ∧ t.power.ready = false ∧ t.hbm = [] ∧ t.jobs = []
      tripped (exec .thermalTrip s) ∧
      ∀ w mv ma x y z h : Nat,
        (115 ≤ x ∨ 115 ≤ y ∨ 115 ≤ z ∨ 105 ≤ h → tripped (exec (.powerEval w mv ma x y z h) s)) ∧
        (x < 115 → y < 115 → z < 115 → h < 105 →
          ∃ t : State, exec (.powerEval w mv ma x y z h) s = .next t ∧ fld t.power.temps 0 8 = x % 256 ∧ fld t.power.temps 8 8 = y % 256 ∧
            fld t.power.temps 16 8 = z % 256 ∧ fld t.power.temps 24 8 = h % 256 ∧ fld t.power.input 0 16 = mv % 65536 ∧ fld t.power.input 16 16 = ma % 65536 ∧
            fld t.power.input 32 16 = w % 65536 ∧ t.sessions = s.sessions ∧ t.jobs = s.jobs ∧ t.pins = s.pins ∧ t.power.state = .active ∧
            (s.power.level = none → 11 ≤ s.power.clampC0 → s.power.clampC0 ≤ 33 →
              11 ≤ t.power.clampC0 ∧ t.power.clampC0 ≤ 33 ∧ (100 ≤ x → t.power.clampC0 = max 11 (s.power.clampC0 - 1)) ∧
              ((s.effectiveCap).any (fun c => decide (c < w)) = true → t.power.clampC0 = max 11 (s.power.clampC0 - 1)) ∧
              t.power.clampC0 ≤ s.power.clampC0 + 1))) ∧
    (s.power.state ≠ .off →
      let off (r : Res) : Prop := ∃ t : State, r = .next t ∧ t.power.state = .off ∧ t.power.fuse = s.power.fuse ∧ t.hbm = [] ∧ t.sessions = [] ∧ t.jobs = [] ∧
        t.ftl.phys = s.ftl.phys ∧ t.sec.rollback = s.sec.rollback ∧ t.pending = s.pending
      off (exec .powerLoss s) ∧ off (exec .overVoltage s) ∧ exec .powerApply s = .next s ∧
      (∀ watts : Nat, exec (.setCap watts) s = .next { s with power := { s.power with capMgmt := watts % 2 ^ 16 } }) ∧
      exec .getCause s = .next { s with busOut := leBytes 8 s.power.cause.toNat ++ leBytes 8 s.now } ∧
      (∀ msg : List Byte, exec (.mctpControlMessage msg) s = .next { s with busOut := Config.mctpAnswer msg }) ∧
      (∃ bs : List Byte, exec .getIdent s = .next { s with busOut := bs } ∧ bs.take 24 = leBytes 8 s.ident ++ leBytes 16 Config.serial.toNat ∧
        (s.power.state = .active → bs.drop 24 = leBytes 32 s.firmware.2.1.toNat)) ∧
      (∀ sensors : List Nat, ∃ bs : List Byte, exec (.getTelemetry sensors) s = .next { s with busOut := bs } ∧ bs.length = 25 ∧
        bs.take 8 = leBytes 8 s.power.input.toNat ∧ (s.power.state = .active → sub bs 8 8 = leBytes 8 s.power.temps.toNat))) ∧
    (s.power.state = .off → exec .powerLoss s = .next s ∧ exec .overVoltage s = .next s ∧
      (∃ t : State, exec .powerApply s = .next t ∧ t.power.state = .active ∧ t.power.clock = 0 ∧ t.power.level = some 3 ∧ t.power.cause = 0x301 ∧
        t.power.fuse = s.power.fuse ∧ t.pins.resetOut = false ∧ t.ftl = s.ftl) ∧
      (∀ xs : List Nat, exec (.getTelemetry xs) s = .next s) ∧ exec .getIdent s = .next s ∧ exec .getCause s = .next s) ∧
    (s.power.state = .active → s.pins.osc = true → s.power.level = none →
      ∃ t : State, exec (.osc25mLoss false) s = .next t ∧ t.pins.osc = false ∧ t.power.level = some 3 ∧ t.power.ready = false ∧ t.pins.resetOut = false) ∧
    (s.power.state = .active → s.pins.osc = false →
      exec (.osc25mLoss true) s = .next { s with pins := { s.pins with osc := true }, power := { s.power with acceptedAt := s.now } }) ∧
    (∀ gen width : Nat, s.pins.linkUp = true → 3 ≤ gen → gen ≤ 5 → width ∈ [1, 2, 4, 8] →
      exec (.pcieLinkRetrain gen width) s = .next { s with pins := { s.pins with linkGen := gen, linkWidth := width } }) ∧
    (∀ (ir : Nat) (trace : Bool), 2 ≤ ir ∨ trace = true →
      (s.sec.confActive = true ∨ s.sec.debugLock = true → exec (.jtagInstruction ir trace) s = .next s) ∧
      (s.sec.confActive = false → s.sec.debugLock = false → exec (.jtagInstruction ir trace) s = .next { s with sec := { s.sec with debugSeen := true } })) ∧
    exec (.jtagInstruction 0 false) s = .next { s with busOut := leBytes 4 (0x040967BB + Config.stepping.toNat % 16 <<< 28) }
end

