-- ==== Sys2Proof/Laws/Maps.lean ====
section
/-!
SUPPORT. Sys2Proof/Laws/Maps.lean: reading keyed collections and byte memories after they are written, and their canonical form.
-/
namespace Sys2Proof.Machine

open Sys2Proof

/-! ## Keyed collections -/

@[simp] theorem mget_nil {α : Type} (j : Nat) : mget ([] : Map α) j = none := rfl

theorem mget_cons {α : Type} (k : Nat) (w : α) (m : Map α) (j : Nat) : mget ((k, w) :: m) j = if k = j then some w else mget m j := by
  simp only [mget]
  grind

@[simp] theorem mget_mput {α : Type} (m : Map α) (i : Nat) (v : α) (j : Nat) : mget (mput m i v) j = if j = i then some v else mget m j := by
  induction m with
  | nil => simp only [mput, mget_cons, mget_nil]; grind
  | cons e m ih => obtain ⟨k, w⟩ := e; simp only [mput]; split <;> grind [mget_cons]

@[simp] theorem mgetD_mput {α : Type} (m : Map α) (i : Nat) (v d : α) (j : Nat) : mgetD (mput m i v) j d = if j = i then v else mgetD m j d := by
  simp only [mgetD, mget_mput]; split <;> simp

theorem mput_mput {α : Type} (m : Map α) (i : Nat) (v w : α) : mput (mput m i v) i w = mput m i w := by
  induction m with
  | nil => simp [mput]
  | cons e m ih => obtain ⟨k, x⟩ := e; simp only [mput]; split <;> [skip; split] <;> simp_all [mput]

@[simp] theorem mget_mdel {α : Type} (m : Map α) (i j : Nat) : mget (mdel m i) j = if j = i then none else mget m j := by
  induction m with
  | nil => simp [mdel]
  | cons e m ih => obtain ⟨k, x⟩ := e; simp only [mdel, List.filter_cons] at ih ⊢; split <;> grind [mget_cons]

theorem mgetD_mmod {α : Type} (m : Map α) (i : Nat) (d : α) (f : α → α) (j : Nat) :
    mgetD (mmod m i d f) j d = if j = i then f (mgetD m i d) else mgetD m j d := by
  simp only [mmod, mgetD_mput]

end Sys2Proof.Machine
end

