-- ==== Sys2Proof/Laws/Memory.lean ====
section
/-!
SUPPORT. Sys2Proof/Laws/Memory.lean: byte memories: every operation keeps the canonical form, and what is read after a write.
-/
namespace Sys2Proof.Machine

open Sys2Proof

variable {dflt : Option Byte}

/-- The first address of a memory is above `a`. -/
def Memory.above (a : Nat) : List Host.Cell → Bool
  | [] => true
  | c :: _ => decide (a < c.1)

theorem Memory.wf_cons {c : Host.Cell} {m : List Host.Cell} :
    Memory.wf dflt (c :: m) = true ↔ some c.2 ≠ dflt ∧ Memory.above c.1 m = true ∧ Memory.wf dflt m = true := by
  cases m with
  | nil => simp [Memory.wf, Memory.above]
  | cons d m => simp [Memory.wf, Memory.above, and_assoc]

theorem Memory.above_set {m : List Host.Cell} {a x : Nat} {b : Byte} (h : Memory.above x m = true) (hx : x < a) (hm : Memory.wf dflt m = true) :
    Memory.above x (Memory.set dflt m a b) = true := by
  cases m with
  | nil => simp only [Memory.set]; split <;> simp [Memory.above, hx]
  | cons c m =>
    have h0 : x < c.1 := by simpa [Memory.above] using h
    simp only [Memory.set]
    split
    · split
      · rw [Memory.wf_cons] at hm
        cases m with
        | nil => rfl
        | cons d m => simp [Memory.above] at hm ⊢; omega
      · simpa [Memory.above] using hx
    · split
      · split <;> simp [Memory.above, h0, hx]
      · simpa [Memory.above] using h0

/-- Writing a byte keeps the canonical form. -/
theorem Memory.set_wf {m : List Host.Cell} {a : Nat} {b : Byte} (h : Memory.wf dflt m = true) : Memory.wf dflt (Memory.set dflt m a b) = true := by
  induction m with
  | nil => simp only [Memory.set]; split <;> simp_all [Memory.wf]
  | cons c m ih =>
    have hc := Memory.wf_cons.1 h
    simp only [Memory.set]
    split
    · split
      · exact hc.2.2
      · rename_i h1 h2; exact Memory.wf_cons.2 ⟨h2, by simpa [h1] using hc.2.1, hc.2.2⟩
    · split
      · split
        · exact h
        · rename_i h1 h2 h3; exact Memory.wf_cons.2 ⟨h3, by simpa [Memory.above] using h2, h⟩
      · exact Memory.wf_cons.2 ⟨hc.1, Memory.above_set hc.2.1 (by omega) hc.2.2, ih hc.2.2⟩

/-- Writing a byte string keeps the canonical form. -/
theorem Memory.write_wf {m : List Host.Cell} {a : Nat} {bs : List Byte} (h : Memory.wf dflt m = true) :
    Memory.wf dflt (Memory.write dflt m a bs) = true := by
  induction bs generalizing m a with
  | nil => exact h
  | cons b bs ih => exact ih (Memory.set_wf h)

/-- Leaving cells out keeps the canonical form. -/
theorem Memory.filter_wf {m : List Host.Cell} {p : Host.Cell → Bool} (h : Memory.wf dflt m = true) : Memory.wf dflt (m.filter p) = true := by
  have up : ∀ (m : List Host.Cell) (x : Nat), Memory.wf dflt m = true → Memory.above x m = true → Memory.above x (m.filter p) = true := by
    intro m
    induction m with
    | nil => intros; rfl
    | cons c m ih =>
      intro x hm hx
      have hx' : x < c.1 := by simpa [Memory.above] using hx
      have hc := Memory.wf_cons.1 hm
      rw [List.filter_cons]
      split
      · simpa [Memory.above] using hx'
      · apply ih x hc.2.2
        cases m with
        | nil => rfl
        | cons d m => have := hc.2.1; simp [Memory.above] at this ⊢; omega
  induction m with
  | nil => exact h
  | cons c m ih =>
    have hc := Memory.wf_cons.1 h
    rw [List.filter_cons]
    split
    · exact Memory.wf_cons.2 ⟨hc.1, up m c.1 hc.2.2 hc.2.1, ih hc.2.2⟩
    · exact ih hc.2.2

theorem Memory.find_below {m : List Host.Cell} {a x : Nat} (h : Memory.wf dflt m = true) (hx : Memory.above x m = true) (ha : a ≤ x) :
    Memory.find m a = none := by
  cases m with
  | nil => rfl
  | cons c m => have : x < c.1 := by simpa [Memory.above] using hx
                simp only [Memory.find]; rw [if_neg (by omega), if_pos (by omega)]

/-- In a canonical memory a byte reads as it was last written; no other byte changes. -/
theorem Memory.find_set {m : List Host.Cell} {a x : Nat} {b : Byte} (h : Memory.wf dflt m = true) :
    Memory.find (Memory.set dflt m a b) x = if x = a then (if some b = dflt then none else some b) else Memory.find m x := by
  induction m with
  | nil => simp only [Memory.set]; split <;> simp_all [Memory.find]
  | cons c m ih =>
    have hc := Memory.wf_cons.1 h
    simp only [Memory.set]
    by_cases h1 : a = c.1
    · rw [if_pos h1]
      by_cases h2 : some b = dflt
      · simp only [h2, if_true]
        by_cases hx : x = a
        · subst hx; rw [if_pos rfl]; exact Memory.find_below hc.2.2 hc.2.1 (by omega)
        · rw [if_neg hx]; simp only [Memory.find]
          by_cases h3 : x < c.1
          · rw [if_neg (by omega), if_pos h3]; exact Memory.find_below hc.2.2 hc.2.1 (by omega)
          · rw [if_neg (by omega), if_neg h3]
      · simp only [h2, if_false, Memory.find]
        by_cases hx : x = a
        · simp [hx]
        · simp [hx, ← h1]
    · rw [if_neg h1]
      by_cases h2 : a < c.1
      · rw [if_pos h2]
        by_cases h3 : some b = dflt
        · simp only [h3, if_true]
          by_cases hx : x = a
          · subst hx; simp [Memory.find, h1, h2]
          · simp [hx]
        · simp only [h3, if_false, Memory.find]
          by_cases hx : x = a
          · simp [hx]
          · rw [if_neg hx]
            by_cases h4 : x < a
            · rw [if_pos h4, if_neg hx, if_neg (by omega), if_pos (by omega)]
            · rw [if_neg h4, if_neg hx]
      · rw [if_neg h2]
        simp only [Memory.find]
        rw [ih hc.2.2]
        by_cases hx : x = a
        · subst hx; simp [h1, h2]
        · simp [hx]

/-- A byte written is the byte read. -/
theorem Memory.get_set {m : List Host.Cell} {a x : Nat} {b : Byte} (h : Memory.wf (some 0) m = true) :
    Memory.get (Memory.set (some 0) m a b) x = if x = a then b else Memory.get m x := by
  simp only [Memory.get, Memory.find_set h]
  split
  · split <;> simp_all
  · rfl

/-- A byte string written is what those bytes read as; no other byte changes. -/
theorem Memory.get_write {m : List Host.Cell} {a x : Nat} {bs : List Byte} (h : Memory.wf (some 0) m = true) :
    Memory.get (Memory.write (some 0) m a bs) x = if a ≤ x ∧ x < a + bs.length then (bs[x - a]?).getD 0 else Memory.get m x := by
  induction bs generalizing m a with
  | nil => simp only [Memory.write, List.length_nil]; rw [if_neg (by omega)]
  | cons b bs ih =>
    simp only [Memory.write, ih (Memory.set_wf h), Memory.get_set h, List.length_cons]
    by_cases h1 : x = a
    · subst h1; simp
    · by_cases h2 : a + 1 ≤ x ∧ x < a + 1 + bs.length
      · rw [if_pos h2, if_pos (by omega)]
        have : x - a = (x - (a + 1)) + 1 := by omega
        rw [this]; simp
      · rw [if_neg h2, if_neg h1, if_neg (by omega)]

/-- The memory after reset is canonical. -/
theorem Memory.reset_wf : Memory.wf (some 0) State.reset.hbm = true ∧ Memory.wf none State.reset.host = true := by decide

/-! ## Writes through the device -/

/-- What a write to HBM can change: HBM, what a segment holds back, and the pseudo-channels in self-refresh (R228, R449). -/
theorem State.wrHbm_only (s : State) (a : Nat) (bs : List Byte) :
    ∃ q m r, s.wrHbm a bs = { s with seqs := q, hbm := m, refreshing := r } ∧ (Memory.wf (some 0) s.hbm = true → Memory.wf (some 0) m = true) := by
  simp only [State.wrHbm]
  split
  · exact ⟨_, _, _, rfl, Memory.write_wf⟩
  · generalize (List.range (bs.length / 1024 + 2)).map _ = rows
    generalize s.refreshing.filter _ = r
    suffices ∀ (rows : List (Nat × List Byte)) (q : Map Seq) (m : List Host.Cell),
        ∃ q' m', (rows.foldl (fun (s : State) r =>
          if r.2.isEmpty then s
          else if s.inSegment r.1 then
            let q := s.seq (seqOf r.1)
            s.setSeq (seqOf r.1) { q with held := q.held ++ [r], ref := setFld q.ref 32 16 (fld q.ref 32 16 + 1) }
          else { s with hbm := Memory.write (some 0) s.hbm r.1 r.2 }) { s with seqs := q, hbm := m, refreshing := r }) =
            { s with seqs := q', hbm := m', refreshing := r } ∧ (Memory.wf (some 0) m = true → Memory.wf (some 0) m' = true) from by
      obtain ⟨q', m', h1, h2⟩ := this rows s.seqs s.hbm
      exact ⟨q', m', r, h1, h2⟩
    intro rows
    induction rows with
    | nil => intro q m; exact ⟨q, m, rfl, id⟩
    | cons x rows ih =>
      intro q m
      simp only [List.foldl_cons]
      split
      · exact ih q m
      · split
        · exact ih _ m
        · obtain ⟨q', m', h1, h2⟩ := ih q (Memory.write (some 0) m x.1 x.2)
          exact ⟨q', m', h1, fun h => h2 (Memory.write_wf h)⟩

/-- What a write to HBM or host memory can change; both stay canonical. -/
theorem State.wr_only (s : State) (hbm : Bool) (a : Nat) (bs : List Byte) :
    ∃ q m r h, s.wr hbm a bs = { s with seqs := q, hbm := m, refreshing := r, host := h } ∧
      (Memory.wf (some 0) s.hbm = true → Memory.wf (some 0) m = true) ∧ (Memory.wf none s.host = true → Memory.wf none h = true) := by
  simp only [State.wr]
  split
  · obtain ⟨q, m, r, h1, h2⟩ := s.wrHbm_only a bs
    exact ⟨q, m, r, s.host, h1, h2, id⟩
  · exact ⟨s.seqs, s.hbm, s.refreshing, _, rfl, id, Memory.write_wf⟩

end Sys2Proof.Machine
end

