-- ==== Sys2Proof/Laws/State.lean ====
section
/-!
SUPPORT. Sys2Proof/Laws/State.lean: what each named update of the state leaves: one lemma per field per update, and per accessor.
-/
namespace Sys2Proof.Machine

open Sys2Proof

variable (s : State)

/-! ### setJob -/

@[simp] theorem State.setJob_pending (j : Nat) (x : Job) : (s.setJob j x).pending = s.pending := rfl
@[simp] theorem State.setJob_freeCtr (j : Nat) (x : Job) : (s.setJob j x).freeCtr = s.freeCtr := rfl
@[simp] theorem State.setJob_power (j : Nat) (x : Job) : (s.setJob j x).power = s.power := rfl
@[simp] theorem State.setJob_pins (j : Nat) (x : Job) : (s.setJob j x).pins = s.pins := rfl
@[simp] theorem State.setJob_sec (j : Nat) (x : Job) : (s.setJob j x).sec = s.sec := rfl
@[simp] theorem State.setJob_errs (j : Nat) (x : Job) : (s.setJob j x).errs = s.errs := rfl
@[simp] theorem State.setJob_funcs (j : Nat) (x : Job) : (s.setJob j x).funcs = s.funcs := rfl
@[simp] theorem State.setJob_regs (j : Nat) (x : Job) : (s.setJob j x).regs = s.regs := rfl
@[simp] theorem State.setJob_sessions (j : Nat) (x : Job) : (s.setJob j x).sessions = s.sessions := rfl
@[simp] theorem State.setJob_sessAux (j : Nat) (x : Job) : (s.setJob j x).sessAux = s.sessAux := rfl
@[simp] theorem State.setJob_reqs (j : Nat) (x : Job) : (s.setJob j x).reqs = s.reqs := rfl
@[simp] theorem State.setJob_reqAux (j : Nat) (x : Job) : (s.setJob j x).reqAux = s.reqAux := rfl
@[simp] theorem State.setJob_serving (j : Nat) (x : Job) : (s.setJob j x).serving = s.serving := rfl
@[simp] theorem State.setJob_models (j : Nat) (x : Job) : (s.setJob j x).models = s.models := rfl
@[simp] theorem State.setJob_pools (j : Nat) (x : Job) : (s.setJob j x).pools = s.pools := rfl
@[simp] theorem State.setJob_shapers (j : Nat) (x : Job) : (s.setJob j x).shapers = s.shapers := rfl
@[simp] theorem State.setJob_hists (j : Nat) (x : Job) : (s.setJob j x).hists = s.hists := rfl
@[simp] theorem State.setJob_snapshot (j : Nat) (x : Job) : (s.setJob j x).snapshot = s.snapshot := rfl
@[simp] theorem State.setJob_sesCache (j : Nat) (x : Job) : (s.setJob j x).sesCache = s.sesCache := rfl
@[simp] theorem State.setJob_sesBypass (j : Nat) (x : Job) : (s.setJob j x).sesBypass = s.sesBypass := rfl
@[simp] theorem State.setJob_tierLat (j : Nat) (x : Job) : (s.setJob j x).tierLat = s.tierLat := rfl
@[simp] theorem State.setJob_pumpDescs (j : Nat) (x : Job) : (s.setJob j x).pumpDescs = s.pumpDescs := rfl
@[simp] theorem State.setJob_searches (j : Nat) (x : Job) : (s.setJob j x).searches = s.searches := rfl
@[simp] theorem State.setJob_lookups (j : Nat) (x : Job) : (s.setJob j x).lookups = s.lookups := rfl
@[simp] theorem State.setJob_nextWork (j : Nat) (x : Job) : (s.setJob j x).nextWork = s.nextWork := rfl
@[simp] theorem State.setJob_progs (j : Nat) (x : Job) : (s.setJob j x).progs = s.progs := rfl
@[simp] theorem State.setJob_nextProg (j : Nat) (x : Job) : (s.setJob j x).nextProg = s.nextProg := rfl
@[simp] theorem State.setJob_cores (j : Nat) (x : Job) : (s.setJob j x).cores = s.cores := rfl
@[simp] theorem State.setJob_groups (j : Nat) (x : Job) : (s.setJob j x).groups = s.groups := rfl
@[simp] theorem State.setJob_seqs (j : Nat) (x : Job) : (s.setJob j x).seqs = s.seqs := rfl
@[simp] theorem State.setJob_hbm (j : Nat) (x : Job) : (s.setJob j x).hbm = s.hbm := rfl
@[simp] theorem State.setJob_host (j : Nat) (x : Job) : (s.setJob j x).host = s.host := rfl
@[simp] theorem State.setJob_refreshing (j : Nat) (x : Job) : (s.setJob j x).refreshing = s.refreshing := rfl
@[simp] theorem State.setJob_winHeld (j : Nat) (x : Job) : (s.setJob j x).winHeld = s.winHeld := rfl
@[simp] theorem State.setJob_fabric (j : Nat) (x : Job) : (s.setJob j x).fabric = s.fabric := rfl
@[simp] theorem State.setJob_ftl (j : Nat) (x : Job) : (s.setJob j x).ftl = s.ftl := rfl
@[simp] theorem State.setJob_privSlots (j : Nat) (x : Job) : (s.setJob j x).privSlots = s.privSlots := rfl
@[simp] theorem State.setJob_blockOff (j : Nat) (x : Job) : (s.setJob j x).blockOff = s.blockOff := rfl
@[simp] theorem State.setJob_blockRefused (j : Nat) (x : Job) : (s.setJob j x).blockRefused = s.blockRefused := rfl
@[simp] theorem State.setJob_busOut (j : Nat) (x : Job) : (s.setJob j x).busOut = s.busOut := rfl
@[simp] theorem State.setJob_sess (j : Nat) (x : Job) (k : Nat) : (s.setJob j x).sess k = s.sess k := rfl
@[simp] theorem State.setJob_aux (j : Nat) (x : Job) (k : Nat) : (s.setJob j x).aux k = s.aux k := rfl
@[simp] theorem State.setJob_req (j : Nat) (x : Job) (k : Nat) : (s.setJob j x).req k = s.req k := rfl
@[simp] theorem State.setJob_raux (j : Nat) (x : Job) (k : Nat) : (s.setJob j x).raux? k = s.raux? k := rfl
@[simp] theorem State.setJob_func (j : Nat) (x : Job) (k : Nat) : (s.setJob j x).func k = s.func k := rfl
@[simp] theorem State.setJob_core (j : Nat) (x : Job) (k : Nat) : (s.setJob j x).core k = s.core k := rfl
@[simp] theorem State.setJob_group (j : Nat) (x : Job) (k : Nat) : (s.setJob j x).group k = s.group k := rfl
@[simp] theorem State.setJob_seq (j : Nat) (x : Job) (k : Nat) : (s.setJob j x).seq k = s.seq k := rfl
@[simp] theorem State.setJob_pool (j : Nat) (x : Job) (k : Nat) : (s.setJob j x).pool k = s.pool k := rfl
@[simp] theorem State.setJob_port (j : Nat) (x : Job) (k : Nat) : (s.setJob j x).port k = s.port k := rfl
@[simp] theorem State.setJob_reg (j : Nat) (x : Job) (k : Nat) : (s.setJob j x).reg k = s.reg k := rfl
@[simp] theorem State.setJob_shaper (j : Nat) (x : Job) (k : Nat) : (s.setJob j x).shaper k = s.shaper k := rfl
@[simp] theorem State.setJob_xfer (j : Nat) (x : Job) (k : Nat) : (s.setJob j x).xfer k = s.xfer k := rfl
@[simp] theorem State.setJob_now (j : Nat) (x : Job) : (s.setJob j x).now = s.now := rfl

/-! ### setSess -/

@[simp] theorem State.setSess_pending (j : Nat) (x : Session) : (s.setSess j x).pending = s.pending := rfl
@[simp] theorem State.setSess_freeCtr (j : Nat) (x : Session) : (s.setSess j x).freeCtr = s.freeCtr := rfl
@[simp] theorem State.setSess_power (j : Nat) (x : Session) : (s.setSess j x).power = s.power := rfl
@[simp] theorem State.setSess_pins (j : Nat) (x : Session) : (s.setSess j x).pins = s.pins := rfl
@[simp] theorem State.setSess_sec (j : Nat) (x : Session) : (s.setSess j x).sec = s.sec := rfl
@[simp] theorem State.setSess_errs (j : Nat) (x : Session) : (s.setSess j x).errs = s.errs := rfl
@[simp] theorem State.setSess_funcs (j : Nat) (x : Session) : (s.setSess j x).funcs = s.funcs := rfl
@[simp] theorem State.setSess_jobs (j : Nat) (x : Session) : (s.setSess j x).jobs = s.jobs := rfl
@[simp] theorem State.setSess_regs (j : Nat) (x : Session) : (s.setSess j x).regs = s.regs := rfl
@[simp] theorem State.setSess_sessAux (j : Nat) (x : Session) : (s.setSess j x).sessAux = s.sessAux := rfl
@[simp] theorem State.setSess_reqs (j : Nat) (x : Session) : (s.setSess j x).reqs = s.reqs := rfl
@[simp] theorem State.setSess_reqAux (j : Nat) (x : Session) : (s.setSess j x).reqAux = s.reqAux := rfl
@[simp] theorem State.setSess_serving (j : Nat) (x : Session) : (s.setSess j x).serving = s.serving := rfl
@[simp] theorem State.setSess_models (j : Nat) (x : Session) : (s.setSess j x).models = s.models := rfl
@[simp] theorem State.setSess_pools (j : Nat) (x : Session) : (s.setSess j x).pools = s.pools := rfl
@[simp] theorem State.setSess_shapers (j : Nat) (x : Session) : (s.setSess j x).shapers = s.shapers := rfl
@[simp] theorem State.setSess_hists (j : Nat) (x : Session) : (s.setSess j x).hists = s.hists := rfl
@[simp] theorem State.setSess_snapshot (j : Nat) (x : Session) : (s.setSess j x).snapshot = s.snapshot := rfl
@[simp] theorem State.setSess_sesCache (j : Nat) (x : Session) : (s.setSess j x).sesCache = s.sesCache := rfl
@[simp] theorem State.setSess_sesBypass (j : Nat) (x : Session) : (s.setSess j x).sesBypass = s.sesBypass := rfl
@[simp] theorem State.setSess_tierLat (j : Nat) (x : Session) : (s.setSess j x).tierLat = s.tierLat := rfl
@[simp] theorem State.setSess_pumpDescs (j : Nat) (x : Session) : (s.setSess j x).pumpDescs = s.pumpDescs := rfl
@[simp] theorem State.setSess_searches (j : Nat) (x : Session) : (s.setSess j x).searches = s.searches := rfl
@[simp] theorem State.setSess_lookups (j : Nat) (x : Session) : (s.setSess j x).lookups = s.lookups := rfl
@[simp] theorem State.setSess_nextWork (j : Nat) (x : Session) : (s.setSess j x).nextWork = s.nextWork := rfl
@[simp] theorem State.setSess_progs (j : Nat) (x : Session) : (s.setSess j x).progs = s.progs := rfl
@[simp] theorem State.setSess_nextProg (j : Nat) (x : Session) : (s.setSess j x).nextProg = s.nextProg := rfl
@[simp] theorem State.setSess_cores (j : Nat) (x : Session) : (s.setSess j x).cores = s.cores := rfl
@[simp] theorem State.setSess_groups (j : Nat) (x : Session) : (s.setSess j x).groups = s.groups := rfl
@[simp] theorem State.setSess_seqs (j : Nat) (x : Session) : (s.setSess j x).seqs = s.seqs := rfl
@[simp] theorem State.setSess_hbm (j : Nat) (x : Session) : (s.setSess j x).hbm = s.hbm := rfl
@[simp] theorem State.setSess_host (j : Nat) (x : Session) : (s.setSess j x).host = s.host := rfl
@[simp] theorem State.setSess_refreshing (j : Nat) (x : Session) : (s.setSess j x).refreshing = s.refreshing := rfl
@[simp] theorem State.setSess_winHeld (j : Nat) (x : Session) : (s.setSess j x).winHeld = s.winHeld := rfl
@[simp] theorem State.setSess_fabric (j : Nat) (x : Session) : (s.setSess j x).fabric = s.fabric := rfl
@[simp] theorem State.setSess_ftl (j : Nat) (x : Session) : (s.setSess j x).ftl = s.ftl := rfl
@[simp] theorem State.setSess_privSlots (j : Nat) (x : Session) : (s.setSess j x).privSlots = s.privSlots := rfl
@[simp] theorem State.setSess_blockOff (j : Nat) (x : Session) : (s.setSess j x).blockOff = s.blockOff := rfl
@[simp] theorem State.setSess_blockRefused (j : Nat) (x : Session) : (s.setSess j x).blockRefused = s.blockRefused := rfl
@[simp] theorem State.setSess_busOut (j : Nat) (x : Session) : (s.setSess j x).busOut = s.busOut := rfl
@[simp] theorem State.setSess_job (j : Nat) (x : Session) (k : Nat) : (s.setSess j x).job k = s.job k := rfl
@[simp] theorem State.setSess_aux (j : Nat) (x : Session) (k : Nat) : (s.setSess j x).aux k = s.aux k := rfl
@[simp] theorem State.setSess_req (j : Nat) (x : Session) (k : Nat) : (s.setSess j x).req k = s.req k := rfl
@[simp] theorem State.setSess_raux (j : Nat) (x : Session) (k : Nat) : (s.setSess j x).raux? k = s.raux? k := rfl
@[simp] theorem State.setSess_func (j : Nat) (x : Session) (k : Nat) : (s.setSess j x).func k = s.func k := rfl
@[simp] theorem State.setSess_core (j : Nat) (x : Session) (k : Nat) : (s.setSess j x).core k = s.core k := rfl
@[simp] theorem State.setSess_group (j : Nat) (x : Session) (k : Nat) : (s.setSess j x).group k = s.group k := rfl
@[simp] theorem State.setSess_seq (j : Nat) (x : Session) (k : Nat) : (s.setSess j x).seq k = s.seq k := rfl
@[simp] theorem State.setSess_pool (j : Nat) (x : Session) (k : Nat) : (s.setSess j x).pool k = s.pool k := rfl
@[simp] theorem State.setSess_port (j : Nat) (x : Session) (k : Nat) : (s.setSess j x).port k = s.port k := rfl
@[simp] theorem State.setSess_reg (j : Nat) (x : Session) (k : Nat) : (s.setSess j x).reg k = s.reg k := rfl
@[simp] theorem State.setSess_shaper (j : Nat) (x : Session) (k : Nat) : (s.setSess j x).shaper k = s.shaper k := rfl
@[simp] theorem State.setSess_xfer (j : Nat) (x : Session) (k : Nat) : (s.setSess j x).xfer k = s.xfer k := rfl
@[simp] theorem State.setSess_now (j : Nat) (x : Session) : (s.setSess j x).now = s.now := rfl

/-! ### setAux -/

@[simp] theorem State.setAux_pending (j : Nat) (x : SessAux) : (s.setAux j x).pending = s.pending := rfl
@[simp] theorem State.setAux_freeCtr (j : Nat) (x : SessAux) : (s.setAux j x).freeCtr = s.freeCtr := rfl
@[simp] theorem State.setAux_power (j : Nat) (x : SessAux) : (s.setAux j x).power = s.power := rfl
@[simp] theorem State.setAux_pins (j : Nat) (x : SessAux) : (s.setAux j x).pins = s.pins := rfl
@[simp] theorem State.setAux_sec (j : Nat) (x : SessAux) : (s.setAux j x).sec = s.sec := rfl
@[simp] theorem State.setAux_errs (j : Nat) (x : SessAux) : (s.setAux j x).errs = s.errs := rfl
@[simp] theorem State.setAux_funcs (j : Nat) (x : SessAux) : (s.setAux j x).funcs = s.funcs := rfl
@[simp] theorem State.setAux_jobs (j : Nat) (x : SessAux) : (s.setAux j x).jobs = s.jobs := rfl
@[simp] theorem State.setAux_regs (j : Nat) (x : SessAux) : (s.setAux j x).regs = s.regs := rfl
@[simp] theorem State.setAux_sessions (j : Nat) (x : SessAux) : (s.setAux j x).sessions = s.sessions := rfl
@[simp] theorem State.setAux_reqs (j : Nat) (x : SessAux) : (s.setAux j x).reqs = s.reqs := rfl
@[simp] theorem State.setAux_reqAux (j : Nat) (x : SessAux) : (s.setAux j x).reqAux = s.reqAux := rfl
@[simp] theorem State.setAux_serving (j : Nat) (x : SessAux) : (s.setAux j x).serving = s.serving := rfl
@[simp] theorem State.setAux_models (j : Nat) (x : SessAux) : (s.setAux j x).models = s.models := rfl
@[simp] theorem State.setAux_pools (j : Nat) (x : SessAux) : (s.setAux j x).pools = s.pools := rfl
@[simp] theorem State.setAux_shapers (j : Nat) (x : SessAux) : (s.setAux j x).shapers = s.shapers := rfl
@[simp] theorem State.setAux_hists (j : Nat) (x : SessAux) : (s.setAux j x).hists = s.hists := rfl
@[simp] theorem State.setAux_snapshot (j : Nat) (x : SessAux) : (s.setAux j x).snapshot = s.snapshot := rfl
@[simp] theorem State.setAux_sesCache (j : Nat) (x : SessAux) : (s.setAux j x).sesCache = s.sesCache := rfl
@[simp] theorem State.setAux_sesBypass (j : Nat) (x : SessAux) : (s.setAux j x).sesBypass = s.sesBypass := rfl
@[simp] theorem State.setAux_tierLat (j : Nat) (x : SessAux) : (s.setAux j x).tierLat = s.tierLat := rfl
@[simp] theorem State.setAux_pumpDescs (j : Nat) (x : SessAux) : (s.setAux j x).pumpDescs = s.pumpDescs := rfl
@[simp] theorem State.setAux_searches (j : Nat) (x : SessAux) : (s.setAux j x).searches = s.searches := rfl
@[simp] theorem State.setAux_lookups (j : Nat) (x : SessAux) : (s.setAux j x).lookups = s.lookups := rfl
@[simp] theorem State.setAux_nextWork (j : Nat) (x : SessAux) : (s.setAux j x).nextWork = s.nextWork := rfl
@[simp] theorem State.setAux_progs (j : Nat) (x : SessAux) : (s.setAux j x).progs = s.progs := rfl
@[simp] theorem State.setAux_nextProg (j : Nat) (x : SessAux) : (s.setAux j x).nextProg = s.nextProg := rfl
@[simp] theorem State.setAux_cores (j : Nat) (x : SessAux) : (s.setAux j x).cores = s.cores := rfl
@[simp] theorem State.setAux_groups (j : Nat) (x : SessAux) : (s.setAux j x).groups = s.groups := rfl
@[simp] theorem State.setAux_seqs (j : Nat) (x : SessAux) : (s.setAux j x).seqs = s.seqs := rfl
@[simp] theorem State.setAux_hbm (j : Nat) (x : SessAux) : (s.setAux j x).hbm = s.hbm := rfl
@[simp] theorem State.setAux_host (j : Nat) (x : SessAux) : (s.setAux j x).host = s.host := rfl
@[simp] theorem State.setAux_refreshing (j : Nat) (x : SessAux) : (s.setAux j x).refreshing = s.refreshing := rfl
@[simp] theorem State.setAux_winHeld (j : Nat) (x : SessAux) : (s.setAux j x).winHeld = s.winHeld := rfl
@[simp] theorem State.setAux_fabric (j : Nat) (x : SessAux) : (s.setAux j x).fabric = s.fabric := rfl
@[simp] theorem State.setAux_ftl (j : Nat) (x : SessAux) : (s.setAux j x).ftl = s.ftl := rfl
@[simp] theorem State.setAux_privSlots (j : Nat) (x : SessAux) : (s.setAux j x).privSlots = s.privSlots := rfl
@[simp] theorem State.setAux_blockOff (j : Nat) (x : SessAux) : (s.setAux j x).blockOff = s.blockOff := rfl
@[simp] theorem State.setAux_blockRefused (j : Nat) (x : SessAux) : (s.setAux j x).blockRefused = s.blockRefused := rfl
@[simp] theorem State.setAux_busOut (j : Nat) (x : SessAux) : (s.setAux j x).busOut = s.busOut := rfl
@[simp] theorem State.setAux_job (j : Nat) (x : SessAux) (k : Nat) : (s.setAux j x).job k = s.job k := rfl
@[simp] theorem State.setAux_sess (j : Nat) (x : SessAux) (k : Nat) : (s.setAux j x).sess k = s.sess k := rfl
@[simp] theorem State.setAux_req (j : Nat) (x : SessAux) (k : Nat) : (s.setAux j x).req k = s.req k := rfl
@[simp] theorem State.setAux_raux (j : Nat) (x : SessAux) (k : Nat) : (s.setAux j x).raux? k = s.raux? k := rfl
@[simp] theorem State.setAux_func (j : Nat) (x : SessAux) (k : Nat) : (s.setAux j x).func k = s.func k := rfl
@[simp] theorem State.setAux_core (j : Nat) (x : SessAux) (k : Nat) : (s.setAux j x).core k = s.core k := rfl
@[simp] theorem State.setAux_group (j : Nat) (x : SessAux) (k : Nat) : (s.setAux j x).group k = s.group k := rfl
@[simp] theorem State.setAux_seq (j : Nat) (x : SessAux) (k : Nat) : (s.setAux j x).seq k = s.seq k := rfl
@[simp] theorem State.setAux_pool (j : Nat) (x : SessAux) (k : Nat) : (s.setAux j x).pool k = s.pool k := rfl
@[simp] theorem State.setAux_port (j : Nat) (x : SessAux) (k : Nat) : (s.setAux j x).port k = s.port k := rfl
@[simp] theorem State.setAux_reg (j : Nat) (x : SessAux) (k : Nat) : (s.setAux j x).reg k = s.reg k := rfl
@[simp] theorem State.setAux_shaper (j : Nat) (x : SessAux) (k : Nat) : (s.setAux j x).shaper k = s.shaper k := rfl
@[simp] theorem State.setAux_xfer (j : Nat) (x : SessAux) (k : Nat) : (s.setAux j x).xfer k = s.xfer k := rfl
@[simp] theorem State.setAux_now (j : Nat) (x : SessAux) : (s.setAux j x).now = s.now := rfl

/-! ### setReq -/

@[simp] theorem State.setReq_pending (j : Nat) (x : Req) : (s.setReq j x).pending = s.pending := rfl
@[simp] theorem State.setReq_freeCtr (j : Nat) (x : Req) : (s.setReq j x).freeCtr = s.freeCtr := rfl
@[simp] theorem State.setReq_power (j : Nat) (x : Req) : (s.setReq j x).power = s.power := rfl
@[simp] theorem State.setReq_pins (j : Nat) (x : Req) : (s.setReq j x).pins = s.pins := rfl
@[simp] theorem State.setReq_sec (j : Nat) (x : Req) : (s.setReq j x).sec = s.sec := rfl
@[simp] theorem State.setReq_errs (j : Nat) (x : Req) : (s.setReq j x).errs = s.errs := rfl
@[simp] theorem State.setReq_funcs (j : Nat) (x : Req) : (s.setReq j x).funcs = s.funcs := rfl
@[simp] theorem State.setReq_jobs (j : Nat) (x : Req) : (s.setReq j x).jobs = s.jobs := rfl
@[simp] theorem State.setReq_regs (j : Nat) (x : Req) : (s.setReq j x).regs = s.regs := rfl
@[simp] theorem State.setReq_sessions (j : Nat) (x : Req) : (s.setReq j x).sessions = s.sessions := rfl
@[simp] theorem State.setReq_sessAux (j : Nat) (x : Req) : (s.setReq j x).sessAux = s.sessAux := rfl
@[simp] theorem State.setReq_reqAux (j : Nat) (x : Req) : (s.setReq j x).reqAux = s.reqAux := rfl
@[simp] theorem State.setReq_serving (j : Nat) (x : Req) : (s.setReq j x).serving = s.serving := rfl
@[simp] theorem State.setReq_models (j : Nat) (x : Req) : (s.setReq j x).models = s.models := rfl
@[simp] theorem State.setReq_pools (j : Nat) (x : Req) : (s.setReq j x).pools = s.pools := rfl
@[simp] theorem State.setReq_shapers (j : Nat) (x : Req) : (s.setReq j x).shapers = s.shapers := rfl
@[simp] theorem State.setReq_hists (j : Nat) (x : Req) : (s.setReq j x).hists = s.hists := rfl
@[simp] theorem State.setReq_snapshot (j : Nat) (x : Req) : (s.setReq j x).snapshot = s.snapshot := rfl
@[simp] theorem State.setReq_sesCache (j : Nat) (x : Req) : (s.setReq j x).sesCache = s.sesCache := rfl
@[simp] theorem State.setReq_sesBypass (j : Nat) (x : Req) : (s.setReq j x).sesBypass = s.sesBypass := rfl
@[simp] theorem State.setReq_tierLat (j : Nat) (x : Req) : (s.setReq j x).tierLat = s.tierLat := rfl
@[simp] theorem State.setReq_pumpDescs (j : Nat) (x : Req) : (s.setReq j x).pumpDescs = s.pumpDescs := rfl
@[simp] theorem State.setReq_searches (j : Nat) (x : Req) : (s.setReq j x).searches = s.searches := rfl
@[simp] theorem State.setReq_lookups (j : Nat) (x : Req) : (s.setReq j x).lookups = s.lookups := rfl
@[simp] theorem State.setReq_nextWork (j : Nat) (x : Req) : (s.setReq j x).nextWork = s.nextWork := rfl
@[simp] theorem State.setReq_progs (j : Nat) (x : Req) : (s.setReq j x).progs = s.progs := rfl
@[simp] theorem State.setReq_nextProg (j : Nat) (x : Req) : (s.setReq j x).nextProg = s.nextProg := rfl
@[simp] theorem State.setReq_cores (j : Nat) (x : Req) : (s.setReq j x).cores = s.cores := rfl
@[simp] theorem State.setReq_groups (j : Nat) (x : Req) : (s.setReq j x).groups = s.groups := rfl
@[simp] theorem State.setReq_seqs (j : Nat) (x : Req) : (s.setReq j x).seqs = s.seqs := rfl
@[simp] theorem State.setReq_hbm (j : Nat) (x : Req) : (s.setReq j x).hbm = s.hbm := rfl
@[simp] theorem State.setReq_host (j : Nat) (x : Req) : (s.setReq j x).host = s.host := rfl
@[simp] theorem State.setReq_refreshing (j : Nat) (x : Req) : (s.setReq j x).refreshing = s.refreshing := rfl
@[simp] theorem State.setReq_winHeld (j : Nat) (x : Req) : (s.setReq j x).winHeld = s.winHeld := rfl
@[simp] theorem State.setReq_fabric (j : Nat) (x : Req) : (s.setReq j x).fabric = s.fabric := rfl
@[simp] theorem State.setReq_ftl (j : Nat) (x : Req) : (s.setReq j x).ftl = s.ftl := rfl
@[simp] theorem State.setReq_privSlots (j : Nat) (x : Req) : (s.setReq j x).privSlots = s.privSlots := rfl
@[simp] theorem State.setReq_blockOff (j : Nat) (x : Req) : (s.setReq j x).blockOff = s.blockOff := rfl
@[simp] theorem State.setReq_blockRefused (j : Nat) (x : Req) : (s.setReq j x).blockRefused = s.blockRefused := rfl
@[simp] theorem State.setReq_busOut (j : Nat) (x : Req) : (s.setReq j x).busOut = s.busOut := rfl
@[simp] theorem State.setReq_job (j : Nat) (x : Req) (k : Nat) : (s.setReq j x).job k = s.job k := rfl
@[simp] theorem State.setReq_sess (j : Nat) (x : Req) (k : Nat) : (s.setReq j x).sess k = s.sess k := rfl
@[simp] theorem State.setReq_aux (j : Nat) (x : Req) (k : Nat) : (s.setReq j x).aux k = s.aux k := rfl
@[simp] theorem State.setReq_raux (j : Nat) (x : Req) (k : Nat) : (s.setReq j x).raux? k = s.raux? k := rfl
@[simp] theorem State.setReq_func (j : Nat) (x : Req) (k : Nat) : (s.setReq j x).func k = s.func k := rfl
@[simp] theorem State.setReq_core (j : Nat) (x : Req) (k : Nat) : (s.setReq j x).core k = s.core k := rfl
@[simp] theorem State.setReq_group (j : Nat) (x : Req) (k : Nat) : (s.setReq j x).group k = s.group k := rfl
@[simp] theorem State.setReq_seq (j : Nat) (x : Req) (k : Nat) : (s.setReq j x).seq k = s.seq k := rfl
@[simp] theorem State.setReq_pool (j : Nat) (x : Req) (k : Nat) : (s.setReq j x).pool k = s.pool k := rfl
@[simp] theorem State.setReq_port (j : Nat) (x : Req) (k : Nat) : (s.setReq j x).port k = s.port k := rfl
@[simp] theorem State.setReq_reg (j : Nat) (x : Req) (k : Nat) : (s.setReq j x).reg k = s.reg k := rfl
@[simp] theorem State.setReq_shaper (j : Nat) (x : Req) (k : Nat) : (s.setReq j x).shaper k = s.shaper k := rfl
@[simp] theorem State.setReq_xfer (j : Nat) (x : Req) (k : Nat) : (s.setReq j x).xfer k = s.xfer k := rfl
@[simp] theorem State.setReq_now (j : Nat) (x : Req) : (s.setReq j x).now = s.now := rfl

/-! ### setRaux -/

@[simp] theorem State.setRaux_pending (j : Nat) (x : ReqAux) : (s.setRaux j x).pending = s.pending := rfl
@[simp] theorem State.setRaux_freeCtr (j : Nat) (x : ReqAux) : (s.setRaux j x).freeCtr = s.freeCtr := rfl
@[simp] theorem State.setRaux_power (j : Nat) (x : ReqAux) : (s.setRaux j x).power = s.power := rfl
@[simp] theorem State.setRaux_pins (j : Nat) (x : ReqAux) : (s.setRaux j x).pins = s.pins := rfl
@[simp] theorem State.setRaux_sec (j : Nat) (x : ReqAux) : (s.setRaux j x).sec = s.sec := rfl
@[simp] theorem State.setRaux_errs (j : Nat) (x : ReqAux) : (s.setRaux j x).errs = s.errs := rfl
@[simp] theorem State.setRaux_funcs (j : Nat) (x : ReqAux) : (s.setRaux j x).funcs = s.funcs := rfl
@[simp] theorem State.setRaux_jobs (j : Nat) (x : ReqAux) : (s.setRaux j x).jobs = s.jobs := rfl
@[simp] theorem State.setRaux_regs (j : Nat) (x : ReqAux) : (s.setRaux j x).regs = s.regs := rfl
@[simp] theorem State.setRaux_sessions (j : Nat) (x : ReqAux) : (s.setRaux j x).sessions = s.sessions := rfl
@[simp] theorem State.setRaux_sessAux (j : Nat) (x : ReqAux) : (s.setRaux j x).sessAux = s.sessAux := rfl
@[simp] theorem State.setRaux_reqs (j : Nat) (x : ReqAux) : (s.setRaux j x).reqs = s.reqs := rfl
@[simp] theorem State.setRaux_serving (j : Nat) (x : ReqAux) : (s.setRaux j x).serving = s.serving := rfl
@[simp] theorem State.setRaux_models (j : Nat) (x : ReqAux) : (s.setRaux j x).models = s.models := rfl
@[simp] theorem State.setRaux_pools (j : Nat) (x : ReqAux) : (s.setRaux j x).pools = s.pools := rfl
@[simp] theorem State.setRaux_shapers (j : Nat) (x : ReqAux) : (s.setRaux j x).shapers = s.shapers := rfl
@[simp] theorem State.setRaux_hists (j : Nat) (x : ReqAux) : (s.setRaux j x).hists = s.hists := rfl
@[simp] theorem State.setRaux_snapshot (j : Nat) (x : ReqAux) : (s.setRaux j x).snapshot = s.snapshot := rfl
@[simp] theorem State.setRaux_sesCache (j : Nat) (x : ReqAux) : (s.setRaux j x).sesCache = s.sesCache := rfl
@[simp] theorem State.setRaux_sesBypass (j : Nat) (x : ReqAux) : (s.setRaux j x).sesBypass = s.sesBypass := rfl
@[simp] theorem State.setRaux_tierLat (j : Nat) (x : ReqAux) : (s.setRaux j x).tierLat = s.tierLat := rfl
@[simp] theorem State.setRaux_pumpDescs (j : Nat) (x : ReqAux) : (s.setRaux j x).pumpDescs = s.pumpDescs := rfl
@[simp] theorem State.setRaux_searches (j : Nat) (x : ReqAux) : (s.setRaux j x).searches = s.searches := rfl
@[simp] theorem State.setRaux_lookups (j : Nat) (x : ReqAux) : (s.setRaux j x).lookups = s.lookups := rfl
@[simp] theorem State.setRaux_nextWork (j : Nat) (x : ReqAux) : (s.setRaux j x).nextWork = s.nextWork := rfl
@[simp] theorem State.setRaux_progs (j : Nat) (x : ReqAux) : (s.setRaux j x).progs = s.progs := rfl
@[simp] theorem State.setRaux_nextProg (j : Nat) (x : ReqAux) : (s.setRaux j x).nextProg = s.nextProg := rfl
@[simp] theorem State.setRaux_cores (j : Nat) (x : ReqAux) : (s.setRaux j x).cores = s.cores := rfl
@[simp] theorem State.setRaux_groups (j : Nat) (x : ReqAux) : (s.setRaux j x).groups = s.groups := rfl
@[simp] theorem State.setRaux_seqs (j : Nat) (x : ReqAux) : (s.setRaux j x).seqs = s.seqs := rfl
@[simp] theorem State.setRaux_hbm (j : Nat) (x : ReqAux) : (s.setRaux j x).hbm = s.hbm := rfl
@[simp] theorem State.setRaux_host (j : Nat) (x : ReqAux) : (s.setRaux j x).host = s.host := rfl
@[simp] theorem State.setRaux_refreshing (j : Nat) (x : ReqAux) : (s.setRaux j x).refreshing = s.refreshing := rfl
@[simp] theorem State.setRaux_winHeld (j : Nat) (x : ReqAux) : (s.setRaux j x).winHeld = s.winHeld := rfl
@[simp] theorem State.setRaux_fabric (j : Nat) (x : ReqAux) : (s.setRaux j x).fabric = s.fabric := rfl
@[simp] theorem State.setRaux_ftl (j : Nat) (x : ReqAux) : (s.setRaux j x).ftl = s.ftl := rfl
@[simp] theorem State.setRaux_privSlots (j : Nat) (x : ReqAux) : (s.setRaux j x).privSlots = s.privSlots := rfl
@[simp] theorem State.setRaux_blockOff (j : Nat) (x : ReqAux) : (s.setRaux j x).blockOff = s.blockOff := rfl
@[simp] theorem State.setRaux_blockRefused (j : Nat) (x : ReqAux) : (s.setRaux j x).blockRefused = s.blockRefused := rfl
@[simp] theorem State.setRaux_busOut (j : Nat) (x : ReqAux) : (s.setRaux j x).busOut = s.busOut := rfl
@[simp] theorem State.setRaux_job (j : Nat) (x : ReqAux) (k : Nat) : (s.setRaux j x).job k = s.job k := rfl
@[simp] theorem State.setRaux_sess (j : Nat) (x : ReqAux) (k : Nat) : (s.setRaux j x).sess k = s.sess k := rfl
@[simp] theorem State.setRaux_aux (j : Nat) (x : ReqAux) (k : Nat) : (s.setRaux j x).aux k = s.aux k := rfl
@[simp] theorem State.setRaux_req (j : Nat) (x : ReqAux) (k : Nat) : (s.setRaux j x).req k = s.req k := rfl
@[simp] theorem State.setRaux_func (j : Nat) (x : ReqAux) (k : Nat) : (s.setRaux j x).func k = s.func k := rfl
@[simp] theorem State.setRaux_core (j : Nat) (x : ReqAux) (k : Nat) : (s.setRaux j x).core k = s.core k := rfl
@[simp] theorem State.setRaux_group (j : Nat) (x : ReqAux) (k : Nat) : (s.setRaux j x).group k = s.group k := rfl
@[simp] theorem State.setRaux_seq (j : Nat) (x : ReqAux) (k : Nat) : (s.setRaux j x).seq k = s.seq k := rfl
@[simp] theorem State.setRaux_pool (j : Nat) (x : ReqAux) (k : Nat) : (s.setRaux j x).pool k = s.pool k := rfl
@[simp] theorem State.setRaux_port (j : Nat) (x : ReqAux) (k : Nat) : (s.setRaux j x).port k = s.port k := rfl
@[simp] theorem State.setRaux_reg (j : Nat) (x : ReqAux) (k : Nat) : (s.setRaux j x).reg k = s.reg k := rfl
@[simp] theorem State.setRaux_shaper (j : Nat) (x : ReqAux) (k : Nat) : (s.setRaux j x).shaper k = s.shaper k := rfl
@[simp] theorem State.setRaux_xfer (j : Nat) (x : ReqAux) (k : Nat) : (s.setRaux j x).xfer k = s.xfer k := rfl
@[simp] theorem State.setRaux_now (j : Nat) (x : ReqAux) : (s.setRaux j x).now = s.now := rfl

/-! ### modFunc -/

@[simp] theorem State.modFunc_pending (j : Nat) (x : Func → Func) : (s.modFunc j x).pending = s.pending := rfl
@[simp] theorem State.modFunc_freeCtr (j : Nat) (x : Func → Func) : (s.modFunc j x).freeCtr = s.freeCtr := rfl
@[simp] theorem State.modFunc_power (j : Nat) (x : Func → Func) : (s.modFunc j x).power = s.power := rfl
@[simp] theorem State.modFunc_pins (j : Nat) (x : Func → Func) : (s.modFunc j x).pins = s.pins := rfl
@[simp] theorem State.modFunc_sec (j : Nat) (x : Func → Func) : (s.modFunc j x).sec = s.sec := rfl
@[simp] theorem State.modFunc_errs (j : Nat) (x : Func → Func) : (s.modFunc j x).errs = s.errs := rfl
@[simp] theorem State.modFunc_jobs (j : Nat) (x : Func → Func) : (s.modFunc j x).jobs = s.jobs := rfl
@[simp] theorem State.modFunc_regs (j : Nat) (x : Func → Func) : (s.modFunc j x).regs = s.regs := rfl
@[simp] theorem State.modFunc_sessions (j : Nat) (x : Func → Func) : (s.modFunc j x).sessions = s.sessions := rfl
@[simp] theorem State.modFunc_sessAux (j : Nat) (x : Func → Func) : (s.modFunc j x).sessAux = s.sessAux := rfl
@[simp] theorem State.modFunc_reqs (j : Nat) (x : Func → Func) : (s.modFunc j x).reqs = s.reqs := rfl
@[simp] theorem State.modFunc_reqAux (j : Nat) (x : Func → Func) : (s.modFunc j x).reqAux = s.reqAux := rfl
@[simp] theorem State.modFunc_serving (j : Nat) (x : Func → Func) : (s.modFunc j x).serving = s.serving := rfl
@[simp] theorem State.modFunc_models (j : Nat) (x : Func → Func) : (s.modFunc j x).models = s.models := rfl
@[simp] theorem State.modFunc_pools (j : Nat) (x : Func → Func) : (s.modFunc j x).pools = s.pools := rfl
@[simp] theorem State.modFunc_shapers (j : Nat) (x : Func → Func) : (s.modFunc j x).shapers = s.shapers := rfl
@[simp] theorem State.modFunc_hists (j : Nat) (x : Func → Func) : (s.modFunc j x).hists = s.hists := rfl
@[simp] theorem State.modFunc_snapshot (j : Nat) (x : Func → Func) : (s.modFunc j x).snapshot = s.snapshot := rfl
@[simp] theorem State.modFunc_sesCache (j : Nat) (x : Func → Func) : (s.modFunc j x).sesCache = s.sesCache := rfl
@[simp] theorem State.modFunc_sesBypass (j : Nat) (x : Func → Func) : (s.modFunc j x).sesBypass = s.sesBypass := rfl
@[simp] theorem State.modFunc_tierLat (j : Nat) (x : Func → Func) : (s.modFunc j x).tierLat = s.tierLat := rfl
@[simp] theorem State.modFunc_pumpDescs (j : Nat) (x : Func → Func) : (s.modFunc j x).pumpDescs = s.pumpDescs := rfl
@[simp] theorem State.modFunc_searches (j : Nat) (x : Func → Func) : (s.modFunc j x).searches = s.searches := rfl
@[simp] theorem State.modFunc_lookups (j : Nat) (x : Func → Func) : (s.modFunc j x).lookups = s.lookups := rfl
@[simp] theorem State.modFunc_nextWork (j : Nat) (x : Func → Func) : (s.modFunc j x).nextWork = s.nextWork := rfl
@[simp] theorem State.modFunc_progs (j : Nat) (x : Func → Func) : (s.modFunc j x).progs = s.progs := rfl
@[simp] theorem State.modFunc_nextProg (j : Nat) (x : Func → Func) : (s.modFunc j x).nextProg = s.nextProg := rfl
@[simp] theorem State.modFunc_cores (j : Nat) (x : Func → Func) : (s.modFunc j x).cores = s.cores := rfl
@[simp] theorem State.modFunc_groups (j : Nat) (x : Func → Func) : (s.modFunc j x).groups = s.groups := rfl
@[simp] theorem State.modFunc_seqs (j : Nat) (x : Func → Func) : (s.modFunc j x).seqs = s.seqs := rfl
@[simp] theorem State.modFunc_hbm (j : Nat) (x : Func → Func) : (s.modFunc j x).hbm = s.hbm := rfl
@[simp] theorem State.modFunc_host (j : Nat) (x : Func → Func) : (s.modFunc j x).host = s.host := rfl
@[simp] theorem State.modFunc_refreshing (j : Nat) (x : Func → Func) : (s.modFunc j x).refreshing = s.refreshing := rfl
@[simp] theorem State.modFunc_winHeld (j : Nat) (x : Func → Func) : (s.modFunc j x).winHeld = s.winHeld := rfl
@[simp] theorem State.modFunc_fabric (j : Nat) (x : Func → Func) : (s.modFunc j x).fabric = s.fabric := rfl
@[simp] theorem State.modFunc_ftl (j : Nat) (x : Func → Func) : (s.modFunc j x).ftl = s.ftl := rfl
@[simp] theorem State.modFunc_privSlots (j : Nat) (x : Func → Func) : (s.modFunc j x).privSlots = s.privSlots := rfl
@[simp] theorem State.modFunc_blockOff (j : Nat) (x : Func → Func) : (s.modFunc j x).blockOff = s.blockOff := rfl
@[simp] theorem State.modFunc_blockRefused (j : Nat) (x : Func → Func) : (s.modFunc j x).blockRefused = s.blockRefused := rfl
@[simp] theorem State.modFunc_busOut (j : Nat) (x : Func → Func) : (s.modFunc j x).busOut = s.busOut := rfl
@[simp] theorem State.modFunc_job (j : Nat) (x : Func → Func) (k : Nat) : (s.modFunc j x).job k = s.job k := rfl
@[simp] theorem State.modFunc_sess (j : Nat) (x : Func → Func) (k : Nat) : (s.modFunc j x).sess k = s.sess k := rfl
@[simp] theorem State.modFunc_aux (j : Nat) (x : Func → Func) (k : Nat) : (s.modFunc j x).aux k = s.aux k := rfl
@[simp] theorem State.modFunc_req (j : Nat) (x : Func → Func) (k : Nat) : (s.modFunc j x).req k = s.req k := rfl
@[simp] theorem State.modFunc_raux (j : Nat) (x : Func → Func) (k : Nat) : (s.modFunc j x).raux? k = s.raux? k := rfl
@[simp] theorem State.modFunc_core (j : Nat) (x : Func → Func) (k : Nat) : (s.modFunc j x).core k = s.core k := rfl
@[simp] theorem State.modFunc_group (j : Nat) (x : Func → Func) (k : Nat) : (s.modFunc j x).group k = s.group k := rfl
@[simp] theorem State.modFunc_seq (j : Nat) (x : Func → Func) (k : Nat) : (s.modFunc j x).seq k = s.seq k := rfl
@[simp] theorem State.modFunc_pool (j : Nat) (x : Func → Func) (k : Nat) : (s.modFunc j x).pool k = s.pool k := rfl
@[simp] theorem State.modFunc_port (j : Nat) (x : Func → Func) (k : Nat) : (s.modFunc j x).port k = s.port k := rfl
@[simp] theorem State.modFunc_reg (j : Nat) (x : Func → Func) (k : Nat) : (s.modFunc j x).reg k = s.reg k := rfl
@[simp] theorem State.modFunc_shaper (j : Nat) (x : Func → Func) (k : Nat) : (s.modFunc j x).shaper k = s.shaper k := rfl
@[simp] theorem State.modFunc_xfer (j : Nat) (x : Func → Func) (k : Nat) : (s.modFunc j x).xfer k = s.xfer k := rfl
@[simp] theorem State.modFunc_now (j : Nat) (x : Func → Func) : (s.modFunc j x).now = s.now := rfl

/-! ### setCore -/

@[simp] theorem State.setCore_pending (j : Nat) (x : Core) : (s.setCore j x).pending = s.pending := rfl
@[simp] theorem State.setCore_freeCtr (j : Nat) (x : Core) : (s.setCore j x).freeCtr = s.freeCtr := rfl
@[simp] theorem State.setCore_power (j : Nat) (x : Core) : (s.setCore j x).power = s.power := rfl
@[simp] theorem State.setCore_pins (j : Nat) (x : Core) : (s.setCore j x).pins = s.pins := rfl
@[simp] theorem State.setCore_sec (j : Nat) (x : Core) : (s.setCore j x).sec = s.sec := rfl
@[simp] theorem State.setCore_errs (j : Nat) (x : Core) : (s.setCore j x).errs = s.errs := rfl
@[simp] theorem State.setCore_funcs (j : Nat) (x : Core) : (s.setCore j x).funcs = s.funcs := rfl
@[simp] theorem State.setCore_jobs (j : Nat) (x : Core) : (s.setCore j x).jobs = s.jobs := rfl
@[simp] theorem State.setCore_regs (j : Nat) (x : Core) : (s.setCore j x).regs = s.regs := rfl
@[simp] theorem State.setCore_sessions (j : Nat) (x : Core) : (s.setCore j x).sessions = s.sessions := rfl
@[simp] theorem State.setCore_sessAux (j : Nat) (x : Core) : (s.setCore j x).sessAux = s.sessAux := rfl
@[simp] theorem State.setCore_reqs (j : Nat) (x : Core) : (s.setCore j x).reqs = s.reqs := rfl
@[simp] theorem State.setCore_reqAux (j : Nat) (x : Core) : (s.setCore j x).reqAux = s.reqAux := rfl
@[simp] theorem State.setCore_serving (j : Nat) (x : Core) : (s.setCore j x).serving = s.serving := rfl
@[simp] theorem State.setCore_models (j : Nat) (x : Core) : (s.setCore j x).models = s.models := rfl
@[simp] theorem State.setCore_pools (j : Nat) (x : Core) : (s.setCore j x).pools = s.pools := rfl
@[simp] theorem State.setCore_shapers (j : Nat) (x : Core) : (s.setCore j x).shapers = s.shapers := rfl
@[simp] theorem State.setCore_hists (j : Nat) (x : Core) : (s.setCore j x).hists = s.hists := rfl
@[simp] theorem State.setCore_snapshot (j : Nat) (x : Core) : (s.setCore j x).snapshot = s.snapshot := rfl
@[simp] theorem State.setCore_sesCache (j : Nat) (x : Core) : (s.setCore j x).sesCache = s.sesCache := rfl
@[simp] theorem State.setCore_sesBypass (j : Nat) (x : Core) : (s.setCore j x).sesBypass = s.sesBypass := rfl
@[simp] theorem State.setCore_tierLat (j : Nat) (x : Core) : (s.setCore j x).tierLat = s.tierLat := rfl
@[simp] theorem State.setCore_pumpDescs (j : Nat) (x : Core) : (s.setCore j x).pumpDescs = s.pumpDescs := rfl
@[simp] theorem State.setCore_searches (j : Nat) (x : Core) : (s.setCore j x).searches = s.searches := rfl
@[simp] theorem State.setCore_lookups (j : Nat) (x : Core) : (s.setCore j x).lookups = s.lookups := rfl
@[simp] theorem State.setCore_nextWork (j : Nat) (x : Core) : (s.setCore j x).nextWork = s.nextWork := rfl
@[simp] theorem State.setCore_progs (j : Nat) (x : Core) : (s.setCore j x).progs = s.progs := rfl
@[simp] theorem State.setCore_nextProg (j : Nat) (x : Core) : (s.setCore j x).nextProg = s.nextProg := rfl
@[simp] theorem State.setCore_groups (j : Nat) (x : Core) : (s.setCore j x).groups = s.groups := rfl
@[simp] theorem State.setCore_seqs (j : Nat) (x : Core) : (s.setCore j x).seqs = s.seqs := rfl
@[simp] theorem State.setCore_hbm (j : Nat) (x : Core) : (s.setCore j x).hbm = s.hbm := rfl
@[simp] theorem State.setCore_host (j : Nat) (x : Core) : (s.setCore j x).host = s.host := rfl
@[simp] theorem State.setCore_refreshing (j : Nat) (x : Core) : (s.setCore j x).refreshing = s.refreshing := rfl
@[simp] theorem State.setCore_winHeld (j : Nat) (x : Core) : (s.setCore j x).winHeld = s.winHeld := rfl
@[simp] theorem State.setCore_fabric (j : Nat) (x : Core) : (s.setCore j x).fabric = s.fabric := rfl
@[simp] theorem State.setCore_ftl (j : Nat) (x : Core) : (s.setCore j x).ftl = s.ftl := rfl
@[simp] theorem State.setCore_privSlots (j : Nat) (x : Core) : (s.setCore j x).privSlots = s.privSlots := rfl
@[simp] theorem State.setCore_blockOff (j : Nat) (x : Core) : (s.setCore j x).blockOff = s.blockOff := rfl
@[simp] theorem State.setCore_blockRefused (j : Nat) (x : Core) : (s.setCore j x).blockRefused = s.blockRefused := rfl
@[simp] theorem State.setCore_busOut (j : Nat) (x : Core) : (s.setCore j x).busOut = s.busOut := rfl
@[simp] theorem State.setCore_job (j : Nat) (x : Core) (k : Nat) : (s.setCore j x).job k = s.job k := rfl
@[simp] theorem State.setCore_sess (j : Nat) (x : Core) (k : Nat) : (s.setCore j x).sess k = s.sess k := rfl
@[simp] theorem State.setCore_aux (j : Nat) (x : Core) (k : Nat) : (s.setCore j x).aux k = s.aux k := rfl
@[simp] theorem State.setCore_req (j : Nat) (x : Core) (k : Nat) : (s.setCore j x).req k = s.req k := rfl
@[simp] theorem State.setCore_raux (j : Nat) (x : Core) (k : Nat) : (s.setCore j x).raux? k = s.raux? k := rfl
@[simp] theorem State.setCore_func (j : Nat) (x : Core) (k : Nat) : (s.setCore j x).func k = s.func k := rfl
@[simp] theorem State.setCore_group (j : Nat) (x : Core) (k : Nat) : (s.setCore j x).group k = s.group k := rfl
@[simp] theorem State.setCore_seq (j : Nat) (x : Core) (k : Nat) : (s.setCore j x).seq k = s.seq k := rfl
@[simp] theorem State.setCore_pool (j : Nat) (x : Core) (k : Nat) : (s.setCore j x).pool k = s.pool k := rfl
@[simp] theorem State.setCore_port (j : Nat) (x : Core) (k : Nat) : (s.setCore j x).port k = s.port k := rfl
@[simp] theorem State.setCore_reg (j : Nat) (x : Core) (k : Nat) : (s.setCore j x).reg k = s.reg k := rfl
@[simp] theorem State.setCore_shaper (j : Nat) (x : Core) (k : Nat) : (s.setCore j x).shaper k = s.shaper k := rfl
@[simp] theorem State.setCore_xfer (j : Nat) (x : Core) (k : Nat) : (s.setCore j x).xfer k = s.xfer k := rfl
@[simp] theorem State.setCore_now (j : Nat) (x : Core) : (s.setCore j x).now = s.now := rfl

/-! ### setGroup -/

@[simp] theorem State.setGroup_pending (j : Nat) (x : Group) : (s.setGroup j x).pending = s.pending := rfl
@[simp] theorem State.setGroup_freeCtr (j : Nat) (x : Group) : (s.setGroup j x).freeCtr = s.freeCtr := rfl
@[simp] theorem State.setGroup_power (j : Nat) (x : Group) : (s.setGroup j x).power = s.power := rfl
@[simp] theorem State.setGroup_pins (j : Nat) (x : Group) : (s.setGroup j x).pins = s.pins := rfl
@[simp] theorem State.setGroup_sec (j : Nat) (x : Group) : (s.setGroup j x).sec = s.sec := rfl
@[simp] theorem State.setGroup_errs (j : Nat) (x : Group) : (s.setGroup j x).errs = s.errs := rfl
@[simp] theorem State.setGroup_funcs (j : Nat) (x : Group) : (s.setGroup j x).funcs = s.funcs := rfl
@[simp] theorem State.setGroup_jobs (j : Nat) (x : Group) : (s.setGroup j x).jobs = s.jobs := rfl
@[simp] theorem State.setGroup_regs (j : Nat) (x : Group) : (s.setGroup j x).regs = s.regs := rfl
@[simp] theorem State.setGroup_sessions (j : Nat) (x : Group) : (s.setGroup j x).sessions = s.sessions := rfl
@[simp] theorem State.setGroup_sessAux (j : Nat) (x : Group) : (s.setGroup j x).sessAux = s.sessAux := rfl
@[simp] theorem State.setGroup_reqs (j : Nat) (x : Group) : (s.setGroup j x).reqs = s.reqs := rfl
@[simp] theorem State.setGroup_reqAux (j : Nat) (x : Group) : (s.setGroup j x).reqAux = s.reqAux := rfl
@[simp] theorem State.setGroup_serving (j : Nat) (x : Group) : (s.setGroup j x).serving = s.serving := rfl
@[simp] theorem State.setGroup_models (j : Nat) (x : Group) : (s.setGroup j x).models = s.models := rfl
@[simp] theorem State.setGroup_pools (j : Nat) (x : Group) : (s.setGroup j x).pools = s.pools := rfl
@[simp] theorem State.setGroup_shapers (j : Nat) (x : Group) : (s.setGroup j x).shapers = s.shapers := rfl
@[simp] theorem State.setGroup_hists (j : Nat) (x : Group) : (s.setGroup j x).hists = s.hists := rfl
@[simp] theorem State.setGroup_snapshot (j : Nat) (x : Group) : (s.setGroup j x).snapshot = s.snapshot := rfl
@[simp] theorem State.setGroup_sesCache (j : Nat) (x : Group) : (s.setGroup j x).sesCache = s.sesCache := rfl
@[simp] theorem State.setGroup_sesBypass (j : Nat) (x : Group) : (s.setGroup j x).sesBypass = s.sesBypass := rfl
@[simp] theorem State.setGroup_tierLat (j : Nat) (x : Group) : (s.setGroup j x).tierLat = s.tierLat := rfl
@[simp] theorem State.setGroup_pumpDescs (j : Nat) (x : Group) : (s.setGroup j x).pumpDescs = s.pumpDescs := rfl
@[simp] theorem State.setGroup_searches (j : Nat) (x : Group) : (s.setGroup j x).searches = s.searches := rfl
@[simp] theorem State.setGroup_lookups (j : Nat) (x : Group) : (s.setGroup j x).lookups = s.lookups := rfl
@[simp] theorem State.setGroup_nextWork (j : Nat) (x : Group) : (s.setGroup j x).nextWork = s.nextWork := rfl
@[simp] theorem State.setGroup_progs (j : Nat) (x : Group) : (s.setGroup j x).progs = s.progs := rfl
@[simp] theorem State.setGroup_nextProg (j : Nat) (x : Group) : (s.setGroup j x).nextProg = s.nextProg := rfl
@[simp] theorem State.setGroup_cores (j : Nat) (x : Group) : (s.setGroup j x).cores = s.cores := rfl
@[simp] theorem State.setGroup_seqs (j : Nat) (x : Group) : (s.setGroup j x).seqs = s.seqs := rfl
@[simp] theorem State.setGroup_hbm (j : Nat) (x : Group) : (s.setGroup j x).hbm = s.hbm := rfl
@[simp] theorem State.setGroup_host (j : Nat) (x : Group) : (s.setGroup j x).host = s.host := rfl
@[simp] theorem State.setGroup_refreshing (j : Nat) (x : Group) : (s.setGroup j x).refreshing = s.refreshing := rfl
@[simp] theorem State.setGroup_winHeld (j : Nat) (x : Group) : (s.setGroup j x).winHeld = s.winHeld := rfl
@[simp] theorem State.setGroup_fabric (j : Nat) (x : Group) : (s.setGroup j x).fabric = s.fabric := rfl
@[simp] theorem State.setGroup_ftl (j : Nat) (x : Group) : (s.setGroup j x).ftl = s.ftl := rfl
@[simp] theorem State.setGroup_privSlots (j : Nat) (x : Group) : (s.setGroup j x).privSlots = s.privSlots := rfl
@[simp] theorem State.setGroup_blockOff (j : Nat) (x : Group) : (s.setGroup j x).blockOff = s.blockOff := rfl
@[simp] theorem State.setGroup_blockRefused (j : Nat) (x : Group) : (s.setGroup j x).blockRefused = s.blockRefused := rfl
@[simp] theorem State.setGroup_busOut (j : Nat) (x : Group) : (s.setGroup j x).busOut = s.busOut := rfl
@[simp] theorem State.setGroup_job (j : Nat) (x : Group) (k : Nat) : (s.setGroup j x).job k = s.job k := rfl
@[simp] theorem State.setGroup_sess (j : Nat) (x : Group) (k : Nat) : (s.setGroup j x).sess k = s.sess k := rfl
@[simp] theorem State.setGroup_aux (j : Nat) (x : Group) (k : Nat) : (s.setGroup j x).aux k = s.aux k := rfl
@[simp] theorem State.setGroup_req (j : Nat) (x : Group) (k : Nat) : (s.setGroup j x).req k = s.req k := rfl
@[simp] theorem State.setGroup_raux (j : Nat) (x : Group) (k : Nat) : (s.setGroup j x).raux? k = s.raux? k := rfl
@[simp] theorem State.setGroup_func (j : Nat) (x : Group) (k : Nat) : (s.setGroup j x).func k = s.func k := rfl
@[simp] theorem State.setGroup_core (j : Nat) (x : Group) (k : Nat) : (s.setGroup j x).core k = s.core k := rfl
@[simp] theorem State.setGroup_seq (j : Nat) (x : Group) (k : Nat) : (s.setGroup j x).seq k = s.seq k := rfl
@[simp] theorem State.setGroup_pool (j : Nat) (x : Group) (k : Nat) : (s.setGroup j x).pool k = s.pool k := rfl
@[simp] theorem State.setGroup_port (j : Nat) (x : Group) (k : Nat) : (s.setGroup j x).port k = s.port k := rfl
@[simp] theorem State.setGroup_reg (j : Nat) (x : Group) (k : Nat) : (s.setGroup j x).reg k = s.reg k := rfl
@[simp] theorem State.setGroup_shaper (j : Nat) (x : Group) (k : Nat) : (s.setGroup j x).shaper k = s.shaper k := rfl
@[simp] theorem State.setGroup_xfer (j : Nat) (x : Group) (k : Nat) : (s.setGroup j x).xfer k = s.xfer k := rfl
@[simp] theorem State.setGroup_now (j : Nat) (x : Group) : (s.setGroup j x).now = s.now := rfl

/-! ### setSeq -/

@[simp] theorem State.setSeq_pending (j : Nat) (x : Seq) : (s.setSeq j x).pending = s.pending := rfl
@[simp] theorem State.setSeq_freeCtr (j : Nat) (x : Seq) : (s.setSeq j x).freeCtr = s.freeCtr := rfl
@[simp] theorem State.setSeq_power (j : Nat) (x : Seq) : (s.setSeq j x).power = s.power := rfl
@[simp] theorem State.setSeq_pins (j : Nat) (x : Seq) : (s.setSeq j x).pins = s.pins := rfl
@[simp] theorem State.setSeq_sec (j : Nat) (x : Seq) : (s.setSeq j x).sec = s.sec := rfl
@[simp] theorem State.setSeq_errs (j : Nat) (x : Seq) : (s.setSeq j x).errs = s.errs := rfl
@[simp] theorem State.setSeq_funcs (j : Nat) (x : Seq) : (s.setSeq j x).funcs = s.funcs := rfl
@[simp] theorem State.setSeq_jobs (j : Nat) (x : Seq) : (s.setSeq j x).jobs = s.jobs := rfl
@[simp] theorem State.setSeq_regs (j : Nat) (x : Seq) : (s.setSeq j x).regs = s.regs := rfl
@[simp] theorem State.setSeq_sessions (j : Nat) (x : Seq) : (s.setSeq j x).sessions = s.sessions := rfl
@[simp] theorem State.setSeq_sessAux (j : Nat) (x : Seq) : (s.setSeq j x).sessAux = s.sessAux := rfl
@[simp] theorem State.setSeq_reqs (j : Nat) (x : Seq) : (s.setSeq j x).reqs = s.reqs := rfl
@[simp] theorem State.setSeq_reqAux (j : Nat) (x : Seq) : (s.setSeq j x).reqAux = s.reqAux := rfl
@[simp] theorem State.setSeq_serving (j : Nat) (x : Seq) : (s.setSeq j x).serving = s.serving := rfl
@[simp] theorem State.setSeq_models (j : Nat) (x : Seq) : (s.setSeq j x).models = s.models := rfl
@[simp] theorem State.setSeq_pools (j : Nat) (x : Seq) : (s.setSeq j x).pools = s.pools := rfl
@[simp] theorem State.setSeq_shapers (j : Nat) (x : Seq) : (s.setSeq j x).shapers = s.shapers := rfl
@[simp] theorem State.setSeq_hists (j : Nat) (x : Seq) : (s.setSeq j x).hists = s.hists := rfl
@[simp] theorem State.setSeq_snapshot (j : Nat) (x : Seq) : (s.setSeq j x).snapshot = s.snapshot := rfl
@[simp] theorem State.setSeq_sesCache (j : Nat) (x : Seq) : (s.setSeq j x).sesCache = s.sesCache := rfl
@[simp] theorem State.setSeq_sesBypass (j : Nat) (x : Seq) : (s.setSeq j x).sesBypass = s.sesBypass := rfl
@[simp] theorem State.setSeq_tierLat (j : Nat) (x : Seq) : (s.setSeq j x).tierLat = s.tierLat := rfl
@[simp] theorem State.setSeq_pumpDescs (j : Nat) (x : Seq) : (s.setSeq j x).pumpDescs = s.pumpDescs := rfl
@[simp] theorem State.setSeq_searches (j : Nat) (x : Seq) : (s.setSeq j x).searches = s.searches := rfl
@[simp] theorem State.setSeq_lookups (j : Nat) (x : Seq) : (s.setSeq j x).lookups = s.lookups := rfl
@[simp] theorem State.setSeq_nextWork (j : Nat) (x : Seq) : (s.setSeq j x).nextWork = s.nextWork := rfl
@[simp] theorem State.setSeq_progs (j : Nat) (x : Seq) : (s.setSeq j x).progs = s.progs := rfl
@[simp] theorem State.setSeq_nextProg (j : Nat) (x : Seq) : (s.setSeq j x).nextProg = s.nextProg := rfl
@[simp] theorem State.setSeq_cores (j : Nat) (x : Seq) : (s.setSeq j x).cores = s.cores := rfl
@[simp] theorem State.setSeq_groups (j : Nat) (x : Seq) : (s.setSeq j x).groups = s.groups := rfl
@[simp] theorem State.setSeq_hbm (j : Nat) (x : Seq) : (s.setSeq j x).hbm = s.hbm := rfl
@[simp] theorem State.setSeq_host (j : Nat) (x : Seq) : (s.setSeq j x).host = s.host := rfl
@[simp] theorem State.setSeq_refreshing (j : Nat) (x : Seq) : (s.setSeq j x).refreshing = s.refreshing := rfl
@[simp] theorem State.setSeq_winHeld (j : Nat) (x : Seq) : (s.setSeq j x).winHeld = s.winHeld := rfl
@[simp] theorem State.setSeq_fabric (j : Nat) (x : Seq) : (s.setSeq j x).fabric = s.fabric := rfl
@[simp] theorem State.setSeq_ftl (j : Nat) (x : Seq) : (s.setSeq j x).ftl = s.ftl := rfl
@[simp] theorem State.setSeq_privSlots (j : Nat) (x : Seq) : (s.setSeq j x).privSlots = s.privSlots := rfl
@[simp] theorem State.setSeq_blockOff (j : Nat) (x : Seq) : (s.setSeq j x).blockOff = s.blockOff := rfl
@[simp] theorem State.setSeq_blockRefused (j : Nat) (x : Seq) : (s.setSeq j x).blockRefused = s.blockRefused := rfl
@[simp] theorem State.setSeq_busOut (j : Nat) (x : Seq) : (s.setSeq j x).busOut = s.busOut := rfl
@[simp] theorem State.setSeq_job (j : Nat) (x : Seq) (k : Nat) : (s.setSeq j x).job k = s.job k := rfl
@[simp] theorem State.setSeq_sess (j : Nat) (x : Seq) (k : Nat) : (s.setSeq j x).sess k = s.sess k := rfl
@[simp] theorem State.setSeq_aux (j : Nat) (x : Seq) (k : Nat) : (s.setSeq j x).aux k = s.aux k := rfl
@[simp] theorem State.setSeq_req (j : Nat) (x : Seq) (k : Nat) : (s.setSeq j x).req k = s.req k := rfl
@[simp] theorem State.setSeq_raux (j : Nat) (x : Seq) (k : Nat) : (s.setSeq j x).raux? k = s.raux? k := rfl
@[simp] theorem State.setSeq_func (j : Nat) (x : Seq) (k : Nat) : (s.setSeq j x).func k = s.func k := rfl
@[simp] theorem State.setSeq_core (j : Nat) (x : Seq) (k : Nat) : (s.setSeq j x).core k = s.core k := rfl
@[simp] theorem State.setSeq_group (j : Nat) (x : Seq) (k : Nat) : (s.setSeq j x).group k = s.group k := rfl
@[simp] theorem State.setSeq_pool (j : Nat) (x : Seq) (k : Nat) : (s.setSeq j x).pool k = s.pool k := rfl
@[simp] theorem State.setSeq_port (j : Nat) (x : Seq) (k : Nat) : (s.setSeq j x).port k = s.port k := rfl
@[simp] theorem State.setSeq_reg (j : Nat) (x : Seq) (k : Nat) : (s.setSeq j x).reg k = s.reg k := rfl
@[simp] theorem State.setSeq_shaper (j : Nat) (x : Seq) (k : Nat) : (s.setSeq j x).shaper k = s.shaper k := rfl
@[simp] theorem State.setSeq_xfer (j : Nat) (x : Seq) (k : Nat) : (s.setSeq j x).xfer k = s.xfer k := rfl
@[simp] theorem State.setSeq_now (j : Nat) (x : Seq) : (s.setSeq j x).now = s.now := rfl

/-! ### setPool -/

@[simp] theorem State.setPool_pending (j : Nat) (x : Pool) : (s.setPool j x).pending = s.pending := rfl
@[simp] theorem State.setPool_freeCtr (j : Nat) (x : Pool) : (s.setPool j x).freeCtr = s.freeCtr := rfl
@[simp] theorem State.setPool_power (j : Nat) (x : Pool) : (s.setPool j x).power = s.power := rfl
@[simp] theorem State.setPool_pins (j : Nat) (x : Pool) : (s.setPool j x).pins = s.pins := rfl
@[simp] theorem State.setPool_sec (j : Nat) (x : Pool) : (s.setPool j x).sec = s.sec := rfl
@[simp] theorem State.setPool_errs (j : Nat) (x : Pool) : (s.setPool j x).errs = s.errs := rfl
@[simp] theorem State.setPool_funcs (j : Nat) (x : Pool) : (s.setPool j x).funcs = s.funcs := rfl
@[simp] theorem State.setPool_jobs (j : Nat) (x : Pool) : (s.setPool j x).jobs = s.jobs := rfl
@[simp] theorem State.setPool_regs (j : Nat) (x : Pool) : (s.setPool j x).regs = s.regs := rfl
@[simp] theorem State.setPool_sessions (j : Nat) (x : Pool) : (s.setPool j x).sessions = s.sessions := rfl
@[simp] theorem State.setPool_sessAux (j : Nat) (x : Pool) : (s.setPool j x).sessAux = s.sessAux := rfl
@[simp] theorem State.setPool_reqs (j : Nat) (x : Pool) : (s.setPool j x).reqs = s.reqs := rfl
@[simp] theorem State.setPool_reqAux (j : Nat) (x : Pool) : (s.setPool j x).reqAux = s.reqAux := rfl
@[simp] theorem State.setPool_serving (j : Nat) (x : Pool) : (s.setPool j x).serving = s.serving := rfl
@[simp] theorem State.setPool_models (j : Nat) (x : Pool) : (s.setPool j x).models = s.models := rfl
@[simp] theorem State.setPool_shapers (j : Nat) (x : Pool) : (s.setPool j x).shapers = s.shapers := rfl
@[simp] theorem State.setPool_hists (j : Nat) (x : Pool) : (s.setPool j x).hists = s.hists := rfl
@[simp] theorem State.setPool_snapshot (j : Nat) (x : Pool) : (s.setPool j x).snapshot = s.snapshot := rfl
@[simp] theorem State.setPool_sesCache (j : Nat) (x : Pool) : (s.setPool j x).sesCache = s.sesCache := rfl
@[simp] theorem State.setPool_sesBypass (j : Nat) (x : Pool) : (s.setPool j x).sesBypass = s.sesBypass := rfl
@[simp] theorem State.setPool_tierLat (j : Nat) (x : Pool) : (s.setPool j x).tierLat = s.tierLat := rfl
@[simp] theorem State.setPool_pumpDescs (j : Nat) (x : Pool) : (s.setPool j x).pumpDescs = s.pumpDescs := rfl
@[simp] theorem State.setPool_searches (j : Nat) (x : Pool) : (s.setPool j x).searches = s.searches := rfl
@[simp] theorem State.setPool_lookups (j : Nat) (x : Pool) : (s.setPool j x).lookups = s.lookups := rfl
@[simp] theorem State.setPool_nextWork (j : Nat) (x : Pool) : (s.setPool j x).nextWork = s.nextWork := rfl
@[simp] theorem State.setPool_progs (j : Nat) (x : Pool) : (s.setPool j x).progs = s.progs := rfl
@[simp] theorem State.setPool_nextProg (j : Nat) (x : Pool) : (s.setPool j x).nextProg = s.nextProg := rfl
@[simp] theorem State.setPool_cores (j : Nat) (x : Pool) : (s.setPool j x).cores = s.cores := rfl
@[simp] theorem State.setPool_groups (j : Nat) (x : Pool) : (s.setPool j x).groups = s.groups := rfl
@[simp] theorem State.setPool_seqs (j : Nat) (x : Pool) : (s.setPool j x).seqs = s.seqs := rfl
@[simp] theorem State.setPool_hbm (j : Nat) (x : Pool) : (s.setPool j x).hbm = s.hbm := rfl
@[simp] theorem State.setPool_host (j : Nat) (x : Pool) : (s.setPool j x).host = s.host := rfl
@[simp] theorem State.setPool_refreshing (j : Nat) (x : Pool) : (s.setPool j x).refreshing = s.refreshing := rfl
@[simp] theorem State.setPool_winHeld (j : Nat) (x : Pool) : (s.setPool j x).winHeld = s.winHeld := rfl
@[simp] theorem State.setPool_fabric (j : Nat) (x : Pool) : (s.setPool j x).fabric = s.fabric := rfl
@[simp] theorem State.setPool_ftl (j : Nat) (x : Pool) : (s.setPool j x).ftl = s.ftl := rfl
@[simp] theorem State.setPool_privSlots (j : Nat) (x : Pool) : (s.setPool j x).privSlots = s.privSlots := rfl
@[simp] theorem State.setPool_blockOff (j : Nat) (x : Pool) : (s.setPool j x).blockOff = s.blockOff := rfl
@[simp] theorem State.setPool_blockRefused (j : Nat) (x : Pool) : (s.setPool j x).blockRefused = s.blockRefused := rfl
@[simp] theorem State.setPool_busOut (j : Nat) (x : Pool) : (s.setPool j x).busOut = s.busOut := rfl
@[simp] theorem State.setPool_job (j : Nat) (x : Pool) (k : Nat) : (s.setPool j x).job k = s.job k := rfl
@[simp] theorem State.setPool_sess (j : Nat) (x : Pool) (k : Nat) : (s.setPool j x).sess k = s.sess k := rfl
@[simp] theorem State.setPool_aux (j : Nat) (x : Pool) (k : Nat) : (s.setPool j x).aux k = s.aux k := rfl
@[simp] theorem State.setPool_req (j : Nat) (x : Pool) (k : Nat) : (s.setPool j x).req k = s.req k := rfl
@[simp] theorem State.setPool_raux (j : Nat) (x : Pool) (k : Nat) : (s.setPool j x).raux? k = s.raux? k := rfl
@[simp] theorem State.setPool_func (j : Nat) (x : Pool) (k : Nat) : (s.setPool j x).func k = s.func k := rfl
@[simp] theorem State.setPool_core (j : Nat) (x : Pool) (k : Nat) : (s.setPool j x).core k = s.core k := rfl
@[simp] theorem State.setPool_group (j : Nat) (x : Pool) (k : Nat) : (s.setPool j x).group k = s.group k := rfl
@[simp] theorem State.setPool_seq (j : Nat) (x : Pool) (k : Nat) : (s.setPool j x).seq k = s.seq k := rfl
@[simp] theorem State.setPool_port (j : Nat) (x : Pool) (k : Nat) : (s.setPool j x).port k = s.port k := rfl
@[simp] theorem State.setPool_reg (j : Nat) (x : Pool) (k : Nat) : (s.setPool j x).reg k = s.reg k := rfl
@[simp] theorem State.setPool_shaper (j : Nat) (x : Pool) (k : Nat) : (s.setPool j x).shaper k = s.shaper k := rfl
@[simp] theorem State.setPool_xfer (j : Nat) (x : Pool) (k : Nat) : (s.setPool j x).xfer k = s.xfer k := rfl
@[simp] theorem State.setPool_now (j : Nat) (x : Pool) : (s.setPool j x).now = s.now := rfl

/-! ### setPort -/

@[simp] theorem State.setPort_pending (j : Nat) (x : Port) : (s.setPort j x).pending = s.pending := rfl
@[simp] theorem State.setPort_freeCtr (j : Nat) (x : Port) : (s.setPort j x).freeCtr = s.freeCtr := rfl
@[simp] theorem State.setPort_power (j : Nat) (x : Port) : (s.setPort j x).power = s.power := rfl
@[simp] theorem State.setPort_pins (j : Nat) (x : Port) : (s.setPort j x).pins = s.pins := rfl
@[simp] theorem State.setPort_sec (j : Nat) (x : Port) : (s.setPort j x).sec = s.sec := rfl
@[simp] theorem State.setPort_errs (j : Nat) (x : Port) : (s.setPort j x).errs = s.errs := rfl
@[simp] theorem State.setPort_funcs (j : Nat) (x : Port) : (s.setPort j x).funcs = s.funcs := rfl
@[simp] theorem State.setPort_jobs (j : Nat) (x : Port) : (s.setPort j x).jobs = s.jobs := rfl
@[simp] theorem State.setPort_regs (j : Nat) (x : Port) : (s.setPort j x).regs = s.regs := rfl
@[simp] theorem State.setPort_sessions (j : Nat) (x : Port) : (s.setPort j x).sessions = s.sessions := rfl
@[simp] theorem State.setPort_sessAux (j : Nat) (x : Port) : (s.setPort j x).sessAux = s.sessAux := rfl
@[simp] theorem State.setPort_reqs (j : Nat) (x : Port) : (s.setPort j x).reqs = s.reqs := rfl
@[simp] theorem State.setPort_reqAux (j : Nat) (x : Port) : (s.setPort j x).reqAux = s.reqAux := rfl
@[simp] theorem State.setPort_serving (j : Nat) (x : Port) : (s.setPort j x).serving = s.serving := rfl
@[simp] theorem State.setPort_models (j : Nat) (x : Port) : (s.setPort j x).models = s.models := rfl
@[simp] theorem State.setPort_pools (j : Nat) (x : Port) : (s.setPort j x).pools = s.pools := rfl
@[simp] theorem State.setPort_shapers (j : Nat) (x : Port) : (s.setPort j x).shapers = s.shapers := rfl
@[simp] theorem State.setPort_hists (j : Nat) (x : Port) : (s.setPort j x).hists = s.hists := rfl
@[simp] theorem State.setPort_snapshot (j : Nat) (x : Port) : (s.setPort j x).snapshot = s.snapshot := rfl
@[simp] theorem State.setPort_sesCache (j : Nat) (x : Port) : (s.setPort j x).sesCache = s.sesCache := rfl
@[simp] theorem State.setPort_sesBypass (j : Nat) (x : Port) : (s.setPort j x).sesBypass = s.sesBypass := rfl
@[simp] theorem State.setPort_tierLat (j : Nat) (x : Port) : (s.setPort j x).tierLat = s.tierLat := rfl
@[simp] theorem State.setPort_pumpDescs (j : Nat) (x : Port) : (s.setPort j x).pumpDescs = s.pumpDescs := rfl
@[simp] theorem State.setPort_searches (j : Nat) (x : Port) : (s.setPort j x).searches = s.searches := rfl
@[simp] theorem State.setPort_lookups (j : Nat) (x : Port) : (s.setPort j x).lookups = s.lookups := rfl
@[simp] theorem State.setPort_nextWork (j : Nat) (x : Port) : (s.setPort j x).nextWork = s.nextWork := rfl
@[simp] theorem State.setPort_progs (j : Nat) (x : Port) : (s.setPort j x).progs = s.progs := rfl
@[simp] theorem State.setPort_nextProg (j : Nat) (x : Port) : (s.setPort j x).nextProg = s.nextProg := rfl
@[simp] theorem State.setPort_cores (j : Nat) (x : Port) : (s.setPort j x).cores = s.cores := rfl
@[simp] theorem State.setPort_groups (j : Nat) (x : Port) : (s.setPort j x).groups = s.groups := rfl
@[simp] theorem State.setPort_seqs (j : Nat) (x : Port) : (s.setPort j x).seqs = s.seqs := rfl
@[simp] theorem State.setPort_hbm (j : Nat) (x : Port) : (s.setPort j x).hbm = s.hbm := rfl
@[simp] theorem State.setPort_host (j : Nat) (x : Port) : (s.setPort j x).host = s.host := rfl
@[simp] theorem State.setPort_refreshing (j : Nat) (x : Port) : (s.setPort j x).refreshing = s.refreshing := rfl
@[simp] theorem State.setPort_winHeld (j : Nat) (x : Port) : (s.setPort j x).winHeld = s.winHeld := rfl
@[simp] theorem State.setPort_ftl (j : Nat) (x : Port) : (s.setPort j x).ftl = s.ftl := rfl
@[simp] theorem State.setPort_privSlots (j : Nat) (x : Port) : (s.setPort j x).privSlots = s.privSlots := rfl
@[simp] theorem State.setPort_blockOff (j : Nat) (x : Port) : (s.setPort j x).blockOff = s.blockOff := rfl
@[simp] theorem State.setPort_blockRefused (j : Nat) (x : Port) : (s.setPort j x).blockRefused = s.blockRefused := rfl
@[simp] theorem State.setPort_busOut (j : Nat) (x : Port) : (s.setPort j x).busOut = s.busOut := rfl
@[simp] theorem State.setPort_job (j : Nat) (x : Port) (k : Nat) : (s.setPort j x).job k = s.job k := rfl
@[simp] theorem State.setPort_sess (j : Nat) (x : Port) (k : Nat) : (s.setPort j x).sess k = s.sess k := rfl
@[simp] theorem State.setPort_aux (j : Nat) (x : Port) (k : Nat) : (s.setPort j x).aux k = s.aux k := rfl
@[simp] theorem State.setPort_req (j : Nat) (x : Port) (k : Nat) : (s.setPort j x).req k = s.req k := rfl
@[simp] theorem State.setPort_raux (j : Nat) (x : Port) (k : Nat) : (s.setPort j x).raux? k = s.raux? k := rfl
@[simp] theorem State.setPort_func (j : Nat) (x : Port) (k : Nat) : (s.setPort j x).func k = s.func k := rfl
@[simp] theorem State.setPort_core (j : Nat) (x : Port) (k : Nat) : (s.setPort j x).core k = s.core k := rfl
@[simp] theorem State.setPort_group (j : Nat) (x : Port) (k : Nat) : (s.setPort j x).group k = s.group k := rfl
@[simp] theorem State.setPort_seq (j : Nat) (x : Port) (k : Nat) : (s.setPort j x).seq k = s.seq k := rfl
@[simp] theorem State.setPort_pool (j : Nat) (x : Port) (k : Nat) : (s.setPort j x).pool k = s.pool k := rfl
@[simp] theorem State.setPort_reg (j : Nat) (x : Port) (k : Nat) : (s.setPort j x).reg k = s.reg k := rfl
@[simp] theorem State.setPort_shaper (j : Nat) (x : Port) (k : Nat) : (s.setPort j x).shaper k = s.shaper k := rfl
@[simp] theorem State.setPort_now (j : Nat) (x : Port) : (s.setPort j x).now = s.now := rfl

/-! ### setReg -/

@[simp] theorem State.setReg_pending (j : Nat) (x : W64) : (s.setReg j x).pending = s.pending := rfl
@[simp] theorem State.setReg_freeCtr (j : Nat) (x : W64) : (s.setReg j x).freeCtr = s.freeCtr := rfl
@[simp] theorem State.setReg_power (j : Nat) (x : W64) : (s.setReg j x).power = s.power := rfl
@[simp] theorem State.setReg_pins (j : Nat) (x : W64) : (s.setReg j x).pins = s.pins := rfl
@[simp] theorem State.setReg_sec (j : Nat) (x : W64) : (s.setReg j x).sec = s.sec := rfl
@[simp] theorem State.setReg_errs (j : Nat) (x : W64) : (s.setReg j x).errs = s.errs := rfl
@[simp] theorem State.setReg_funcs (j : Nat) (x : W64) : (s.setReg j x).funcs = s.funcs := rfl
@[simp] theorem State.setReg_jobs (j : Nat) (x : W64) : (s.setReg j x).jobs = s.jobs := rfl
@[simp] theorem State.setReg_sessions (j : Nat) (x : W64) : (s.setReg j x).sessions = s.sessions := rfl
@[simp] theorem State.setReg_sessAux (j : Nat) (x : W64) : (s.setReg j x).sessAux = s.sessAux := rfl
@[simp] theorem State.setReg_reqs (j : Nat) (x : W64) : (s.setReg j x).reqs = s.reqs := rfl
@[simp] theorem State.setReg_reqAux (j : Nat) (x : W64) : (s.setReg j x).reqAux = s.reqAux := rfl
@[simp] theorem State.setReg_serving (j : Nat) (x : W64) : (s.setReg j x).serving = s.serving := rfl
@[simp] theorem State.setReg_models (j : Nat) (x : W64) : (s.setReg j x).models = s.models := rfl
@[simp] theorem State.setReg_pools (j : Nat) (x : W64) : (s.setReg j x).pools = s.pools := rfl
@[simp] theorem State.setReg_shapers (j : Nat) (x : W64) : (s.setReg j x).shapers = s.shapers := rfl
@[simp] theorem State.setReg_hists (j : Nat) (x : W64) : (s.setReg j x).hists = s.hists := rfl
@[simp] theorem State.setReg_snapshot (j : Nat) (x : W64) : (s.setReg j x).snapshot = s.snapshot := rfl
@[simp] theorem State.setReg_sesCache (j : Nat) (x : W64) : (s.setReg j x).sesCache = s.sesCache := rfl
@[simp] theorem State.setReg_sesBypass (j : Nat) (x : W64) : (s.setReg j x).sesBypass = s.sesBypass := rfl
@[simp] theorem State.setReg_tierLat (j : Nat) (x : W64) : (s.setReg j x).tierLat = s.tierLat := rfl
@[simp] theorem State.setReg_pumpDescs (j : Nat) (x : W64) : (s.setReg j x).pumpDescs = s.pumpDescs := rfl
@[simp] theorem State.setReg_searches (j : Nat) (x : W64) : (s.setReg j x).searches = s.searches := rfl
@[simp] theorem State.setReg_lookups (j : Nat) (x : W64) : (s.setReg j x).lookups = s.lookups := rfl
@[simp] theorem State.setReg_nextWork (j : Nat) (x : W64) : (s.setReg j x).nextWork = s.nextWork := rfl
@[simp] theorem State.setReg_progs (j : Nat) (x : W64) : (s.setReg j x).progs = s.progs := rfl
@[simp] theorem State.setReg_nextProg (j : Nat) (x : W64) : (s.setReg j x).nextProg = s.nextProg := rfl
@[simp] theorem State.setReg_cores (j : Nat) (x : W64) : (s.setReg j x).cores = s.cores := rfl
@[simp] theorem State.setReg_groups (j : Nat) (x : W64) : (s.setReg j x).groups = s.groups := rfl
@[simp] theorem State.setReg_seqs (j : Nat) (x : W64) : (s.setReg j x).seqs = s.seqs := rfl
@[simp] theorem State.setReg_hbm (j : Nat) (x : W64) : (s.setReg j x).hbm = s.hbm := rfl
@[simp] theorem State.setReg_host (j : Nat) (x : W64) : (s.setReg j x).host = s.host := rfl
@[simp] theorem State.setReg_refreshing (j : Nat) (x : W64) : (s.setReg j x).refreshing = s.refreshing := rfl
@[simp] theorem State.setReg_winHeld (j : Nat) (x : W64) : (s.setReg j x).winHeld = s.winHeld := rfl
@[simp] theorem State.setReg_fabric (j : Nat) (x : W64) : (s.setReg j x).fabric = s.fabric := rfl
@[simp] theorem State.setReg_ftl (j : Nat) (x : W64) : (s.setReg j x).ftl = s.ftl := rfl
@[simp] theorem State.setReg_privSlots (j : Nat) (x : W64) : (s.setReg j x).privSlots = s.privSlots := rfl
@[simp] theorem State.setReg_blockOff (j : Nat) (x : W64) : (s.setReg j x).blockOff = s.blockOff := rfl
@[simp] theorem State.setReg_blockRefused (j : Nat) (x : W64) : (s.setReg j x).blockRefused = s.blockRefused := rfl
@[simp] theorem State.setReg_busOut (j : Nat) (x : W64) : (s.setReg j x).busOut = s.busOut := rfl
@[simp] theorem State.setReg_job (j : Nat) (x : W64) (k : Nat) : (s.setReg j x).job k = s.job k := rfl
@[simp] theorem State.setReg_sess (j : Nat) (x : W64) (k : Nat) : (s.setReg j x).sess k = s.sess k := rfl
@[simp] theorem State.setReg_aux (j : Nat) (x : W64) (k : Nat) : (s.setReg j x).aux k = s.aux k := rfl
@[simp] theorem State.setReg_req (j : Nat) (x : W64) (k : Nat) : (s.setReg j x).req k = s.req k := rfl
@[simp] theorem State.setReg_raux (j : Nat) (x : W64) (k : Nat) : (s.setReg j x).raux? k = s.raux? k := rfl
@[simp] theorem State.setReg_func (j : Nat) (x : W64) (k : Nat) : (s.setReg j x).func k = s.func k := rfl
@[simp] theorem State.setReg_core (j : Nat) (x : W64) (k : Nat) : (s.setReg j x).core k = s.core k := rfl
@[simp] theorem State.setReg_group (j : Nat) (x : W64) (k : Nat) : (s.setReg j x).group k = s.group k := rfl
@[simp] theorem State.setReg_seq (j : Nat) (x : W64) (k : Nat) : (s.setReg j x).seq k = s.seq k := rfl
@[simp] theorem State.setReg_pool (j : Nat) (x : W64) (k : Nat) : (s.setReg j x).pool k = s.pool k := rfl
@[simp] theorem State.setReg_port (j : Nat) (x : W64) (k : Nat) : (s.setReg j x).port k = s.port k := rfl
@[simp] theorem State.setReg_shaper (j : Nat) (x : W64) (k : Nat) : (s.setReg j x).shaper k = s.shaper k := rfl
@[simp] theorem State.setReg_xfer (j : Nat) (x : W64) (k : Nat) : (s.setReg j x).xfer k = s.xfer k := rfl
@[simp] theorem State.setReg_now (j : Nat) (x : W64) : (s.setReg j x).now = s.now := rfl

/-! ### chargeShaper -/

@[simp] theorem State.chargeShaper_pending (j x : Nat) : (s.chargeShaper j x).pending = s.pending := rfl
@[simp] theorem State.chargeShaper_freeCtr (j x : Nat) : (s.chargeShaper j x).freeCtr = s.freeCtr := rfl
@[simp] theorem State.chargeShaper_power (j x : Nat) : (s.chargeShaper j x).power = s.power := rfl
@[simp] theorem State.chargeShaper_pins (j x : Nat) : (s.chargeShaper j x).pins = s.pins := rfl
@[simp] theorem State.chargeShaper_sec (j x : Nat) : (s.chargeShaper j x).sec = s.sec := rfl
@[simp] theorem State.chargeShaper_errs (j x : Nat) : (s.chargeShaper j x).errs = s.errs := rfl
@[simp] theorem State.chargeShaper_funcs (j x : Nat) : (s.chargeShaper j x).funcs = s.funcs := rfl
@[simp] theorem State.chargeShaper_jobs (j x : Nat) : (s.chargeShaper j x).jobs = s.jobs := rfl
@[simp] theorem State.chargeShaper_regs (j x : Nat) : (s.chargeShaper j x).regs = s.regs := rfl
@[simp] theorem State.chargeShaper_sessions (j x : Nat) : (s.chargeShaper j x).sessions = s.sessions := rfl
@[simp] theorem State.chargeShaper_sessAux (j x : Nat) : (s.chargeShaper j x).sessAux = s.sessAux := rfl
@[simp] theorem State.chargeShaper_reqs (j x : Nat) : (s.chargeShaper j x).reqs = s.reqs := rfl
@[simp] theorem State.chargeShaper_reqAux (j x : Nat) : (s.chargeShaper j x).reqAux = s.reqAux := rfl
@[simp] theorem State.chargeShaper_serving (j x : Nat) : (s.chargeShaper j x).serving = s.serving := rfl
@[simp] theorem State.chargeShaper_models (j x : Nat) : (s.chargeShaper j x).models = s.models := rfl
@[simp] theorem State.chargeShaper_pools (j x : Nat) : (s.chargeShaper j x).pools = s.pools := rfl
@[simp] theorem State.chargeShaper_hists (j x : Nat) : (s.chargeShaper j x).hists = s.hists := rfl
@[simp] theorem State.chargeShaper_snapshot (j x : Nat) : (s.chargeShaper j x).snapshot = s.snapshot := rfl
@[simp] theorem State.chargeShaper_sesCache (j x : Nat) : (s.chargeShaper j x).sesCache = s.sesCache := rfl
@[simp] theorem State.chargeShaper_sesBypass (j x : Nat) : (s.chargeShaper j x).sesBypass = s.sesBypass := rfl
@[simp] theorem State.chargeShaper_tierLat (j x : Nat) : (s.chargeShaper j x).tierLat = s.tierLat := rfl
@[simp] theorem State.chargeShaper_pumpDescs (j x : Nat) : (s.chargeShaper j x).pumpDescs = s.pumpDescs := rfl
@[simp] theorem State.chargeShaper_searches (j x : Nat) : (s.chargeShaper j x).searches = s.searches := rfl
@[simp] theorem State.chargeShaper_lookups (j x : Nat) : (s.chargeShaper j x).lookups = s.lookups := rfl
@[simp] theorem State.chargeShaper_nextWork (j x : Nat) : (s.chargeShaper j x).nextWork = s.nextWork := rfl
@[simp] theorem State.chargeShaper_progs (j x : Nat) : (s.chargeShaper j x).progs = s.progs := rfl
@[simp] theorem State.chargeShaper_nextProg (j x : Nat) : (s.chargeShaper j x).nextProg = s.nextProg := rfl
@[simp] theorem State.chargeShaper_cores (j x : Nat) : (s.chargeShaper j x).cores = s.cores := rfl
@[simp] theorem State.chargeShaper_groups (j x : Nat) : (s.chargeShaper j x).groups = s.groups := rfl
@[simp] theorem State.chargeShaper_seqs (j x : Nat) : (s.chargeShaper j x).seqs = s.seqs := rfl
@[simp] theorem State.chargeShaper_hbm (j x : Nat) : (s.chargeShaper j x).hbm = s.hbm := rfl
@[simp] theorem State.chargeShaper_host (j x : Nat) : (s.chargeShaper j x).host = s.host := rfl
@[simp] theorem State.chargeShaper_refreshing (j x : Nat) : (s.chargeShaper j x).refreshing = s.refreshing := rfl
@[simp] theorem State.chargeShaper_winHeld (j x : Nat) : (s.chargeShaper j x).winHeld = s.winHeld := rfl
@[simp] theorem State.chargeShaper_fabric (j x : Nat) : (s.chargeShaper j x).fabric = s.fabric := rfl
@[simp] theorem State.chargeShaper_ftl (j x : Nat) : (s.chargeShaper j x).ftl = s.ftl := rfl
@[simp] theorem State.chargeShaper_privSlots (j x : Nat) : (s.chargeShaper j x).privSlots = s.privSlots := rfl
@[simp] theorem State.chargeShaper_blockOff (j x : Nat) : (s.chargeShaper j x).blockOff = s.blockOff := rfl
@[simp] theorem State.chargeShaper_blockRefused (j x : Nat) : (s.chargeShaper j x).blockRefused = s.blockRefused := rfl
@[simp] theorem State.chargeShaper_busOut (j x : Nat) : (s.chargeShaper j x).busOut = s.busOut := rfl
@[simp] theorem State.chargeShaper_job (j x : Nat) (k : Nat) : (s.chargeShaper j x).job k = s.job k := rfl
@[simp] theorem State.chargeShaper_sess (j x : Nat) (k : Nat) : (s.chargeShaper j x).sess k = s.sess k := rfl
@[simp] theorem State.chargeShaper_aux (j x : Nat) (k : Nat) : (s.chargeShaper j x).aux k = s.aux k := rfl
@[simp] theorem State.chargeShaper_req (j x : Nat) (k : Nat) : (s.chargeShaper j x).req k = s.req k := rfl
@[simp] theorem State.chargeShaper_raux (j x : Nat) (k : Nat) : (s.chargeShaper j x).raux? k = s.raux? k := rfl
@[simp] theorem State.chargeShaper_func (j x : Nat) (k : Nat) : (s.chargeShaper j x).func k = s.func k := rfl
@[simp] theorem State.chargeShaper_core (j x : Nat) (k : Nat) : (s.chargeShaper j x).core k = s.core k := rfl
@[simp] theorem State.chargeShaper_group (j x : Nat) (k : Nat) : (s.chargeShaper j x).group k = s.group k := rfl
@[simp] theorem State.chargeShaper_seq (j x : Nat) (k : Nat) : (s.chargeShaper j x).seq k = s.seq k := rfl
@[simp] theorem State.chargeShaper_pool (j x : Nat) (k : Nat) : (s.chargeShaper j x).pool k = s.pool k := rfl
@[simp] theorem State.chargeShaper_port (j x : Nat) (k : Nat) : (s.chargeShaper j x).port k = s.port k := rfl
@[simp] theorem State.chargeShaper_reg (j x : Nat) (k : Nat) : (s.chargeShaper j x).reg k = s.reg k := rfl
@[simp] theorem State.chargeShaper_xfer (j x : Nat) (k : Nat) : (s.chargeShaper j x).xfer k = s.xfer k := rfl
@[simp] theorem State.chargeShaper_now (j x : Nat) : (s.chargeShaper j x).now = s.now := rfl

/-! ### setXfer -/

@[simp] theorem State.setXfer_pending (j : Nat) (x : Xfer) : (s.setXfer j x).pending = s.pending := rfl
@[simp] theorem State.setXfer_freeCtr (j : Nat) (x : Xfer) : (s.setXfer j x).freeCtr = s.freeCtr := rfl
@[simp] theorem State.setXfer_power (j : Nat) (x : Xfer) : (s.setXfer j x).power = s.power := rfl
@[simp] theorem State.setXfer_pins (j : Nat) (x : Xfer) : (s.setXfer j x).pins = s.pins := rfl
@[simp] theorem State.setXfer_sec (j : Nat) (x : Xfer) : (s.setXfer j x).sec = s.sec := rfl
@[simp] theorem State.setXfer_errs (j : Nat) (x : Xfer) : (s.setXfer j x).errs = s.errs := rfl
@[simp] theorem State.setXfer_funcs (j : Nat) (x : Xfer) : (s.setXfer j x).funcs = s.funcs := rfl
@[simp] theorem State.setXfer_jobs (j : Nat) (x : Xfer) : (s.setXfer j x).jobs = s.jobs := rfl
@[simp] theorem State.setXfer_regs (j : Nat) (x : Xfer) : (s.setXfer j x).regs = s.regs := rfl
@[simp] theorem State.setXfer_sessions (j : Nat) (x : Xfer) : (s.setXfer j x).sessions = s.sessions := rfl
@[simp] theorem State.setXfer_sessAux (j : Nat) (x : Xfer) : (s.setXfer j x).sessAux = s.sessAux := rfl
@[simp] theorem State.setXfer_reqs (j : Nat) (x : Xfer) : (s.setXfer j x).reqs = s.reqs := rfl
@[simp] theorem State.setXfer_reqAux (j : Nat) (x : Xfer) : (s.setXfer j x).reqAux = s.reqAux := rfl
@[simp] theorem State.setXfer_serving (j : Nat) (x : Xfer) : (s.setXfer j x).serving = s.serving := rfl
@[simp] theorem State.setXfer_models (j : Nat) (x : Xfer) : (s.setXfer j x).models = s.models := rfl
@[simp] theorem State.setXfer_pools (j : Nat) (x : Xfer) : (s.setXfer j x).pools = s.pools := rfl
@[simp] theorem State.setXfer_shapers (j : Nat) (x : Xfer) : (s.setXfer j x).shapers = s.shapers := rfl
@[simp] theorem State.setXfer_hists (j : Nat) (x : Xfer) : (s.setXfer j x).hists = s.hists := rfl
@[simp] theorem State.setXfer_snapshot (j : Nat) (x : Xfer) : (s.setXfer j x).snapshot = s.snapshot := rfl
@[simp] theorem State.setXfer_sesCache (j : Nat) (x : Xfer) : (s.setXfer j x).sesCache = s.sesCache := rfl
@[simp] theorem State.setXfer_sesBypass (j : Nat) (x : Xfer) : (s.setXfer j x).sesBypass = s.sesBypass := rfl
@[simp] theorem State.setXfer_tierLat (j : Nat) (x : Xfer) : (s.setXfer j x).tierLat = s.tierLat := rfl
@[simp] theorem State.setXfer_pumpDescs (j : Nat) (x : Xfer) : (s.setXfer j x).pumpDescs = s.pumpDescs := rfl
@[simp] theorem State.setXfer_searches (j : Nat) (x : Xfer) : (s.setXfer j x).searches = s.searches := rfl
@[simp] theorem State.setXfer_lookups (j : Nat) (x : Xfer) : (s.setXfer j x).lookups = s.lookups := rfl
@[simp] theorem State.setXfer_nextWork (j : Nat) (x : Xfer) : (s.setXfer j x).nextWork = s.nextWork := rfl
@[simp] theorem State.setXfer_progs (j : Nat) (x : Xfer) : (s.setXfer j x).progs = s.progs := rfl
@[simp] theorem State.setXfer_nextProg (j : Nat) (x : Xfer) : (s.setXfer j x).nextProg = s.nextProg := rfl
@[simp] theorem State.setXfer_cores (j : Nat) (x : Xfer) : (s.setXfer j x).cores = s.cores := rfl
@[simp] theorem State.setXfer_groups (j : Nat) (x : Xfer) : (s.setXfer j x).groups = s.groups := rfl
@[simp] theorem State.setXfer_seqs (j : Nat) (x : Xfer) : (s.setXfer j x).seqs = s.seqs := rfl
@[simp] theorem State.setXfer_hbm (j : Nat) (x : Xfer) : (s.setXfer j x).hbm = s.hbm := rfl
@[simp] theorem State.setXfer_host (j : Nat) (x : Xfer) : (s.setXfer j x).host = s.host := rfl
@[simp] theorem State.setXfer_refreshing (j : Nat) (x : Xfer) : (s.setXfer j x).refreshing = s.refreshing := rfl
@[simp] theorem State.setXfer_winHeld (j : Nat) (x : Xfer) : (s.setXfer j x).winHeld = s.winHeld := rfl
@[simp] theorem State.setXfer_ftl (j : Nat) (x : Xfer) : (s.setXfer j x).ftl = s.ftl := rfl
@[simp] theorem State.setXfer_privSlots (j : Nat) (x : Xfer) : (s.setXfer j x).privSlots = s.privSlots := rfl
@[simp] theorem State.setXfer_blockOff (j : Nat) (x : Xfer) : (s.setXfer j x).blockOff = s.blockOff := rfl
@[simp] theorem State.setXfer_blockRefused (j : Nat) (x : Xfer) : (s.setXfer j x).blockRefused = s.blockRefused := rfl
@[simp] theorem State.setXfer_busOut (j : Nat) (x : Xfer) : (s.setXfer j x).busOut = s.busOut := rfl
@[simp] theorem State.setXfer_job (j : Nat) (x : Xfer) (k : Nat) : (s.setXfer j x).job k = s.job k := rfl
@[simp] theorem State.setXfer_sess (j : Nat) (x : Xfer) (k : Nat) : (s.setXfer j x).sess k = s.sess k := rfl
@[simp] theorem State.setXfer_aux (j : Nat) (x : Xfer) (k : Nat) : (s.setXfer j x).aux k = s.aux k := rfl
@[simp] theorem State.setXfer_req (j : Nat) (x : Xfer) (k : Nat) : (s.setXfer j x).req k = s.req k := rfl
@[simp] theorem State.setXfer_raux (j : Nat) (x : Xfer) (k : Nat) : (s.setXfer j x).raux? k = s.raux? k := rfl
@[simp] theorem State.setXfer_func (j : Nat) (x : Xfer) (k : Nat) : (s.setXfer j x).func k = s.func k := rfl
@[simp] theorem State.setXfer_core (j : Nat) (x : Xfer) (k : Nat) : (s.setXfer j x).core k = s.core k := rfl
@[simp] theorem State.setXfer_group (j : Nat) (x : Xfer) (k : Nat) : (s.setXfer j x).group k = s.group k := rfl
@[simp] theorem State.setXfer_seq (j : Nat) (x : Xfer) (k : Nat) : (s.setXfer j x).seq k = s.seq k := rfl
@[simp] theorem State.setXfer_pool (j : Nat) (x : Xfer) (k : Nat) : (s.setXfer j x).pool k = s.pool k := rfl
@[simp] theorem State.setXfer_reg (j : Nat) (x : Xfer) (k : Nat) : (s.setXfer j x).reg k = s.reg k := rfl
@[simp] theorem State.setXfer_shaper (j : Nat) (x : Xfer) (k : Nat) : (s.setXfer j x).shaper k = s.shaper k := rfl
@[simp] theorem State.setXfer_now (j : Nat) (x : Xfer) : (s.setXfer j x).now = s.now := rfl

/-! ### delXfer -/

@[simp] theorem State.delXfer_pending (j : Nat) : (s.delXfer j).pending = s.pending := rfl
@[simp] theorem State.delXfer_freeCtr (j : Nat) : (s.delXfer j).freeCtr = s.freeCtr := rfl
@[simp] theorem State.delXfer_power (j : Nat) : (s.delXfer j).power = s.power := rfl
@[simp] theorem State.delXfer_pins (j : Nat) : (s.delXfer j).pins = s.pins := rfl
@[simp] theorem State.delXfer_sec (j : Nat) : (s.delXfer j).sec = s.sec := rfl
@[simp] theorem State.delXfer_errs (j : Nat) : (s.delXfer j).errs = s.errs := rfl
@[simp] theorem State.delXfer_funcs (j : Nat) : (s.delXfer j).funcs = s.funcs := rfl
@[simp] theorem State.delXfer_jobs (j : Nat) : (s.delXfer j).jobs = s.jobs := rfl
@[simp] theorem State.delXfer_regs (j : Nat) : (s.delXfer j).regs = s.regs := rfl
@[simp] theorem State.delXfer_sessions (j : Nat) : (s.delXfer j).sessions = s.sessions := rfl
@[simp] theorem State.delXfer_sessAux (j : Nat) : (s.delXfer j).sessAux = s.sessAux := rfl
@[simp] theorem State.delXfer_reqs (j : Nat) : (s.delXfer j).reqs = s.reqs := rfl
@[simp] theorem State.delXfer_reqAux (j : Nat) : (s.delXfer j).reqAux = s.reqAux := rfl
@[simp] theorem State.delXfer_serving (j : Nat) : (s.delXfer j).serving = s.serving := rfl
@[simp] theorem State.delXfer_models (j : Nat) : (s.delXfer j).models = s.models := rfl
@[simp] theorem State.delXfer_pools (j : Nat) : (s.delXfer j).pools = s.pools := rfl
@[simp] theorem State.delXfer_shapers (j : Nat) : (s.delXfer j).shapers = s.shapers := rfl
@[simp] theorem State.delXfer_hists (j : Nat) : (s.delXfer j).hists = s.hists := rfl
@[simp] theorem State.delXfer_snapshot (j : Nat) : (s.delXfer j).snapshot = s.snapshot := rfl
@[simp] theorem State.delXfer_sesCache (j : Nat) : (s.delXfer j).sesCache = s.sesCache := rfl
@[simp] theorem State.delXfer_sesBypass (j : Nat) : (s.delXfer j).sesBypass = s.sesBypass := rfl
@[simp] theorem State.delXfer_tierLat (j : Nat) : (s.delXfer j).tierLat = s.tierLat := rfl
@[simp] theorem State.delXfer_pumpDescs (j : Nat) : (s.delXfer j).pumpDescs = s.pumpDescs := rfl
@[simp] theorem State.delXfer_searches (j : Nat) : (s.delXfer j).searches = s.searches := rfl
@[simp] theorem State.delXfer_lookups (j : Nat) : (s.delXfer j).lookups = s.lookups := rfl
@[simp] theorem State.delXfer_nextWork (j : Nat) : (s.delXfer j).nextWork = s.nextWork := rfl
@[simp] theorem State.delXfer_progs (j : Nat) : (s.delXfer j).progs = s.progs := rfl
@[simp] theorem State.delXfer_nextProg (j : Nat) : (s.delXfer j).nextProg = s.nextProg := rfl
@[simp] theorem State.delXfer_cores (j : Nat) : (s.delXfer j).cores = s.cores := rfl
@[simp] theorem State.delXfer_groups (j : Nat) : (s.delXfer j).groups = s.groups := rfl
@[simp] theorem State.delXfer_seqs (j : Nat) : (s.delXfer j).seqs = s.seqs := rfl
@[simp] theorem State.delXfer_hbm (j : Nat) : (s.delXfer j).hbm = s.hbm := rfl
@[simp] theorem State.delXfer_host (j : Nat) : (s.delXfer j).host = s.host := rfl
@[simp] theorem State.delXfer_refreshing (j : Nat) : (s.delXfer j).refreshing = s.refreshing := rfl
@[simp] theorem State.delXfer_winHeld (j : Nat) : (s.delXfer j).winHeld = s.winHeld := rfl
@[simp] theorem State.delXfer_ftl (j : Nat) : (s.delXfer j).ftl = s.ftl := rfl
@[simp] theorem State.delXfer_privSlots (j : Nat) : (s.delXfer j).privSlots = s.privSlots := rfl
@[simp] theorem State.delXfer_blockOff (j : Nat) : (s.delXfer j).blockOff = s.blockOff := rfl
@[simp] theorem State.delXfer_blockRefused (j : Nat) : (s.delXfer j).blockRefused = s.blockRefused := rfl
@[simp] theorem State.delXfer_busOut (j : Nat) : (s.delXfer j).busOut = s.busOut := rfl
@[simp] theorem State.delXfer_job (j : Nat) (k : Nat) : (s.delXfer j).job k = s.job k := rfl
@[simp] theorem State.delXfer_sess (j : Nat) (k : Nat) : (s.delXfer j).sess k = s.sess k := rfl
@[simp] theorem State.delXfer_aux (j : Nat) (k : Nat) : (s.delXfer j).aux k = s.aux k := rfl
@[simp] theorem State.delXfer_req (j : Nat) (k : Nat) : (s.delXfer j).req k = s.req k := rfl
@[simp] theorem State.delXfer_raux (j : Nat) (k : Nat) : (s.delXfer j).raux? k = s.raux? k := rfl
@[simp] theorem State.delXfer_func (j : Nat) (k : Nat) : (s.delXfer j).func k = s.func k := rfl
@[simp] theorem State.delXfer_core (j : Nat) (k : Nat) : (s.delXfer j).core k = s.core k := rfl
@[simp] theorem State.delXfer_group (j : Nat) (k : Nat) : (s.delXfer j).group k = s.group k := rfl
@[simp] theorem State.delXfer_seq (j : Nat) (k : Nat) : (s.delXfer j).seq k = s.seq k := rfl
@[simp] theorem State.delXfer_pool (j : Nat) (k : Nat) : (s.delXfer j).pool k = s.pool k := rfl
@[simp] theorem State.delXfer_reg (j : Nat) (k : Nat) : (s.delXfer j).reg k = s.reg k := rfl
@[simp] theorem State.delXfer_shaper (j : Nat) (k : Nat) : (s.delXfer j).shaper k = s.shaper k := rfl
@[simp] theorem State.delXfer_now (j : Nat) : (s.delXfer j).now = s.now := rfl

/-! ### What an update writes -/

@[simp] theorem State.job_setJob (i k : Nat) (x : Job) : (s.setJob i x).job k = if k = i then x else s.job k := by
  simp only [State.job, State.setJob, mgetD_mput]
@[simp] theorem State.sess_setSess (i k : Nat) (x : Session) : (s.setSess i x).sess k = if k = i then x else s.sess k := by
  simp only [State.sess, State.setSess, mgetD_mput]
@[simp] theorem State.aux_setAux (i k : Nat) (x : SessAux) : (s.setAux i x).aux k = if k = i then x else s.aux k := by
  simp only [State.aux, State.setAux, mgetD_mput]
@[simp] theorem State.req_setReq (i k : Nat) (x : Req) : (s.setReq i x).req k = if k = i then x else s.req k := by
  simp only [State.req, State.setReq, mgetD_mput]
@[simp] theorem State.core_setCore (i k : Nat) (x : Core) : (s.setCore i x).core k = if k = i then x else s.core k := by
  simp only [State.core, State.setCore, mgetD_mput]
@[simp] theorem State.group_setGroup (i k : Nat) (x : Group) : (s.setGroup i x).group k = if k = i then x else s.group k := by
  simp only [State.group, State.setGroup, mgetD_mput]
@[simp] theorem State.seq_setSeq (i k : Nat) (x : Seq) : (s.setSeq i x).seq k = if k = i then x else s.seq k := by
  simp only [State.seq, State.setSeq, mgetD_mput]
@[simp] theorem State.pool_setPool (i k : Nat) (x : Pool) : (s.setPool i x).pool k = if k = i then x else s.pool k := by
  simp only [State.pool, State.setPool, mgetD_mput]
@[simp] theorem State.port_setPort (i k : Nat) (x : Port) : (s.setPort i x).port k = if k = i then x else s.port k := by
  simp only [State.port, State.setPort, mgetD_mput]
@[simp] theorem State.raux?_setRaux (i k : Nat) (x : ReqAux) : (s.setRaux i x).raux? k = if k = i then some x else s.raux? k := by
  simp only [State.raux?, State.setRaux, mget_mput]
@[simp] theorem State.xfer_setXfer (i k : Nat) (x : Xfer) : (s.setXfer i x).xfer k = if k = i then some x else s.xfer k := by
  simp only [State.xfer, State.setXfer, mget_mput]
@[simp] theorem State.xfer_delXfer (i k : Nat) : (s.delXfer i).xfer k = if k = i then none else s.xfer k := by
  simp only [State.xfer, State.delXfer, mget_mdel]
theorem State.setJob_setJob (i : Nat) (x y : Job) : (s.setJob i x).setJob i y = s.setJob i y := by
  simp only [State.setJob, mput_mput]
theorem State.setSess_setSess (i : Nat) (x y : Session) : (s.setSess i x).setSess i y = s.setSess i y := by
  simp only [State.setSess, mput_mput]
/-- A register reads what was last written to it. -/
@[simp] theorem State.reg_setReg (i k : Nat) (v : W64) : (s.setReg i v).reg k = if k = i then v else s.reg k := by
  by_cases h : v = regReset i
  · by_cases hk : k = i <;> simp [State.reg, State.setReg, h, hk, mgetD, mget_mdel]
  · by_cases hk : k = i <;> simp [State.reg, State.setReg, h, hk, mgetD, mget_mput]

/-! ### Updates through a function -/

@[simp] theorem State.modJob_eq (i : Nat) (f : Job → Job) : s.modJob i f = s.setJob i (f (s.job i)) := rfl
@[simp] theorem State.modSess_eq (i : Nat) (f : Session → Session) : s.modSess i f = s.setSess i (f (s.sess i)) := rfl
@[simp] theorem State.modAux_eq (i : Nat) (f : SessAux → SessAux) : s.modAux i f = s.setAux i (f (s.aux i)) := rfl
@[simp] theorem State.modReq_eq (i : Nat) (f : Req → Req) : s.modReq i f = s.setReq i (f (s.req i)) := rfl
theorem State.modRaux_some (i : Nat) (f : ReqAux → ReqAux) (x : ReqAux) (h : s.raux? i = some x) : s.modRaux i f = s.setRaux i (f x) := by
  simp [State.modRaux, h]
@[simp] theorem State.countReg_eq (i lo w n : Nat) : s.countReg i lo w n = s.setReg i (setFld (s.reg i) lo w (fld (s.reg i) lo w + n)) := rfl

end Sys2Proof.Machine
end

