-- ==== Sys2Proof/Laws/Ops.lean ====
section
/-!
SUPPORT. Sys2Proof/Laws/Ops.lean: what taking up a descriptor, naming a session and writing a record can do: proofs cite these instead of
unfolding the operations.
-/
namespace Sys2Proof.Machine

open Sys2Proof

/-! ## Errors scoped to a job (R6) -/

@[simp] theorem Res.spoilIf_false (r : Res) (j : Nat) : r.spoilIf false j = r := rfl
@[simp] theorem Res.spoilIf_true (s : State) (j : Nat) : Res.spoilIf (.next s) true j = .next (s.spoil j) := rfl

/-- What an error of job `j` can change. -/
theorem State.spoil_only (s : State) (j : Nat) :
    ∃ n x a m, s.spoil j = { s with freeCtr := n, sessions := x, reqAux := a, hbm := m } := ⟨_, _, _, _, rfl⟩

/-! ## Taking up a descriptor (R501, R502, R531) -/

/-- A descriptor that passes every common check: its own effect follows. -/
theorem State.takeUp_serves {s : State} {k : Kind} {job well : Nat} {d : Desc} {body : DescCtx → State → Res} (h : s.Serves k job well d) :
    s.takeUp k job well d body = body (descCtx k job well d) (s.takenUp job well) := by
  simp [State.takeUp, h.may, h.fields, h.common]

/-- A well that may not take a descriptor up leaves the state as it is. -/
theorem State.takeUp_not {s : State} {k : Kind} {job well : Nat} {d : Desc} {body : DescCtx → State → Res} (h : s.mayTake job well d = false) :
    s.takeUp k job well d body = .next s := by
  simp [State.takeUp, h]

/-- A common check that fails gives the descriptor its FINAL record. -/
theorem State.takeUp_check {s : State} {k : Kind} {job well c : Nat} {d : Desc} {body : DescCtx → State → Res} (h : s.mayTake job well d = true)
    (hf : onlyFields d (headerFields ++ k.fields) = true) (hc : (s.takenUp job well).commonCheck k job d = some c) :
    s.takeUp k job well d body = .next ((s.takenUp job well).complete { descCtx k job well d with cw := well } c) := by
  simp [State.takeUp, h, hf, hc]

/-! ## The cache of the session table, and naming a session (R12, R13, R19, R532) -/

/-- Two states whose sessions, their parts but the mark of a copy that fails its CRC, jobs, requests, clock and free values are the same. -/
structure State.SameTable (s t : State) : Prop where
  sess : t.sessions = s.sessions
  jobs : t.jobs = s.jobs
  reqs : t.reqs = s.reqs
  reqAux : t.reqAux = s.reqAux
  power : t.power = s.power
  free : t.freeCtr = s.freeCtr
  aux : ∀ k, ∃ b, t.aux k = { s.aux k with corrupt := b }

theorem State.SameTable.rfl' (s : State) : s.SameTable s := ⟨rfl, rfl, rfl, rfl, rfl, rfl, fun k => ⟨(s.aux k).corrupt, rfl⟩⟩

theorem State.SameTable.trans {s t u : State} (h : s.SameTable t) (g : t.SameTable u) : s.SameTable u := by
  refine ⟨g.sess.trans h.sess, g.jobs.trans h.jobs, g.reqs.trans h.reqs, g.reqAux.trans h.reqAux, g.power.trans h.power, g.free.trans h.free, ?_⟩
  intro k
  obtain ⟨b, hb⟩ := h.aux k
  obtain ⟨c, hc⟩ := g.aux k
  exact ⟨c, by rw [hc, hb]⟩

theorem State.sesWriteBack_same (s : State) (i : Nat) : s.SameTable (s.sesWriteBack i) := by
  unfold State.sesWriteBack
  split
  · split
    · obtain ⟨q, m, r, h, -⟩ := (s.modAux i (fun a => { a with corrupt := false })).wrHbm_only (64 * i)
        ((s.modAux i (fun a => { a with corrupt := false })).sess i).image
      dsimp only
      rw [h]
      refine ⟨rfl, rfl, rfl, rfl, rfl, rfl, fun k => ?_⟩
      by_cases hk : k = i
      · exact ⟨false, by subst hk; simp [State.aux, State.modAux, State.setAux, State.countReg]⟩
      · exact ⟨(s.aux k).corrupt, by simp [State.aux, State.modAux, State.setAux, State.countReg, hk]⟩
    · obtain ⟨q, m, r, h, -⟩ := s.wrHbm_only (64 * i) (s.sess i).image
      dsimp only
      rw [h]
      exact ⟨rfl, rfl, rfl, rfl, rfl, rfl, fun k => ⟨(s.aux k).corrupt, rfl⟩⟩
  · exact .rfl' s

theorem State.sesBypassed_same (s : State) : s.SameTable s.sesBypassed := by
  unfold State.sesBypassed
  split
  · exact .rfl' s
  · rename_i k _
    exact (s.sesWriteBack_same k).trans ⟨rfl, rfl, rfl, rfl, rfl, rfl, fun k' => ⟨((s.sesWriteBack k).aux k').corrupt, rfl⟩⟩

theorem State.opened_same (s : State) (i : Nat) : s.SameTable (s.opened i) := by
  simp only [State.opened, State.sesAccess]
  refine s.sesBypassed_same.trans ?_
  generalize s.sesBypassed = u
  split
  · exact ⟨rfl, rfl, rfl, rfl, rfl, rfl, fun k' => ⟨(u.aux k').corrupt, rfl⟩⟩
  · split
    · exact ⟨rfl, rfl, rfl, rfl, rfl, rfl, fun k' => ⟨(u.aux k').corrupt, rfl⟩⟩
    · rename_i t ht
      refine (?_ : u.SameTable t).trans ⟨rfl, rfl, rfl, rfl, rfl, rfl, fun k' => ⟨(t.aux k').corrupt, rfl⟩⟩
      simp only [State.sesRoom] at ht
      split at ht
      · cases ht
        exact .rfl' u
      · rw [Option.map_eq_some_iff] at ht
        obtain ⟨k, -, rfl⟩ := ht
        exact (u.sesWriteBack_same k).trans ⟨rfl, rfl, rfl, rfl, rfl, rfl, fun k' => ⟨((u.sesWriteBack k).aux k').corrupt, rfl⟩⟩

@[simp] theorem State.opened_sess (s : State) (i k : Nat) : (s.opened i).sess k = s.sess k := by simp only [State.sess, (s.opened_same i).sess]
@[simp] theorem State.opened_job (s : State) (i k : Nat) : (s.opened i).job k = s.job k := by simp only [State.job, (s.opened_same i).jobs]
@[simp] theorem State.opened_now (s : State) (i : Nat) : (s.opened i).now = s.now := by simp only [State.now, (s.opened_same i).power]
@[simp] theorem State.opened_unbound (s : State) (i k : Nat) : ((s.opened i).aux k).unbound = (s.aux k).unbound := by
  obtain ⟨b, h⟩ := (s.opened_same i).aux k
  rw [h]

theorem State.withSession_names {s : State} {c : DescCtx} {i : Nat} {touch : Bool} {body : State → Res} (h : s.Names c.job i) :
    s.withSession c i touch body = body (if touch then (s.opened i).touch i else s.opened i) := by
  have e := s.opened_sess i i
  have b := s.opened_unbound i i
  have r := h.intact
  simp only [State.opened] at e b
  simp [State.withSession, State.opened, e, b, r, h.used, h.bound, h.own]

theorem State.withSession_free {s : State} {c : DescCtx} {i : Nat} {touch : Bool} {body : State → Res} (h : (s.sess i).state = .free) :
    s.withSession c i touch body = .next ((s.opened i).complete c Code.noSession 0 0 i) := by
  have e := s.opened_sess i i
  simp only [State.opened] at e
  simp [State.withSession, State.opened, e, h]

/-! ## Records (R505 to R508) -/

/-- What a signal coalescing can change. -/
theorem State.coalesce_only (s : State) (j w : Nat) : ∃ js fs, s.coalesce j w = { s with jobs := js, funcs := fs } := by
  simp only [State.coalesce]
  split
  · exact ⟨_, _, rfl⟩
  · exact ⟨s.jobs, s.funcs, rfl⟩

/-- What writing waiting records can change: the jobs' wells, signals, and the memory their rings lie in, which stays canonical. -/
theorem State.drain_only (n : Nat) (s : State) (j w : Nat) :
    ∃ js fs q m r h, State.drain n s j w = { s with jobs := js, funcs := fs, seqs := q, hbm := m, refreshing := r, host := h } ∧
      (Memory.wf (some 0) s.hbm = true → Memory.wf (some 0) m = true) ∧ (Memory.wf none s.host = true → Memory.wf none h = true) := by
  induction n generalizing s with
  | zero => exact ⟨s.jobs, s.funcs, s.seqs, s.hbm, s.refreshing, s.host, rfl, id, id⟩
  | succ n ih =>
    simp only [State.drain]
    split
    · exact ⟨s.jobs, s.funcs, s.seqs, s.hbm, s.refreshing, s.host, rfl, id, id⟩
    · split
      · generalize hb : Rec.bytes _ _ = bs
        generalize s.job j = x
        obtain ⟨q, m, r, h, h1, h2, h3⟩ := s.wr_only (bit (x.compWell w).cfg 5) ((x.compWell w).base.toNat + 32 * ((x.compWell w).tail.toNat % (x.compWell w).depth)) bs
        rw [h1]
        generalize hu : State.modJob _ j _ = u
        obtain ⟨js, fs, h4⟩ := u.coalesce_only j w
        rw [h4]
        obtain ⟨js', fs', q', m', r', h', h5, h6, h7⟩ := ih { u with jobs := js, funcs := fs }
        rw [h5]
        subst hu
        exact ⟨js', fs', q', m', r', h', rfl, fun g => h6 (h2 g), fun g => h7 (h3 g)⟩
      · exact ⟨s.jobs, s.funcs, s.seqs, s.hbm, s.refreshing, s.host, rfl, id, id⟩

theorem State.post_only (s : State) (j w : Nat) (x : Rec) :
    ∃ js fs q m r h, s.post j w x = { s with jobs := js, funcs := fs, seqs := q, hbm := m, refreshing := r, host := h } ∧
      (Memory.wf (some 0) s.hbm = true → Memory.wf (some 0) m = true) ∧ (Memory.wf none s.host = true → Memory.wf none h = true) := by
  simp only [State.post]
  exact State.drain_only _ _ _ _

/-- What the FINAL record of a descriptor can change. -/
theorem State.complete_only (s : State) (c : DescCtx) (status result req session : Nat) :
    ∃ js fs q m r h, s.complete c status result req session = { s with jobs := js, funcs := fs, seqs := q, hbm := m, refreshing := r, host := h } ∧
      (Memory.wf (some 0) s.hbm = true → Memory.wf (some 0) m = true) ∧ (Memory.wf none s.host = true → Memory.wf none h = true) :=
  s.post_only _ _ _

/-! ## Error records (R469, R479, R510) -/

/-- What signalling the physical function for an error can change. -/
theorem State.errSignal_only (s : State) : ∃ fs, s.errSignal = { s with funcs := fs } := by
  unfold State.errSignal
  split
  · exact ⟨(s.signal 0 (fld (s.reg Reg.errCtl) 0 11)).funcs, rfl⟩
  · exact ⟨s.funcs, rfl⟩

/-- What the copy of a record in a function's well can change. -/
theorem State.errMirror_only (s : State) (r : ErrRec) : ∃ e fs, s.errMirror r = { s with errs := e, funcs := fs } := by
  unfold State.errMirror
  split
  · exact ⟨s.errs, s.funcs, rfl⟩
  · rename_i j _
    dsimp only
    by_cases hf : (s.job j).func = 0
    · rw [if_pos hf]; exact ⟨s.errs, s.funcs, rfl⟩
    · rw [if_neg hf]
      generalize ErrWell.push _ _ _ = w
      split
      · exact ⟨{ s.errs with fnWells := mput s.errs.fnWells (s.job j).func w.1 }, _, rfl⟩
      · exact ⟨{ s.errs with fnWells := mput s.errs.fnWells (s.job j).func w.1 }, s.funcs, rfl⟩

/-- What recording an error can change: the wells, the class's counter, and signals. -/
theorem State.logErr_only (s : State) (r : ErrRec) : ∃ e rs fs, (s.logErr r).2 = { s with errs := e, regs := rs, funcs := fs } := by
  unfold State.logErr
  dsimp only
  generalize s.errMask _ = m
  have hc : ∃ rs, s.countReg (Reg.errClass m.cls) 0 64 1 = { s with regs := rs } := ⟨_, rfl⟩
  obtain ⟨rs, hc⟩ := hc
  rw [hc]
  generalize ErrWell.push _ _ _ = w
  split
  · obtain ⟨fs, h⟩ := State.errSignal_only { s with regs := rs, errs := { s.errs with seq := m.seq, well := w.1 } }
    rw [h]
    obtain ⟨e, fs', h'⟩ := State.errMirror_only { s with regs := rs, errs := { s.errs with seq := m.seq, well := w.1 }, funcs := fs } m
    exact ⟨e, rs, fs', h'⟩
  · obtain ⟨e, fs', h'⟩ := State.errMirror_only { s with regs := rs, errs := { s.errs with seq := m.seq, well := w.1 } } m
    exact ⟨e, rs, fs', h'⟩

end Sys2Proof.Machine
end

