-- ==== Sys2Proof/Laws/Net.lean ====
section
/-!
SUPPORT. Sys2Proof/Laws/Net.lean: what queueing an engine command and sending a packet can change: engine pools and shapers; and the
fabric and its drop counters.
-/
namespace Sys2Proof.Machine

open Sys2Proof

/-- What an instance's choice of a command can change (R335, R336). -/
theorem State.pick_only (s : State) (c i : Nat) : ∃ p h, s.pick c i = { s with pools := p, shapers := h } := by
  simp only [State.pick]
  repeat' split
  all_goals first
    | exact ⟨s.pools, s.shapers, rfl⟩
    | exact ⟨_, _, rfl⟩

theorem State.dispatch_only (s : State) (c : Nat) : ∃ p h, s.dispatch c = { s with pools := p, shapers := h } := by
  simp only [State.dispatch]
  split
  · exact ⟨s.pools, s.shapers, rfl⟩
  · suffices ∀ (is : List Nat) (s : State), ∃ p h, is.foldl (fun s i => s.pick c i) s = { s with pools := p, shapers := h } from this _ s
    intro is
    induction is with
    | nil => intro s; exact ⟨s.pools, s.shapers, rfl⟩
    | cons i is ih =>
      intro s
      obtain ⟨p, h, e⟩ := s.pick_only c i
      obtain ⟨p', h', e'⟩ := ih { s with pools := p, shapers := h }
      exact ⟨p', h', by rw [List.foldl_cons, e, e']⟩

/-- What a queued engine command can change. -/
theorem State.enqueue_only (s : State) (c : Nat) (x : EngCmd) : ∃ p h, s.enqueue c x = { s with pools := p, shapers := h } := by
  obtain ⟨p, h, e⟩ := (s.setPool c { s.pool c with queue := (s.pool c).queue ++ [{ x with since := s.now }] }).dispatch_only c
  exact ⟨p, h, e⟩

/-- What packets that leave a port can change (R350, R360). -/
theorem State.egress_only (n : Nat) (s : State) (l : Nat) : ∃ p h f, State.egress n s l = { s with pools := p, shapers := h, fabric := f } := by
  induction n generalizing s with
  | zero => exact ⟨s.pools, s.shapers, s.fabric, rfl⟩
  | succ n ih =>
    simp only [State.egress]
    split
    · obtain ⟨p, h, f, e⟩ := ih (s.leave l _)
      exact ⟨p, h, f, e⟩
    · split
      · exact ⟨s.pools, s.shapers, s.fabric, rfl⟩
      · obtain ⟨p, h, e⟩ := s.pick_only Cls.nlm l
        rw [e]
        repeat' split
        all_goals exact ⟨_, _, _, rfl⟩

/-- What placing a packet can change: a port's queue, or the count of unroutable packets (R356, R357). -/
theorem State.place_only (s : State) (p : Packet) (job : Option Nat) (share : Nat) :
    ∃ q h f r, s.place p job share = { s with pools := q, shapers := h, fabric := f, regs := r } := by
  simp only [State.place]
  split
  · exact ⟨s.pools, s.shapers, s.fabric, _, rfl⟩
  · split
    · obtain ⟨q, h, f, e⟩ := State.egress_only ((s.port _).queue.length + 2) (s.setPort _ _) _
      exact ⟨q, h, f, s.regs, e⟩
    · obtain ⟨q, h, e⟩ := State.enqueue_only (s.setPort _ _) Cls.nlm _
      rw [e]
      obtain ⟨q', h', f, e'⟩ := State.egress_only ((s.port _).queue.length + 2) _ _
      exact ⟨q', h', f, s.regs, e'⟩

/-- What sending a packet can change (R351, R358, R359). -/
theorem State.send_only (s : State) (j vc type dst flow : Nat) (arg : W64) (data : List Byte) (share : Nat) :
    ∃ q h f r, (s.send j vc type dst flow arg data share).1 = { s with pools := q, shapers := h, fabric := f, regs := r } := by
  simp only [State.send]
  split
  · exact ⟨s.pools, s.shapers, s.fabric, s.regs, rfl⟩
  · obtain ⟨q, h, f, r, e⟩ := State.place_only { s with fabric := _ } _ _ _
    exact ⟨q, h, f, r, e⟩

end Sys2Proof.Machine
end

