-- ==== Sys2Proof/Laws/Words.lean ====
section
/-!
SUPPORT. Sys2Proof/Laws/Words.lean: what the shared operation behind every Fletegus word does (R135 to R143, R161, R162, R165).
-/
namespace Sys2Proof.Machine

open Sys2Proof

variable {s : State} {i : Instr} {c slot : Nat} {h : Head} {writes : List Nat} {p : Prog} {legal : Prog → Bool} {body : Env → Core → Word}
  {k : Core} {w : CoreWait} {cands : List (Cause × Nat)}

/-- A word that takes effect: the core stands as its own effect left it. -/
theorem State.word_done (hi : s.Issues i c h slot writes p) (hl : legal p = true)
    (hb : body (s.envOf c p) (s.wordCore c slot writes) = .ok k) : s.word i c h slot writes legal body = .next (s.wordDone c h p k) := by
  obtain ⟨h1, h2, h3, h4, h5⟩ := hi
  simp only [State.envOf, State.atWord, State.wordCore] at hb
  simp [State.word, State.joinBed, h1, h2, h3, h4, h5, hl, hb, State.wordDone, State.envOf, State.atWord]

/-- A word whose own effect faults stops its program. -/
theorem State.word_fault (hi : s.Issues i c h slot writes p) (hl : legal p = true)
    (hb : body (s.envOf c p) (s.wordCore c slot writes) = .fault cands) :
    s.word i c h slot writes legal body = .next ((s.atWord c p).wordFault c cands) := by
  obtain ⟨h1, h2, h3, h4, h5⟩ := hi
  simp only [State.envOf, State.atWord, State.wordCore] at hb
  simp [State.word, State.joinBed, h1, h2, h3, h4, h5, hl, hb, State.atWord]

/-- A word that must wait gives its bed up; the core waits. -/
theorem State.word_wait (hi : s.Issues i c h slot writes p) (hl : legal p = true)
    (hb : body (s.envOf c p) (s.wordCore c slot writes) = .wait w) :
    s.word i c h slot writes legal body = .next ((s.atWord c p).setCore c { (s.startWord c).rollback with wait := w }) := by
  obtain ⟨h1, h2, h3, h4, h5⟩ := hi
  simp only [State.envOf, State.atWord, State.wordCore] at hb
  simp [State.word, State.joinBed, h1, h2, h3, h4, h5, hl, hb, State.atWord]

/-- A word with fields that must be 0 set stops its program. -/
theorem State.word_illegal (hi : s.Issues i c h slot writes p) (hl : legal p = false) :
    s.word i c h slot writes legal body = .next ((s.atWord c p).wordFault c [(.illegal, (s.startWord c).pc)]) := by
  obtain ⟨h1, h2, h3, h4, h5⟩ := hi
  simp [State.word, State.joinBed, h1, h2, h3, h4, h5, hl, State.atWord]

/-- A word whose predicate is off. -/
theorem State.word_off (h1 : s.running c = some p) (h2 : p.covers (s.startWord c).wordAt = true)
    (h3 : encodeFletegus i = some (s.fetched c p)) (h4 : (s.startWord c).admits h slot writes = true) (h5 : (s.startWord c).takes h = false) :
    s.word i c h slot writes legal body = .next (s.wordDone c h p (s.wordCore c slot writes)) := by
  simp [State.word, State.joinBed, h1, h2, h3, h4, h5, State.wordDone, State.envOf, State.atWord, State.wordCore]

/-- A core that runs no program takes no word. -/
theorem State.word_idle (h1 : s.running c = none) : s.word i c h slot writes legal body = .next s := by
  simp [State.word, h1]

/-- A command whose word is not the one that stands at the core's PC, where an instruction stands, does nothing. -/
theorem State.word_other (h1 : s.running c = some p) (h2 : p.covers (s.startWord c).wordAt = true)
    (h3 : encodeFletegus i ≠ some (s.fetched c p)) (h4 : (decodeFletegus c (s.fetched c p)).isSome = true) :
    s.word i c h slot writes legal body = .next s := by
  simp [State.word, h1, h2, h3, Option.ne_none_iff_isSome.mpr h4]

end Sys2Proof.Machine
end

