-- ==== Sys2Proof/Tests/Slice0.lean ====
section
/-!
SUPPORT. Sys2Proof/Tests/Slice0.lean: words written out from Table 6.16, terms that WellFormed refuses, single steps on a small device, and
for each statement of Obligations.lean with hypotheses a state and operands that meet them. Expected values are the spec's.
-/
namespace Sys2Proof.Tests

open Sys2Proof Sys2Proof.Machine

set_option Elab.async false

/-! ## Words (Table 6.16) -/

theorem test_word_addi : decodeFletegus 0 0x840094A000000040 = some (.addi 0 ⟨true, 0, false⟩ ⟨5, 5, 0, 0x40⟩) := by rfl
theorem test_word_vfma : decodeFletegus 0 0x10020C221C400000 = some (.vfma 0 ⟨false, 0, false⟩
    { rd := 3, ra := 1, rb := 2, rc := 3, mask := 4, ty := 1, lf := false, rsv := 0, imm16 := 0 }) := by rfl
theorem test_word_mrow : decodeFletegus 4095 0xA004A12A04001000 = some (.mrow 4095 ⟨true, 0, false⟩
    { at_ := 1, sa := 8, sb := 9, sc := 10, nb := 4, row := 0, q := 0, opf := 1, pd := 0, fl := false, lf := false, rsv := 0 }) := by rfl
theorem test_word_hld : decodeFletegus 0 0xB2074A80C02FC000 = some (.hld 0 ⟨true, 0, false⟩
    { rl := 20, rt := 21, rx := 0, sem := 6, semd := 0, seg := 2, len := 63, rsv := 0 }) := by rfl
theorem test_word_put : decodeFletegus 0 0xC002C0000000C000 = some (.put 0 ⟨true, 0, false⟩
    { rl := 12, rt := 0, rx := 0, sem := 0, semd := 0, seg := 0, len := 3, rsv := 0 }) := by rfl
theorem test_word_seminc : decodeFletegus 0 0xD00180E000002023 = some (.seminc 0 ⟨true, 0, false⟩ ⟨0, 7, 0, 0x2023⟩) := by rfl
theorem test_word_br : decodeFletegus 0 0xE0E2000000000340 = some (.br 0 ⟨true, 3, true⟩ ⟨0, 0, 0x340⟩) := by rfl
/-- OP 0x00 is reserved (R165). -/
theorem test_word_reserved : decodeFletegus 0 0x8000000000000000 = none := by rfl
/-! ## Ill-formed terms -/

/-- A descriptor with fields (first bit, value). -/
def mkD (kind : Nat) (fs : List (Nat × Nat)) : Desc := BitVec.ofNat 512 (kind + (fs.map (fun f => f.2 <<< f.1)).foldl (· + ·) 0)

theorem test_wf_job : Instr.wf (.openSession 64 0 (mkD 0x0101 [])) = false := by decide +kernel
theorem test_wf_well : Instr.wf (.openSession 63 16 (mkD 0x0101 [])) = false := by decide +kernel
theorem test_wf_kind : Instr.wf (.openSession 63 15 (mkD 0x0102 [])) = false ∧ Instr.wf (.openSession 63 15 (mkD 0x0101 [])) = true := by decide +kernel
theorem test_wf_known_kind : Instr.wf (.badKind 0 0 (mkD 0x0608 [])) = false ∧ Instr.wf (.badKind 0 0 (mkD 0x060D [])) = true := by decide +kernel
theorem test_wf_function : Instr.wf (.flr 64) = false ∧ Instr.wf (.flr 63) = true := by decide +kernel
theorem test_wf_session : Instr.wf (.sessionExpiry 0x1000000) = false ∧ Instr.wf (.sessionExpiry 0xFFFFFF) = true := by decide +kernel
theorem test_wf_request : Instr.wf (.tierLate 65536) = false ∧ Instr.wf (.tierLate 65535) = true := by decide +kernel
theorem test_wf_core : Instr.wf (.nop 4096 ⟨true, 0, false⟩ { rd := 0, ra := 0, rb := 0, rc := 0, mask := 0, ty := 0, lf := false, rsv := 0, imm16 := 0 }) = false := by
  decide +kernel
theorem test_wf_pump : Instr.wf (.pumpTakeUp 64 true) = false := by decide +kernel
theorem test_wf_engine : Instr.wf (.engineCommandEnd 8 0 0 false []) = false ∧ Instr.wf (.engineCommandEnd 7 64 0 false []) = false := by decide +kernel
theorem test_wf_group : Instr.wf (.groupAutoRetain 64) = false := by decide +kernel
theorem test_wf_sequencer : Instr.wf (.seqAbort 1024) = false := by decide +kernel
theorem test_wf_channel : Instr.wf (.hbmSelfRefresh 256) = false := by decide +kernel
theorem test_wf_slot : Instr.wf (.privSlotWrite 16 0) = false ∧ Instr.wf (.portCtlWrite 16 0) = false := by decide +kernel
theorem test_wf_port : Instr.wf (.linkDown 32 false) = false := by decide +kernel
theorem test_wf_ack : Instr.wf (.acknowledgement 65536 0 0) = false ∧ Instr.wf (.acknowledgement 0 8 0) = false := by decide +kernel
theorem test_wf_peer : Instr.wf (.peerFree 65536 0) = false := by decide +kernel
theorem test_wf_collective : Instr.wf (.collectiveTimeout 0 256 0) = false := by decide +kernel
theorem test_wf_stream : Instr.wf (.stripeClose 3 0) = false ∧ Instr.wf (.stripeClose 0 16) = false := by decide +kernel
theorem test_wf_plane : Instr.wf (.eraseFail 32 0 0 0) = false ∧ Instr.wf (.eraseFail 0 16 0 0) = false ∧ Instr.wf (.eraseFail 0 0 4 0) = false := by decide +kernel

/-! ## A small device -/

/-- A run of bytes of a memory. -/
def cells : Nat → List Byte → List Host.Cell
  | _, [] => []
  | a, b :: bs => (a, b) :: cells (a + 1) bs
theorem find_cells (bs : List Byte) (a k : Nat) : Memory.find (cells a bs) (a + k) = bs[k]? := by
  induction bs generalizing a k with
  | nil => rfl
  | cons b bs ih =>
    cases k with
    | zero => simp [cells, Memory.find]
    | succ k =>
      have h := ih (a + 1) k
      rw [show a + 1 + k = a + (k + 1) by omega] at h
      simp [cells, Memory.find, h]
theorem readAll_part (bs : List Byte) (a off n : Nat) (hn : off + n ≤ bs.length) : Memory.readAll (cells a bs) (a + off) n = some ((bs.drop off).take n) := by
  have h (l : List Nat) (hl : ∀ i ∈ l, off + i < bs.length) : l.mapM (fun i => Memory.find (cells a bs) (a + off + i)) = some (l.map (fun i => bs.getD (off + i) 0)) := by
    induction l with
    | nil => rfl
    | cons i l ih =>
      have hi := hl i (by simp)
      have h := ih (fun j hj => hl j (by simp [hj]))
      simp only [List.mapM_cons, h]
      simp [Nat.add_assoc, find_cells, List.getElem?_eq_getElem hi]
  unfold Memory.readAll
  rw [h _ (fun i hi => by simp at hi; omega)]
  congr 1
  apply List.ext_getElem
  · simp; omega
  · intro i h1 h2
    simp at h2
    simp [List.getElem?_eq_getElem (show off + i < bs.length by omega)]
theorem readAll_cells (bs : List Byte) (a : Nat) : Memory.readAll (cells a bs) a bs.length = some bs := by
  have h := readAll_part bs a 0 bs.length (by omega)
  simpa using h

/-- Job 0: core groups 0 and 1, of which 0 serves, pseudo-channel 255, port 0; well 0 with one descriptor waiting and its completion well. -/
def job0 : Job :=
  { active := true, slice := { groups := 3, serve := 1, pc := 1 <<< 255, ports := 1 },
    sw := [(0, { cfg := 0x44, tail := 1 })], cw := [(0, { cfg := 0x44, base := 0x8000 })] }

/-- A device that serves: READY, version 3.2 agreed with the physical function, job 0. -/
def dev : State :=
  { power := { level := none, ready := true, clock := 10000, stepDone := 8 }, sec := { boot := 2 },
    funcs := [(0, { agreed := true, major := 3, minor := 2 })], jobs := [(0, job0)] }

/-- The same with a program of core group 0's 64 cores, started, whose code is 64 B at 0x100. -/
def prog0 : Prog :=
  { ctx := { job := 0, sw := 0, cw := 0, tag := 0, kind := 0x0301 }, minor := 2, mask := 1, entry := 0x100, codeBase := 0x100, code := zeros 64, dataBase := 0,
    data := [], argBase := 0, args := [], segs := [{ base := 0x100000, size := 4096, rd := true, wr := true }], limit := 10, faultAddr := 0, started := true, startAt := some 0, exit := 0 }
def core0 (r : CoreRegs) : Core := { prog := 1, halted := false, pc := 0x100, regs := r }
def devP (r : CoreRegs) : State :=
  { dev with progs := [(1, prog0)], nextProg := 2, cores := [(0, core0 r), (1, core0 {})], groups := [(0, { state := 0, job := 0, lastJob := 0 })] }

/-- Does the descriptor reach its kind's own effect? -/
def serves (s : State) (k : Kind) (job well : Nat) (d : Desc) : Bool :=
  s.mayTake job well d && onlyFields d (headerFields ++ k.fields) && ((s.takenUp job well).commonCheck k job d).isNone

theorem serves_spec {s : State} {k : Kind} {job well : Nat} {d : Desc} (h : serves s k job well d = true) : s.Serves k job well d := by
  simp only [serves, Bool.and_eq_true, Option.isNone_iff_eq_none] at h
  exact ⟨h.1.1, h.1.2, h.2⟩

/-- `devP` with words of beds at core 0's PC. -/
def devA (is : List Instr) (r : CoreRegs := {}) : State :=
  (devP r).setCore 0 { core0 r with store := Memory.write (some 0) [] 0x100 (is.flatMap (fun i => leBytes 8 ((encodeFletegus i).getD 0).toNat)) }

/-- Does the word at core 0's PC reach its own effect? -/
def issues (s : State) (i : Instr) (h : Head) (slot : Nat) (writes : List Nat) : Bool :=
  match s.running 0 with
  | none => false
  | some p => p.covers (s.startWord 0).wordAt && encodeFletegus i == some (s.fetched 0 p) && (s.startWord 0).admits h slot writes && (s.startWord 0).takes h

theorem issues_spec {s : State} {i : Instr} {h : Head} {slot : Nat} {writes : List Nat} (hi : issues s i h slot writes = true) :
    ∃ p, s.Issues i 0 h slot writes p := by
  unfold issues at hi
  split at hi
  · cases hi
  · rename_i p hp
    simp only [Bool.and_eq_true, beq_iff_eq] at hi
    exact ⟨p, hp, hi.1.1.1, hi.1.1.2, hi.1.2, hi.2⟩

/-- The word stands at core 0's PC and reaches its own effect. -/
def stands (i : Instr) (h : Head) (slot : Nat) (writes : List Nat) (r : CoreRegs := {}) : Bool := issues (devA [i] r) i h slot writes

/-- The next state, where there is one. -/
def nextOf (r : Res) : State := match r with
  | .next t => t
  | _ => {}
def faultOf (r : Res) : Option Fault := match r with
  | .fault f => some f
  | _ => none
def isNext (r : Res) : Bool := match r with
  | .next _ => true
  | _ => false

abbrev last : Head := ⟨true, 0, false⟩
abbrev more : Head := ⟨false, 0, false⟩
abbrev fR (rd ra rb : BitVec 5) : FmtR := { rd := rd, ra := ra, rb := rb, rc := 0, mask := 0, ty := 0, lf := false, rsv := 0, imm16 := 0 }
abbrev fI (rd ra : BitVec 5) (i : W32) : FmtI := ⟨rd, ra, 0, i⟩
/-- Core 0 after the word, or after two words of one bed. -/
def after (i : Instr) (r : CoreRegs) : State := nextOf (exec i (devA [i] r))
def after2 (i j : Instr) (r : CoreRegs) : State := nextOf (exec j (nextOf (exec i (devA [i, j] r))))

/-! ## Single steps -/

/-- R166: arithmetic wraps; both sources are read before the destination is written. -/
theorem test_add_wraps : let t := after (.add 0 last (fR 1 1 2)) { s := [(1, 0xFFFFFFFF), (2, 2)] }
    (t.core 0).regs.sreg 1 = 1 ∧ (t.core 0).pc = 0x108 ∧ (t.core 0).beds = 1 := by decide +kernel
/-- MULH is the signed high half. -/
theorem test_mulh_signed : ((after (.mulh 0 last (fR 3 1 2)) { s := [(1, 0xFFFFFFFF), (2, 2)] }).core 0).regs.sreg 3 = 0xFFFFFFFF := by decide +kernel
/-- A shift takes its count modulo 32. -/
theorem test_shl_by_33 : ((after (.shl 0 last (fR 3 1 2)) { s := [(1, 3), (2, 33)] }).core 0).regs.sreg 3 = 6 := by decide +kernel
theorem test_sra_sign : ((after (.srai 0 last (fI 3 1 31)) { s := [(1, 0x80000000)] }).core 0).regs.sreg 3 = 0xFFFFFFFF := by decide +kernel
/-- CMPLT is signed and CMPLTU is not. -/
theorem test_cmplt : let r : CoreRegs := { s := [(1, 0xFFFFFFFF), (2, 1)] }
    ((after (.cmplt 0 last (fR 1 1 2)) r).core 0).regs.preg 1 = BitVec.allOnes 64 ∧ ((after (.cmpltu 0 last (fR 1 1 2)) r).core 0).regs.preg 1 = 0 := by
  decide +kernel
/-- p0 reads as all ones whatever is written. -/
theorem test_p0 : ((after (.cmpeqi 0 last (fI 0 1 5)) {}).core 0).regs.preg 0 = BitVec.allOnes 64 := by decide +kernel
/-- A word that does not take effect changes no register (R143). -/
theorem test_predicated_off : let t := after (.addi 0 ⟨true, 1, true⟩ (fI 1 1 5)) { p := [(1, 1)] }
    (t.core 0).regs.sreg 1 = 0 ∧ (t.core 0).pc = 0x108 := by decide +kernel
/-- Two scalar words in one bed fault with BED (R137): the program is stopped. -/
theorem test_bed_fault : let t := after2 (.add 0 more (fR 1 1 1)) (.add 0 last (fR 2 1 1)) {}
    (mget t.progs 1).isNone = true ∧ (t.core 0).halted = true ∧ (((t.job 0).compWell 0).tail) = 1 := by decide +kernel
/-- A bed's words read the registers as they stood at its start (R138): the vector word sees the old s1. -/
theorem test_bed_reads_first : let t := after2 (.addi 0 more (fI 1 1 7)) (.vbcs 0 last (fR 4 1 0)) { s := [(1, 5)] }
    lane ((t.core 0).regs.vreg 4) 63 = 5 ∧ (t.core 0).regs.sreg 1 = 12 := by decide +kernel
/-- A word of zeros is no instruction (R165): ILLEGAL. A command whose word does not stand at the PC does nothing. -/
theorem test_word_of_zeros : (mget (nextOf (exec (.add 0 last (fR 1 1 2)) (devP {}))).progs 1).isNone = true ∧
    nextOf (exec (.add 0 last (fR 1 1 2)) (devA [.sub 0 last (fR 1 1 2)])) = devA [.sub 0 last (fR 1 1 2)] := by decide +kernel
/-- R205: 1 + 2^-23 goes up to the next H16, −(1 + 2^-23) up to −1, and magnitudes above 65,504 are clamped. -/
theorem test_h16_up : h16Up 0x3F800000 = 0x3C00 ∧ h16Up 0x3F800001 = 0x3C01 ∧ h16Up 0xBF800001 = 0xBC00 ∧ h16Up 0x47800000 = 0x7BFF ∧
    h16Up 0xC7800000 = 0xFBFF ∧ h16Up 0x00000001 = 0x0001 := by decide +kernel
/-- binary32: 1.5 + 1.5 = 3; binary16 in the same lanes: 1 × 2^15 + 1 × 2^15 is beyond the format and gives infinity with OVERFLOW. -/
theorem test_vadd_float : (binary32.add 0x3FC00000 0x3FC00000).1 = 0x40400000 ∧ (binary16.add 0x7800 0x7800).1 = 0x7C00 := by decide +kernel
/-- A store lands in the core's own store when its bed issues. -/
theorem test_stw : let t := after (.stw 0 last (fR 0 1 2)) { s := [(1, 0x1000), (2, 0x11223344)] }
    Memory.read (t.core 0).store 0x1000 4 = [0x44, 0x33, 0x22, 0x11] := by decide +kernel
/-- A store into the code range faults with CODE_WRITE (R135): nothing is stored and the program ends. -/
theorem test_code_write : let t := after (.stw 0 last (fR 0 1 2)) { s := [(1, 0x13C), (2, 1)] }
    (mget t.progs 1).isNone = true ∧ Memory.read (t.core 0).store 0x13C 4 = zeros 4 := by decide +kernel
/-- A remote write elsewhere lands. -/
theorem test_remote_write : let s := devP {}
    let k : Core := { core0 {} with flight := [.write 1 0x200 [1, 2]] }
    Memory.read ((nextOf (exec (.remoteWriteLand 0 1) (s.setCore 0 k))).core 1).store 0x200 2 = [1, 2] := by decide +kernel
/-- MCLR clears a tile and takes its row exponents from a vector register (R89). -/
theorem test_mclr :
    let i : Instr := .mclr 0 last { at_ := 2, sa := 1, sb := 0, sc := 0, nb := 0, row := 0, q := 0, opf := 0, pd := 0, fl := false, lf := false, rsv := 0 }
    let t := after i { v := [(1, BitVec.ofNat 2048 0xFFF8)], tiles := [(2, { elems := [(5, 9)] })] }
    ((t.core 0).regs.tile 2).at 0 5 = 0 ∧ ((t.core 0).regs.tile 2).row 0 = -8 ∧ ((t.core 0).regs.tile 2).row 1 = 0 := by decide +kernel
/-- SHA-256 of the text abc, as FIPS 180-4's example has it (R153). -/
theorem test_sha256 : leBytes 4 (sha256 [0x61, 0x62, 0x63]).toNat = [0xBA, 0x78, 0x16, 0xBF] := by decide +kernel
/-- CRC32C of the nine digits, the check value of the Castagnoli CRC that R48 names. -/
theorem test_crc32c : crc32c [0x31, 0x32, 0x33, 0x34, 0x35, 0x36, 0x37, 0x38, 0x39] = 0xE3069283 := by decide +kernel
/-- A tick is 1 µs of the local clock; State.reset counts although its reset lasts. -/
theorem test_tick : (match step State.reset with | .next t => t.power.clock | _ => 0) = 1 := by decide +kernel
/-- R460, R464: the release is not before 2,000 µs. -/
theorem test_release_waits : ((nextOf (exec .resetRelease State.reset)).power.level) = some 3 := by decide +kernel
/-- R503: another KIND completes with BAD_KIND in the well's ring. -/
theorem test_bad_kind : let t := nextOf (exec (.badKind 0 0 (mkD 0x0999 [(32, 0xABCD)])) dev)
    (Memory.readAll t.host 0x8000 12).map (fun b => (b.take 2, (b.drop 8))) = some ([0xCD, 0xAB], [0x01, 0x0D, 0x99, 0x09]) ∧
      ((t.job 0).subWell 0).head = 1 ∧ ((t.job 0).compWell 0).tail = 1 := by decide +kernel
/-- A well that may not take a descriptor up leaves everything as it is. -/
theorem test_no_take_up : nextOf (exec (.badKind 0 1 (mkD 0x0999 [])) dev) = dev := by decide +kernel
/-- R6, R513: a reserved bit of a descriptor does not stop the device, and the descriptor completes. -/
theorem test_reserved_field : let t := nextOf (exec (.badKind 0 0 (mkD 0x0999 [(17, 1)])) dev)
    ((t.job 0).subWell 0).head = 1 ∧ ((t.job 0).compWell 0).tail = 1 := by decide +kernel

/-! ## Witnesses: for each statement, operands and states that meet its hypotheses, clause by clause -/

abbrev fM (t : BitVec 2) : FmtM := { at_ := t, sa := 1, sb := 2, sc := 3, nb := 1, row := 0, q := 0, opf := 0, pd := 0, fl := false, lf := false, rsv := 0 }
abbrev fP : FmtP := { rl := 1, rt := 2, rx := 0, sem := 0, semd := 0, seg := 0, len := 0, rsv := 0 }
def peer2 : TopoRec := { serial := 7, node := 2, gen := 1, links := [] }
def modDev (f : Job → Job) : State := dev.modJob 0 f
def subw (f : SubWell → SubWell) : State := modDev (fun x => x.setSub 0 (f (x.subWell 0)))
def comw (f : CompWell → CompWell) : State := modDev (fun x => x.setComp 0 (f (x.compWell 0)))

theorem witness_EmptyQueueTicks : dev.pending = [] ∧ dev.power.state ≠ .off ∧ dev.pins.osc = true ∧ dev.sec.fwWrite = none ∧
    ({ dev with pins := { osc := false } } : State).pins.osc = false := by decide +kernel
theorem witness_MemoryStaysCanonical : dev.memWf = true ∧ isNext (step dev) = true := by decide +kernel
theorem witness_MemoryReadsBack : Memory.wf (some 0) [(3, 1), (5, 2)] = true ∧ ((3 : Nat) < 4 ∨ 4 + 2 ≤ 3) ∧ ([7, 0] : List Byte)[1]? = some 0 := by decide +kernel
theorem witness_FletegusWordsRoundTrip : (encodeFletegus (.li 3 last (fI 31 0 0xFFFFFFFF))).isSome = true ∧
    (decodeFletegus 3 0x840094A000000040).isSome = true := ⟨rfl, rfl⟩
theorem witness_DescriptorGate :
    dev.mayTake 0 1 (mkD 0x0105 []) = false ∧
    (dev.mayTake 0 0 (mkD 0x0105 [(17, 1)]) = true ∧ onlyFields (mkD 0x0105 [(17, 1)]) (headerFields ++ kClose.fields) = false) ∧ Memory.wf (some 0) dev.hbm = true ∧
    (let s := modDev (fun x => { x with conf := true, cw := (1, { cfg := 0x44 }) :: x.cw }); let d := mkD 0x0401 [(17, 1)]
     s.mayTake 0 0 d = true ∧ onlyFields d (headerFields ++ kLoadModel.fields) = false ∧ (s.takenUp 0 0).commonCheck kLoadModel 0 d = some Code.noKeys ∧
     s.mayTake 0 0 (mkD 0x0401 []) = true ∧ (s.takenUp 0 0).commonCheck kLoadModel 0 (mkD 0x0401 []) = some Code.noKeys) ∧
    (let s : State := { dev with funcs := [(0, { agreed := true, major := 2, minor := 4 })] }
     (s.func (s.job 0).func).verIndex < kPark.since ∧ s.mayTake 0 0 (mkD 0x0104 []) = true ∧ onlyFields (mkD 0x0104 []) (headerFields ++ kPark.fields) = true) := by
  decide +kernel
theorem witness_TakingUp : dev.mayTake 0 0 (mkD 0x0105 []) = true ∧ bit (mkD 0x0105 [(16, 1)]) 16 = true := by decide +kernel
theorem witness_CompletionRecords : ((dev.job 0).compWell 0).room = true ∧ bit ((dev.job 0).compWell 0).cfg 5 = false ∧ Memory.wf none dev.host = true ∧
    ((dev.job 0).compWell 1).enabled = false ∧
    (let s := comw (fun q => { q with tail := 16 }); ((s.job 0).compWell 0).depth ≤ ((s.job 0).compWell 0).unread) := by decide +kernel
theorem witness_BadKinds : Instr.wf (.badKind 0 0 (mkD 0xFFFF [])) = true ∧ serves dev (kBadKind (mkD 0xFFFF [])) 0 0 (mkD 0xFFFF []) = true := by decide +kernel
theorem witness_Wells : dev.regsUp = true ∧ ((dev.job 0).subWell 0).enabled = true ∧
    ((16 : W32) - ((dev.job 0).subWell 0).head).toNat ≤ ((dev.job 0).subWell 0).depth ∧ ((dev.job 0).subWell 0).depth < ((17 : W32) - ((dev.job 0).subWell 0).head).toNat ∧
    (let s := subw (fun q => { q with cfg := 0x64 }); bit ((s.job 0).subWell 0).cfg 5 = true ∧ ((s.job 0).compWell 0).room = true ∧ s.works = true ∧ s.regsUp = true) ∧
    (onlyFields (0x44 : W64) [(0, 7)] = true ∧ bit (0x44 : W64) 6 = true ∧ bit (0x04 : W64) 6 = false) ∧
    (let s := subw (fun q => { q with cfg := 0 }); ((s.job 0).subWell 0).enabled = false ∧ s.ringOk 0 0 0x44 64 = true ∧ s.ringOk 0 0x800 0x44 64 = false ∧
      ((s.job 0).compWell 0).enabled = true) ∧
    (onlyFields (0x44 : W64) [(0, 19), (24, 24)] = true ∧ ((dev.job 0).compWell 0).enabled = true ∧
      (let s := subw (fun q => { q with cfg := 0 }); bit (4 : W64) 6 = false ∧ ((s.job 0).subWell 0).enabled = false) ∧
      ((dev.job 0).compWell 1).enabled = false ∧ dev.ringOk 0 ((dev.job 0).compWell 1).base 0x44 32 = true ∧ fld (0x44 : W64) 8 11 < vectorCount (dev.job 0).func) ∧
    (let s := comw (fun q => { q with tail := 3 })
     ((3 : W32) - ((s.job 0).compWell 0).head).toNat ≤ ((s.job 0).compWell 0).unread ∧ ((s.job 0).compWell 0).unread < ((4 : W32) - ((s.job 0).compWell 0).head).toNat) := by
  decide +kernel
theorem witness_RecordsThatFail :
    (let q := ((comw (fun q => { q with tail := 1 })).job 0).compWell 0
     q.enabled = true ∧ q.unread ≠ 0 ∧ bit q.cfg 5 = false) ∧
    (let s := comw (fun q => { q with cfg := 0x44 + 0x80 + 100 <<< 32, tail := 1, unsignalled := 1 })
     let q := (s.job 0).compWell 0
     bit q.cfg 7 = true ∧ q.unread ≠ 0 ∧ q.unsignalled ≠ 0 ∧ fld q.cfg 32 16 ≠ 0 ∧ q.oldest + fld q.cfg 32 16 ≤ s.now) := by decide +kernel
theorem witness_VersionsAndFunctionReset : dev.wellsOn 0 = true ∧ dev.wellsOn 1 = false ∧ onlyFields (0x10204 : W64) [(0, 17)] = true ∧ bit (0x10204 : W64) 16 = true ∧
    (fld (0x10204 : W64) 8 8, fld (0x10204 : W64) 0 8) ∈ [(2, 4), (3, 0), (3, 1), (3, 2)] ∧
    (fld (0x10303 : W64) 8 8, fld (0x10303 : W64) 0 8) ∉ [(2, 4), (3, 0), (3, 1), (3, 2)] := by decide +kernel

/-! ### Fletegus: `devA` runs prog0 on core 0, with the word at its PC -/

theorem witness_Issues : (devA [.add 0 last (fR 31 1 2)]).Issues (.add 0 last (fR 31 1 2)) 0 last Slot.scalar [wS 31] prog0 :=
  ⟨by decide +kernel, by decide +kernel, by decide +kernel, by decide +kernel, by decide +kernel⟩
theorem witness_ScalarUnit : plainR (fR 31 1 2) = true ∧ stands (.maxu 0 last (fR 31 1 2)) last Slot.scalar [wS 31] = true ∧ (fI 31 0 31).rsv = 0 ∧
    (fI 31 0 31).imm32.toNat < 32 ∧ stands (.srai 0 last (fI 31 0 31)) last Slot.scalar [wS 31] = true ∧ plainR (fR 7 1 2) = true ∧ (fR 7 1 2).rd.toNat < 8 ∧
    stands (.cmpleu 0 last (fR 7 1 2)) last Slot.scalar [wP 7] = true ∧ stands (.cmpltui 0 last (fI 7 1 2)) last Slot.scalar [wP 7] = true ∧ (fR 0 7 7).ra.toNat < 8 ∧
    stands (.pandn 0 more (fR 0 7 7)) more Slot.scalar [wP 0] = true ∧ plainR (fR 0 0 0) = true ∧ stands (.nop 0 last (fR 0 0 0)) last Slot.scalar [] = true := by
  decide +kernel
theorem witness_ControlTransfers : let b : FmtB := ⟨0, 0, 0x138⟩; let j : FmtB := ⟨4, 0, 0⟩
    (b.rsv = 0 ∧ b.rc = 0 ∧ b.target.toNat % 8 = 0 ∧ prog0.covers b.target.toNat = true ∧ stands (.br 0 last b) last Slot.scalar [] = true) ∧
    stands (.call 0 last ⟨31, 0, 0x138⟩) last Slot.scalar [wS 31] = true ∧
    (let s := devA [.jr 0 last j] { s := [(4, 0x100)] }; let k := s.wordCore 0 Slot.scalar []
     issues s (.jr 0 last j) last Slot.scalar [] = true ∧ j.target = 0 ∧ (k.snap.sreg 4).toNat % 8 = 0 ∧ prog0.covers (k.snap.sreg 4).toNat = true) ∧
    (let s := devA [.loop 0 last j] { s := [(4, 1)] }; issues s (.loop 0 last j) last Slot.scalar [wS 4] = true ∧ (s.wordCore 0 Slot.scalar [wS 4]).snap.sreg 4 - 1 = 0) ∧
    (stands (.mfsr 0 last (fI 1 0 5)) last Slot.scalar [wS 1] = true ∧ stands (.mtsr 0 last (fI 0 1 5)) last Slot.scalar [] = true ∧ (fI 1 0 5).imm32.toNat < 6 ∧ 1 ≤ prog0.minor) ∧
    stands (.halt 0 last (fI 0 1 0)) last Slot.scalar [] = true := by decide +kernel
theorem witness_BedGoesOn : (devP {}).running 0 = some prog0 ∧ (core0 {}).prog = ((devP {}).core 0).prog ∧ more.endBed = false ∧ last.endBed = true ∧ (core0 {}).late = [] := by
  decide +kernel
theorem witness_WordsWithoutEffect : let h : Head := ⟨true, 1, false⟩; let s := devA [.vadd 0 h (fR 31 1 2)]
    s.running 0 = some prog0 ∧ prog0.covers (s.startWord 0).wordAt = true ∧ encodeFletegus (.vadd 0 h (fR 31 1 2)) = some (s.fetched 0 prog0) ∧
    (s.startWord 0).admits h Slot.vector [wV 31] = true ∧ ((s.startWord 0).snap.preg 1).getLsbD 0 = h.ps := by decide +kernel
theorem witness_ProgramFaults : let i : Instr := .add 0 last (fR 1 1 1)
    (devA [i]).running 0 = some prog0 ∧
    (let s := (devP {}).setCore 0 { core0 {} with pc := 0x140 }; s.running 0 = some prog0 ∧ prog0.covers (s.startWord 0).wordAt = false) ∧
    (let s := devA [i]; let s := s.setCore 0 { s.core 0 with bedPos := 1, bedSlots := [Slot.scalar], pc := 0xF8 }
     s.running 0 = some prog0 ∧ prog0.covers (s.startWord 0).wordAt = true ∧ encodeFletegus i = some (s.fetched 0 prog0) ∧ (s.startWord 0).admits last Slot.scalar [wS 1] = false) ∧
    (stands (.add 0 last { fR 1 1 1 with imm16 := 1 }) last Slot.scalar [wS 1] = true ∧ plainR { fR 1 1 1 with imm16 := 1 } = false) ∧
    (let b : FmtB := ⟨0, 0, 0x13C⟩; b.target.toNat % 8 ≠ 0 ∧ prog0.covers b.target.toNat = true ∧ stands (.br 0 last b) last Slot.scalar [] = true) ∧
    (let w := (devP {}).fetched 0 prog0; encodeFletegus i ≠ some w ∧ decodeFletegus 0 w = none ∧ ((devP {}).startWord 0).admits (decHead w) (wildSlot w 0) [] = true) ∧
    (let w := (devA [.sub 0 last (fR 1 1 1)]).fetched 0 prog0; encodeFletegus i ≠ some w ∧ decodeFletegus 0 w ≠ none) := by decide +kernel
theorem witness_VectorLaneOps : stands (.vadd 0 last (fR 31 1 2)) last Slot.vector [wV 31] = true ∧ vecLegal (fR 31 1 2) [0] false true = true ∧
    vecLegal { fR 31 1 2 with ty := 2, mask := 7 } [1, 2] false true = true ∧ vecLegal { fR 31 1 2 with ty := 1 } [1, 2] false true = true := by decide +kernel
theorem witness_VectorMoves : stands (.vcmplt 0 last (fR 7 1 2)) last Slot.vector [wP 7] = true ∧ vecLegal (fR 7 1 2) [0] false true = true ∧ vecLegal (fR 31 1 2) [0, 1, 2] false true = true ∧
    vecLegal (fR 31 1 2) [0, 1, 2] false false = true ∧ stands (.vext 0 last (fR 31 1 2)) last Slot.vector [wS 31] = true ∧ stands (.vidx 0 last (fR 31 1 0)) last Slot.vector [wV 31] = true := by
  decide +kernel
theorem witness_VectorReductions : stands (.vredadd 0 last (fR 1 1 0)) last Slot.vector [wS 1] = true ∧ vecLegal { fR 1 1 0 with mask := 7 } [0] false true = true ∧
    vecLegal { fR 1 1 0 with ty := 1 } [1, 2] false true = true ∧ stands (.vredaddx 0 last (fR 30 1 0)) last Slot.vector [wS 30, wS 31] = true ∧ (30 : BitVec 5).toNat % 2 = 0 ∧
    vecLegal (fR 30 1 0) [0] false true = true := by decide +kernel
theorem witness_VectorConversions : stands (.vlog2 0 last { fR 31 1 0 with ty := 1 }) last Slot.vector [wV 31] = true ∧ vecLegal { fR 31 1 0 with ty := 1 } [1, 2] false true = true ∧
    vecLegal { fR 31 1 0 with lf := true } [0, 1, 2] true false = true ∧ vecLegal { fR 31 1 0 with ty := 2, lf := true } [1, 2] true false = true ∧ 2 ≤ prog0.minor := by decide +kernel
theorem witness_SoftmaxWords : stands (.smxx 0 last { fR 31 1 2 with ty := 1 }) last Slot.vector [wV 31] = true ∧ vecLegal { fR 31 1 2 with ty := 1 } [1] false true = true ∧
    vecLegal (fR 31 1 2) [0, 1, 2] false true = true ∧ (fR 31 1 2).rb.toNat % 2 = 0 ∧ 2 ≤ prog0.minor ∧ stands (.smxe 0 last (fR 31 1 2)) last Slot.vector [wV 31] = true := by decide +kernel
theorem witness_MatrixWords : stands (.mout 0 last (fM 3)) last Slot.matrix [] = true ∧
    (let slots := ((devP {}).job 0).slice.slots
     (mtxLegal (fM 3) false false false = true ∧ runFaults slots [(0x1000, 1056 * blocksOf (fM 3), 32), (0x4000, 1056 * blocksOf (fM 3), 32)] = []) ∧
     (mtxLegal (fM 3) true false false = true ∧ runFaults slots (mrowRuns (fM 3) 0x1000 0x4000 0x8000 (blocksOf (fM 3))) = []) ∧
     (let g := { fM 3 with opf := 1, nb := 4 }; mtxLegal g true false false = true ∧ g.opf = 1 ∧ g.nb.toNat ≤ 4 ∧
        runFaults slots (mrowRuns g 0x1000 0x4000 0x8000 (blocksOf g)) = []) ∧
     (let g := { fM 3 with sb := 0, sc := 0, nb := 0 }; mtxLegal g false false false = true) ∧
     (let g := { fM 0 with nb := 32, fl := true, pd := 1 }
      stands (.mrdw 0 last g) last Slot.matrix (flWrites g) = true ∧ rowsLegal g = true ∧ mtxLegal g false false true = true ∧
        rowFaults slots 0x1000 128 g.nb.toNat 128 32 ++ expFaults slots 0x8000 2 g.nb.toNat 2 2 = [] ∧
        rowFaults slots 0x1000 256 g.nb.toNat 256 32 ++ expFaults slots 0x8000 2 g.nb.toNat 2 2 = []) ∧
     (let g := { fM 0 with nb := 1, lf := true }
      mtxLegal g true true true = true ∧ g.opf ≠ 3 ∧ rowFaults slots 0x1000 24 g.nb.toNat 24 8 ++ expFaults slots 0x8000 (mrqStride g 24) g.nb.toNat 1 1 = [])) := by
  decide +kernel
theorem witness_LoadsAndStores : memLegal (fR 0 1 0) = true ∧ stands (.ldw 0 last (fR 31 1 0)) last Slot.memory [wS 31] = true ∧
    stands (.vld 0 last (fR 31 1 0)) last Slot.memory [wV 31] = true ∧ stands (.stw 0 last (fR 0 1 2)) last Slot.memory [] = true ∧
    stands (.vst 0 last (fR 0 1 2)) last Slot.memory [] = true ∧ accessFaults ((devP {}).job 0).slice.slots 0xBFFFC 4 4 = [] ∧
    accessFaults ((devP {}).job 0).slice.slots 0x1000 256 32 = [] ∧
    (prog0.codeBase + prog0.code.length ≤ 0x140 ∨ 0x140 + 4 ≤ prog0.codeBase) ∧ (prog0.codeBase + prog0.code.length ≤ 0 ∨ 0 + 256 ≤ prog0.codeBase) ∧
    (let s := devA [.stw 0 last (fR 0 1 2)]; (s.wordCore 0 Slot.memory []).late = [] ∧ Memory.wf (some 0) (s.wordCore 0 Slot.memory []).store = true) := by decide +kernel
theorem witness_CopiesAndSends :
    (let s := devA [.rwr 0 last fP] { s := [(1, 0x1000), (2, 0x00102000)] }
     let e := s.envOf 0 prog0
     issues s (.rwr 0 last fP) last Slot.memory [] = true ∧ stands (.rwrv 0 last { fP with rl := 0, len := 3 }) last Slot.memory [] = true ∧ fP.rsv = 0 ∧
       accessFaults e.slots 0x1000 64 64 = [] ∧ remoteFaults e 0x00102000 64 = [] ∧ remoteFaults e 0x00102000 256 = []) ∧
    (stands (.hld 0 last fP) last Slot.memory [] = true ∧ stands (.hst 0 last fP) last Slot.memory [] = true ∧
      ∃ g : Seg, prog0.segs[0]? = some g ∧ (4032 : W32).toNat % 64 = 0 ∧ (4032 : W32).toNat + 64 ≤ g.size ∧ g.rd = true ∧ g.wr = true) ∧
    (let i : Instr := .send 0 last { fP with rx := 3 }
     let s : State := { devA [i] { s := [(1, 0x1000), (3, 2)] } with
       regs := [(Reg.jobTag 0, 9)], fabric := { node := 1, ports := [(0, { state := 2, lanes := 16, peer := 2 })], topo := [peer2], routes := [(2, [0])] } }
     let e := s.envOf 0 prog0
     issues s i last Slot.memory [] = true ∧ 1 ≤ prog0.minor ∧ fld (2 : W32) 28 4 = 0 ∧ e.s.routeErr e.job 2 = none ∧ e.s.jobTag e.job ≠ 0) ∧
    (let i : Instr := .put 0 last { fP with rt := 0, len := 63 }; let s := devA [i] { s := [(1, 0x1000)] }; let e := s.envOf 0 prog0
     issues s i last Slot.memory [] = true ∧ accessFaults e.slots 0x1000 (32 * 64) 32 = [] ∧ (e.s.pumpDescs.filter (fun x => x.2.core == 0 && !x.2.taken)).length + 64 ≤ 64) :=
  ⟨by decide +kernel, ⟨by decide +kernel, by decide +kernel, ⟨_, rfl, by decide +kernel⟩⟩, by decide +kernel, by decide +kernel⟩
theorem witness_Synchronisation : stands (.fenceL 0 last (fI 0 0 0)) last Slot.memory [] = true ∧ stands (.fenceM 0 last (fI 0 0 0)) last Slot.memory [] = true ∧
    stands (.seminc 0 last (fI 0 0 0x0023)) last Slot.memory [] = true ∧ stands (.seminc 0 last (fI 0 1 0x3FFF)) last Slot.memory [] = true ∧
    stands (.semwait 0 last (fI 0 0 0x0023)) last Slot.memory [] = true ∧ stands (.bar 0 last (fI 0 0 7)) last Slot.memory [] = true ∧
    (0x0023 : W32).toNat < 2 ^ 13 ∧ fld (0x0023 : W32) 5 8 ≠ 0 ∧ (0x3FFF : W32).toNat < 2 ^ 14 ∧ (0x3FFF : W32).getLsbD 13 = true ∧ fld (0x3FFF : W32) 5 8 ≠ 0 ∧
    63 < prog0.ncores ∧ prog0.ncores ≤ 64 ∧ (7 : W32).toNat < 8 ∧ 1 ≤ prog0.minor := by decide +kernel

/-! ### Sessions, serving -/

def model0 : Model := { job := 0, encoder := false, layers := 1, kvh := 1, qpk := 1, specHeads := 0, width := 128, ffn := 128, vocab := 256, scale := 0, eos := [],
                        pooling := 0, digest := 0, len := 1, swap := false, pinned := false, costW := 0, resident := true, lastStep := 0, damaged := false, repairs := 0 }
def ctx0 : DescCtx := { job := 0, sw := 0, cw := 0, tag := 0, kind := 0 }
def sess5 : Session := { state := .open, job := 0, model := 1, adapter := 0xFFFF, len := 16, ownerEpoch := 1, expiry := 2 ^ 40 }
def region0 : T3Region := { iova := 0x100000, grains := 4096, sealed := false, used := [] }
/-- `dev` with model 1 and its vocabulary, session 5 in a state, quotas, T3 region 0 and an output ring of well 0. -/
def devS (st : SState) (a : SessAux := {}) : State :=
  { modDev (fun x => { (x.setComp 0 { x.compWell 0 with ring := some { iova := 0x40000, log2 := 16, cons := 0, prod := 0 } }) with
      regions := [(0, region0)], vocabs := [(1, { current := some 1, last := 1, versions := [{ ver := 1, model := 1, image := zeros 64, classes := 0, users := 0, damaged := false }] })] }) with
    models := [(1, model0)], sessions := [(5, { sess5 with state := st })], sessAux := [(5, a)],
    regs := [(Reg.jobQuota 0, 16 + 16 <<< 32)] }
def isOk {α β : Type} : Except α β → Bool
  | .ok _ => true
  | .error _ => false

/-- A run of grains is found in a region that is free from its start on, wherever firmware looks first. -/
theorem extentPlace_region {s : State} {j place count : Nat} {r : T3Region} (hr : mget (s.job j).regions place = some r) (hu : r.used = [])
    (hc : count ≤ r.grains) : isOk (s.extentPlace j 3 place count).1 = true := by
  unfold State.extentPlace
  simp only [State.draw]
  have ht : ({ s with freeCtr := s.freeCtr + 1 } : State).targetErr j 3 place = none := by
    have : (({ s with freeCtr := s.freeCtr + 1 } : State).job j) = s.job j := rfl
    simp [State.targetErr, this, hr]
  rw [ht]
  have hj : (({ s with freeCtr := s.freeCtr + 1 } : State).job j) = s.job j := rfl
  simp only [hj, hr]
  have : ∃ a, r.findRun (Config.freeNat s.freeCtr % max 1 r.grains) count = some a := by
    unfold T3Region.findRun
    rw [hu]
    simp only [List.all_nil, Bool.and_true, List.map_nil, List.find?]
    split
    · exact ⟨_, rfl⟩
    · simp [hc]
  obtain ⟨a, ha⟩ := this
  simp [ha, isOk]
theorem startPark_ok {s : State} {i : Nat} {k : MoveKind} {tier place ttl : Nat} {evict : Bool} {c : Option DescCtx} (most : Nat)
    (hm : (s.aux i).move = none) (hf : (mget (s.job (s.sess i).job).fabGroups (s.sess i).model).isNone = true)
    (hp : ∀ n, n ≤ most → isOk (s.extentPlace (s.sess i).job tier place n).1 = true)
    (hk : let x := s.sess i; let y := s.evictPolicy x.job
      let seqs := (List.range (s.pairs i)).map (pairSlots [] x.grains (s.pairs i) x.retained)
      extentLen (s.pairs i) (if evict then evictKeep (evictScores seqs x.retained) y.2.1 y.2.2.1 y.1 0 else List.range x.retained).length ≤ most) :
    (s.startPark i k tier place ttl evict c).1.isOk = true := by
  have hd : s.dropAbandoned i = s := by simp [State.dropAbandoned, hm]
  have h := hp _ hk
  have hg (l : List Nat) : s.groupScores (s.sess i).job (s.sess i).model l = (l, s) := by simp [State.groupScores, hf]
  unfold State.startPark
  simp only [hd, hg]
  cases evict <;> simp only [Bool.false_eq_true, if_false, if_true] at h ⊢ <;> split <;> first | rfl | (rename_i hb; rw [hb] at h; simp [isOk] at h)

theorem witness_SessionsOpen : let s := devS .open; let d := mkD 0x0101 [(8 * 16, 1), (8 * 20, 0xFFFF)]
    serves s kOpenSession 0 0 d = true ∧ s.sessions.length < 2 ^ 24 ∧ (s.takenUp 0 0).sessCount 0 < fld ((s.takenUp 0 0).reg (Reg.jobQuota 0)) 0 25 ∧
    (s.takenUp 0 0).modelOf 0 (dfld d 16 0 8) = some model0 ∧ dfld d 20 0 16 = 0xFFFF ∧ dfld d 22 0 16 = 0 ∧
    s.sesBypass = none ∧ s.sesCache.length < 65536 := by decide +kernel
theorem witness_SessionsClose : let d := mkD 0x0105 [(8 * 16, 5)]; let e (n : Nat) : Desc := mkD 0x0106 [(8 * 16, n)]
    let r : State := { devS .running with reqs := [(9, { gen := 3, rstate := .decode, job := 0, session := 5 })] }
    (let s := devS .open; serves s kClose 0 0 d = true ∧ ((s.takenUp 0 0).sess 5).state ≠ .free ∧ ((s.takenUp 0 0).sesAccess 5).2 = false ∧
      ((s.takenUp 0 0).aux 5).unbound = false ∧ ((s.takenUp 0 0).sess 5).job = 0 ∧
      (let s1 := ((s.takenUp 0 0).opened 5).touch 5
       s1.gone 5 = false ∧ (s1.aux 5).closing = [] ∧ (s1.sess 5).state = .open ∧ gTier (s1.sess 5).root ≠ 2 ∧ gTier (s1.sess 5).root ≠ 4 ∧
        (s1.aux 5).peerExtent = none ∧ (s1.aux 5).waitTrim = false ∧ (s1.aux 5).waitPeer = false ∧ (s1.aux 5).move = none)) ∧
    (serves r kClose 0 0 d = true ∧ (((r.takenUp 0 0).opened 5).touch 5).gone 5 = false ∧ ((((r.takenUp 0 0).opened 5).touch 5).sess 5).state = .running) ∧
    (devS .open).sesBypass = none ∧ (devS .open).sesCache.length < 65536 ∧
    serves r kEndRequest 0 0 (e (4 * 65536 + 9)) = true ∧ (r.req 9).gen ≠ 4 ∧
    serves r kEndRequest 0 0 (e (3 * 65536 + 9)) = true ∧ (r.req 9).rstate ≠ .free ∧ (r.req 9).rstate ≠ .ending ∧ (r.req 9).gen = 3 ∧ (r.req 9).job = 0 := by
  decide +kernel
def goodTurn (t : TurnOut) : Bool := isOk t.got && !t.spoilt
/-- Tokens 1 and 2 in host memory, and a turn of them with the default parameters. -/
def devY (st : SState) : State := { devS st with host := cells 0x10000 (leBytes 4 1 ++ leBytes 4 2) }
def turnD (kind : Nat) : Desc := mkD kind [(8 * 16, 5), (8 * 24, 4), (8 * 32, 0x10000), (8 * 40, 2), (365, 1)]
theorem witness_Turns :
    let d := mkD 0x0102 [(8 * 16, 5), (8 * 24, 100)]; let e := mkD 0x0103 [(8 * 16, 5), (8 * 24, 100)]; let f := mkD 0x0103 [(8 * 16, 5), (367, 1)]
    let t (s : State) (k : Kind) (d : Desc) (tool : Bool) (p : SState) : Bool :=
      let s1 := ((s.takenUp 0 0).opened 5).touch 5
      serves s k 0 0 d && (s1.sess 5).state == p && !((s.takenUp 0 0).sesAccess 5).2 && !(s1.aux 5).unbound && (s1.sess 5).job == 0 && s1.turnState 5 tool == some p &&
        !(s1.aux 5).damaged && goodTurn ({ s1 with freeCtr := s1.freeCtr + 1 }.turnCheck 0 5 k.code d true (Config.freeNat s1.freeCtr % 65536))
    let plain (s : State) (k : Kind) (st : SState) (v : ByteVer) : Bool :=
      let d := turnD k.code
      let s1 := ((s.takenUp 0 0).opened 5).touch 5
      serves s k 0 0 d && ((s.takenUp 0 0).sess 5).state != .free && !((s.takenUp 0 0).sesAccess 5).2 && !((s.takenUp 0 0).aux 5).unbound && ((s.takenUp 0 0).sess 5).job == 0 &&
        (s.sess 5).state == st && !s1.gone 5 && !(s1.aux 5).damaged && (s1.sess 5).grammar == 0 && (s1.sess 5).adapter == 0xFFFF && dfld d 48 0 64 == 0 &&
        dfld d 24 0 21 != 0 && decide (dfld d 16 28 3 ≤ 4) && dfld d 44 16 16 == 0 && s1.modelOf 0 (s1.sess 5).model == some model0 && model0.digest == (s1.aux 5).modelDigest &&
        (mget (s1.job 0).vocabs (s1.sess 5).model).bind ByteObj.cur == some v && !v.damaged && ((s1.job 0).compWell (dfld d 44 0 4)).ring.isSome && !(s1.job 0).conf &&
        bit d 365 && dfld d 40 0 32 == 2 && s1.addrOk 0 d 32 8 && s1.fetch d 32 8 == some (leBytes 4 1 ++ leBytes 4 2) && (s1.sess 5).len + 2 ≤ 2 ^ 20 &&
        s1.liveReqs < 65536 && s1.reqCount 0 < fld (s1.reg (Reg.jobQuota 0)) 32 17
    let v : ByteVer := { ver := 1, model := 1, image := leBytes 4 0 ++ leBytes 4 0 ++ leBytes 4 3 ++ zeros 52, classes := 0, users := 0, damaged := false }
    let w (st : SState) : State := (devY st).modJob 0 (fun x => { x with vocabs := [(1, { current := some 1, last := 1, versions := [v] })] })
    (plain (w .open) kSubmitTurn .open v = true ∧ plain (w .toolWait) kToolReturn .toolWait v = true ∧ bit (turnD 0x0103) 367 = false ∧
      ∀ k < 2, at_ (leBytes 4 1 ++ leBytes 4 2) (4 * k) 4 < vocabSize v.image) ∧
    t (devS .open) kSubmitTurn d false .open = true ∧ t (devS .toolWait) kToolReturn e true .toolWait = true ∧ t (devS .parked) kSubmitTurn d false .parked = true ∧
    bit f 367 = true ∧ serves (devS .toolWait) { kToolReturn with cwell := none } 0 0 f = true ∧ ((((devS .toolWait).takenUp 0 0).opened 5).touch 5).gone 5 = false := by
  decide +kernel
theorem witness_Placement :
    (let s := devS .open; let d (g : Nat) := mkD 0x0104 [(8 * 16, 5), (8 * 16 + 24, 3), (155, g)]
     let s1 := ((s.takenUp 0 0).opened 5).touch 5
     serves s kPark 0 0 (d 0) = true ∧ serves s kPark 0 0 (d 1) = true ∧ (s.takenUp 0 0).Names 0 5 ∧
     s1.gone 5 = false ∧ (s1.sess 5).state = .open ∧ s1.targetErr 0 3 0 = none ∧ ((s1.modAux 5 (fun a => { a with expWait := 0, waitFrom := s1.now })).aux 5).move = none ∧
     ((s1.modAux 5 (fun a => { a with expWait := 0, waitFrom := s1.now })).startPark 5 .park 3 0 (s1.ttlPark 0 0) false (some (descCtx kPark 0 0 (d 0)))).1.isOk = true) ∧
    (∀ tier ≤ 1, let s : State := { devS .toolWait with regs := [(Reg.jobQuota 0, 16 + 16 <<< 32), (Reg.jobT1 0, 1 <<< 32 + 1)], sessions := [(5, { sess5 with state := .toolWait, grains := [{ lgn := 0, kind := 1, level := 0, addr := 3, epoch := 1, slots := [] }] })] }
     let d := mkD 0x0108 [(8 * 16, 5), (8 * 16 + 24, tier)]; let s1 := ((s.takenUp 0 0).opened 5).touch 5
     serves s kMigrate 0 0 d = true ∧ (s.takenUp 0 0).Names 0 5 ∧ s1.gone 5 = false ∧ (s1.sess 5).state = .toolWait ∧ (s1.aux 5).move = none ∧ dfld d 16 24 3 = tier ∧
     ((s1.sess 5).grains.filter (fun g => g.kind != 2)).length = 1 ∧ 1 ≤ (s1.t0Places 0 (s1.allGrains.map (fun e => e.2.addr))).length ∧ s1.t1Room 0 1 = true) ∧
    (let s := devS .parked; let d := mkD 0x0109 [(8 * 16, 5), (8 * 24, 0x2000)]
     serves s kPlaceQuery 0 0 d = true ∧ (s.takenUp 0 0).Names 0 5 ∧ (s.takenUp 0 0).gone 5 = false) ∧
    (let s := devS .parked; let d (n g : Nat) := mkD 0x010A [(8 * 16, n), (8 * 20, g), (8 * 24, 0x4000)]
     serves s kRegisterT3 0 0 (d 255 1) = true ∧ mget (s.job 0).regions 255 = none ∧ serves s kRegisterT3 0 0 (d 0 0) = true ∧ (s.takenUp 0 0).regionUsed 0 0 = false ∧
      dfld (d 0 0) 24 0 14 = 0 ∧ (let b := mkD 0x010A [(8 * 16, 0), (8 * 24, 0x4040)]; serves s kRegisterT3 0 0 b = true ∧ dfld b 24 0 14 ≠ 0 ∧ dfld b 16 0 16 ≤ 255)) ∧
    (let s := devS .parked; let d (w n : Nat) := mkD 0x0507 [(8 * 16, w), (8 * 24, 0x4000), (8 * 32, n)]
     serves s kSetOutput 0 0 (d 1 16) = true ∧ ((s.job 0).compWell 1).ring = none ∧ serves s kSetOutput 0 0 (d 0 0) = true ∧ (s.takenUp 0 0).ringInUse 0 0 = false) := by
  refine ⟨⟨by decide +kernel, by decide +kernel, ⟨by decide +kernel, by decide +kernel, by decide +kernel, by decide +kernel⟩, by decide +kernel, by decide +kernel,
      by decide +kernel, by decide +kernel, ?_⟩, ?_,
    ⟨by decide +kernel, ⟨by decide +kernel, by decide +kernel, by decide +kernel, by decide +kernel⟩, by decide +kernel⟩, by decide +kernel, by decide +kernel⟩
  case refine_2 =>
    intro tier ht
    obtain rfl | rfl : tier = 0 ∨ tier = 1 := by omega
    all_goals exact ⟨by decide +kernel, ⟨by decide +kernel, by decide +kernel, by decide +kernel, by decide +kernel⟩, by decide +kernel⟩
  refine startPark_ok 4096 (by decide +kernel) (by decide +kernel) (fun n hn => ?_) (by decide +kernel)
  exact extentPlace_region (r := region0) (by decide +kernel) rfl hn
def raux0 : ReqAux := { ctx := ctx0, prior := .open, toolp := false, text := [1, 2] }
def grain0 : SGrain := { lgn := 0, kind := 1, level := 0, addr := 1, epoch := 1, slots := [] }
/-- A request whose second grain of two is to land. -/
def rauxL : ReqAux := { raux0 with landed := 1, extent := 2, revive := [grain0] }
/-- Session 5, moving up from T3 region 0 of host memory, whose grains are zeros: the pumps find damage. -/
def moveZ : Move := { kind := .migrate, tier := 1, place := 0, dest := 0, ttl := 0, evict := false, ctx := none, src := .parked, abandoned := false }
def devZ : State :=
  { devS .moving { move := some moveZ } with
    sessions := [(5, { sess5 with state := .moving, root := gMake 3 0 0, len := 0 })], host := cells 0x100000 (zeros 65536), sesCache := [5],
    reqs := [(9, { gen := 3, rstate := .reviving, job := 0, session := 5 })], reqAux := [(9, rauxL)] }
theorem leNat_replicate (n : Nat) : leNat (List.replicate n 0) = 0 := by
  induction n with
  | zero => rfl
  | succ n ih => rw [List.replicate_succ, leNat, ih]; rfl
theorem at_zeros (n off k : Nat) : at_ (zeros n) off k = 0 := by
  unfold at_ Sys2Proof.Machine.sub
  simp only [zeros, List.drop_replicate, List.take_replicate, List.replicate_append_replicate]
  exact leNat_replicate _
theorem zero_grain (k : Nat) (hk : k < 4) : devZ.readT3 5 k = some (zeros 16384, false) := by
  have hz : Memory.readAll (cells 0x100000 (zeros 65536)) (0x100000 + 16384 * k) 16384 = some (zeros 16384) := by
    rw [readAll_part _ _ _ _ (by rw [zeros, List.length_replicate]; omega)]
    simp only [zeros, List.drop_replicate, List.take_replicate]
    rw [Nat.min_eq_left (by omega)]
  have ha : at_ (zeros 16384) 16322 3 = 0 := at_zeros ..
  have hs : devZ.sess 5 = { sess5 with state := .moving, root := gMake 3 0 0, len := 0 } := rfl
  have hm : mget (devZ.job 0).regions 0 = some region0 := by rfl
  have hh : devZ.host = cells 0x100000 (zeros 65536) := rfl
  have hp : region0.at_ (gAddr (gMake 3 0 0) % 2 ^ 28 + k) = 0x100000 + 16384 * k := by
    have : gAddr (gMake 3 0 0) = 0 := by decide +kernel
    simp [T3Region.at_, region0, this]
  have hg : gAddr (gMake 3 0 0) >>> 28 = 0 := by decide +kernel
  have ht : devZ.t3Sealed 0 0 = false := by rfl
  have hj : sess5.job = 0 := rfl
  unfold State.readT3
  simp only [hs, hg, hj, hm, State.rd, hh, hp, hz, ht, Option.bind_some, Option.map_some, Bool.false_eq_true, if_false]
  simp [GrainWant.ok, ha, extentWant]
theorem zero_grains : (devZ.opened 5).extentT3 5 = .inl .damaged := by
  have ho : devZ.opened 5 = devZ := rfl
  have hl : extentLen (devZ.pairs 5) (devZ.sess 5).retained = 4 := by decide +kernel
  have hm : (List.range 4).map (devZ.readT3 5) = List.replicate 4 (some (zeros 16384, false)) := by
    rw [show List.range 4 = [0, 1, 2, 3] by rfl]
    simp [zero_grain, List.replicate]
  unfold State.extentT3
  rw [ho, hl, hm]
  simp
theorem witness_MovesStartAndEnd :
    let p : W64 := 3 <<< 48 + 1 <<< 32
    let g1 : SGrain := { lgn := 0, kind := 1, level := 0, addr := 1, epoch := 1, slots := [] }
    let sD (l : W64) (gs : List SGrain) : State := { devS .open with regs := [(Reg.jobPolicy 0, p), (Reg.jobT1 0, l)], sessions := [(5, { sess5 with lastActive := 2 ^ 47, grains := gs })] }
    let m : Move := { kind := .park, tier := 3, place := 0, dest := 3, ttl := 0, evict := false, ctx := none, src := .open, abandoned := false }
    (let s := devS .open { grace := some { due := 0, tier := 3, region := 0, ttl := 0, evict := false } }
     s.power.ready = true ∧ (s.sess 5).state = .open ∧ s.expired 5 = false ∧ (s.aux 5).move = none ∧ (s.sesAccess 5).2 = false ∧
     (((s.opened 5).modAux 5 (fun a => { a with grace := none })).startPark 5 .demote 3 0 0 false none).1.isOk = true) ∧
    (let s := sD 0 []; s.demotable 5 = true ∧ (s.aux 5).move = none ∧ fld p 32 16 ≠ 0 ∧ fld p 32 16 * 1000000 < (s.now % 2 ^ 48 + 2 ^ 48 - (s.sess 5).lastActive) % 2 ^ 48 ∧ (s.sesAccess 5).2 = false ∧
      ((s.opened 5).startPark 5 .demote 3 0 (s.ttlPark 0 0) true none).1.isOk = true) ∧
    (let s := sD (1 <<< 32) [g1]; s.sessions.filter (fun e => e.2.job == 0 && s.demotable e.1) = [(5, s.sess 5)] ∧ 15 * s.t1Limit 0 ≤ 16 * s.t1Used 0 ∧
      7 * s.t1Limit 0 < 8 * (s.t1Used 0 - s.leaving 0) ∧ (s.sesAccess 5).2 = false ∧ ((s.opened 5).startPark 5 .demote 3 0 (s.ttlPark 0 0) true none).1.isOk = true) ∧
    (let s := devS .moving { move := some m }; ((s.sess 5).state = .moving ∧ m.abandoned = false ∧ (s.aux 5).damaged = false ∧ (s.sesAccess 5).2 = false ∧ m.kind ≠ .handoff ∧
      s.moveWaits 5 = false ∧ m.tier ≠ 2 ∧ m.src ≠ .parked) ∧ ∀ _ : Nat, (∀ k y, (s.aux k).move = some y → y.needT1 = 0) ∧ s.power.ready = true) ∧
    ((let s := devZ; (s.aux 5).move = some moveZ ∧ (s.sess 5).state = .moving ∧ (s.aux 5).damaged = false ∧ (s.sesAccess 5).2 = false ∧ moveZ.kind ≠ .handoff ∧ s.moveWaits 5 = false ∧
      moveZ.tier ≠ 2 ∧ moveZ.src = .parked ∧ gTier (s.sess 5).root = 3) ∧ (devZ.opened 5).extentT3 5 = .inl .damaged) ∧
    (let s := devS .moving { move := some { m with tier := 1, kind := .migrate, abandoned := true } }; (s.sess 5).state = .moving ∧ (s.aux 5).move.any (·.abandoned) = true) ∧
    (let s : State := { devS .parked with sessions := [(5, { sess5 with expiry := 1 })] }; s.expired 5 = true ∧ (s.sesAccess 5).2 = false ∧
      (let s := devS .open { corrupt := true }; (s.sess 5).state ≠ .free ∧ (s.sesAccess 5).2 = true)) := by
  refine ⟨⟨by decide +kernel, by decide +kernel, by decide +kernel, by decide +kernel, by decide +kernel, ?_⟩,
    ⟨by decide +kernel, by decide +kernel, by decide +kernel, by decide +kernel, by decide +kernel, ?_⟩,
    ⟨by decide +kernel, by decide +kernel, by decide +kernel, by decide +kernel, ?_⟩, ⟨by decide +kernel, fun n => ?_⟩, ⟨by decide +kernel, zero_grains⟩, by decide +kernel,
    by decide +kernel⟩
  case refine_4 =>
    exact ⟨fun k y h => by
      by_cases hk : k = 5
      · subst hk; cases h; rfl
      · simp [State.aux, devS, mgetD, mget, hk] at h, by decide +kernel⟩
  all_goals
    refine startPark_ok 4096 (by decide +kernel) (by decide +kernel) (fun n hn => ?_) (by decide +kernel)
    exact extentPlace_region (r := region0) (by decide +kernel) rfl hn
def devR (rs : RState) (a : ReqAux) : State :=
  { devS .running with reqs := [(9, { gen := 3, rstate := rs, job := 0, session := 5, maxNew := 4 })], reqAux := [(9, a)], groups := [(0, { state := 0 })] }
theorem witness_RevivalAndOutput :
    (∀ tier ≤ 4, let s : State := { devR .reviving rauxL with sessions := [(5, { sess5 with state := .running, root := gMake tier 0 0 })] }
     s.power.ready = true ∧ s.raux? 9 = some rauxL ∧ rauxL.ended = none ∧ rauxL.landed < rauxL.extent ∧ rauxL.revive = grain0 :: [] ∧ grain0.kind ≠ 2 ∧
       s.moveWaits (s.req 9).session = false ∧ gTier (s.sess 5).root = tier) ∧
    (devZ.raux? 9 = some rauxL ∧ devZ.moveWaits (devZ.req 9).session = false ∧ gTier (devZ.sess 5).root = 3 ∧ devZ.power.ready = true) ∧
    devZ.readT3 5 rauxL.landed = some (zeros 16384, false) ∧ ({ devZ with host := [] } : State).readT3 5 rauxL.landed = none ∧
    (let a := { rauxL with needT1 := 1, budget := 9 }; let s := devR .reviving a
     s.power.ready = true ∧ s.raux? 9 = some a ∧ a.ended = none ∧ a.needT1 ≠ 0 ∧ a.budget < s.now) ∧
    (let s := devS .open
     s.regsUp = true ∧ fld (0 : W64) 30 34 = 0 ∧ ((s.job 0).compWell 0).ring.isSome = true ∧ (fld (0xFFFF : W64) 0 30 < 2 ^ 16 ∧ (0 + 2 ^ 16 - 0) % 2 ^ 16 < (fld (0xFFFF : W64) 0 30 + 2 ^ 16 - 0) % 2 ^ 16) ∧
      (fld (0 : W64) 0 30 + 2 ^ 16 - 0) % 2 ^ 16 ≤ (0 + 2 ^ 16 - 0) % 2 ^ 16) := by
  refine ⟨?_, ?_, zero_grain 1 (by decide), ?_, ?_, ?_⟩ <;> decide +kernel
theorem witness_ServingSteps : let s := devR .prefill raux0
    (s.modelOf 0 1) = some model0 ∧ s.works = true ∧ s.stepMayEnd 1 = true ∧ s.fabric.colls.any (fun c => c.job == 0 && c.group == 1) = false ∧
    (let u := (((((s.quiesce 0 1).endStep 1 20 model0).takePolicy 0).boundaryOutput 0 1).pausing 0).admitReqs 0 1
     let parts := ((u.modelReqs 0 1).filterMap (fun e => (u.raux? e.1).bind (fun a => if u.takesPart e.1 a then some (e.1, a) else none))).take 4096
     u.groupsReady 0 = true ∧ (u.lengthTable 0 parts).isEmpty = false ∧ (mget (u.job 0).fabGroups 1).isNone = true) := by decide +kernel
/-- `devP` with a pump descriptor of 32 B at 0x2000 of core 0, queued. -/
def devD (b0 : Byte) (x : PumpDesc) (src : W64 := 0) : State :=
  { (devP {}).setCore 0 { core0 {} with store := (Memory.write (some 0) [] 0x2000 ([b0, 0, 1, 0, 0, 0, 0, 0] ++ leBytes 8 src.toNat ++ leBytes 8 (gMake 0 0 (1 <<< 12)).toNat)) } with
    pools := [(Cls.pump, { queue := [{ job := 0, share := 0, req := 0, since := 0, cost := 0, work := .pump 1 }] })], pumpDescs := [(1, x)] }
def pd0 : PumpDesc := { core := 0, prog := 1, addr := 0x2000, status := 0, done := 0, taken := false }
/-- Jobs 0 and 1 share group 1, on which a program of job 1 waits for its turn. -/
def devT : State :=
  { dev with
    jobs := [(0, job0), (1, { job0 with slice := { groups := 2 } })], groups := [(1, { state := 0, job := 0, lastJob := 0 })]
    progs := [(1, { prog0 with ctx := { prog0.ctx with job := 1 }, mask := 2 })] }
theorem witness_EnginesAndShapers :
    (let c : W64 := 1 <<< 63 + 1 <<< 32 + 1; let s : State := { dev with shapers := [(shaperKey .pump 0 0, { cfg := c })] }
     s.power.ready = true ∧ bit (s.shaper (shaperKey .pump 0 0)).cfg 63 = true ∧ s.regsUp = true ∧ fld c 56 6 = 0) ∧
    (let s : State := { dev with regs := [(Reg.histCtl, 1)] }
     fld (s.reg Reg.histCtl) 0 16 ≠ 0 ∧ s.jobs = [(0, job0)] ∧ job0.active = true ∧ job0.conf = false) ∧
    (∀ b : Bool, let v : W64 := (1 <<< 32 : W64) + (if b then 1 <<< 33 else 0) + (15 <<< 16)
      fld v 34 30 = 0 ∧ fld v 21 3 = 0 ∧ bit v 32 = true ∧ bit v 33 = b ∧ fld v 16 5 < queueCount (fld v 30 2)) ∧
    (let t (b0 : Byte) (ok : Bool) (check : Bool) : Bool :=
       let s := devD b0 pd0
       let s1 := s.pick Cls.pump 63
       let bs := s1.descBytes pd0 0
       (mget (s.pool Cls.pump).busy 63).isNone && ((mget (s1.pool Cls.pump).busy 63).map (·.work) == some (.pump 1)) && mget s1.pumpDescs 1 == some pd0 &&
         (mget s1.progs 1).isSome && s1.descOk prog0 bs == ok && (at_ bs 0 1 % 16 == 1 || (at_ bs 0 1).testBit 4) == check &&
         descCount bs == 1 && (s.descHeld pd0 prog0).isEmpty
     t 0 true false = true ∧ t 1 true true = true ∧ t 16 true true = true ∧ t 2 false false = true) ∧
    (let s := { devD 0 pd0 (gMake 1 0 (16 + 31 <<< 17 + 7 <<< 22)) with seqs := [(1020, { running := some false })] }
     s.descHeld pd0 prog0 ≠ [] ∧ pd0.waited = false) ∧
    (let s : State := { devD 0 { pd0 with taken := true, done := 1 } with pools := [(Cls.pump, { busy := [(63, { job := 0, share := 0, req := 0, since := 0, cost := 0, work := .pump 1 })] })] }
     ((mget (s.pool Cls.pump).busy 63).map (·.work)) = some (.pump 1) ∧ { pd0 with done := 1 }.over (s.descBytes pd0 0) = true) ∧
    (let s : State := { dev with pools := [(Cls.sieve, { busy := [(0, { job := 0, share := 0, req := 0, since := 0, cost := 0, work := .sieve })] })] }
     s.power.ready = true ∧ (mget (s.pool Cls.sieve).busy 0).map (·.work) = some .sieve) ∧
    (let s := devT
     let p := s.pool Cls.cgrp
     let p := { p with deficit := mput p.deficit 0 (mgetD p.deficit 0 0 + (s.estimate Cls.cgrp 0 : Int) - (5 : Int)), est := mput p.est 0 5 }
     let held (n : Nat) := (s.group n).job == 0 && (s.jobs.filter (fun e => e.2.active && e.2.slice.groups.getLsbD n)).length > 1
     let has (j : Nat) := (s.job j).active && (s.job j).slice.groups.getLsbD 1 && s.workOn j 1
     let mine := (List.range 64).filter (fun n => held n && (s.workOn 0 n || n == 1))
     let s1 := ((s.setPool Cls.cgrp p).account Cls.cgrp 0 0 0 5).chargeSteps 0 5
     let deep := (p.deficit.map (fun e => e.2.natAbs)).foldl max 0
     (s.group 1).job = 0 ∧ held 1 = true ∧ s.atBoundary 0 mine = true ∧ (List.range 64).any has = true ∧
       ((p.serve has (fun j => s1.share j Cls.cgrp) (fun _ => s1.quant Cls.cgrp) (fun j => s1.estimate Cls.cgrp j) (64 * (deep + 2) + 64)).map (·.1)) = some 1 ∧
       (s.job 1).slice.groups.getLsbD 1 = true) := by
  decide +kernel
/-! A Fletegus image of one group with one word, and its DIGEST (R153). -/
def imA : List Byte := leBytes 4 0x47544C46 ++ [0, 1, 0, 0, 1, 0, 0, 0] ++ leBytes 4 0x100 ++ leBytes 4 128 ++ leBytes 4 8 ++ leBytes 4 0x100 ++ zeros 12 ++
  leBytes 4 0x1000 ++ zeros 12 ++ leBytes 8 136
def imB : List Byte := zeros 32 ++ leBytes 8 0x9800000000000000
def imBytes : List Byte := imA ++ leBytes 32 (sha256 (imA ++ zeros 32 ++ imB)).toNat ++ imB
theorem leNat_leBytes (n v : Nat) : leNat (leBytes n v) = v % 256 ^ n := by
  induction n generalizing v with
  | zero => simp [leBytes, leNat, Nat.mod_one]
  | succ n ih =>
    have h : 256 ^ (n + 1) = 256 * 256 ^ n := by rw [Nat.pow_succ, Nat.mul_comm]
    simp only [leBytes, leNat, ih, BitVec.toNat_ofNat]
    rw [h, Nat.mod_mul]
set_option maxRecDepth 100000 in
theorem imageDigest : imageDigestOk imBytes = true := by
  have hz : zeroed imBytes [(64, 32), (at_ imBytes 96 4, at_ imBytes 100 4)] = imA ++ zeros 32 ++ imB := by rfl
  have hs : sub imBytes 64 32 = leBytes 32 (sha256 (imA ++ zeros 32 ++ imB)).toNat := by rfl
  unfold imageDigestOk
  rw [hz, hs, leNat_leBytes]
  have : (sha256 (imA ++ zeros 32 ++ imB)).toNat % 256 ^ 32 = (sha256 (imA ++ zeros 32 ++ imB)).toNat :=
    Nat.mod_eq_of_lt (sha256 (imA ++ zeros 32 ++ imB)).isLt
  rw [this]
  simp
def devI : State := { dev with host := cells 0x10000 imBytes }
def runD : Desc := mkD 0x0301 [(8 * 16, 0x10000), (8 * 24, 136), (8 * 28, 1000), (8 * 32, 2)]
theorem fetched {s : State} {d : Desc} {b n a : Nat} {im : List Byte} (hs : s.host = cells a im) (hh : dhbm d b = false) (ha : daddr d b = a) (hn : n = im.length) :
    s.fetch d b n = some im := by
  subst ha hn
  simp [State.fetch, State.rd, hh, hs, readAll_cells]
theorem imageFetched : (devI.takenUp 0 0).fetch runD 16 136 = some imBytes :=
  fetched (a := 0x10000) rfl (by decide +kernel) (by decide +kernel) rfl
theorem imageLayout : imageLayoutOk imBytes 136 = true := by decide +kernel
theorem witness_RunProgram :
    serves devI kRunProgram 0 0 runD = true ∧ (devI.takenUp 0 0).addrOk 0 runD 16 136 = true ∧ dfld runD 24 0 32 = 136 ∧ dfld runD 40 0 64 = 0 ∧ dfld runD 48 0 64 = 0 ∧
    at_ imBytes 48 1 = 0 ∧ at_ imBytes 5 1 = 1 ∧ at_ imBytes 4 1 ≤ 2 ∧
    (let mask := BitVec.ofNat 64 (dfld runD 32 0 64); let x := (devI.takenUp 0 0).job 0
     x.conf = false ∧ popcnt mask = at_ imBytes 8 1 ∧ mask &&& ~~~x.groupsNow = 0 ∧ at_ imBytes 6 2 / 2 % 2 = 0 ∧ mask &&& x.slice.serve = 0 ∧ imageSegs imBytes [] = [] ∧
       devI.progs = [] ∧ x.ckpt = none ∧ (ones mask).any (devI.offline 0) = false ∧ (devI.group 1).job = 64) := by decide +kernel
theorem witness_Programs :
    (let s := devP {}; s.power.ready = true ∧ mget s.progs 1 = some prog0 ∧ prog0.started = true ∧ prog0.startAt = some 0 ∧ prog0.limitUs ≤ s.now - 0) ∧
    ((({ core0 {} with flight := [.write 1 0x200 (zeros 65), .inc 1 0 1] } : Core).flight = .write 1 0x200 (zeros 65) :: [.inc 1 0 1]) ∧
      ({ core0 {} with flight := [.inc 1 0 1] } : Core).flight = [.inc 1 0 1]) ∧
    (let s := devP {}; let k : Core := { core0 {} with flight := [.load 0x10FF00000 0x400 64 0 none, .store 0x10FF00000 [1] 0] }
     0x10FF00000 < 2 ^ 39 ∧ k.flight[0]? = some (.load 0x10FF00000 0x400 64 0 none) ∧ s.segmentsAt 0x10FF00000 64 = [] ∧ s.t1Held 0x10FF00000 1 = [] ∧
       k.flight[1]? = some (.store 0x10FF00000 [1] 0) ∧ ({ s with seqs := [(1020, { running := some false })] } : State).segmentsAt 0x10FF00000 64 = 1020 :: []) ∧
    (let s : State := { devP {} with regs := [(Reg.jobTag 0, 9)], fabric := { node := 1 } }
     let p : Packet := { dst := 1, src := 2, vc := 0, enc := false, type := Msg.send, tag := 9, flow := 0, hops := 4, arg := 0x400 <<< 12, seq := 1, data := [1, 2] }
     (match s.arrive p with
      | .deliver j data _ => j == 0 && data == [1, 2]
      | _ => false) = true ∧ mget s.progs (s.core (fld p.arg 0 12)).prog = some prog0 ∧ (s.group (coreGroup (fld p.arg 0 12))).job = 0 ∧ fld p.arg 12 20 + 2 ≤ 0xC0000) ∧
    (let s : State := { dev with groups := [(1, { state := 0, ctl := 1 })] }; (s.group 1).state = 0 ∧ s.groupHalted 1 = true ∧ fld (s.group 1).ctl 0 2 = 1) ∧
    (onlyFields (0x2100 : W64) [(0, 3), (8, 8), (32, 16)] = true ∧ fld (0x2100 : W64) 8 8 = 33 ∧ fld (0x2100 : W64) 0 2 = 0 ∧ dev.regsUp = true ∧
      fld (0xA00 : W64) 8 8 < 11 ∧ fld (0x2102 : W64) 0 2 = 2 ∧ dev.inSlice 0 = true ∧ onlyFields (0x2102 : W64) [(0, 3), (8, 8), (32, 16)] = true) := by decide +kernel
theorem witness_HostAccess : dev.regsUp = true ∧
    ((0x0000FFFFFFFFFF3F : W64) &&& ~~~(0x0000FFFFFFFFFF3F : W64) = 0 ∧ (0x40 : W64) &&& ~~~(0x0000FFFFFFFFFF3F : W64) ≠ 0) ∧
    ((4 : Nat) % 8 ≠ 0 ∧ (0x7FFFC : Nat) < 0x80000) ∧ (dev.job 63).active = false ∧ (dev.job 0).func ≠ 1 ∧
    (dev.segmentsAt ((dev.func 0).winBase.toNat + 0xFFFFFFFF) 1 = [] ∧
      hbmEnd ≤ (({ dev with funcs := [(0, { winBase := 0x5960000000 })] } : State).func 0).winBase.toNat + 0) ∧
    (let a := (dev.func 0).winBase.toNat + 0xFFF; dev.windowClosed 0 a true = false) ∧
    (let s : State := { dev with funcs := [(0, { winBase := 0x100000000 })] }
     let a := (s.func 0).winBase.toNat + 0xFF00000
     s.windowClosed 0 a true = false ∧ a / 2 ^ 28 ≥ s.devRg ∧ s.hbmOwner a = some 0) ∧
    (let s := devS .open; (s.sess 5).state ≠ .free ∧ (s.sess 5).conf = false ∧ (s.sesAccess 5).2 = false ∧ (s.aux 5).unbound = false ∧ (s.job (s.sess 5).job).func ≠ 1) ∧
    Memory.wf (some 0) dev.hbm = true ∧ ((devS .open).sesCache ++ (devS .open).sesBypass.toList).all (fun k => decide (k < 2 ^ 24)) = true ∧
    (let s := devS .parked { unbound := true }; s.sessAux = [(5, s.aux 5)] ∧ (s.aux 5).unbound = true ∧ (s.sess 5).job = 0 ∧ (s.sess 5).state = .parked) ∧
    (let s : State := { dev with regs := [(Reg.jobTag 1, 9)] }; s.jobTag 1 = 9) ∧ fld (0x7FFF : W64) 17 15 = 0 ∧
    (let s : State := { dev with ftl := { state := 2, cap := 10, cistern := 3 } }; s.ftl.state ≠ 0 ∧ s.ftl.cap < (11 : W32).toNat ∧ (10 : W32).toNat ≤ s.ftl.cap ∧
      ∀ e ∈ s.ftl.map, (e.1 < s.ftl.cistern ↔ e.1 < (10 : W32).toNat)) := by decide +kernel
/-- Bank sequencer 0 of job 0, whose user context runs its segment and stands at a microword. -/
def devQ (w : W32) (x : SeqCtx := {}) : State :=
  { dev with seqs := [(0, { user := { x with busy := true, words := [(0, w)] }, running := some false, win := 64 })] }
def runs (s : State) (m : Micro) (w : W32) : Bool :=
  let q := s.seq 0
  q.running == some false && (q.ctx false).busy && s.power.level == none && mgetD (q.ctx false).words (q.ctx false).pc 0 == w && microOf w == some m &&
    decide (q.segNs + microCost w m ≤ 2000)
def addrs (s : State) (w : W32) (los : List Nat) (temp : Bool) : Option Nat :=
  let q := s.seq 0
  match rowAddrs (los.map (fun lo => let o := q.operand 0 false (q.bank false w) (fld w lo 7); if temp then o.onlyTemp else o)) with
  | .ok as => some as.length
  | .error _ => none
theorem witness_Microwords :
    (runs (devQ 0) .halt 0 = true ∧ runs (devQ 0x01000000) .nop 0x01000000 = true ∧ runs (devQ 0x02000000) .segend 0x02000000 = true) ∧
    (let w : W32 := 0x102048A0; runs (devQ w) .rop w = true ∧ fld w 26 2 = 0 ∧ addrs (devQ w) w [18, 11, 4] false = some 3) ∧
    (let w : W32 := 0x1C204800; runs (devQ w) .rop w = true ∧ fld w 26 2 = 3 ∧ addrs (devQ w) w [18, 11] false = some 2) ∧
    (let w : W32 := 0x202048A0; runs (devQ w) .maj w = true ∧ addrs (devQ w) w [18, 11, 4] true = some 3) ∧
    (let w : W32 := 0x30200000; runs (devQ w) .fill w = true ∧ addrs (devQ w) w [18] true = some 1) ∧
    (let w : W32 := 0x40004000; runs (devQ w) .popc w = true ∧ addrs (devQ w) w [11] false = some 1 ∧
      bit ((devQ w { dest := 1 }).seq 0).user.dest 0 = true ∧ bit ((devQ w).seq 0).user.dest 0 = false ∧ 64 * fld ((devQ w).seq 0).user.dest 16 14 + 64 ≤ 0xC0000) ∧
    (∀ op < 3, let w : W32 := 0x5000FFFF + BitVec.ofNat 32 (op <<< 26); runs (devQ w) .idx w = true ∧ fld w 26 2 = op) ∧
    (0 + BitVec.ofNat 16 (fld (0x58000007 : W32) 0 16)).toNat ≤ 127 ∧ 127 < (0 + BitVec.ofNat 16 (fld (0x5800FFFF : W32) 0 16)).toNat ∧
    runs (devQ 0x600000FF) .loop 0x600000FF = true := by decide +kernel
theorem witness_BankSequencers : let idle : State := { dev with seqs := [(0, { user := { dest := 1 }, win := 64 })] }
    dev.regsUp = true ∧ idle.areaClosed 0 = false ∧ onlyFields (0x1FF : W64) [(0, 14)] = true ∧ bit (0x1FF : W64) 8 = true ∧ bit (0x1FF : W64) 9 = false ∧
    ((devQ 0).seq 0).user.busy = true ∧ (devQ 0).areaClosed 0 = false ∧ (idle.seq 0).user.busy = false ∧ (idle.seq 0).owned = true ∧ idle.offline 6 0 = false ∧
    bit (idle.seq 0).user.dest 0 = true ∧ bit (idle.seq 0).user.noteReg 0 = false ∧ (idle.seq 0).running = none ∧ (idle.seq 0).boundary = false ∧
    (let s : State := { dev with seqs := [(1020, { boundary := true, held := [(0x10FF00000, [1])] })] }; s.power.ready = true ∧ (s.seq 1020).boundary = true ∧ s.winHeld = []) ∧
    ((devQ 0).seq 0).running.isSome = true ∧ ((devQ 0).seq 0).postponed < 4 ∧ 255 ∉ dev.refreshing := by decide +kernel
theorem witness_Jobs :
    (dev.regsUp = true ∧ (dev.job 0).active = true ∧ bit (0x23 : W64) 5 = true ∧ ({ dev with sec := { dev.sec with debugSeen := true } } : State).sec.debugSeen = true ∧
      (dev.job 63).active = false ∧ bit (0x03 : W64) 5 = false) ∧
    ((dev.job 0).slice.isEmpty = false ∧
      (let s : State := { dev with jobs := [(0, { job0 with slice := {} })] }
       (s.job 0).active = true ∧ (s.job 0).slice.isEmpty = true ∧ s.sessCount 0 = 0 ∧ s.holdsObjects 0 = false ∧ s.progs.any (fun e => e.2.ctx.job == 0) = false)) ∧
    ((dev.job 0).want = none ∧ ({ dev with jobs := [(0, { job0 with want := some {} })] } : State).regsUp = true) ∧
    (let s : State := { dev with jobs := [(0, { job0 with want := some {} })] }
     s.power.ready = true ∧ (s.job 0).want = some {} ∧ s.serving.any (fun e => e.2.running && (mget s.models e.1).any (fun m => m.job == 0)) = false ∧
       s.seqs.any (fun e => e.2.running.isSome && e.2.owned && e.2.winJob == 0) = false ∧
       s.progs.any (fun e => e.2.ctx.job == 0 && (e.2.mask &&& (s.job 0).slice.groups) != 0) = false) := by decide +kernel
/-! ### Loaded objects: images in host memory -/

/-- Byte `a` of a vocabulary of tokens 0 to 255 of one byte and token 256 of two: entries at 64, strings at 2120. -/
def vocByte (a : Nat) : Byte :=
  if a < 64 then ((leBytes 4 0x42434F56 ++ [1, 0, 2, 0] ++ leBytes 4 257 ++ zeros 12 ++ leBytes 4 64 ++ leBytes 4 2120 ++ leBytes 4 258 ++ zeros 8 ++ leBytes 8 2378).getD a 0)
  else if a < 2120 then (leBytes 4 ((a - 64) / 8) ++ [if a < 2112 then 1 else 2, 0, 0, 0]).getD ((a - 64) % 8) 0
  else if a < 2376 then BitVec.ofNat 8 (a - 2120) else 0
def voc : List Byte := (List.range 2378).map vocByte
theorem voc_length : voc.length = 2378 := by simp [voc]
theorem sub_voc {off n : Nat} (h : off + n ≤ 2378) : sub voc off n = (List.range n).map (fun i => vocByte (off + i)) := by
  have hl : ((voc.drop off).take n).length = n := by simp [voc]; omega
  unfold sub
  simp only [hl, Nat.sub_self, zeros, List.replicate_zero, List.append_nil]
  apply List.ext_getElem
  · simp [voc]; omega
  · intro i h1 h2
    simp [voc]
theorem vocab_entry : ∀ i < 257, at_ voc (64 + 8 * i) 4 = i ∧ at_ voc (64 + 8 * i + 4) 1 = (if i < 256 then 1 else 2) ∧ zeroRun voc (64 + 8 * i + 5) 3 = true := by
  have h : ∀ i < 257, leNat ((List.range 4).map (fun k => vocByte (64 + 8 * i + k))) = i ∧
      leNat ((List.range 1).map (fun k => vocByte (64 + 8 * i + 4 + k))) = (if i < 256 then 1 else 2) ∧
      ((List.range 3).map (fun k => vocByte (64 + 8 * i + 5 + k))).all (· == 0#8) = true := by decide +kernel
  intro i hi
  unfold at_ zeroRun
  rw [sub_voc (by omega), sub_voc (by omega), sub_voc (by omega)]
  exact h i hi
theorem vocab_token : ∀ i < 257, tokBytes voc i = if i < 256 then [BitVec.ofNat 8 i] else [0, 0] := by
  have h : ∀ i < 257, (List.range (if i < 256 then 1 else 2)).map (fun k => vocByte (2120 + i + k)) = if i < 256 then [BitVec.ofNat 8 i] else [0, 0] := by decide +kernel
  intro i hi
  have h24 : at_ voc 24 4 = 64 := by decide +kernel
  have h28 : at_ voc 28 4 = 2120 := by decide +kernel
  obtain ⟨h1, h2, -⟩ := vocab_entry i hi
  unfold tokBytes
  rw [h24, h28]
  simp only [h1, h2]
  rw [sub_voc (by split <;> omega)]
  exact h i hi
theorem vocab_ok : vocabOk voc 2378 257 = true := by
  have hn : vocabSize voc = 257 := by decide +kernel
  have hb : byteBase voc = 0 := by decide +kernel
  have hm : at_ voc 16 4 = 0 := by decide +kernel
  have h24 : at_ voc 24 4 = 64 := by decide +kernel
  have h32 : at_ voc 32 4 = 258 := by decide +kernel
  have h6 : at_ voc 6 2 = 2 := by decide +kernel
  have hs : specials voc = [] := by decide +kernel
  have hf : (List.range 257).filter (fun i => !isByteTok voc i) = [256] := by decide +kernel
  have hl := voc_length
  have a0 : (List.range 257).all (fun i =>
      let e := at_ voc 24 4 + 8 * i
      zeroRun voc (e + 5) 3 && decide (1 ≤ at_ voc (e + 4) 1 ∧ at_ voc (e + 4) 1 ≤ at_ voc 6 2) && decide (at_ voc e 4 + at_ voc (e + 4) 1 ≤ at_ voc 32 4)) = true := by
    simp only [List.all_eq_true, List.mem_range, h24, h32, h6]
    intro i hi
    obtain ⟨h1, h2, h3⟩ := vocab_entry i hi
    simp only [h1, h2, h3, Bool.true_and, Bool.and_eq_true, decide_eq_true_eq]
    split <;> omega
  have a1 : (List.range 256).all (fun b => tokBytes voc (0 + b) == [BitVec.ofNat 8 b]) = true := by
    simp only [List.all_eq_true, List.mem_range, Nat.zero_add]
    intro i hi
    simp [vocab_token i (by omega), hi]
  unfold vocabOk
  simp only [hn, a0, a1, hf, hl, hs, hm, hb, inside]
  decide +kernel
/-- A grammar of one state, one stack symbol and one class, whose tables are all zero. -/
def grmHead : List Byte := leBytes 4 0x4D415247 ++ [1, 1, 0, 0, 1, 0, 0, 0, 1, 0, 1, 0] ++ leBytes 4 257 ++ (List.replicate 6 (leBytes 4 64)).flatten ++ leBytes 8 32832
def grm : List Byte := grmHead ++ zeros 32780
theorem grammar_length : grm.length = 32832 := by
  have : grmHead.length = 52 := by decide +kernel
  rw [grm, List.length_append, this, zeros, List.length_replicate]
theorem grammar_ok : grammarCheck grm 32832 257 true = none := by
  unfold grammarCheck
  simp only [grammar_length, inside]
  decide +kernel
def devL (im : List Byte) (f : Job → Job := id) (node : Nat := 0xFFFF) (m : Model := { model0 with vocab := 257 }) : State :=
  { modDev f with models := [(1, m)], host := cells 0x10000 im, fabric := { node := node } }
theorem devL_host (im : List Byte) (f : Job → Job) (node : Nat) (m : Model) : ((devL im f node m).takenUp 0 0).host = cells 0x10000 im := rfl
theorem loaded {s : State} {d : Desc} {j b n a ref : Nat} {im : List Byte} (hs : s.host = cells a im) (hh : dhbm d b = false) (ha : daddr d b = a) (hn : n = im.length) :
    s.loadImage j d b n false ref = .ok im := by
  simp [State.loadImage, State.addrOk, State.badAddr, hh, fetched hs hh ha hn]
def mdl : List Byte := leBytes 4 0x4C444F4D ++ [1, 0, 1, 0, 1, 1, 0, 0, 2, 0, 1, 0, 1] ++ zeros 47
def adp : List Byte := leBytes 4 0x5044414C ++ [1, 1] ++ zeros 58
theorem witness_LoadModel :
    let d (h n : Nat) := mkD 0x0401 [(8 * 16, 0x10000), (8 * 24, 64), (8 * 32, h), (265, n)]
    (∀ n < 2, (∀ h ∈ [0, 2, 255], let s := devL mdl
      serves s kLoadModel 0 0 (d h n) = true ∧ (s.takenUp 0 0).loadImage 0 (d h n) 16 64 (bit (d h n) 266) 0 = .ok mdl ∧
      mget s.models (if h = 0 then 2 else h) = none ∧ (s.takenUp 0 0).objectRoom 0 (grainsOf mdl.length) = true ∧
      ((((s.takenUp 0 0).members 0).filter (·.pinned)).foldl (fun t m => t + m.share) 0 + 1 ≤ (s.takenUp 0 0).hotRoom 0 ∧ cdiv (grainsOf mdl.length) 64 = 1))) ∧
    modelFormOk mdl = true ∧ modelShapeOk mdl = true ∧
    (let s := devL mdl id 0 { model0 with damaged := true, digest := sha256 mdl }
     serves s kLoadModel 0 0 (d 1 0) = true ∧ (mget s.models 1).map (fun m => (m.job, m.damaged, m.digest)) = some (0, true, sha256 mdl)) := by
  refine ⟨?_, by decide +kernel, by decide +kernel, by decide +kernel, rfl⟩
  have h : ∀ n < 2, (∀ h ∈ [0, 2, 255], let s := devL mdl; let d := mkD 0x0401 [(8 * 16, 0x10000), (8 * 24, 64), (8 * 32, h), (265, n)]
      serves s kLoadModel 0 0 d = true ∧ mget s.models (if h = 0 then 2 else h) = none ∧ (s.takenUp 0 0).objectRoom 0 (grainsOf mdl.length) = true ∧
      ((((s.takenUp 0 0).members 0).filter (·.pinned)).foldl (fun t m => t + m.share) 0 + 1 ≤ (s.takenUp 0 0).hotRoom 0 ∧ cdiv (grainsOf mdl.length) 64 = 1) ∧
      bit d 266 = false ∧ dhbm d 16 = false ∧ daddr d 16 = 0x10000) := by decide +kernel
  intro n hn i hi
  obtain ⟨h1, h2, h3, h4, h5, h6, h7⟩ := h n hn i hi
  refine ⟨h1, ?_, h2, h3, h4⟩
  rw [h5]
  exact loaded (a := 0x10000) rfl h6 h7 rfl
theorem witness_LoadedObjects :
    (let s := devL []; let d := mkD 0x0402 [(8 * 16, 1)]; serves s kUnloadModel 0 0 d = true ∧ dfld d 16 0 8 = 1 ∧ (s.modelOf 0 1).isSome = true ∧
      s.sessions.any (fun e => e.2.state != .free && e.2.job == 0 && !(s.aux e.1).unbound && e.2.model == 1) = false) ∧
    (let a : AdapterVer := { ver := 1, model := 1, rank := 1, targets := 0, scale := 0, image := adp, users := 0, damaged := false, resident := false, lastStep := 0 }
     let s := devL adp (fun x => { x with adapters := [(3, { current := some 1, last := 1, versions := [a] })] })
     let o := mgetD (s.job 0).adapters 3 { current := none, last := 0, versions := [] }
     serves s kLoadAdapter 0 0 (mkD 0x0403 [(8 * 28, 3), (8 * 30, 1), (248, 1)]) = true ∧ s.modelAlien 0 1 = false ∧ o.current.isSome = true ∧
     (∀ h ∈ [0, 3, 0xFFFE], let d := mkD 0x0403 [(8 * 16, 0x10000), (8 * 24, 64), (8 * 28, h), (8 * 30, 1)]
       serves s kLoadAdapter 0 0 d = true ∧ bit d 248 = false ∧ s.modelOf 0 (dfld d 30 0 8) = some { model0 with vocab := 257 } ∧
         isOk ((s.takenUp 0 0).loadImage 0 d 16 64 (bit d 249) 0) = true ∧ (s.takenUp 0 0).fetch d 16 64 = some adp ∧ h ≠ 0xFFFF ∧
         adapterOk adp { model0 with vocab := 257 } = true ∧
         (let o := mgetD (s.job 0).adapters h { current := none, last := 0, versions := [] }
          o.inUse.length < 4 ∧ (s.takenUp 0 0).roomAfter 0 o.goes (grainsOf adp.length) = true))) := by decide +kernel
theorem witness_LoadVocab :
    let v : ByteVer := { ver := 1, model := 1, image := [], classes := 0, users := 0, damaged := false }
    let s := devL voc (fun x => { x with vocabs := [(1, { current := some 1, last := 1, versions := [v] })] })
    let w := mkD 0x0501 [(8 * 30, 1), (248, 1)]; let d := mkD 0x0501 [(8 * 16, 0x10000), (8 * 24, 2378), (8 * 30, 1)]
    let o := mgetD (s.job 0).vocabs 1 { current := none, last := 0, versions := [] }
    (serves s kLoadVocab 0 0 w = true ∧ bit w 248 = true ∧ s.modelAlien 0 1 = false ∧ o.current.isSome = true) ∧
    (serves s kLoadVocab 0 0 d = true ∧ bit d 248 = false ∧ (s.modelOf 0 (dfld d 30 0 8)).map (·.vocab) = some 257 ∧ (s.takenUp 0 0).addrOk 0 d 16 2378 = true ∧
      o.inUse < 2 ∧ (s.takenUp 0 0).roomAfter 0 o.goes (grainsOf 2378) = true) ∧ (s.takenUp 0 0).fetch d 16 2378 = some voc ∧ vocabOk voc 2378 257 = true :=

  ⟨by decide +kernel, by decide +kernel, fetched (devL_host ..) (by decide +kernel) (by decide +kernel) voc_length.symm, vocab_ok⟩
theorem witness_LoadGrammar :
    let v : ByteVer := { ver := 1, model := 1, image := [], classes := 1, users := 0, damaged := false }
    let s := devL grm (fun x => { x with grammars := [(1, { current := some 1, last := 1, versions := [v] })] })
    let w := mkD 0x0502 [(8 * 28, 1), (8 * 30, 1), (248, 1)]; let d := mkD 0x0502 [(8 * 16, 0x10000), (8 * 24, 32832), (8 * 28, 1), (8 * 30, 1)]
    let o := mgetD (s.job 0).grammars 1 { current := none, last := 0, versions := [] }
    let gone := (o.versions.filter (fun y => y.users == 0)).foldl (fun n v => n + v.classes) 0
    (serves s kLoadGrammar 0 0 w = true ∧ bit w 248 = true ∧ s.modelAlien 0 1 = false ∧ o.current.isSome = true) ∧
    (serves s kLoadGrammar 0 0 d = true ∧ bit d 248 = false ∧ (s.modelOf 0 (dfld d 30 0 8)).map (·.vocab) = some 257 ∧ (s.takenUp 0 0).addrOk 0 d 16 32832 = true ∧
      o.inUse < 2 ∧ (s.takenUp 0 0).roomAfter 0 o.goes (grainsOf 32832) = true ∧ (s.takenUp 0 0).sieveClasses - gone + grammarClasses grm ≤ sieveArea ∧ dfld d 28 0 16 = 1) ∧
    (s.takenUp 0 0).fetch d 16 32832 = some grm ∧ grammarCheck grm 32832 257 true = none :=
  ⟨by decide +kernel, by decide +kernel, fetched (devL_host ..) (by decide +kernel) (by decide +kernel) grammar_length.symm, grammar_ok⟩
/-- An index of one node: 32 dimensions, degree 1. -/
def idx : List Byte := leBytes 4 0x58444E49 ++ [1, 0, 32, 0, 1, 1, 0, 0] ++ zeros 4 ++ leBytes 8 1 ++ leBytes 4 64 ++ zeros 100
def devX (im : List Byte) (ws : List (DescCtx × List (Nat × List Byte)) := []) : State :=
  devL im (fun x => { x with indexes := [(3, { current := some 1, last := 1, versions := [{ ver := 1, image := idx, hot := 1, epoch := 1, users := 0, damaged := false, writes := ws }] })],
                             filters := [(4, { index := 3, current := some 1, last := 1, versions := [] })] })
theorem witness_Indexes :
    (let s := devX idx
     serves s kLoadIndex 0 0 (mkD 0x0601 [(8 * 16, 3), (384, 1)]) = true ∧ ((s.index 0 3).map (·.current)) = some (some 1) ∧
     (let i (h : Nat) := mkD 0x0601 [(8 * 16, h), (8 * 24, 0x10000), (8 * 32, 128), (8 * 40, 1)]; let d := i 1
       (∀ h ∈ [1, 3, 0xFFFE], serves s kLoadIndex 0 0 (i h) = true) ∧ bit d 384 = false ∧ (s.takenUp 0 0).addrOk 0 d 24 128 = true ∧ (s.takenUp 0 0).fetch d 24 128 = some idx ∧ indexOk idx 128 = true ∧
         (∀ h ∈ [1, 3, 0xFFFE], let o := (s.index 0 h).getD { current := none, last := 0, versions := [] }
           (o.versions.filter (·.busy)).length < 2 ∧
             (s.takenUp 0 0).roomAfter 0 ((o.versions.filter (fun v => !v.busy)).foldl (fun n v => n + v.grains) 0) (grainsOf (64 + ixRec idx)) = true) ∧
         min (dfld d 40 0 33) (ixNodes idx) = 1 ∧ grainsOf ((ixNodes idx - 1) * ixRec idx) = 0)) ∧
    (let s := devX [1]
     serves s kLoadFilter 0 0 (mkD 0x0602 [(8 * 16, 3), (8 * 18, 4), (384, 1)]) = true ∧ ((s.filter 0 4).map (·.current)) = some (some 1) ∧
     (let d := mkD 0x0602 [(8 * 16, 3), (8 * 18, 5), (8 * 24, 0x10000), (8 * 32, 1)]
      serves s kLoadFilter 0 0 d = true ∧ ((s.index 0 3).bind Index.cur).map (·.image) = some idx ∧ (s.takenUp 0 0).fetch d 24 1 = some [1] ∧ cdiv (ixNodes idx) 8 = 1 ∧
        (s.takenUp 0 0).roomAfter 0 0 (grainsOf 1) = true)) ∧
    (let s := devX (zeros 128); ((s.index 0 3).bind Index.cur).map (fun v => (v.damaged, v.epoch)) = some (false, 1) ∧
     (let d := mkD 0x0604 [(8 * 16, 3), (8 * 20, 1), (8 * 24, 0x10000)]
      serves s kTombstone 0 0 d = true ∧ (s.takenUp 0 0).addrOk 0 d 24 4 = true ∧ (s.takenUp 0 0).fetch d 24 4 = some (zeros 4)) ∧
     (let d := mkD 0x0605 [(8 * 16, 3), (8 * 20, 1), (8 * 24, 0x10000)]
      serves s kIndexWrite 0 0 d = true ∧ (s.takenUp 0 0).fetch d 24 (64 + ixRec idx) = some (zeros 128) ∧ zeroRun (zeros 128) 4 60 = true ∧
        (at_ (zeros 128) 0 4 < ixNodes idx ∧ recOk idx (sub (zeros 128) 64 (ixRec idx)) = true)) ∧
     (let d := mkD 0x0603 [(8 * 16, 3), (8 * 18, 1), (8 * 20, 1), (8 * 40, 0x10000), (8 * 48, 0x20000)]
      serves s kSearch 0 0 d = true ∧ dfld d 23 0 3 = 0 ∧ dfld d 18 0 11 = 1 ∧ dfld d 20 0 11 = 1 ∧ (∀ i < 3, dfld d 22 0 6 / 4 ^ i % 4 ≠ 3) ∧ fld d 384 6 = 0 ∧ (s.job 0).conf = false ∧
        (s.takenUp 0 0).addrOk 0 d 40 33 = true ∧ (s.takenUp 0 0).addrOk 0 d 48 32 = true ∧ (s.takenUp 0 0).fetch d 40 (ixDim idx + ixDim idx / 32) = some (zeros 33))) ∧
    (let s := devX [] [(ctx0, [(0, zeros 64)])]
     s.power.ready = true ∧ (((s.index 0 3).bind (fun o => o.versions.find? (fun v => !v.writes.isEmpty && v.users == 0))).map (fun v => (v.ver, v.writes))) =
       some (1, [(ctx0, [(0, zeros 64)])])) := ⟨by decide +kernel, by decide +kernel, by decide +kernel, by decide +kernel, rfl⟩
/-- A table of one row of 32 dimensions on node 1. -/
def tab : List Byte := leBytes 4 0x4C424154 ++ [1, 1, 32, 0] ++ leBytes 8 1 ++ zeros 48 ++ leBytes 2 1 ++ zeros 254
def tver : TableVer := { ver := 1, dim := 32, rows := 1, expCap := 0, nodes := [1], rowMap := [(0, { tier := 2, region := 0, offset := 0, bytes := zeros 64 })], users := 0, damaged := false, fresh := false }
def tbl0 : Table := { emptyTable with current := some 1, last := 1, versions := [tver] }
def devW (im : List Byte) (o : Table := tbl0) : State :=
  { devL im (fun x => { x with tables := [(3, o)] }) 1 { model0 with encoder := true } with regs := [(Reg.wlkJob 0, 1 <<< 16), (Reg.jobTag 0, 9)] }
theorem witness_LoadTable :
    (let s := devW (tab ++ zeros 8); let d (h : Nat) := mkD 0x0606 [(8 * 16, h), (8 * 24, 0x10000), (8 * 32, 320), (8 * 40, 1), (8 * 48, 0x10140), (8 * 56, 3)]
      (∀ h ∈ [1, 3, 0xFFFE], serves s kLoadTable 0 0 (d h) = true) ∧ (s.takenUp 0 0).fetch (d 1) 24 320 = some tab ∧ (s.takenUp 0 0).fetch (d 1) 48 8 = some (zeros 8) ∧ tableOk tab 320 s.node = true ∧
      (s.takenUp 0 0).roomAfter 0 0 (grainsOf 64 + grainsOf 8) = true ∧ (tab.length - 256) / rowLen (tbDim tab) = 1) ∧
    (let s := devW [] { tbl0 with current := none, versions := [{ tver with fresh := true }] }; let d := mkD 0x0607 [(8 * 16, 3), (8 * 18, 1)]
     serves s kTableSwap 0 0 d = true ∧ ((s.table 0 3).bind (fun o => o.versions.find? (fun y => y.ver == 1))).isSome = true) := ⟨by decide +kernel, by decide +kernel⟩
theorem witness_Tables :
    isOk ((devW []).bindTable 0 3) = true ∧
    (let s := devW (leBytes 4 0 ++ leBytes 4 1 ++ zeros 8 ++ zeros 2)
     let d := mkD 0x0608 [(8 * 16, 3), (8 * 18, 1), (8 * 24, 0x10008), (8 * 32, 0x10000), (8 * 40, 0x10010), (8 * 48, 0x20000)]
     serves s kEmbedLookup 0 0 d = true ∧ dfld d 18 0 16 = 1 ∧ dfld d 20 1 5 ≤ 16 ∧ daddr d 48 % 64 = 0 ∧ (s.takenUp 0 0).fetch d 32 8 = some (leBytes 4 0 ++ leBytes 4 1) ∧
     (s.takenUp 0 0).fetch d 24 8 = some (zeros 8) ∧ (s.takenUp 0 0).fetch d 40 2 = some (zeros 2) ∧ (s.job 0).conf = false) ∧
    (let s := devW (zeros 136); let d := mkD 0x0609 [(8 * 16, 3), (8 * 20, 1), (8 * 24, 0x10000), (8 * 40, 1)]
     serves s kTableUpdate 0 0 d = true ∧ (s.takenUp 0 0).fetch d 24 136 = some (zeros 136) ∧ (s.job 0).updBytes + 136 ≤ (s.takenUp 0 0).updCap 0 tbl0 1 * 2 ^ 20) ∧
    (let s := devW []; let d := mkD 0x060A [(8 * 16, 3), (8 * 20, 1), (8 * 44, 5)]
     serves s kTableStep 0 0 d = true ∧ tver.nodes.length ≤ 1 ∧ tbl0.stepWait = none ∧ tbl0.doneStep = none ∧ tbl0.failed.contains 1 = false ∧ 0 < dfld d 44 0 32) ∧
    (let s := devW (zeros 8); let d := mkD 0x060B [(8 * 16, 3), (8 * 24, 0x10000), (8 * 40, 1), (8 * 56, 1)]
     serves s kMigrateRows 0 0 d = true ∧ dfld d 56 0 2 = 1 ∧ (s.takenUp 0 0).fetch d 24 8 = some (zeros 8) ∧ (mget tver.rowMap 0).map (·.migrating) = some none ∧
     (s.takenUp 0 0).roomAfter 0 0 (grainsOf ((2 * tver.rowMap.length + tver.olds.length) * rowLen tver.dim) + grainsOf (8 * tver.rowMap.length)) = true) ∧
    (let s := devW (leBytes 8 0x10010 ++ leBytes 4 1 ++ zeros 4 ++ leBytes 4 7); let d := mkD 0x060C [(8 * 16, 1), (136, 1), (8 * 18, 1), (8 * 32, 0x10000), (8 * 40, 0x20000)]
     serves s kEmbedDocs 0 0 d = true ∧ (s.modelOf 0 1).map (fun m => (m.damaged, m.encoder)) = some (false, true) ∧ dfld d 20 0 17 ≤ 65536 ∧ daddr d 40 % 64 = 0 ∧ bit d 136 = true ∧
     (s.takenUp 0 0).fetch d 32 16 = some (leBytes 8 0x10010 ++ leBytes 4 1 ++ zeros 4) ∧ (s.takenUp 0 0).badAddr 0 false 0x10010 4 = false ∧
     (s.takenUp 0 0).rd false 0x10010 4 = some (leBytes 4 7)) := by
  refine ⟨?_, ?_, ?_, ?_, ?_, ?_⟩ <;> decide +kernel
theorem witness_TableTraffic :
    (devW []).jobOfTag 8 = none ∧ (devW []).jobOfTag 9 = some 0 ∧ (devW []).table 0 3 = some tbl0 ∧ tbl0.cur = some tver ∧ tver.owner 0 = (devW []).node ∧ tver.rows = 1 ∧
    (mget tver.rowMap (tver.local_ 0)).isSome = true ∧ tbl0.applied = none ∧ ((devW []).job 0).updBytes + 8 + 4 * 32 ≤ (devW []).updCap 0 tbl0 1 * 2 ^ 20 ∧
    tbl0.marks.contains (1, 1) = false ∧ tbl0.doneStep = none ∧ tbl0.stepWait = none ∧
    (let o := { tbl0 with stepWait := some (ctx0, 1, some 10000), items := [{ node := 1, step := 2, row := 0, lr := 0, grad := [], ver := 1, cap := 1 }] }
     ((devW [] o).table 0 3) = some o ∧ o.failed.contains 1 = false ∧ tver.nodes.all (fun n => ((1, 1) :: o.marks).contains (n, 1)) = true ∧ 10000 ≤ (devW [] o).now ∧
       tver.nodes.all (fun n => o.marks.contains (n, 1)) = false) ∧
    (let v := { tver with rowMap := [(0, { tier := 2, region := 0, offset := 0, bytes := zeros 64, migrating := some (1, 0, 8) })] }
     let o := { tbl0 with versions := [v] }
     ((devW [] o).table 0 3).map (fun o => (o.current, o.versions.map (·.ver), o.migWait.length)) = some (some 1, [1], 0) ∧
       (o.versions.find? (fun v => (mget v.rowMap 0).any (fun e => e.migrating.isSome))) = some v ∧ ((mget v.rowMap 0).bind (·.migrating)) = some (1, 0, 8)) := by
  refine ⟨?_, ?_, ?_, ?_, ?_, ?_, ?_, ?_, ?_, ?_, ?_, ?_, ?_, ?_⟩ <;> first | rfl | decide +kernel
/-! ### The fabric -/

def pkt0 : Packet := { dst := 2, src := 1, vc := 0, enc := false, type := Msg.send, tag := 9, flow := 0, hops := 4, arg := 0, seq := 1, data := [] }
/-- Node 1, whose port 0 leads to node 2. -/
def devF (g : Fabric → Fabric := id) : State :=
  { dev with
    regs := [(Reg.jobTag 0, 9), (Reg.portCtl 0, 3), (Reg.portCtl 15, 3)]
    fabric := g { node := 1, ports := [(0, { state := 2, ver := 2, lanes := 8, peer := 2, credits := [(0, 100)] })], topo := [peer2], routes := [(2, [0])] }
    ftl := { state := 2, cap := 100000, cistern := 50000 } }
theorem witness_FabricPorts :
    (dev.regsUp = true ∧ onlyFields (0xF : W64) [(0, 4)] = true ∧ onlyFields (0x10 : W64) [(0, 4)] = false ∧ (15 : Nat) < 16) ∧
    (∀ l ∈ [1, 30, 31], (devF).linkAllowed l 2 ((devF).portLanes l) = true ∧ ((devF).port l).state ≠ PortState.up ∧ mget (devF).errs.units (unitKey .port l) = none) ∧
    (devF).linkAllowed 0 2 16 = false ∧ (devF).linkAllowed 2 2 8 = false ∧
    (((devF).port 0).state = PortState.up ∧ ((devF).port 0).peerSerial = 0 ∧ ((devF).port 0).peer = 2 ∧ ((devF).port 0).peerPort = 0) ∧
    ((devF).fabric.topo.find? (fun x => x.serial == 7)).any (fun x => decide (1 ≤ x.gen)) = true ∧
    (((devF).fabric.topo.find? (fun x => x.serial == 7)).all (fun x => decide (x.gen < 2)) = true ∧ ((devF).fabric.topo.find? (fun x => x.serial == 7)).all (fun x => x.node == 2) = true) ∧
    ((devF).node ≠ 0xFFFF ∧ (1 : Nat) ≤ 0xFFFE ∧ (0xFFFE : Nat) < 0xFFFF ∧ dev.node = 0xFFFF) := by
  refine ⟨?_, ?_, ?_, ?_, ?_, ?_, ?_, ?_⟩ <;> decide +kernel
theorem witness_another_serial : ∃ r : TopoRec, r.serial ≠ ownSerial := ⟨{ serial := ownSerial + 1, node := 2, gen := 1, links := [] }, by simp⟩
theorem witness_SetGroup : let bs := leBytes 2 1 ++ leBytes 2 2; let s : State := { devF with host := cells 0x10000 bs }
    (∀ h ∈ [0, 1, 255], ∀ n ∈ [0, 1, 2, 64, 65], serves s kSetGroup 0 0 (mkD 0x0701 [(8 * 16, h), (8 * 17, n), (8 * 24, 0x10000)]) = true) ∧
    (s.takenUp 0 0).addrOk 0 (mkD 0x0701 [(8 * 16, 1), (8 * 17, 2), (8 * 24, 0x10000)]) 24 4 = true ∧
    (s.takenUp 0 0).fetch (mkD 0x0701 [(8 * 16, 1), (8 * 17, 2), (8 * 24, 0x10000)]) 24 4 = some bs ∧ rising [1, 2] = true ∧ [1, 2].contains s.node = true ∧
    (∀ k ∈ [1, 2], k = s.node ∨ ∃ r ∈ s.fabric.topo, r.node = k) := by
  refine ⟨?_, ?_, ?_, ?_, ?_, ?_⟩ <;> decide +kernel
theorem witness_FabricPackets :
    let held : HeldExtent := { owner := 2, job := 0, root := 0, count := 1, tag := 9, grains := [], expiry := some 9999 }
    let s := devF (fun f => { f with unacked := [{ pkt := pkt0, first := 0, last := 0 }, { pkt := { pkt0 with type := Msg.peerFree, seq := 2 }, first := 0, last := 0 },
      { pkt := { pkt0 with type := Msg.mine, seq := 3 }, first := 0, last := 0 }], held := [(5, held)] })
    let a : W64 := gMake 4 2 5
    (s.power.ready = true ∧ s.regsUp = true ∧ (s.fabric.unacked.find? (fun u => u.pkt.dst == 2 && u.pkt.vc == 0 && u.pkt.seq == 4)).isNone = true ∧
      (∀ q ∈ [1, 2, 3], (s.fabric.unacked.find? (fun u => u.pkt.dst == 2 && u.pkt.vc == 0 && u.pkt.seq == q)).map (·.pkt.type) =
        some (if q = 1 then Msg.send else if q = 2 then Msg.peerFree else Msg.mine)) ∧
      (let s : State := { s with progs := [(1, prog0)], groups := [(0, { state := 0, job := 0, lastJob := 0 })], cores := [(0, { core0 {} with flight := [.send 2 1 1 [7]] })] }
       s.sendersTo 2 (some 1) = [(0, 0, 1, [7])])) ∧
    (s.jobOfTag 9 = some 0 ∧ s.ftl.state ≠ 0 ∧ s.ftl.state ≠ 3 ∧ mget s.fabric.held (gAddr (gMake 4 2 6) % 2 ^ 32) = none ∧
      s.ftl.runFree 6 0 s.ftl.cisternRange.1 s.ftl.cisternRange.2 = true ∧ (mget s.fabric.held (gAddr a % 2 ^ 32)).map (fun h => (h.tag, h.owner, h.expiry)) = some (9, 2, some 9999) ∧
      9999 ≤ s.now) ∧
    (pkt0.dst ≠ s.node ∧ 1 < pkt0.hops ∧ s.choosePort (s.portsTo 2 none) { pkt0 with hops := 3 } = some 0 ∧ s.choosePort (s.portsTo 3 none) { pkt0 with dst := 3, hops := 3 } = none) ∧
    ((s.port 0).state = PortState.up ∧ (s.port 1).state ≠ PortState.up ∧ (s.port 1).state ≠ PortState.probation) := by
  refine ⟨?_, ?_, ?_, ?_⟩ <;> decide +kernel
def devO (st : SState) (a : SessAux := {}) (xs : Map Xfer := []) (bs : List Byte := []) : State :=
  { devS st a with
    host := cells 0x10000 bs
    regs := [(Reg.jobQuota 0, 16 + 16 <<< 32), (Reg.jobTag 0, 9), (Reg.nlmOwn, 100 + 3 <<< 32)]
    fabric := { node := 1, ports := [(0, { state := 2, ver := 2, lanes := 8, peer := 2, credits := [(0, 100)] })], topo := [peer2], routes := [(2, [0])], xfers := xs } }
def xfer0 : Xfer := { outbound := true, session := 5, epoch := 1, peer := 2, phase := .offered, since := 0, offeredAt := 0, queries := 0, waitIn := false, total := 2, got := 0,
                      msg := none, grains := [], carry := {}, reqGrain := none, job := 0, req := 9, ctx := some ctx0, turn := none, phaseUs := 0 }
def move0 : Move := { kind := .handoff, tier := 4, place := 2, dest := 0, ttl := 0, evict := false, ctx := some ctx0, src := .open, abandoned := false }
def msg0 : HandoffMsg := { epoch := 4, sender := 2, tag := 9, srcState := 1, toolp := false, root := 0, pinned := false, conf := false, prio := 0, eventWell := 0, adapter := 0xFFFF,
                           adapterVer := 0, len := 16, retained := 16, grammar := 0, seed := 0, scounter := 0, modelDigest := 0, ttlLeftUs := 0, grains := 2, pairs := 1, carried := false,
                           cwell := 0, phaseUs := 0 }
theorem witness_SplitTurn :
    let e := mkD 0x0102 [(8 * 16, 5), (8 * 24, 100)]; let bs := leBytes 64 e.toNat; let s := devO .open {} [] bs
    let d := mkD 0x0702 [(8 * 16, 5), (8 * 20, 2), (8 * 24, 0x10000)]; let s1 := ((s.takenUp 0 0).opened 5).touch 5; let s2 : State := { s1 with freeCtr := s1.freeCtr + 1 }
    serves s kSplitTurn 0 0 d = true ∧ (s.takenUp 0 0).Names 0 5 ∧ s1.addrOk 0 d 24 64 = true ∧ s1.fetch d 24 64 = some bs ∧ BitVec.ofNat 512 (leNat bs) = e ∧
    dfld e 0 0 16 = 0x0102 ∧ dfld e 16 0 24 = 5 ∧ onlyFields e (imageFields false) = true ∧ (s2.sess 5).state = .open ∧ s2.turnState 5 false = some .open ∧
    goodTurn (s2.turnCheck 0 5 0x0102 e true (Config.freeNat s1.freeCtr % 65536) true) = true ∧ s1.routeErr 0 2 = none ∧ (s1.aux 5).unsettled = false ∧
    s1.fabric.xfers.length < 65536 ∧ (s1.outXfer 5).isNone = true := by
  refine ⟨?_, ⟨?_, ?_, ?_, ?_⟩, ?_, ?_, ?_, ?_, ?_, ?_, ?_, ?_, ?_, ?_, ?_, ?_, ?_⟩ <;> decide +kernel
/-- The same turn with its tokens named by their IDs. -/
theorem witness_SplitTurnPlain : let im := leBytes 4 0 ++ leBytes 4 0 ++ leBytes 4 3 ++ zeros 52
    let v : ByteVer := { ver := 1, model := 1, image := im, classes := 0, users := 0, damaged := false }
    (∀ tool : Bool, let st : SState := if tool then .toolWait else .open
     let e := mkD (if tool then 0x0103 else 0x0102) [(8 * 16, 5), (8 * 24, 4), (8 * 32, 0x10040), (8 * 40, 2), (365, 1)]
     let bs := leBytes 64 e.toNat; let s := (devO st {} [] (bs ++ leBytes 4 1 ++ leBytes 4 2)).modJob 0 (fun x => { x with vocabs := [(1, { current := some 1, last := 1, versions := [v] })] })
     let d := mkD 0x0702 [(8 * 16, 5), (8 * 20, 2), (8 * 24, 0x10000)]; let s1 := ((s.takenUp 0 0).opened 5).touch 5
     (serves s kSplitTurn 0 0 d = true ∧ ((s.takenUp 0 0).sess 5).state ≠ .free ∧ ((s.takenUp 0 0).sesAccess 5).2 = false ∧ ((s.takenUp 0 0).aux 5).unbound = false ∧
       ((s.takenUp 0 0).sess 5).job = 0 ∧ s1.addrOk 0 d 24 64 = true ∧ s1.fetch d 24 64 = some bs) ∧
     (BitVec.ofNat 512 (leNat bs) = e ∧ (tool = true → bit e 367 = false) ∧ dfld e 16 0 24 = 5 ∧ onlyFields e (imageFields tool) = true ∧ s1.routeErr 0 2 = none ∧
       (s1.aux 5).unsettled = false ∧ s1.fabric.xfers = [] ∧ (s1.sess 5).state = st ∧ s1.gone 5 = false) ∧
     ((s1.sess 5).grammar = 0 ∧ (s1.sess 5).adapter = 0xFFFF ∧ dfld e 48 0 64 = 0 ∧ dfld e 24 0 21 ≠ 0 ∧ dfld e 16 28 3 ≤ 4 ∧ dfld e 44 16 16 = 0 ∧
       s1.modelOf 0 (s1.sess 5).model = some model0 ∧ model0.digest = (s1.aux 5).modelDigest ∧ (mget (s1.job 0).vocabs (s1.sess 5).model).bind ByteObj.cur = some v) ∧
     ((s1.job 0).conf = false ∧ bit e 365 = true ∧ dfld e 40 0 32 = 2 ∧ s1.addrOk 0 e 32 8 = true ∧ s1.fetch e 32 8 = some (leBytes 4 1 ++ leBytes 4 2) ∧
       (s1.sess 5).len + 2 ≤ 2 ^ 20 ∧ s1.liveReqs < 65536 ∧ s1.reqCount 0 < fld (s1.reg (Reg.jobQuota 0)) 32 17)) ∧
    ∀ k < 2, at_ (leBytes 4 1 ++ leBytes 4 2) (4 * k) 4 < vocabSize im := by decide +kernel
theorem witness_OwnershipSent :
    (let s := devO .moving { move := some move0 } [(65536, xfer0)]
     s.power.ready = true ∧ s.xfer 65536 = some xfer0 ∧ xfer0.outbound = true ∧ (s.sess 5).state = .moving ∧ (s.aux 5).move = some move0 ∧ move0.kind = .handoff ∧ move0.abandoned = false ∧
     (s.aux 5).damaged = false ∧ (s.aux 5).closing = [] ∧ s.fabric.peerFrees = [] ∧ xfer0.since + s.orphanUs ≤ s.now ∧ xfer0.queries < s.queryMax ∧ s.queryMax ≤ 3) ∧
    (let x := { xfer0 with turn := some (mkD 0x0102 [(8 * 16, 5)]), phase := .sent, req := 9, queries := 3 }
     let s : State := { devO .running {} [(65536, x)] with reqs := [(9, { gen := 3, rstate := .queued, job := 0, session := 5 })], reqAux := [(9, { raux0 with xfer := 65536 })] }
     s.xfer 65536 = some x ∧ x.turn.isSome = true ∧ (s.raux? 9).map (·.xfer) = some 65536 ∧ x.since + 20000 ≤ 20000 ∧ s.queryMax ≤ x.queries) ∧
    (let x := { xfer0 with phase := .reclaimed }; (devO .open {} [(65536, x)]).xfer 65536 = some x) := by
  refine ⟨?_, ?_, ?_⟩
  · refine ⟨?_, rfl, ?_, ?_, rfl, ?_, ?_, ?_, rfl, ?_, ?_, ?_, ?_⟩ <;> decide +kernel
  · refine ⟨rfl, ?_, ?_, ?_, ?_⟩ <;> decide +kernel
  · rfl
theorem witness_OwnershipReceived :
    (let s := devO .open
     s.power.ready = true ∧ s.xfer 131072 = none ∧ s.jobOfTag 8 = none ∧ s.jobOfTag msg0.tag = some 0 ∧ (s.modelByDigest 0 1 1).isNone = true ∧
     (s.modelByDigest 0 msg0.modelDigest msg0.pairs).isSome = true ∧ msg0.adapter = 0xFFFF ∧ s.sessCount 0 < fld (s.reg (Reg.jobQuota 0)) 0 25 ∧ toCistern msg0 = false ∧
     s.t1Room 0 msg0.grains = true ∧ ((s.job 0).compWell 0).ring.isSome = true) ∧
    (let x := { xfer0 with outbound := false, phase := .receiving, msg := some msg0 }
     (devO .open {} [(131072, x)]).xfer 131072 = some x ∧ toCistern msg0 = false ∧ msg0.carried = false ∧ x.got + 1 < x.total ∧ { x with got := 1 }.got + 1 = x.total) ∧
    (let x := { xfer0 with outbound := false, phase := .entered, epoch := 1 }; let s := devO .open { unsettled := true } [(131072, x)]
     s.xfer 131072 = some x ∧ 1 ≤ (s.sess 5).ownerEpoch ∧ (s.sess 5).ownerEpoch < 2 ∧ s.fabric.peerFrees = [] ∧ x.since + s.orphanUs ≤ s.now) ∧
    (let x := { xfer0 with outbound := false, phase := .receiving, msg := some { msg0 with carried := true }, phaseUs := 5 }
     x.msg.any (·.carried) = true ∧ x.offeredAt + x.phaseUs ≤ dev.now) := by
  refine ⟨?_, ?_, ?_, ?_⟩
  · refine ⟨?_, rfl, ?_, ?_, ?_, ?_, ?_, ?_, ?_, ?_, ?_⟩ <;> decide +kernel
  · refine ⟨rfl, ?_, ?_, ?_, ?_⟩ <;> decide +kernel
  · refine ⟨rfl, ?_, ?_, ?_, ?_⟩ <;> decide +kernel
  · decide +kernel
theorem witness_Collectives :
    let g : FabGroup := { nodes := [1, 2], collUs := 10, digest := 7, next := 1, failed := false }
    let c (due : Nat) : Coll := { job := 0, group := 3, seq := 1, op := 0, part := [1, 2, 3, 4], done := [], deadline := due }
    let s (due : Nat) : State := { modDev (fun x => { x with fabGroups := [(3, g)] }) with fabric := { node := 2, colls := [c due] } }
    let p (h ch : Nat) : CollPacket := { digest := 7, seq := 1, op := 0, chunk := ch, hop := h, elems := [] }
    (s 5).power.ready = true ∧ mget ((s 5).job 0).fabGroups 3 = some g ∧
    ((s 5).fabric.colls.find? (fun c => c.job == 0 && c.group == 3 && c.seq == 1)) = some (c 5) ∧ ((s 5).fabric.colls.find? (fun c => c.job == 0 && c.group == 3 && c.seq == 2)) = none ∧
    (∀ h ∈ [1, 2], let q := p h (h % 2); q.digest = g.digest ∧ q.op = 0 ∧ q.chunk < 2 ∧ (q.chunk + 1 + h) % 2 = (s 5).rank g ∧ 1 ≤ h ∧ h ≤ 2 * 2 - 2) ∧
    5 ≤ (s 5).now ∧ (s 20000).now < 20000 ∧ (s 5).modelOf 0 3 = none := by
  refine ⟨?_, ?_, rfl, rfl, ?_, ?_, ?_, ?_⟩ <;> decide +kernel
/-! ### Checkpoints and restores -/

/-- A run of grains is found in a flash that holds no object, wherever firmware looks first. -/
theorem findRun_ok {f : Ftl} {start count lo hi : Nat} (ho : f.objects = []) (h : lo + count ≤ hi) : (f.findRun start count lo hi).isSome = true := by
  unfold Ftl.findRun Ftl.runFree
  rw [ho]
  simp only [List.all_nil, Bool.and_true, List.map_nil, List.find?]
  split
  · rfl
  · simp [h]
theorem generalPlace_ok {s : State} {j count : Nat} {bs : List Byte} (h0 : s.ftl.state = 2) (ho : s.ftl.objects = []) (h : s.ftl.cistern + count ≤ s.ftl.cap) :
    (s.generalPlace j count bs).isSome = true := by
  unfold State.generalPlace
  simp only [h0, State.draw, Ftl.generalRange]
  rw [if_neg (by decide), Option.isSome_map]
  exact findRun_ok ho h
theorem extentPlace_cistern {s : State} {j count : Nat} (h0 : s.ftl.state = 2) (ho : s.ftl.objects = []) (h : count ≤ s.ftl.cistern) :
    ∃ root u, s.extentPlace j 2 0 count = (.ok root, u) := by
  have ht : ({ s with freeCtr := s.freeCtr + 1 } : State).targetErr j 2 0 = none := by simp [State.targetErr, h0]
  unfold State.extentPlace
  simp only [State.draw, ht, Ftl.cisternRange]
  have hf := findRun_ok (start := Config.freeNat s.freeCtr % max 1 s.ftl.cistern) ho (lo := 0) (count := count) (hi := s.ftl.cistern) (by omega)
  obtain ⟨a, ha⟩ := Option.isSome_iff_exists.mp hf
  simp [ha]
def devC (k : Option Ckpt) : State :=
  { modDev (fun x => { x with ckpt := k, regions := [(0, region0)], fabGroups := [(3, { nodes := [1, 2, 3], collUs := 10, digest := 0, next := 0, failed := false })] }) with
    regs := [(Reg.jobTag 0, 9)], fabric := { node := 1, topo := [peer2] }, ftl := { state := 2, cap := 100000, cistern := 50000 } }
def ckpt0 : Ckpt := { ctx := ctx0, id := 1, step := 2, target := 3, dest := 0, off := 0, man := 1, group := 3, rank := 0, deadline := none, sign := false, progs := [], list := [], tables := [],
                      next := 0, shards := [], sessions := [], objects := [], ranks := [], sentAt := none, manifest := none, peerDone := false }
theorem witness_Checkpoints :
    (∀ k ∈ [kCheckpoint, kPreemptNotice], serves (devC (some ckpt0)) k 0 0 (mkD k.code []) = true ∧
      (let s := devC none; let d := mkD k.code [(8 * 16, 1), (8 * 32, 2), (8 * 36, 5)]
       serves s k 0 0 d = true ∧ dfld d 36 0 32 ≠ 0 ∧ dfld d 48 0 17 ≤ 65536 ∧ dfld d 34 0 8 = 0 ∧ dfld d 40 0 64 = 0 ∧ dfld d 32 0 3 = 2 ∧ (s.takenUp 0 0).targetErr 0 2 0 = none ∧
         (s.takenUp 0 0).ftl.state = 2 ∧ (s.takenUp 0 0).ftl.objects = [] ∧ (s.takenUp 0 0).ftl.cistern + 3 ≤ (s.takenUp 0 0).ftl.cap) ∧
      (let s := devC none; let d := mkD k.code [(8 * 16, 1), (8 * 32, 3), (8 * 36, 5), (8 * 54, 4096)]
       serves s k 0 0 d = true ∧ dfld d 32 0 3 = 3 ∧ dfld d 54 0 16 = 4096 ∧ (s.takenUp 0 0).targetErr 0 3 0 = none ∧ mget (s.job 0).regions 0 = some region0 ∧ region0.runFree 0 4096 = true)) ∧
    (∀ n ≤ 50000, ∃ root u, (devC none).extentPlace 0 2 0 n = (.ok root, u)) ∧
    (let s := devC (some ckpt0)
     (s.job 0).ckpt = some ckpt0 ∧ s.ckptDurable ckpt0 = true ∧ 1 < (s.ckptNodes 0 ckpt0).length ∧ 1 ∉ ckpt0.ranks ∧ (∃ r < (s.ckptNodes 0 ckpt0).length, r ≠ 0 ∧ r ≠ 1 ∧ r ∉ ckpt0.ranks)) ∧
    (let k := { ckpt0 with rank := 1, sentAt := some 5, deadline := some 10000 }; let s := devC (some k)
     k.rank ≠ 0 ∧ k.sentAt.isSome = true ∧ 10000 ≤ s.now ∧ s.rootLost 0 k = true ∧ s.rootLost 0 { k with rank := 0 } = false) ∧
    (let k := { ckpt0 with rank := 1, sentAt := some 5 }; let s := devC (some k)
     k.deadline = none ∧ s.rootLost 0 k = true ∧ 5 + ((mget (s.job 0).fabGroups k.group).map (·.collUs)).getD 10000 ≤ s.now) := by
  refine ⟨?_, fun n hn => extentPlace_cistern rfl rfl hn, ⟨rfl, ?_, ?_, ?_, ?_⟩, ?_, ?_⟩ <;> decide +kernel
theorem witness_CheckpointRoom : ((devC none).takenUp 0 0).generalPlace 0 3 [] ≠ none := by
  have := generalPlace_ok (s := (devC none).takenUp 0 0) (j := 0) (count := 3) (bs := []) rfl rfl (by decide +kernel)
  intro h
  simp [h] at this

/-! A manifest without shards, of job tag 9, in T3 region 0, and behind it a source map that names the region for every rank. -/
def manA : List Byte := leBytes 4 0x4E414D43 ++ [2, 0, 0, 0] ++ zeros 16 ++ leBytes 4 9 ++ zeros 12 ++ leBytes 8 128
def man : List Byte := manA ++ leBytes 32 (sha256 (manA ++ zeros 80)).toNat ++ zeros 48
def smap : List Byte := ([3] ++ zeros 15) ++ zeros 1008
def devM : State :=
  { modDev (fun x => { x with regions := [(0, { region0 with iova := 0x10000 })] }) with regs := [(Reg.jobTag 0, 9)], fabric := { node := 1 }, host := cells 0x10000 (man ++ smap) }
theorem man_length : man.length = 128 := by rfl
theorem mapped : (devM.takenUp 0 0).rd false 0x10080 1024 = some smap := by
  have h := readAll_part (man ++ smap) 0x10000 128 1024 (by rw [List.length_append, man_length]; decide +kernel)
  have : ((man ++ smap).drop 128).take 1024 = smap := by
    rw [List.drop_append_of_le_length (by rw [man_length]), List.drop_of_length_le (by rw [man_length])]
    exact List.take_of_length_le (by decide +kernel)
  have hh : (devM.takenUp 0 0).host = cells 0x10000 (man ++ smap) := rfl
  rw [this] at h
  simp only [State.rd, hh, Bool.false_eq_true, if_false]
  exact h
theorem sourced : (devM.takenUp 0 0).srcRead 0 (3, 0, 0) 0 128 = .ok (man, devM.takenUp 0 0) := by
  have h := readAll_part (man ++ smap) 0x10000 0 128 (by rw [List.length_append, man_length]; omega)
  have : ((man ++ smap).drop 0).take 128 = man := by
    rw [List.drop_zero, List.take_append_of_le_length (by rw [man_length]), List.take_of_length_le (by rw [man_length])]
  rw [this] at h
  have hr : mget ((devM.takenUp 0 0).job 0).regions 0 = some { region0 with iova := 0x10000 } := rfl
  have hh : (devM.takenUp 0 0).host = cells 0x10000 (man ++ smap) := rfl
  have hp : ({ region0 with iova := 0x10000 } : T3Region).at_ (0 + 0) = 0x10000 + 0 := by decide +kernel
  simp only [State.srcRead, hr, hh, if_true, hp, h]
set_option maxRecDepth 100000 in
theorem manifestRead : (devM.takenUp 0 0).readManifest 0 (3, 0, 0) 0 false = .ok (man, devM.takenUp 0 0) := by
  have hh : manifestHead man = true := by decide +kernel
  have hl : at_ man 40 8 = 128 := by decide +kernel
  have hb : manifestBlank man = manA ++ zeros 80 := by rfl
  have hd : at_ man 48 32 = (sha256 (manA ++ zeros 80)).toNat := by
    have : sub man 48 32 = leBytes 32 (sha256 (manA ++ zeros 80)).toNat := by rfl
    unfold at_
    rw [this, leNat_leBytes]
    exact Nat.mod_eq_of_lt (sha256 (manA ++ zeros 80)).isLt
  have ht : BitVec.ofNat 32 (at_ man 24 4) = (devM.takenUp 0 0).jobTag 0 := by decide +kernel
  unfold State.readManifest
  simp only [sourced, hh, hl, hb, hd, ht]
  simp
theorem witness_Restores :
    (let r := mkD 0x0803 [(8 * 24, 0x10080), (8 * 20, 0)]; let f := mkD 0x0804 [(8 * 24, 0x10080)]
     ((devM.takenUp 0 0).addrOk 0 r 24 1024 = true ∧ dhbm r 24 = false ∧ daddr r 24 = 0x10080 ∧ mapPlace (sub smap (16 * dfld r 18 0 6) 16) = some (3, 0, 0)) ∧
     ((devM.takenUp 0 0).addrOk 0 f 24 1024 = true ∧ dhbm f 24 = false ∧ daddr f 24 = 0x10080 ∧ mapPlace (sub smap (16 * dfld f 18 0 6) 16) = some (3, 0, 0)) ∧
     serves devM kRestore 0 0 r = true ∧ serves devM kCkptFree 0 0 f = true ∧ isOk ((devM.takenUp 0 0).ckptGroup 0 (dfld r 16 0 8)) = true ∧ dfld r 40 0 17 ≤ 65536 ∧ daddr r 48 % 64 = 0 ∧
     dfld r 32 0 64 = 0 ∧ dfld r 48 0 64 = 0 ∧ dfld r 56 0 64 = 0 ∧ manifestShards man = [] ∧ manifestSess man = [] ∧ bit r 136 = false ∧ bit r 137 = false ∧ bit r 138 = false ∧
     (devM.job 0).restores = []) ∧
    (let s := devM; let bad := mkD 0x0803 [(8 * 24, 0x10080), (8 * 20, 1)]
     serves s kRestore 0 0 bad = true ∧ dfld bad 20 0 32 = 1 ∧ isOk ((s.takenUp 0 0).readManifest 0 (3, 0, 0) 1 false) = false) := by
  refine ⟨⟨?_, ?_, ?_, ?_, ?_, ?_, ?_, ?_, ?_, ?_, ?_, ?_, ?_, ?_, ?_, rfl⟩, ?_, ?_, ?_⟩ <;> decide +kernel
theorem witness_CheckpointBeingRead :
    let r : Restore := { ctx := ctx0, place := (3, 0, 0), objects := [], adapters := [], tables := [], sessions := [], report := none, mapping := none, skipped := 0 }
    let s := devM.modJob 0 (fun x => { x with restores := [r] })
    s.jobs.any (fun e => e.2.restores.any (fun r => r.place == (3, 0, 0))) = true ∧
    { r with sessions := [(5, 6, sess5, {})] }.sessions.length = 1 ∧ { r with tables := [(3, tver, 7)] }.tables.length = 1 := by decide +kernel
/-! ### Flash, errors, security, resets, power -/

def sb0 (n : Nat) : SuperBlock := { die := 0, stream := 2, blocks := [], stripe := 0, fill := List.replicate n (0, 0, 0), filledAt := 0, closed := false, lastSeq := 0 }
def devE (f : Ftl) : State := { dev with ftl := f, regs := [(Reg.ftlRdCtl, 5 <<< 32)] }
theorem witness_FlashEvents :
    (∀ n : Nat, let s := devE { state := 2, cap := 100, cistern := 50, supers := [(1, sb0 n)] }
      (s.ftl.openSuper 2 0) = some (1, sb0 n) ∧ s.ftl.stopped = false ∧ (sb0 n).fill.length = n ∧ s.regsUp = true) ∧
    (let s := devE { state := 2, cap := 100, cistern := 50 }; fld (s.reg Reg.ftlRdCtl) 32 16 ≤ s.now - (sb0 1).filledAt ∧ (sb0 1).fill ≠ [] ∧
      s.now - ({ sb0 1 with filledAt := 9999 } : SuperBlock).filledAt < fld (s.reg Reg.ftlRdCtl) 32 16 ∧ s.sessAux.all (fun e => !e.2.waitTrim) = true ∧ 2 ≤ s.ftl.state ∧
      s.ftl.victims.contains (s.ftl.block (blockKey 31 15 3 0)).owner = false ∧ s.ftl.eraseBlocks.contains (blockKey 31 15 3 0) = false ∧ (s.ftl.block (blockKey 31 15 3 0)).retired = false ∧
      s.ftl.dieFailed 31 15 = false ∧ s.power.state ≠ .off ∧ (devE { stopped := true }).ftl.stopped = true) ∧ State.reset.regsUp = false :=
  ⟨fun n => ⟨rfl, rfl, List.length_replicate .., rfl⟩, by decide +kernel, by decide +kernel⟩
def err0 (cor : Bool) (src unit : Nat) : ErrInfo := { corrected := cor, source := src, unit := unit, code := 0, addr := 0, detail := 0, owner := .none }
def rec0 : ErrRec := { seq := 1, time := 9999, cls := 0, escalated := false, queued := false, source := 5, unit := 7, code := 0, job := none, conf := false, req := 0, session := 0, addr := 0, count := 1,
                       outcome := 0, handle := 0, detail := 0 }
theorem witness_ErrorUnit :
    (dev.errs.well.unread < 256 ∧ 256 ≤ ({ head := 256 } : ErrWell).unread ∧ (let s := modDev (fun x => { x with conf := true }); (s.job 0).conf = true)) ∧
    (State.reset.power.state = .active ∧ (err0 false 11 0).source = 11 ∧ dev.power.state = .active ∧
      (let s : State := { dev with errs := { well := { head := 1, slots := [(0, rec0)] } }, regs := [(Reg.errCtl, 10 <<< 16)] }
       (err0 true 5 7).corrected = true ∧ s.mergeSlot 5 7 0 = some 0 ∧ s.mergeSlot 5 8 0 = none)) ∧
    (let s : State := { dev with errs := { queued := [(err0 false 5 7, 3)] } }; s.errs.handling = [] ∧ s.threshold = s ∧ s.errs.queued = (err0 false 5 7, 3) :: []) ∧
    (let h : Handling := { source := 5, unit := 7, cls := 1, reqs := [], models := [1] }; let s : State := { dev with errs := { handling := [h] } }
     s.errs.queued = [] ∧ s.errs.handling = [h] ∧ s.errDone.errs.handling = [h] ∧ sameUnit (5, 7) (5, 7) = true ∧ sameUnit (5, 7) (5, 8) = false ∧ classOf (err0 false 5 8) = 1 ∧
     dev.errs.handling = []) ∧
    (dev.regsUp = true ∧ (let w : ErrWell := { head := 3, tail := 1 }; ((3 : W32) - w.tail).toNat ≤ (w.head - w.tail).toNat ∧ (w.head - w.tail).toNat < ((4 : W32) - w.tail).toNat)) ∧
    (dev.unitExists .group 64 = false ∧ dev.unitExists .group 63 = true ∧ dev.unitExists .bank 16383 = true ∧ dev.unitExists .bank 16384 = false ∧ dev.unitExists .port 31 = true ∧
      dev.unitExists .port 32 = false ∧ dev.unitExists .die 512 = false ∧ dev.unitAway .group 0 = false ∧ (dev.job 0).slice.groups.getLsbD 0 = true) ∧
    (let s (n : Nat) : State := { dev with errs := { units := [(unitKey .group 5, { state := n, failed := false })] } }
     (mget (s 1).errs.units (unitKey .group 5)).map (·.state) = some 1 ∧ (mget (s 2).errs.units (unitKey .group 5)).map (·.state) = some 2) ∧
    (let s (t : Nat) : State := { dev with power := { dev.power with clock := 200000 }, errs := { dumping := true, dump := { time := t } } }
     (s 0).errs.dumping = true ∧ (s 100000).errs.dump.time + 100000 ≤ (s 100000).now ∧ (s 100001).now < (s 100001).errs.dump.time + 100000) := by
  refine ⟨?_, ?_, ?_, ?_, ?_, ?_, ?_, ?_⟩ <;> decide +kernel
theorem errDone_keeps : let h : Handling := { source := 5, unit := 7, cls := 1, reqs := [], models := [1] }; let s : State := { dev with errs := { handling := [h] } }
    s.errDone = s := rfl
theorem witness_Security :
    (∀ a ∈ [0x2000, 0x2020], serves dev kAttest 0 0 (mkD 0x0901 [(8 * 48, a), (8 * 56, 0xFFFFFFFF)]) = true) ∧ (dev.job 0).keys.held.length < 2 ^ 32 ∧
    (let s := { modDev (fun x => { x with keys := { held := [(3, 7)] } }) with host := cells 0x10000 [1, 2] }; let d (n : Nat) := mkD 0x0902 [(8 * 16, n), (8 * 24, 0x10000), (8 * 32, 2)]
     serves s kInstallKeys 0 0 (d 3) = true ∧ (s.takenUp 0 0).addrOk 0 (d 3) 24 2 = true ∧ (s.job 0).keys.held.find? (fun h => h.1 == 4) = none ∧
     (s.job 0).keys.held.find? (fun h => h.1 == 3) = some (3, 7) ∧ (s.takenUp 0 0).fetch (d 3) 24 2 = some [1, 2]) ∧
    (let s : State := { dev with host := cells 0x10000 [1, 2] }; let d := mkD 0x0903 [(8 * 16, 0x10000), (8 * 24, 2)]
     serves s kFwUpdate 0 0 d = true ∧ (s.job 0).func = 0 ∧ (s.takenUp 0 0).addrOk 0 d 16 2 = true ∧ s.sec.fwWrite = none ∧ (s.takenUp 0 0).fetch d 16 2 = some [1, 2]) ∧
    dev.sec.boot = 2 ∧ State.reset.sec.boot ≠ 2 ∧
    (let s : State := { dev with sec := { boot := 1 } }; let v : W64 := 3 + 1 <<< 60
     bit v 60 = true ∧ bit (3 : W64) 60 = false ∧ s.sec.boot = 1 ∧ s.power.level = none ∧ onlyFields v [(0, 16), (32, 24), (60, 2)] = true ∧ Memory.wf (some 0) s.sec.recBuf = true ∧ fld v 0 16 < 32768 ∧ fld v 0 16 < ([1, 2, 3, 4] : List Byte).length ∧ fld v 32 24 + 3 < 2 ^ 24) ∧
    (let v : W64 := 0xF05E0000000080FF
     dev.regsUp = true ∧ fld v 48 16 = 0xF05E ∧ onlyFields v [(0, 8), (15, 1), (48, 16)] = true ∧ bit v 15 = true ∧ State.reset.jobs.any (fun e => e.2.active) = false) := by
  refine ⟨?_, ?_, ?_, ?_, ?_, ?_, ?_, ?_⟩ <;> decide +kernel
theorem witness_Resets :
    (dev.regsUp = true ∧ State.reset.regsUp = false ∧ fld (0x5E7A000000000003 : W64) 48 16 = 0x5E7A ∧ onlyFields (0x5E7A000000000003 : W64) [(0, 2), (48, 16)] = true) ∧
    (dev.power.state = .active ∧ dev.power.level = none ∧ dev.power.levelOf Src.hostCore = 0 ∧ dev.power.levelOf Src.hostSystem ≠ 0 ∧ dev.power.draining = false ∧ dev.power.prep = 0) ∧
    (dev.pins.resetIn = true ∧ ({ dev with pins := { resetIn := false } } : State).pins.resetIn = false ∧ ({ dev with power := { state := .standby } } : State).power.state = .standby) ∧
    (let s : State := { devS .parked with power := { dev.power with draining := true } }; s.power.draining = true ∧ ∀ e ∈ s.sessions, e.2.t0 = false) ∧
    (∀ l ∈ [0, 1, 3], let s : State := { dev with power := { dev.power with level := some l, ready := false, clock := 2000 } }
      s.power.level = some l ∧ s.power.state = .active ∧ s.power.acceptedAt + 2000 ≤ s.now ∧ (s.power.pinSource = true → s.pins.resetIn = true) ∧ s.pins.osc = true ∧ bit s.pins.straps 4 = false) ∧
    State.reset.now < State.reset.power.acceptedAt + 2000 ∧
    (dev.sec.spi = [] ∧ dev.sec.spiGood = true ∧ ({ boot := 2, spiGood := false } : Sec).spiGood = false) ∧
    (∀ x ∈ [94, 0], x < 95) ∧ (∃ x ∈ [94, 95], 95 ≤ x) ∧
    (blockCount 0 = 64 ∧ blockCount 6 = 1024 ∧ blockCount 7 = 0 ∧ dev.offline 0 63 = false ∧
      (let s : State := { dev with blockOff := [unitOf 0 63, unitOf 6 1023, unitOf 3 15] }
       s.offline 0 63 = true ∧ s.blockIdle 0 63 = true ∧ s.offline 6 1023 = true ∧ s.blockIdle 6 1023 = true ∧ s.offline 3 15 = true ∧ s.blockIdle 3 15 = true ∧ s.blockIdle 0 0 = false)) := by
  refine ⟨?_, ?_, ?_, ?_, ?_, ?_, ?_, ?_, ?_, ?_⟩ <;> decide +kernel
theorem witness_PowerAndSideband :
    ({ dev with power := { state := .standby } } : State).power.state ≠ .active ∧ ({ dev with power := { state := .off } } : State).power.state = .off ∧ dev.power.state = .active ∧
    (115 ≤ 115 ∧ 114 < 115 ∧ 104 < 105) ∧ (dev.power.level = none ∧ 11 ≤ dev.power.clampC0 ∧ dev.power.clampC0 ≤ 33 ∧
      ({ dev with power := { dev.power with capMgmt := 300 } } : State).effectiveCap.any (fun c => decide (c < 601)) = true) ∧
    dev.pins.osc = true ∧ ({ dev with pins := { osc := false } } : State).pins.osc = false ∧ ({ dev with pins := { linkUp := true } } : State).pins.linkUp = true ∧ 8 ∈ [1, 2, 4, 8] ∧
    (∀ b : Bool, ({ dev with sec := { boot := 2, confActive := b } } : State).sec.confActive = b ∧ dev.sec.debugLock = false) := by decide +kernel

/-- R13: after an uncorrectable HBM error in the entry of idle session 5, the failed check at its next fill ends the session. -/
theorem test_entry_hbm : let s := nextOf (exec (.errorDetected ⟨false, 3, 0, 2, 320, 0, .entry 5⟩) (devS .open))
    let t := s.entryCorrupt 5
    (s.aux 5).corrupt = true ∧ (s.sess 5).state = .open ∧ (t.aux 5).corrupt = false ∧ (t.sess 5).state ≠ .open := by decide +kernel
end Sys2Proof.Tests
end

section
/-!
SUPPORT. Free indices of keyed collections and of the request table; byte strings as they are read back.
-/
namespace Sys2Proof.Machine

open Sys2Proof

/-! ## Free indices -/

/-- Of `n + 1` places in a row on a ring of more than `n`, one is not among `n` used ones. -/
theorem exists_unused (used : List Nat) (start : Nat) {bound n : Nat} (hu : used.length ≤ n) (hb : n < bound) :
    ∃ i ∈ (List.range (n + 1)).map (fun k => (start + k) % bound), i ∉ used := by
  by_contra hall
  push Not at hall
  have hnd : ((List.range (n + 1)).map (fun k => (start + k) % bound)).Nodup := by
    refine List.Nodup.map_on (fun a ha b hb' h => ?_) List.nodup_range
    rw [List.mem_range] at ha hb'
    exact (Nat.ModEq.add_left_cancel' start h).eq_of_lt_of_lt (by omega) (by omega)
  have hle := (hnd.subperm hall).length_le
  rw [List.length_map, List.length_range] at hle
  omega

theorem mget_none_of_notMem {α : Type} {m : Map α} {i : Nat} (h : i ∉ m.map (·.1)) : mget m i = none := by
  induction m with
  | nil => rfl
  | cons e m ih =>
    obtain ⟨k, w⟩ := e
    simp only [List.map_cons, List.mem_cons, not_or] at h
    rw [mget_cons, if_neg (Ne.symm h.1), ih h.2]

theorem mem_of_mget {α : Type} {m : Map α} {i : Nat} {v : α} (h : mget m i = some v) : (i, v) ∈ m := by
  induction m with
  | nil => cases h
  | cons e m ih =>
    obtain ⟨k, w⟩ := e
    rw [mget_cons] at h
    split at h
    next hk => cases h; exact hk ▸ List.mem_cons_self
    next => exact List.mem_cons_of_mem _ (ih h)

/-- A collection with fewer entries than there are keys leaves one free. -/
theorem mfree_exists {α : Type} (m : Map α) (start : Nat) {bound : Nat} (h : m.length < bound) :
    ∃ i, mfree m start bound = some i ∧ i < bound ∧ mget m i = none := by
  obtain ⟨i, hi, hnot⟩ := exists_unused (m.map (·.1)) start (List.length_map _).le h
  have hlt : i < bound := by
    obtain ⟨k, -, rfl⟩ := List.mem_map.1 hi
    exact Nat.mod_lt _ (by omega)
  have hfound : (mfree m start bound).isSome = true :=
    List.find?_isSome.2 ⟨i, hi, by simp [hlt, mget_none_of_notMem hnot]⟩
  obtain ⟨j, hj⟩ := Option.isSome_iff_exists.1 hfound
  have hp := List.find?_some hj
  simp only [Bool.and_eq_true, decide_eq_true_eq, Option.isNone_iff_eq_none] at hp
  exact ⟨j, hj, hp⟩

/-- While fewer than 65,536 requests live, the device finds a FREE index of the request table (R27). -/
theorem State.freeReq_exists (s : State) (start : Nat) (h : s.liveReqs < 65536) :
    ∃ r, s.freeReq start = some r ∧ (s.req r).rstate = .free := by
  obtain ⟨i, hi, hnot⟩ := exists_unused ((s.reqs.filter (fun e => e.2.rstate != .free)).map (·.1)) start (List.length_map _).le h
  have hfree : (s.req i).rstate = .free := by
    by_contra hlive
    have hget : mget s.reqs i = some (s.req i) := by
      unfold State.req mgetD at hlive ⊢
      cases hm : mget s.reqs i with
      | none => simp [hm] at hlive
      | some r => rfl
    exact hnot (List.mem_map.2 ⟨_, List.mem_filter.2 ⟨mem_of_mget hget, by simpa using hlive⟩, rfl⟩)
  have hfound : (s.freeReq start).isSome = true :=
    List.find?_isSome.2 ⟨i, hi, by simp [hfree, h]⟩
  obtain ⟨r, hr⟩ := Option.isSome_iff_exists.1 hfound
  have hp := List.find?_some hr
  simp only [Bool.and_eq_true, beq_iff_eq] at hp
  exact ⟨r, hr, hp.1⟩

/-! ## Byte strings -/

@[simp] theorem leBytes_length (n v : Nat) : (leBytes n v).length = n := by
  induction n generalizing v with
  | zero => rfl
  | succ n ih => simp [leBytes, ih]

theorem leNat_leBytes_mod (n v : Nat) : leNat (leBytes n v) = v % 256 ^ n := by
  induction n generalizing v with
  | zero => simp [leBytes, leNat, Nat.mod_one]
  | succ n ih =>
    rw [leBytes, leNat, ih, BitVec.toNat_ofNat, pow_succ' 256 n, Nat.mod_mul]

/-- What is read at the start of a string that was put together. -/
theorem at_append_left (a b : List Byte) : at_ (a ++ b) 0 a.length = leNat a := by
  simp [at_, sub, zeros]

theorem at_append_right (a b : List Byte) (k n : Nat) : at_ (a ++ b) (a.length + k) n = at_ b k n := by
  simp [at_, sub]

/-- Word `k` of a string of 32-bit words. -/
theorem at_words (l : List Nat) (rest : List Byte) {k : Nat} (h : k < l.length) :
    at_ (l.flatMap (leBytes 4) ++ rest) (4 * k) 4 = l[k] % 2 ^ 32 := by
  induction l generalizing k with
  | nil => cases h
  | cons v l ih =>
    rw [List.flatMap_cons, List.append_assoc]
    cases k with
    | zero => exact (at_append_left (leBytes 4 v) _).trans (leNat_leBytes_mod 4 v)
    | succ k =>
      have hk : k < l.length := by simpa using h
      rw [show 4 * (k + 1) = (leBytes 4 v).length + 4 * k by rw [leBytes_length]; omega, at_append_right, ih hk]
      rfl

theorem words_length (l : List Nat) : (l.flatMap (leBytes 4)).length = 4 * l.length := by
  induction l with
  | nil => rfl
  | cons v l ih => rw [List.flatMap_cons, List.length_append, leBytes_length, ih, List.length_cons]; omega

theorem length_of_mapM_some {α β : Type} {f : α → Option β} {l : List α} {r : List β} (h : l.mapM f = some r) : r.length = l.length := by
  induction l generalizing r with
  | nil => cases h; rfl
  | cons a l ih =>
    simp only [List.mapM_cons, Option.pure_def, Option.bind_eq_bind, Option.bind_eq_some_iff, Option.some.injEq] at h
    obtain ⟨b, -, bs, hbs, rfl⟩ := h
    rw [List.length_cons, List.length_cons, ih hbs]

theorem Memory.readAll_length {m : List Host.Cell} {a n : Nat} {bs : List Byte} (h : Memory.readAll m a n = some bs) : bs.length = n := by
  rw [length_of_mapM_some h, List.length_range]

/-- A fetch that succeeds reads as many bytes as it was asked for. -/
theorem State.fetch_length {s : State} {d : Desc} {b n : Nat} {bs : List Byte} (h : s.fetch d b n = some bs) : bs.length = n := by
  unfold State.fetch State.rd at h
  split at h
  · cases h; simp [Memory.read]
  · exact Memory.readAll_length h

end Sys2Proof.Machine
end

section
/-!
SUPPORT. What the operations that every session descriptor begins with leave: taking it up, the cache of the session table, LAST_ACTIVE, free
values and the placing of grains, checks in their order.
-/
namespace Sys2Proof.Machine

open Sys2Proof

/-! ## What the commands of sessions, turns and places run -/

section
variable (s : State) (job well : Nat) (d : Desc)

theorem exec_eq_openSession : exec (.openSession job well d) s = execOpenSession job well d s := rfl
theorem exec_eq_submitTurn : exec (.submitTurn job well d) s = execSubmitTurn job well d s := rfl
theorem exec_eq_toolReturn : exec (.toolReturn job well d) s = execToolReturn job well d s := rfl
theorem exec_eq_park : exec (.park job well d) s = execPark job well d s := rfl
theorem exec_eq_close : exec (.close job well d) s = execClose job well d s := rfl
theorem exec_eq_endRequest : exec (.endRequest job well d) s = execEndRequest job well d s := rfl
theorem exec_eq_migrate : exec (.migrate job well d) s = execMigrate job well d s := rfl
theorem exec_eq_placeQuery : exec (.placeQuery job well d) s = execPlaceQuery job well d s := rfl
theorem exec_eq_registerT3 : exec (.registerT3 job well d) s = execRegisterT3 job well d s := rfl
theorem exec_eq_setOutput : exec (.setOutput job well d) s = execSetOutput job well d s := rfl

end

/-! ## Taking up a descriptor leaves all but its well and the well's shaper (R501, R502) -/

section
variable (s : State) (j w : Nat)

@[simp] theorem State.takenUp_sessions : (s.takenUp j w).sessions = s.sessions := rfl
@[simp] theorem State.takenUp_reqs : (s.takenUp j w).reqs = s.reqs := rfl
@[simp] theorem State.takenUp_host : (s.takenUp j w).host = s.host := rfl
@[simp] theorem State.takenUp_hbm : (s.takenUp j w).hbm = s.hbm := rfl
@[simp] theorem State.takenUp_sesCache : (s.takenUp j w).sesCache = s.sesCache := rfl
@[simp] theorem State.takenUp_sesBypass : (s.takenUp j w).sesBypass = s.sesBypass := rfl
@[simp] theorem State.takenUp_now : (s.takenUp j w).now = s.now := rfl
@[simp] theorem State.takenUp_reg (k : Nat) : (s.takenUp j w).reg k = s.reg k := rfl
@[simp] theorem State.takenUp_sess (k : Nat) : (s.takenUp j w).sess k = s.sess k := rfl
@[simp] theorem State.takenUp_aux (k : Nat) : (s.takenUp j w).aux k = s.aux k := rfl
@[simp] theorem State.takenUp_req (k : Nat) : (s.takenUp j w).req k = s.req k := rfl

theorem State.takenUp_job : (s.takenUp j w).job j = (s.job j).setSub w
    { (s.job j).subWell w with head := ((s.job j).subWell w).head + 1, unfinished := ((s.job j).subWell w).unfinished + 1
                               arrivals := ((s.job j).subWell w).arrivals.drop 1 } := by
  simp [State.takenUp]

@[simp] theorem State.takenUp_conf : ((s.takenUp j w).job j).conf = (s.job j).conf := by rw [State.takenUp_job]; rfl
@[simp] theorem State.takenUp_regions : ((s.takenUp j w).job j).regions = (s.job j).regions := by rw [State.takenUp_job]; rfl
@[simp] theorem State.takenUp_compWell (v : Nat) : ((s.takenUp j w).job j).compWell v = (s.job j).compWell v := by rw [State.takenUp_job]; rfl

end

/-! ## The cache of the session table (R12, R13) -/

/-- What writing an entry back can change. -/
theorem State.sesWriteBack_only (s : State) (i : Nat) :
    ∃ a q m r g, s.sesWriteBack i = { s with sessAux := a, seqs := q, hbm := m, refreshing := r, regs := g } := by
  unfold State.sesWriteBack
  split
  · generalize hu : (if (s.aux i).corrupt then s.modAux i (fun a => { a with corrupt := false }) else s) = u
    have hu' : ∃ a, u = { s with sessAux := a } := by
      subst hu
      split
      · exact ⟨_, rfl⟩
      · exact ⟨s.sessAux, rfl⟩
    obtain ⟨a, rfl⟩ := hu'
    obtain ⟨q, m, r, h, -⟩ := State.wrHbm_only { s with sessAux := a } (64 * i) (State.sess { s with sessAux := a } i).image
    dsimp only
    rw [h]
    exact ⟨a, q, m, r, _, rfl⟩
  · exact ⟨s.sessAux, s.seqs, s.hbm, s.refreshing, s.regs, rfl⟩

/-- What taking up an operation on a session can change. -/
theorem State.opened_only (s : State) (i : Nat) :
    ∃ a q m r g c b, s.opened i = { s with sessAux := a, seqs := q, hbm := m, refreshing := r, regs := g, sesCache := c, sesBypass := b } := by
  have hby : ∃ a q m r g b, s.sesBypassed = { s with sessAux := a, seqs := q, hbm := m, refreshing := r, regs := g, sesBypass := b } := by
    unfold State.sesBypassed
    split
    · exact ⟨s.sessAux, s.seqs, s.hbm, s.refreshing, s.regs, s.sesBypass, rfl⟩
    · rename_i k _
      obtain ⟨a, q, m, r, g, h⟩ := s.sesWriteBack_only k
      rw [h]
      exact ⟨a, q, m, r, g, none, rfl⟩
  obtain ⟨a, q, m, r, g, b, hby⟩ := hby
  simp only [State.opened, State.sesAccess, hby]
  split
  · exact ⟨a, q, m, r, g, _, b, rfl⟩
  · split
    · exact ⟨a, q, m, r, g, _, _, rfl⟩
    · rename_i t ht
      unfold State.sesRoom at ht
      split at ht
      · cases ht
        exact ⟨a, q, m, r, _, _, b, rfl⟩
      · rw [Option.map_eq_some_iff] at ht
        obtain ⟨k, -, rfl⟩ := ht
        obtain ⟨a', q', m', r', g', h⟩ := State.sesWriteBack_only
          { s with sessAux := a, seqs := q, hbm := m, refreshing := r, regs := g, sesBypass := b } k
        rw [h]
        exact ⟨a', q', m', r', _, _, b, rfl⟩

@[simp] theorem State.opened_sessions (s : State) (i : Nat) : (s.opened i).sessions = s.sessions := (s.opened_same i).sess
@[simp] theorem State.opened_reqs (s : State) (i : Nat) : (s.opened i).reqs = s.reqs := (s.opened_same i).reqs
@[simp] theorem State.opened_req (s : State) (i k : Nat) : (s.opened i).req k = s.req k := by simp only [State.req, State.opened_reqs]
@[simp] theorem State.opened_host (s : State) (i : Nat) : (s.opened i).host = s.host := by
  obtain ⟨a, q, m, r, g, c, b, h⟩ := s.opened_only i
  rw [h]

theorem State.sesBypassed_none {s : State} (h : s.sesBypass = none) : s.sesBypassed = s := by simp [State.sesBypassed, h]

/-- An operation on an entry that the cache holds makes it the most recently used one. -/
theorem State.opened_cached {s : State} {i : Nat} (hb : s.sesBypass = none) (h : s.sesCache.contains i = true) :
    s.opened i = { s with sesCache := i :: s.sesCache.filter (· != i) } := by
  unfold State.opened State.sesAccess
  dsimp only
  rw [State.sesBypassed_none hb, if_pos h]

/-- An entry that the cache has room for is filled. -/
theorem State.opened_filled {s : State} {i : Nat} (hb : s.sesBypass = none) (h : ¬ s.sesCache.contains i = true) (hc : s.sesCache.length < 65536) :
    s.opened i = { s with sesCache := i :: s.sesCache }.countReg Reg.cacheStat 0 32 1 := by
  unfold State.opened State.sesAccess State.sesRoom
  dsimp only
  rw [State.sesBypassed_none hb, if_neg h, if_pos hc]

/-- With a place in the cache and no entry served by bypass, taking up an operation writes nothing back, and the cache then holds the entry. -/
theorem State.opened_room {s : State} (i : Nat) (hb : s.sesBypass = none) (hc : s.sesCache.length < 65536) :
    (s.opened i).hbm = s.hbm ∧ (s.opened i).sesBypass = none ∧ (s.opened i).sesCache.contains i = true := by
  by_cases h : s.sesCache.contains i = true
  · rw [State.opened_cached hb h]
    exact ⟨rfl, hb, by simp⟩
  · rw [State.opened_filled hb h hc]
    exact ⟨rfl, hb, by simp⟩

/-! ## LAST_ACTIVE (R16) -/

theorem State.touch_only (s : State) (i : Nat) : ∃ m, s.touch i = { s with sessions := m } := by
  unfold State.touch
  dsimp only
  split
  · exact ⟨s.sessions, rfl⟩
  · exact ⟨_, rfl⟩

/-- LAST_ACTIVE is all that a descriptor's naming a session changes of it. -/
theorem State.touch_sess_same (s : State) (i : Nat) : ∃ l, (s.touch i).sess i = { s.sess i with lastActive := l } := by
  unfold State.touch
  dsimp only
  split
  · exact ⟨(s.sess i).lastActive, rfl⟩
  · exact ⟨s.now % 2 ^ 48, by simp⟩

@[simp] theorem State.touch_sess_other (s : State) {i k : Nat} (h : k ≠ i) : (s.touch i).sess k = s.sess k := by
  unfold State.touch
  dsimp only
  split
  · rfl
  · simp [h]

section
variable (s : State) (i : Nat)

@[simp] theorem State.touch_reqs : (s.touch i).reqs = s.reqs := by obtain ⟨m, h⟩ := s.touch_only i; rw [h]
@[simp] theorem State.touch_host : (s.touch i).host = s.host := by obtain ⟨m, h⟩ := s.touch_only i; rw [h]
@[simp] theorem State.touch_hbm : (s.touch i).hbm = s.hbm := by obtain ⟨m, h⟩ := s.touch_only i; rw [h]
@[simp] theorem State.touch_sesCache : (s.touch i).sesCache = s.sesCache := by obtain ⟨m, h⟩ := s.touch_only i; rw [h]
@[simp] theorem State.touch_sesBypass : (s.touch i).sesBypass = s.sesBypass := by obtain ⟨m, h⟩ := s.touch_only i; rw [h]
@[simp] theorem State.touch_now : (s.touch i).now = s.now := by obtain ⟨m, h⟩ := s.touch_only i; rw [h]; rfl
@[simp] theorem State.touch_job (k : Nat) : (s.touch i).job k = s.job k := by obtain ⟨m, h⟩ := s.touch_only i; rw [h]; rfl
@[simp] theorem State.touch_aux (k : Nat) : (s.touch i).aux k = s.aux k := by obtain ⟨m, h⟩ := s.touch_only i; rw [h]; rfl
@[simp] theorem State.touch_req (k : Nat) : (s.touch i).req k = s.req k := by obtain ⟨m, h⟩ := s.touch_only i; rw [h]; rfl
@[simp] theorem State.touch_state : ((s.touch i).sess i).state = (s.sess i).state := by obtain ⟨l, h⟩ := s.touch_sess_same i; rw [h]
@[simp] theorem State.touch_sess_job : ((s.touch i).sess i).job = (s.sess i).job := by obtain ⟨l, h⟩ := s.touch_sess_same i; rw [h]
@[simp] theorem State.touch_len : ((s.touch i).sess i).len = (s.sess i).len := by obtain ⟨l, h⟩ := s.touch_sess_same i; rw [h]
@[simp] theorem State.touch_prio : ((s.touch i).sess i).prio = (s.sess i).prio := by obtain ⟨l, h⟩ := s.touch_sess_same i; rw [h]

end

/-! ## The session that a descriptor names -/

/-- The state in which a descriptor finds the session it names. -/
def State.named (s : State) (job well i : Nat) : State := ((s.takenUp job well).opened i).touch i

section
variable (s : State) (job well i : Nat)

theorem State.named_now : (s.named job well i).now = s.now := by simp [State.named]
theorem State.named_sess_other {k : Nat} (h : k ≠ i) : (s.named job well i).sess k = s.sess k := by simp [State.named, h]

end

theorem State.named_sess_own {s : State} {job well i : Nat} (hn : (s.takenUp job well).Names job i) : ((s.named job well i).sess i).job = job := by
  simpa [State.named] using hn.own

/-! ## Free values (log entry 4) -/

/-- The state once free values up to number `n` have been drawn. -/
def State.drawnTo (s : State) (n : Nat) : State := { s with freeCtr := n }

theorem State.draw_eq (s : State) : s.draw = (s.freeCtr, s.drawnTo (s.freeCtr + 1)) := rfl

section
variable (s : State) (n : Nat)

@[simp] theorem State.drawnTo_drawnTo (m : Nat) : (s.drawnTo n).drawnTo m = s.drawnTo m := rfl
@[simp] theorem State.drawnTo_sessions : (s.drawnTo n).sessions = s.sessions := rfl
@[simp] theorem State.drawnTo_reqs : (s.drawnTo n).reqs = s.reqs := rfl
@[simp] theorem State.drawnTo_host : (s.drawnTo n).host = s.host := rfl
@[simp] theorem State.drawnTo_hbm : (s.drawnTo n).hbm = s.hbm := rfl
@[simp] theorem State.drawnTo_sesCache : (s.drawnTo n).sesCache = s.sesCache := rfl
@[simp] theorem State.drawnTo_sesBypass : (s.drawnTo n).sesBypass = s.sesBypass := rfl
@[simp] theorem State.drawnTo_freeCtr : (s.drawnTo n).freeCtr = n := rfl
@[simp] theorem State.drawnTo_now : (s.drawnTo n).now = s.now := rfl
@[simp] theorem State.drawnTo_job (k : Nat) : (s.drawnTo n).job k = s.job k := rfl
@[simp] theorem State.drawnTo_sess (k : Nat) : (s.drawnTo n).sess k = s.sess k := rfl
@[simp] theorem State.drawnTo_aux (k : Nat) : (s.drawnTo n).aux k = s.aux k := rfl
@[simp] theorem State.drawnTo_req (k : Nat) : (s.drawnTo n).req k = s.req k := rfl
@[simp] theorem State.drawnTo_reg (k : Nat) : (s.drawnTo n).reg k = s.reg k := rfl
@[simp] theorem State.drawnTo_sessCount (k : Nat) : (s.drawnTo n).sessCount k = s.sessCount k := rfl
@[simp] theorem State.drawnTo_modelOf (k h : Nat) : (s.drawnTo n).modelOf k h = s.modelOf k h := rfl

end

/-! ## Placing grains draws free values only (R54, R56) -/

theorem State.placeAll_only (s : State) (j pairs tier : Nat) (near gs done : List SGrain) :
    ∃ n, (s.placeAll j pairs tier near gs done).2 = s.drawnTo n := by
  induction gs generalizing s done with
  | nil => exact ⟨s.freeCtr, rfl⟩
  | cons g rest ih =>
    simp only [State.placeAll, State.draw_eq]
    split
    · exact ih (s.drawnTo (s.freeCtr + 1)) _
    · exact ih (s.drawnTo (s.freeCtr + 1 + 1 + 1)) _

theorem State.withMaps_only (s : State) (j pairs level epoch tier : Nat) (gs : List SGrain) :
    ∃ n, (s.withMaps j pairs level epoch tier gs).2 = s.drawnTo n :=
  s.placeAll_only j pairs tier _ _ _

/-! ## Checks in their order -/

@[simp] theorem firstFail_nil : firstFail [] = none := rfl
@[simp] theorem firstFail_pass (e : Nat) (cs : List (Bool × Nat)) : firstFail ((true, e) :: cs) = firstFail cs := rfl
@[simp] theorem firstFail_fail (e : Nat) (cs : List (Bool × Nat)) : firstFail ((false, e) :: cs) = some e := rfl

end Sys2Proof.Machine
end

section
/-!
PROOF. OPEN_SESSION (01_sessions, R31): obligation SessionsOpen.
-/
namespace Sys2Proof.Machine

open Sys2Proof

/-! ## OPEN_SESSION (R31) -/

/-- The entry that OPEN_SESSION makes of its descriptor, with the grains that were placed for it (Table 1.1). -/
def State.newSession (s : State) (job : Nat) (d : Desc) (m : Model) (gs : List SGrain) : Session :=
  { state := .open, pinned := bit d 139, conf := (s.job job).conf, job := job, model := dfld d 16 0 8, prio := dfld d 16 8 3
    eventWell := dfld d 16 12 4, ownerEpoch := 1, adapter := dfld d 20 0 16, root := mapRoot gs
    expiry := s.expiryIn (s.ttlOpen job (dfld d 32 0 32)), lastActive := s.now % 2 ^ 48, grammar := dfld d 22 0 16
    seed := BitVec.ofNat 64 (dfld d 24 0 64), level := rootLevel (m.layers * m.kvh), grains := gs }

/-- The state with a new session under a FREE number, which the session engine has taken up. -/
def State.withNew (s : State) (i : Nat) (x : Session) (m : Model) : State :=
  ((s.opened i).setSess i x).setAux i { layers := m.layers, kvh := m.kvh, modelDigest := m.digest, metaEntry := x.image }

/-- An OPEN_SESSION that passes its checks opens a FREE number; placing the first grains draws free values only. -/
theorem exec_openSession {s : State} {job well : Nat} {d : Desc} {m : Model} (hs : s.Serves kOpenSession job well d)
    (hlen : s.sessions.length < 2 ^ 24)
    (hquota : (s.takenUp job well).sessCount job < fld ((s.takenUp job well).reg (Reg.jobQuota job)) 0 25)
    (hmodel : (s.takenUp job well).modelOf job (dfld d 16 0 8) = some m)
    (hadapter : dfld d 20 0 16 = 0xFFFF ∨ (((s.takenUp job well).job job).adapterCurrent (dfld d 20 0 16)).isSome = true)
    (hgrammar : dfld d 22 0 16 = 0 ∨ ((mget ((s.takenUp job well).job job).grammars (dfld d 22 0 16)).bind ByteObj.cur).isSome = true) :
    ∃ i gs n, i < 2 ^ 24 ∧ mget s.sessions i = none ∧
      exec (.openSession job well d) s =
        .next ((((s.takenUp job well).drawnTo n).withNew i ((s.takenUp job well).newSession job d m gs) m).complete
          (descCtx kOpenSession job well d) Code.ok i 0 i) := by
  obtain ⟨i, hfree, hi, hnone⟩ := mfree_exists s.sessions (Config.freeNat (s.takenUp job well).freeCtr % 2 ^ 24) hlen
  have hsess : (s.takenUp job well).sessions = s.sessions := rfl
  simp only [exec_eq_openSession, execOpenSession, State.takeUp_serves hs]
  generalize s.takenUp job well = u at hquota hmodel hadapter hgrammar hfree hsess ⊢
  have ha : (dfld d 20 0 16 == 0xFFFF || ((u.job job).adapterCurrent (dfld d 20 0 16)).isSome) = true := by simpa using hadapter
  have hg : (dfld d 22 0 16 == 0 || ((mget (u.job job).grammars (dfld d 22 0 16)).bind ByteObj.cur).isSome) = true := by simpa using hgrammar
  simp only [State.draw_eq, State.drawnTo_sessions, State.drawnTo_sessCount, State.drawnTo_reg, State.drawnTo_modelOf, State.drawnTo_job,
    hsess, hfree, hmodel, hquota, decide_true, ha, hg, Option.isSome_some, firstFail_pass, firstFail_nil]
  generalize hsmall : (u.drawnTo _).placeAll _ _ _ _ _ _ = small
  obtain ⟨n, hn⟩ : ∃ n, small.2 = u.drawnTo n := hsmall ▸ (u.drawnTo _).placeAll_only _ _ _ _ _ _
  rw [hn]
  generalize hmaps : (u.drawnTo n).withMaps _ _ _ _ _ _ = maps
  obtain ⟨n', hn'⟩ : ∃ n', maps.2 = u.drawnTo n' := hmaps ▸ (u.drawnTo n).withMaps_only _ _ _ _ _ _
  rw [hn']
  exact ⟨i, maps.1, n', hi, hnone, rfl⟩

/-- Settles O31: the FREE number exists by counting; the new entry is then read off field by field. -/
theorem sessionsOpen : Obligations.SessionsOpen := by
  unfold Obligations.SessionsOpen
  intro s job well d m hs s0 hlen hquota hmodel hadapter hgrammar
  obtain ⟨i, gs, n, hi, hnone, hexec⟩ := exec_openSession hs hlen hquota hmodel hadapter hgrammar
  refine ⟨i, (s0.drawnTo n).withNew i (s0.newSession job d m gs) m, hi, by simp [State.sess, mgetD, hnone], hexec, ?_⟩
  have hhbm (hb : s.sesBypass = none) (hc : s.sesCache.length < 65536) : ((s0.drawnTo n).opened i).hbm = s.hbm :=
    (State.opened_room (s := s0.drawnTo n) i hb hc).1
  simp +contextual [State.withNew, State.newSession, s0, State.expiryIn, State.ttlOpen, hhbm]

end Sys2Proof.Machine
end

section
/-!
PROOF. CLOSE and END_REQUEST (01_sessions, R28, R35, R36): obligation SessionsClose.
-/
namespace Sys2Proof.Machine

open Sys2Proof

/-! ## Freeing a session (R35) -/

/-- What freeing an extent can change: the flash's maps, or a region of its job. -/
theorem State.extentFree_only (s : State) (j : Nat) (root : W64) (count : Nat) :
    ∃ f js, s.extentFree j root count = { s with ftl := f, jobs := js } := by
  unfold State.extentFree
  split
  · exact ⟨_, s.jobs, rfl⟩
  · split
    · exact ⟨s.ftl, _, rfl⟩
    · exact ⟨s.ftl, s.jobs, rfl⟩

section
variable (s : State) (j : Nat) (root : W64) (count : Nat)

@[simp] theorem State.extentFree_sess (k : Nat) : (s.extentFree j root count).sess k = s.sess k := by
  obtain ⟨f, js, h⟩ := s.extentFree_only j root count; rw [h]; rfl
@[simp] theorem State.extentFree_aux (k : Nat) : (s.extentFree j root count).aux k = s.aux k := by
  obtain ⟨f, js, h⟩ := s.extentFree_only j root count; rw [h]; rfl
@[simp] theorem State.extentFree_reqs : (s.extentFree j root count).reqs = s.reqs := by
  obtain ⟨f, js, h⟩ := s.extentFree_only j root count; rw [h]
@[simp] theorem State.extentFree_host : (s.extentFree j root count).host = s.host := by
  obtain ⟨f, js, h⟩ := s.extentFree_only j root count; rw [h]
@[simp] theorem State.extentFree_hbm : (s.extentFree j root count).hbm = s.hbm := by
  obtain ⟨f, js, h⟩ := s.extentFree_only j root count; rw [h]
@[simp] theorem State.extentFree_sesCache : (s.extentFree j root count).sesCache = s.sesCache := by
  obtain ⟨f, js, h⟩ := s.extentFree_only j root count; rw [h]
@[simp] theorem State.extentFree_sesBypass : (s.extentFree j root count).sesBypass = s.sesBypass := by
  obtain ⟨f, js, h⟩ := s.extentFree_only j root count; rw [h]

end

/-- The state without session `i`. -/
def State.without (s : State) (i : Nat) : State := { s with sessions := mdel s.sessions i, sessAux := mdel s.sessAux i }

@[simp] theorem State.without_sess (s : State) (i k : Nat) : (s.without i).sess k = if k = i then {} else s.sess k := by
  simp only [State.sess, State.without, mgetD, mget_mdel]
  split <;> rfl

/-- A session in ENDING that waits for nothing is FREE at once, and the CLOSEs that wait for it complete. -/
theorem State.settle_done {s : State} {i : Nat} (hst : (s.sess i).state = .ending) (ht : (s.aux i).waitTrim = false)
    (hp : (s.aux i).waitPeer = false) (hm : (s.aux i).move = none) :
    s.settle i = (s.aux i).closing.foldl (fun s c => s.complete c Code.ok 0 0 i) ((s.opened i).without i) := by
  unfold State.settle
  dsimp only
  rw [if_pos ⟨hst, ht, hp, by rw [hm]; rfl⟩]
  rfl

/-- A session with no copy in the flash or at a peer is FREE as soon as it ends; nothing else of the session and request tables changes, and no
byte of HBM when the cache holds its entry. -/
theorem State.endSession_frees {s : State} {i : Nat} (h2 : gTier (s.sess i).root ≠ 2) (h4 : gTier (s.sess i).root ≠ 4)
    (hpe : (s.aux i).peerExtent = none) (ht : (s.aux i).waitTrim = false) (hp : (s.aux i).waitPeer = false) (hm : (s.aux i).move = none) :
    ∃ t : State, s.endSession i = (s.aux i).closing.foldl (fun s c => s.complete c Code.ok 0 0 i) t ∧ (t.sess i).state = .free ∧
      (∀ k, k ≠ i → t.sess k = s.sess k) ∧ t.reqs = s.reqs ∧ t.host = s.host ∧
      (s.sesBypass = none → s.sesCache.contains i = true → t.hbm = s.hbm) := by
  unfold State.endSession
  simp only [hpe, if_neg h4, Option.toList_none, List.append_nil, List.foldl_nil]
  generalize hu : (State.setSess (s.extentFree _ _ _) i _).modAux i _ = u
  have hclosing : (u.aux i).closing = (s.aux i).closing := by simp [← hu]
  have hsess : ∀ k, k ≠ i → u.sess k = s.sess k := fun k hk => by simp [← hu, hk]
  refine ⟨(u.opened i).without i, ?_, by simp, fun k hk => by simp [hk, hsess], ?_, ?_, fun hb hc => ?_⟩
  · rw [State.settle_done (by simp [← hu]) (by simp [← hu, ht, h2]) (by simp [← hu, hp]) (by simp [← hu, hm]), hclosing]
  · calc ((u.opened i).without i).reqs = u.reqs := u.opened_reqs i
      _ = s.reqs := by simp [← hu]
  · calc ((u.opened i).without i).host = u.host := u.opened_host i
      _ = s.host := by simp [← hu]
  · have hopen := State.opened_cached (s := u) (i := i) (by simpa [← hu] using hb) (by simpa [← hu] using hc)
    rw [hopen]
    simp [← hu, State.without]

/-! ## CLOSE and END_REQUEST (R28, R35, R36) -/

/-- A served CLOSE of a session of the job that is not gone waits beside the others, and ends the session or its request. -/
theorem exec_close {s : State} {job well : Nat} {d : Desc} (hs : s.Serves kClose job well d) (hn : (s.takenUp job well).Names job (dfld d 16 0 24))
    (hgone : (((s.takenUp job well).opened (dfld d 16 0 24)).touch (dfld d 16 0 24)).gone (dfld d 16 0 24) = false) :
    let i := dfld d 16 0 24
    let s1 := ((s.takenUp job well).opened i).touch i
    let s2 := s1.setAux i { s1.aux i with closing := (s1.aux i).closing ++ [descCtx kClose job well d] }
    ((s1.sess i).state = .running ∨ (s1.sess i).state = .paused →
      exec (.close job well d) s = .next (s2.endReq ((s1.sess i).curReq % 65536) Code.closed false)) ∧
    ((s1.sess i).state = .open ∨ (s1.sess i).state = .toolWait ∨ (s1.sess i).state = .parked →
      exec (.close job well d) s = .next (s2.endSession i)) := by
  intro i s1 s2
  have hexec : exec (.close job well d) s = (match (s1.sess i).state with
      | .running | .paused => .next (s2.endReq ((s1.sess i).curReq % 65536) Code.closed false)
      | .moving => match s2.outXfer i with
        | some (_, t) => if t.phase = .sent then .next s2 else .next ((s2.abandonMove i).endSession i)
        | none => .next (s2.endSession i)
      | _ => .next (s2.endSession i)) := by
    simp only [exec_eq_close, execClose, State.takeUp_serves hs]
    rw [State.withSession_names hn]
    simp only [if_true, hgone, Bool.false_eq_true, if_false]
    rfl
  rw [hexec]
  refine ⟨fun hst => ?_, fun hst => ?_⟩
  · obtain h | h := hst <;> rw [h]
  · obtain h | h | h := hst <;> rw [h]

/-- An END_REQUEST that names no live request. -/
theorem exec_endRequest_stale {s : State} {job well : Nat} {d : Desc} (hs : s.Serves kEndRequest job well d)
    (h : (s.takenUp job well).liveId (dfld d 16 0 32) = none) :
    exec (.endRequest job well d) s = .next ((s.takenUp job well).complete (descCtx kEndRequest job well d) Code.staleRequest) := by
  simp only [exec_eq_endRequest, execEndRequest, State.takeUp_serves hs, h]

/-- An END_REQUEST that names a live request of the job completes first, and then ends it (log entry 24). -/
theorem exec_endRequest_live {s : State} {job well i : Nat} {d : Desc} (hs : s.Serves kEndRequest job well d)
    (hid : (s.takenUp job well).liveId (dfld d 16 0 32) = some i) (hjob : ((s.takenUp job well).req i).job = job)
    (hending : ((s.takenUp job well).req i).rstate ≠ .ending) :
    let s0 := s.takenUp job well
    let t := s0.complete (descCtx kEndRequest job well d) Code.ok 0 (dfld d 16 0 32) (s0.req i).session
    exec (.endRequest job well d) s =
      .next (if t.rstateOf i = .decode ∧ bit d 160 = false then t.endReq i Code.hostEnded true else t.discardEnd i Code.hostEnded) := by
  simp only [exec_eq_endRequest, execEndRequest, State.takeUp_serves hs, hid, hjob, ne_eq, not_true_eq_false, if_false, if_neg hending]
  split <;> rfl

theorem State.liveId_eq_none {s : State} {id : Nat} (h : (s.req (id % 65536)).rstate = .free ∨ (s.req (id % 65536)).gen ≠ id / 65536) :
    s.liveId id = none := by
  unfold State.liveId
  rw [if_neg (by tauto)]

theorem State.liveId_eq_some {s : State} {id : Nat} (hl : (s.req (id % 65536)).rstate ≠ .free) (hg : (s.req (id % 65536)).gen = id / 65536) :
    s.liveId id = some (id % 65536) := by
  unfold State.liveId
  rw [if_pos ⟨hl, hg⟩]

/-- Settles O32: an idle session without copies elsewhere is freed at once (`State.endSession_frees`); a RUNNING or PAUSED one keeps the CLOSE with
those that wait; END_REQUEST completes before the request ends (log entry 24). -/
theorem sessionsClose : Obligations.SessionsClose := by
  unfold Obligations.SessionsClose
  intro s job well d
  refine ⟨?_, ?_⟩
  · intro hs i c s1 hn hgone
    obtain ⟨hrun, hidle⟩ := exec_close hs hn hgone
    refine ⟨fun hclosing hst h2 h4 hpe ht hp hm => ?_, hrun⟩
    obtain ⟨t, hend, hfree, hsess, hreqs, hhost, hhbm⟩ :=
      (s1.setAux i { s1.aux i with closing := (s1.aux i).closing ++ [c] }).endSession_frees (i := i) (by simpa using h2) (by simpa using h4)
        (by simpa using hpe) (by simpa using ht) (by simpa using hp) (by simpa using hm)
    refine ⟨t, ?_, hfree, fun k hk => ?_, ?_, ?_, fun hb hc => ?_⟩
    · rw [hidle hst, hend]
      simp [hclosing, i]
    · simp [hsess k hk, s1, hk]
    · simp [hreqs, s1]
    · simp [hhost, s1]
    · obtain ⟨hmem, hby, hin⟩ := State.opened_room (s := s.takenUp job well) i hb hc
      simp [hhbm (by simpa [s1] using hby) (by simpa [s1] using hin), s1, hmem]
  · intro hs s0 id i c t
    refine ⟨fun hstale => ?_, fun hlive hending hgen hjob => ?_⟩
    · exact exec_endRequest_stale hs (State.liveId_eq_none hstale)
    · exact exec_endRequest_live hs (State.liveId_eq_some hlive hgen) hjob hending

end Sys2Proof.Machine
end

section
/-!
PROOF. SUBMIT_TURN and TOOL_RETURN (01_sessions, R32; 09_decode_and_residency, R238): obligation Turns.
-/
namespace Sys2Proof.Machine

open Sys2Proof

/-! ## Accepting a turn (R32, R505) -/

theorem State.enqueueLane_only (s : State) (r bytes : Nat) : ∃ p h, s.enqueueLane r bytes = { s with pools := p, shapers := h } := by
  unfold State.enqueueLane
  dsimp only
  split
  · exact ⟨s.pools, s.shapers, rfl⟩
  · exact s.enqueue_only _ _

section
variable (s : State) (r bytes : Nat)

@[simp] theorem State.enqueueLane_sess (k : Nat) : (s.enqueueLane r bytes).sess k = s.sess k := by
  obtain ⟨p, h, e⟩ := s.enqueueLane_only r bytes; rw [e]; rfl
@[simp] theorem State.enqueueLane_aux (k : Nat) : (s.enqueueLane r bytes).aux k = s.aux k := by
  obtain ⟨p, h, e⟩ := s.enqueueLane_only r bytes; rw [e]; rfl
@[simp] theorem State.enqueueLane_req (k : Nat) : (s.enqueueLane r bytes).req k = s.req k := by
  obtain ⟨p, h, e⟩ := s.enqueueLane_only r bytes; rw [e]; rfl

end

section
variable (s : State) (ctx : DescCtx) (i : Nat) (d : Desc) (t : TurnIn) (prior : SState) (toolp : Bool)

/-- The session of a new request runs it, and is otherwise as it was but for the adapter version it is bound to. -/
theorem State.createReq_sess_same : (s.createReq ctx i d t prior toolp).sess i =
    { s.sess i with state := .running, curReq := (s.createReq ctx i d t prior toolp).reqId t.index, adapterVer := t.adapterVer } := by
  simp [State.createReq, State.draw_eq, State.reqId]

theorem State.createReq_sess_other {k : Nat} (h : k ≠ i) : (s.createReq ctx i d t prior toolp).sess k = s.sess k := by
  simp [State.createReq, State.draw_eq, h]

theorem State.createReq_req_other {k : Nat} (h : k ≠ t.index) : (s.createReq ctx i d t prior toolp).req k = s.req k := by
  simp [State.createReq, State.draw_eq, h]

theorem State.createReq_damaged : ((s.createReq ctx i d t prior toolp).aux i).damaged = (s.aux i).damaged := by
  simp [State.createReq, State.draw_eq]

/-- Table 1.4: what the entry of a new request takes from the descriptor and from its session. -/
theorem State.createReq_req_same : let q := (s.createReq ctx i d t prior toolp).req t.index
    q.rstate = .queued ∧ q.job = ctx.job ∧ q.session = i ∧ q.cwell = ctx.cw ∧ q.startLen = (s.sess i).len ∧ q.maxNew = dfld d 24 0 21 ∧
      q.arrival = s.now ∧ q.deadline = (if dfld d 20 0 32 = 0 then 0 else (s.now + dfld d 20 0 32) % 2 ^ 64) ∧
      q.prio = (if bit d 155 then dfld d 16 24 3 else (s.sess i).prio) := by
  simp [State.createReq, State.draw_eq]

end

/-- A record posted to a completion well leaves what the device holds of the sessions. -/
theorem State.record_aux (s : State) (c : DescCtx) (status : Nat) (final : Bool) (result req session k : Nat) :
    (s.record c status final result req session).aux k = s.aux k := by
  obtain ⟨js, fs, q, m, r, h, e, -⟩ := s.post_only c.job c.cw _
  rw [State.record, e]; rfl

/-- A turn of an idle session with an intact copy is accepted as it stands: its request is created and its acceptance record posted. -/
theorem State.acceptTurn_idle {s : State} {c : DescCtx} {i : Nat} {d : Desc} {t : TurnIn} {prior : SState} (hst : (s.sess i).state ≠ .moving)
    (hp : prior ≠ .parked) (hd : (s.aux i).damaged = false) :
    s.acceptTurn c i d t prior = (s.createReq c i d t prior false).record { c with cw := c.sw } Code.ok false 0
      ((s.createReq c i d t prior false).reqId t.index) i := by
  simp [State.acceptTurn, hst, hp, State.record_aux, State.createReq_damaged, hd]

/-! ## The common course of SUBMIT_TURN and TOOL_RETURN (R533) -/

/-- A turn that passes its checks without an unpredictable operand is accepted. -/
theorem State.turn_accepts {s : State} {c : DescCtx} {d : Desc} {tool : Bool} {t : TurnIn} {p : SState} (hn : s.Names c.job (dfld d 16 0 24))
    (hp : ((s.opened (dfld d 16 0 24)).touch (dfld d 16 0 24)).turnState (dfld d 16 0 24) tool = some p) :
    let i := dfld d 16 0 24
    let s1 := (s.opened i).touch i
    let s2 := s1.drawnTo (s1.freeCtr + 1)
    s2.turnCheck c.job i c.kind d true (Config.freeNat s1.freeCtr % 65536) = { got := .ok t, spoilt := false } →
      s.turn c d tool = .next (s2.acceptTurn c i d t p) := by
  intro i s1 s2 hcheck
  have hp2 : s2.turnState i tool = some p := hp
  simp only [s2, s1, i] at hp2 hcheck ⊢
  unfold State.turn
  dsimp only
  rw [State.withSession_names (c := { c with cw := c.sw }) hn]
  simp only [if_true, State.draw_eq, hp2, Option.isSome_some, hcheck, Res.spoilIf_false]

/-- The kind, and the command, of a turn. -/
def turnKind (tool : Bool) : Kind := if tool then kToolReturn else kSubmitTurn
def turnInstr (tool : Bool) (job well : Nat) (d : Desc) : Instr := if tool then .toolReturn job well d else .submitTurn job well d

/-- A served turn, but for a TOOL_RETURN with CANCEL, takes the common course. -/
theorem exec_turnInstr {s : State} {job well : Nat} {d : Desc} {tool : Bool} (hs : s.Serves (turnKind tool) job well d)
    (hcancel : tool = true → bit d 367 = false) :
    exec (turnInstr tool job well d) s = (s.takenUp job well).turn (descCtx (turnKind tool) job well d) d tool := by
  cases tool with
  | false =>
    simp only [turnInstr, Bool.false_eq_true, if_false, exec_eq_submitTurn, execSubmitTurn]
    exact State.takeUp_serves hs
  | true =>
    simp only [turnInstr, if_true, exec_eq_toolReturn, execToolReturn, hcancel rfl, Bool.false_eq_true, if_false]
    exact State.takeUp_serves hs

/-- The state in which a turn of session `i` is checked: the engine has taken it up, and one free value is drawn. -/
def State.turnStart (s : State) (job well i : Nat) : State := (s.named job well i).drawnTo ((s.named job well i).freeCtr + 1)

section
variable (s : State) (job well i : Nat)

theorem State.turnStart_now : (s.turnStart job well i).now = s.now := by simp [State.turnStart, State.named]
theorem State.turnStart_state : ((s.turnStart job well i).sess i).state = (s.sess i).state := by simp [State.turnStart, State.named]
theorem State.turnStart_len : ((s.turnStart job well i).sess i).len = (s.sess i).len := by simp [State.turnStart, State.named]
theorem State.turnStart_prio : ((s.turnStart job well i).sess i).prio = (s.sess i).prio := by simp [State.turnStart, State.named]
theorem State.turnStart_sess_other {k : Nat} (h : k ≠ i) : (s.turnStart job well i).sess k = s.sess k := by simp [State.turnStart, State.named, h]
theorem State.turnStart_req (k : Nat) : (s.turnStart job well i).req k = s.req k := by simp [State.turnStart, State.named]

end

theorem turnKind_cw (tool : Bool) (job well : Nat) (d : Desc) : (descCtx (turnKind tool) job well d).cw = dfld d 44 0 4 := by
  cases tool <;> rfl

/-- The idle state a turn returns to is not MOVING. -/
theorem State.turnState_ne_moving {s : State} {i : Nat} {tool : Bool} {p : SState} (h : s.turnState i tool = some p) : p ≠ .moving := by
  rintro rfl
  unfold State.turnState at h
  dsimp only at h
  repeat' split at h
  all_goals simp_all

/-- An idle session gives a turn of its kind a row of Table 1.3. -/
theorem State.turnState_idle {s : State} {i : Nat} {tool : Bool} (h : (s.sess i).state = if tool then .toolWait else .open) :
    s.turnState i tool = some (if tool then .toolWait else .open) := by
  cases tool <;> simp_all [State.turnState]

section
variable {s : State} {job well i : Nat} {d : Desc} {tool : Bool} {t : TurnIn} {p : SState}

/-- A served turn that passes its checks is accepted. -/
theorem exec_turn_accepts (hi : dfld d 16 0 24 = i) (hs : s.Serves (turnKind tool) job well d) (hcancel : tool = true → bit d 367 = false)
    (hn : (s.takenUp job well).Names job i) (hp : (s.turnStart job well i).turnState i tool = some p)
    (hcheck : (s.turnStart job well i).turnCheck job i (turnKind tool).code d true
      (Config.freeNat (s.named job well i).freeCtr % 65536) = { got := .ok t, spoilt := false }) :
    exec (turnInstr tool job well d) s = .next ((s.turnStart job well i).acceptTurn (descCtx (turnKind tool) job well d) i d t p) := by
  subst hi
  exact (exec_turnInstr hs hcancel).trans (State.turn_accepts hn hp hcheck)

/-- A turn of an idle session with an intact copy leaves its new request and posts its acceptance record. -/
theorem exec_turn_idle (hi : dfld d 16 0 24 = i) (hs : s.Serves (turnKind tool) job well d) (hcancel : tool = true → bit d 367 = false)
    (hn : (s.takenUp job well).Names job i) (hp : (s.turnStart job well i).turnState i tool = some p)
    (hcheck : (s.turnStart job well i).turnCheck job i (turnKind tool).code d true
      (Config.freeNat (s.named job well i).freeCtr % 65536) = { got := .ok t, spoilt := false })
    (hst : ((s.turnStart job well i).sess i).state = p) (hpark : p ≠ .parked) (hdam : ((s.turnStart job well i).aux i).damaged = false) :
    let c := descCtx (turnKind tool) job well d
    let u := (s.turnStart job well i).createReq c i d t p false
    exec (turnInstr tool job well d) s = .next (u.record { c with cw := well } Code.ok false 0 (u.reqId t.index) i) := by
  rw [exec_turn_accepts hi hs hcancel hn hp hcheck, State.acceptTurn_idle (hst.trans_ne (State.turnState_ne_moving hp)) hpark hdam]
  rfl

end

/-! ## A turn of token identifiers with the default parameters (R239, R271, R533) -/

/-- The plain case of a turn: token identifiers of the vocabulary `v` of the session's model `m`, readable as `bs`, with the default parameter
block, no grammar and no adapter, below the limits and quotas. -/
structure State.PlainTurn (s : State) (job i : Nat) (d : Desc) (m : Model) (v : ByteVer) (bs : List Byte) : Prop where
  here : s.gone i = false
  noGrammar : (s.sess i).grammar = 0
  noAdapter : (s.sess i).adapter = 0xFFFF
  defaultBlock : dfld d 48 0 64 = 0
  maxNew : dfld d 24 0 21 ≠ 0
  spec : dfld d 16 28 3 ≤ 4
  noTools : dfld d 44 16 16 = 0
  model : s.modelOf job (s.sess i).model = some m
  modelWhole : m.damaged = false
  image : m.digest = (s.aux i).modelDigest
  vocab : (mget (s.job job).vocabs (s.sess i).model).bind ByteObj.cur = some v
  vocabWhole : v.damaged = false
  ring : ((s.job job).compWell (dfld d 44 0 4)).ring.isSome = true
  clear : (s.job job).conf = false
  ids : bit d 365 = true
  count : 1 ≤ dfld d 40 0 32
  inHbm : s.addrOk job d 32 (4 * dfld d 40 0 32) = true
  text : s.fetch d 32 (4 * dfld d 40 0 32) = some bs
  inVocab : ∀ k < dfld d 40 0 32, at_ bs (4 * k) 4 < vocabSize v.image
  length : (s.sess i).len + dfld d 40 0 32 ≤ 2 ^ 20
  reqRoom : s.liveReqs < 65536
  quota : s.reqCount job < fld (s.reg (Reg.jobQuota job)) 32 17

/-- Drawing a free value leaves a turn plain. -/
theorem State.PlainTurn.drawnTo {s : State} {job i : Nat} {d : Desc} {m : Model} {v : ByteVer} {bs : List Byte} (h : s.PlainTurn job i d m v bs)
    (n : Nat) : (s.drawnTo n).PlainTurn job i d m v bs := { h with }

/-- A plain turn passes every check, and takes a FREE request. -/
theorem State.turnCheck_plain {s : State} {job i : Nat} {d : Desc} {m : Model} {v : ByteVer} {bs : List Byte} (h : s.PlainTurn job i d m v bs)
    (kind start : Nat) :
    ∃ t, s.turnCheck job i kind d true start = { got := .ok t, spoilt := false } ∧ (s.req t.index).rstate = .free := by
  obtain ⟨r, hfree, hr⟩ := s.freeReq_exists start h.reqRoom
  have hn : bs.length / 4 = dfld d 40 0 32 := by rw [State.fetch_length h.text]; omega
  have hpre : bit d (8 * 44 + 13) = true := h.ids
  have hgrammar : s.turnGrammar job i defaultParams = some none := by simp [State.turnGrammar, defaultParams, h.noGrammar]
  have htext : s.turnText job i kind d = .ok bs := by simp [State.turnText, hpre, h.clear, h.text]
  have himage : s.otherImage job i = false := by simp [State.otherImage, h.model, h.image]
  have hvocab : ((List.range (dfld d 40 0 32)).map (fun k => at_ bs (4 * k) 4)).any (fun t => decide (vocabSize v.image ≤ t)) = false := by
    simpa using h.inVocab
  have hsome : ((List.range (dfld d 40 0 32)).map (fun k => at_ bs (4 * k) 4)).isEmpty = false := by
    have := h.count
    simp; omega
  have hmax : (dfld d 24 0 21 != 0) = true := by simpa using h.maxNew
  have hlen : (s.sess i).len + dfld d 40 0 32 ≤ 1048576 := h.length
  simp [State.turnCheck, hpre, h.clear, h.inHbm, h.defaultBlock, hgrammar, htext, himage, hmax, h.spec, h.noTools, h.here, h.model, h.modelWhole,
    h.noAdapter, h.vocab, h.vocabWhole, h.ring, hfree, hn, hvocab, hsome, hlen, h.quota, hr]

/-- A served plain turn of an idle session is accepted. -/
theorem exec_turn_plain {s : State} {job well i : Nat} {d : Desc} {tool : Bool} {m : Model} {v : ByteVer} {bs : List Byte} (hi : dfld d 16 0 24 = i)
    (hs : s.Serves (turnKind tool) job well d) (hcancel : tool = true → bit d 367 = false) (hn : (s.takenUp job well).Names job i)
    (hst : (s.sess i).state = if tool then .toolWait else .open) (hdam : ((s.turnStart job well i).aux i).damaged = false)
    (hplain : (s.named job well i).PlainTurn job i d m v bs) :
    ∃ (u : State) (r : Nat),
      exec (turnInstr tool job well d) s =
        .next (u.record { descCtx (turnKind tool) job well d with cw := well } Code.ok false 0 (u.reqId r) i) ∧
      ((s.turnStart job well i).req r).rstate = .free ∧ (u.sess i).state = .running ∧ (u.sess i).curReq = u.reqId r ∧
      (u.req r).rstate = .queued ∧ (u.req r).session = i ∧ (u.req r).job = job ∧ (u.req r).maxNew = dfld d 24 0 21 := by
  have hst' := (s.turnStart_state job well i).trans hst
  obtain ⟨t, hcheck, hfree⟩ := State.turnCheck_plain (hplain.drawnTo ((s.named job well i).freeCtr + 1)) (turnKind tool).code
    (Config.freeNat (s.named job well i).freeCtr % 65536)
  have hexec := exec_turn_idle hi hs hcancel hn (State.turnState_idle hst') hcheck hst' (by cases tool <;> simp) hdam
  obtain ⟨hq, hj, hses, -, -, hmax, -⟩ := (s.turnStart job well i).createReq_req_same (descCtx (turnKind tool) job well d) i d t
    (if tool then .toolWait else .open) false
  exact ⟨_, t.index, hexec, hfree, by rw [State.createReq_sess_same], by rw [State.createReq_sess_same], hq, hses, hj, hmax⟩

/-- TOOL_RETURN with CANCEL puts a session in TOOL_WAIT back into OPEN. -/
theorem exec_toolReturn_cancel {s : State} {job well : Nat} {d : Desc} (hs : s.Serves { kToolReturn with cwell := none } job well d)
    (hcancel : bit d 367 = true) (hn : (s.takenUp job well).Names job (dfld d 16 0 24)) :
    let i := dfld d 16 0 24
    let s1 := ((s.takenUp job well).opened i).touch i
    s1.gone i = false → (s1.sess i).state = .toolWait →
      exec (.toolReturn job well d) s = .next ((s1.setSess i { s1.sess i with state := .open }).complete
        (descCtx { kToolReturn with cwell := none } job well d) Code.ok 0 0 i) := by
  intro i s1 hgone hst
  simp only [exec_eq_toolReturn, execToolReturn, hcancel, if_true, State.takeUp_serves hs, State.cancelTool]
  rw [State.withSession_names hn]
  simp only [s1, i] at hgone hst ⊢
  simp only [if_true, hgone, Bool.false_eq_true, if_false, hst]

/-- Settles O33: a plain turn passes every check (`State.turnCheck_plain`), a turn that passes them is accepted (`exec_turn_accepts`), and acceptance
leaves the request of `State.createReq`; TOOL_RETURN with CANCEL needs none of the checks of R533. -/
theorem turns : Obligations.Turns := by
  unfold Obligations.Turns
  intro s job well d i s1 n plain accepted
  have hplain (tool : Bool) (m : Model) (v : ByteVer) (bs : List Byte) (hcancel : tool = true → bit d 367 = false)
      (hs : s.Serves (turnKind tool) job well d) (h : plain (if tool then .toolWait else .open) m v bs) :
      accepted (exec (turnInstr tool job well d) s) (descCtx (turnKind tool) job well d) := by
    obtain ⟨hn, hst, hgone, hdam, hgr, had, hpb, hmax, hspec, htools, hmodel, hmw, him, hvoc, hvw, hring, hconf, hids, hcount, hadr, hfetch, hin,
      hlen, hroom, hquota⟩ := h
    exact exec_turn_plain rfl hs hcancel hn hst hdam ⟨hgone, hgr, had, hpb, hmax, hspec, htools, hmodel, hmw, him, hvoc, hvw, hring, hconf, hids,
      hcount, hadr, hfetch, hin, hlen, hroom, hquota⟩
  refine ⟨fun m v bs hs h => hplain false m v bs (by simp) hs h, fun m v bs hcancel hs h => hplain true m v bs (fun _ => hcancel) hs h, ?_, ?_⟩
  · intro tool p t k c s2 e hcancel hs hn hp hcheck
    refine ⟨fun _ => exec_turn_accepts rfl hs hcancel hn hp hcheck, fun hst hpark hdam => ?_⟩
    obtain ⟨hq, hj, hses, hcw, hstart, hmax, harr, hdl, hprio⟩ := s2.createReq_req_same c i d t p false
    have hsess := s2.createReq_sess_same c i d t p false
    refine ⟨s2.createReq c i d t p false, exec_turn_idle rfl hs hcancel hn hp hcheck hst hpark hdam, by rw [hsess], by rw [hsess], ?_, hq, hj, hses,
      hcw.trans (turnKind_cw tool job well d), hstart.trans (s.turnStart_len job well i), hmax, harr.trans (s.turnStart_now job well i), ?_, ?_, ?_, ?_⟩
    · rw [hsess]
      exact s.turnStart_len job well i
    · rw [hdl, show s2.now = s.now from s.turnStart_now job well i]
    · rw [hprio, show (s2.sess i).prio = (s.sess i).prio from s.turnStart_prio job well i]
    · intro k hk
      rw [State.createReq_sess_other _ _ _ _ _ _ _ hk]
      exact s.turnStart_sess_other job well i hk
    · intro k hk
      rw [State.createReq_req_other _ _ _ _ _ _ _ hk]
      exact s.turnStart_req job well i k
  · intro k hcancel hs hn hgone hst
    exact exec_toolReturn_cancel hs hcancel hn hgone hst

end Sys2Proof.Machine
end

section
/-!
SUPPORT. What engine commands, moves and requests change of the tables.
-/
namespace Sys2Proof.Machine

open Sys2Proof

/-! ## Queueing a move's pump commands (Table 12.2) -/

theorem State.foldl_enqueue_only {α : Type} (c : Nat) (f : State → α → EngCmd) (l : List α) (s : State) :
    ∃ p h, l.foldl (fun s k => s.enqueue c (f s k)) s = { s with pools := p, shapers := h } := by
  induction l generalizing s with
  | nil => exact ⟨s.pools, s.shapers, rfl⟩
  | cons a l ih =>
    obtain ⟨p, h, e⟩ := s.enqueue_only c (f s a)
    obtain ⟨p', h', e'⟩ := ih { s with pools := p, shapers := h }
    exact ⟨p', h', by rw [List.foldl_cons, e, e']⟩

/-- What queueing the pump commands of a move or revival can change: of the session, STATUS and DONE of its pump descriptors. -/
theorem State.enqueueMove_only (s : State) (i count : Nat) :
    ∃ f p h b r, s.enqueueMove i count =
      { s.modAux i (fun a => { a with pumpStat := (0, 0) }) with ftl := f, pools := p, shapers := h, fabric := b, regs := r } := by
  unfold State.enqueueMove
  dsimp only
  generalize hu : (if gTier (s.sess i).root = 2 then
    { s with ftl := s.ftl.countReads ((List.range count).map (gAddr (s.sess i).root + ·)) } else s) = u
  obtain ⟨f, rfl⟩ : ∃ f, u = { s with ftl := f } := by
    subst hu
    split
    · exact ⟨_, rfl⟩
    · exact ⟨s.ftl, rfl⟩
  generalize hv : (if gTier (s.sess i).root = 4 then _ else _) = v
  obtain ⟨p, h, b, r, rfl⟩ : ∃ p h b r, v = { State.modAux { s with ftl := f } i (fun a => { a with pumpStat := (0, 0) }) with
      pools := p, shapers := h, fabric := b, regs := r } := by
    subst hv
    split
    · exact State.send_only _ _ _ _ _ _ _ _ _
    · exact ⟨s.pools, s.shapers, s.fabric, s.regs, rfl⟩
  obtain ⟨p', h', e⟩ := State.foldl_enqueue_only Cls.pump (fun s' k => (
    { job := (s.sess i).job, share := s'.shareOf i, req := s'.liveReq i, since := 0, cost := min 64 (count - 64 * k), work := .move i } : EngCmd))
    (List.range (cdiv count 64)) _
  exact ⟨f, p', h', b, r, e⟩

@[simp] theorem State.enqueueMove_sess (s : State) (i count k : Nat) : (s.enqueueMove i count).sess k = s.sess k := by
  obtain ⟨f, p, h, b, r, e⟩ := s.enqueueMove_only i count
  rw [e]; rfl

@[simp] theorem State.enqueueMove_move (s : State) (i count : Nat) : ((s.enqueueMove i count).aux i).move = (s.aux i).move := by
  obtain ⟨f, p, h, b, r, e⟩ := s.enqueueMove_only i count
  have haux : (s.enqueueMove i count).aux i = (s.modAux i (fun a => { a with pumpStat := (0, 0) })).aux i := by rw [e]; rfl
  rw [haux]
  simp

/-! ## Starting a move (R58, R59, R72) -/

/-- An abandoned move is dropped only where there is one. -/
theorem State.dropAbandoned_none {s : State} {i : Nat} (h : (s.aux i).move = none) : s.dropAbandoned i = s := by
  simp [State.dropAbandoned, h]

theorem State.groupScores_only (s : State) (j model : Nat) (scores : List Nat) : ∃ n, (s.groupScores j model scores).2 = s.drawnTo n := by
  unfold State.groupScores
  split
  · exact ⟨s.freeCtr, rfl⟩
  · exact ⟨s.freeCtr + 1, rfl⟩

theorem State.extentPlace_only (s : State) (j tier place count : Nat) : ∃ n, (s.extentPlace j tier place count).2 = s.drawnTo n := by
  refine ⟨s.freeCtr + 1, ?_⟩
  simp only [State.extentPlace, State.draw_eq]
  repeat' split
  all_goals rfl

/-- Session `i` is in MOVING by a move of this kind to this tier, from the state `src`, for the descriptor `ctx`; no other session has changed
since `s`. -/
structure State.Moving (s t : State) (i : Nat) (kind : MoveKind) (tier : Nat) (ctx : Option DescCtx) (src : SState) : Prop where
  state : (t.sess i).state = .moving
  move : ∃ m, (t.aux i).move = some m ∧ m.kind = kind ∧ m.tier = tier ∧ m.ctx = ctx ∧ m.src = src
  others : ∀ k, k ≠ i → t.sess k = s.sess k

/-- A move of an idle session to a parked extent that finds its place. -/
theorem State.startPark_moves {s : State} {i tier place ttl : Nat} {kind : MoveKind} {evict : Bool} {ctx : Option DescCtx}
    (hm : (s.aux i).move = none) (hok : (s.startPark i kind tier place ttl evict ctx).1.isOk = true) :
    ∃ t, s.startPark i kind tier place ttl evict ctx = (.ok (), t) ∧ s.Moving t i kind tier ctx (s.sess i).state := by
  revert hok
  unfold State.startPark
  simp only [State.dropAbandoned_none hm]
  generalize hscored : (if evict = true then s.groupScores _ _ _ else ([], s)) = scored
  obtain ⟨n, hn⟩ : ∃ n, scored.2 = s.drawnTo n := by
    subst hscored
    split
    · exact s.groupScores_only _ _ _
    · exact ⟨s.freeCtr, rfl⟩
  rw [hn]
  generalize (if evict = true then evictKeep _ _ _ _ _ else _) = keep
  split
  · intro hok
    cases hok
  · rename_i root s1 hplace
    intro _
    obtain ⟨n', hn'⟩ := (s.drawnTo n).extentPlace_only (s.sess i).job tier place (extentLen (s.pairs i) keep.length)
    rw [hplace] at hn'
    dsimp only at hn'
    subst hn'
    refine ⟨_, rfl, ?_⟩
    generalize hu : State.setAux _ i _ = u
    generalize hv : (if tier = 2 then _ else _) = v
    have hsess : ∀ k, v.sess k = u.sess k := by
      intro k
      subst hv
      repeat' split
      all_goals rfl
    have haux : v.aux i = u.aux i := by
      subst hv
      repeat' split
      all_goals rfl
    exact ⟨by simp [hsess, ← hu], ⟨_, by simp [haux, ← hu]; rfl, rfl, rfl, rfl, rfl⟩, fun k hk => by simp [hsess, ← hu, hk]⟩

/-- Giving a move up its places fills in where it goes, and no more of it. -/
theorem State.placeUp_only (s : State) (i : Nat) (m : Move) :
    (∀ k, (s.placeUp i m).sess k = s.sess k) ∧
      ∃ root gs, ((s.placeUp i m).aux i).move = some { m with dest := root, grains := gs, needT1 := 0 } := by
  unfold State.placeUp
  dsimp only
  generalize hdata : s.placeAll _ _ _ _ _ _ = data
  obtain ⟨n, hn⟩ : ∃ n, data.2 = s.drawnTo n := hdata ▸ s.placeAll_only _ _ _ _ _ _
  rw [hn]
  generalize hmaps : (s.drawnTo n).withMaps _ _ _ _ _ _ = maps
  obtain ⟨n', hn'⟩ : ∃ n', maps.2 = s.drawnTo n' := hmaps ▸ (s.drawnTo n).withMaps_only _ _ _ _ _ _
  rw [hn']
  exact ⟨fun k => by simp, mapRoot maps.1, maps.1, by simp⟩

/-- A move of an idle session to T0 or T1 that has room starts at once. -/
theorem State.startUp_moves {s : State} {i tier : Nat} {kind : MoveKind} {ctx : Option DescCtx} (hm : (s.aux i).move = none)
    (h0 : tier = 0 → ((s.sess i).grains.filter (fun g => g.kind != 2)).length ≤
      (s.t0Places (s.sess i).job (s.allGrains.map (fun e => e.2.addr))).length)
    (h1 : tier ≠ 0 → s.t1Room (s.sess i).job ((s.sess i).grains.filter (fun g => g.kind != 2)).length = true) :
    ∃ t, s.startUp i kind tier ctx = (.ok (), t) ∧ s.Moving t i kind tier ctx (s.sess i).state := by
  have hroom (n : Nat) (h : tier ≠ 0) : s.t1Room (s.sess i).job (((s.sess i).grains.filter (fun g => g.kind != 2)).length - n) = true := by
    have := h1 h
    simp only [State.t1Room, decide_eq_true_eq] at this ⊢
    omega
  unfold State.startUp
  simp only [State.dropAbandoned_none hm]
  generalize hu : State.setAux _ i _ = u
  have hstarted (m : Move) (hk : m.kind = kind) (ht : m.tier = tier) (hc : m.ctx = ctx) (hs : m.src = (s.sess i).state) :
      s.Moving (u.placeUp i m) i kind tier ctx (s.sess i).state := by
    obtain ⟨hsess, root, gs, hmove⟩ := u.placeUp_only i m
    exact ⟨by rw [hsess]; simp [← hu], ⟨_, hmove, hk, ht, hc, hs⟩, fun k hk => by rw [hsess]; simp [← hu, hk]⟩
  by_cases ht : tier = 0
  · rw [if_pos ht, if_neg (Nat.not_lt.2 (h0 ht))]
    exact ⟨_, rfl, hstarted _ rfl rfl rfl rfl⟩
  · rw [if_neg ht, if_pos (hroom _ ht)]
    exact ⟨_, rfl, hstarted _ rfl rfl rfl rfl⟩

end Sys2Proof.Machine
end

section
/-!
PROOF. PARK, MIGRATE, PLACE_QUERY, REGISTER_T3 and SET_OUTPUT (01_sessions, R34; 02_grains_and_tiers, R61, R67, R72, R73; 10_text_path,
R289): obligation Placement.
-/
namespace Sys2Proof.Machine

open Sys2Proof

theorem not_busy {x : SState} (h : x = .open ∨ x = .toolWait) : ¬ (x ≠ .open ∧ x ≠ .toolWait) := by tauto

theorem not_busy_or_away {x : SState} (h : x = .open ∨ x = .toolWait ∨ x = .parked) : ¬ (x ≠ .open ∧ x ≠ .toolWait ∧ x ≠ .parked) := by tauto

/-- How a descriptor fares whose move was to start: it waits for the move, or completes with the code that keeps it from starting. -/
def startResult (c : DescCtx) (i : Nat) : Except Nat Unit × State → Res
  | (.error e, s) => .next (s.complete c e 0 0 i)
  | (.ok _, s) => .next s

/-! ## PARK (R34, R67) -/

/-- The pending park that a PARK with AFTER_GRACE records: its grace period is twice the expected wait, or the default of TIER_JOB_POLICY where
none is given or it is longer than the longest one that counts (R67). -/
def State.gracePark (s : State) (job : Nat) (d : Desc) : GracePark :=
  let wait := dfld d 24 0 32
  let p := s.reg (Reg.jobPolicy job)
  { due := s.now + 1000 * (if wait = 0 ∨ fld p 16 16 < wait then fld p 0 16 else 2 * wait), tier := dfld d 16 24 3, region := dfld d 28 0 16
    ttl := s.ttlPark job (dfld d 20 0 32), evict := bit d 156 }

/-- A PARK whose checks pass. -/
theorem exec_park {s : State} {job well i : Nat} {d : Desc} (hi : dfld d 16 0 24 = i) (hs : s.Serves kPark job well d)
    (hn : (s.takenUp job well).Names job i) (ht : dfld d 16 24 3 = 2 ∨ dfld d 16 24 3 = 3) (hgone : (s.named job well i).gone i = false)
    (hst : ((s.named job well i).sess i).state = .open ∨ ((s.named job well i).sess i).state = .toolWait)
    (htarget : (s.named job well i).targetErr job (dfld d 16 24 3) (dfld d 28 0 16) = none) :
    let s1 := s.named job well i
    let c := descCtx kPark job well d
    let s2 := s1.modAux i (fun a => { a with expWait := dfld d 24 0 32, waitFrom := s1.now })
    (bit d 155 = true → exec (.park job well d) s =
      .next ((s2.modAux i (fun a => { a with grace := some (s1.gracePark job d) })).complete c Code.ok 0 0 i)) ∧
    (bit d 155 = false → exec (.park job well d) s = startResult c i
      (s2.startPark i .park (dfld d 16 24 3) (dfld d 28 0 16) (s1.ttlPark job (dfld d 20 0 32)) (bit d 156) (some c))) := by
  intro s1 c s2
  subst hi
  have htier : ¬ (dfld d 16 24 3 ≠ 2 ∧ dfld d 16 24 3 ≠ 3) := by omega
  simp only [exec_eq_park, execPark, State.takeUp_serves hs]
  rw [State.withSession_names hn]
  unfold State.named at hgone hst htarget
  simp only [if_true, if_neg htier, hgone, not_busy hst, htarget, Bool.false_eq_true, or_self, if_false]
  refine ⟨fun hgrace => ?_, fun hgrace => ?_⟩
  · rw [if_pos hgrace]
    rfl
  · rw [if_neg (by simp [hgrace])]
    rfl

section
variable {s : State} {job well i : Nat} {d : Desc} (hi : dfld d 16 0 24 = i) (hs : s.Serves kPark job well d)
  (hn : (s.takenUp job well).Names job i) (ht : dfld d 16 24 3 = 2 ∨ dfld d 16 24 3 = 3) (hgone : (s.named job well i).gone i = false)
  (hst : ((s.named job well i).sess i).state = .open ∨ ((s.named job well i).sess i).state = .toolWait)
  (htarget : (s.named job well i).targetErr job (dfld d 16 24 3) (dfld d 28 0 16) = none)
include hi hs hn ht hgone hst htarget

/-- A PARK with AFTER_GRACE records the pending park; the session stays as it is. -/
theorem exec_park_waits (hgrace : bit d 155 = true) :
    ∃ t : State, exec (.park job well d) s = .next (t.complete (descCtx kPark job well d) Code.ok 0 0 i) ∧ t.sess i = (s.named job well i).sess i ∧
      (t.aux i).grace = some ((s.named job well i).gracePark job d) ∧
      (∀ k, k ≠ i → t.sess k = s.sess k ∧ t.aux k = (s.named job well i).aux k) := by
  refine ⟨_, (exec_park hi hs hn ht hgone hst htarget).1 hgrace, by simp, by simp, fun k hk => ⟨?_, by simp [hk]⟩⟩
  simp [s.named_sess_other job well i hk]

/-- A PARK without AFTER_GRACE that can start puts the session into MOVING. -/
theorem exec_park_moves (hgrace : bit d 155 = false) (hmove : ((s.named job well i).aux i).move = none)
    (hok : (((s.named job well i).modAux i (fun a => { a with expWait := dfld d 24 0 32, waitFrom := (s.named job well i).now })).startPark i .park
      (dfld d 16 24 3) (dfld d 28 0 16) ((s.named job well i).ttlPark job (dfld d 20 0 32)) (bit d 156) (some (descCtx kPark job well d))).1.isOk = true) :
    ∃ t, exec (.park job well d) s = .next t ∧
      (s.named job well i).Moving t i .park (dfld d 16 24 3) (some (descCtx kPark job well d)) ((s.named job well i).sess i).state := by
  obtain ⟨t, hpark, hmoving⟩ := State.startPark_moves (by simpa using hmove) hok
  exact ⟨t, ((exec_park hi hs hn ht hgone hst htarget).2 hgrace).trans (congrArg (startResult _ i) hpark), hmoving.state,
    by simpa using hmoving.move, fun k hk => by simpa using hmoving.others k hk⟩

end

/-! ## MIGRATE to T0 or T1 (R72) -/

/-- A MIGRATE to T0 or T1 whose checks pass. -/
theorem exec_migrate_up {s : State} {job well i : Nat} {d : Desc} (hi : dfld d 16 0 24 = i) (hs : s.Serves kMigrate job well d)
    (hn : (s.takenUp job well).Names job i) (ht : dfld d 16 24 3 ≤ 1) (hgone : (s.named job well i).gone i = false)
    (hst : ((s.named job well i).sess i).state = .open ∨ ((s.named job well i).sess i).state = .toolWait ∨
      ((s.named job well i).sess i).state = .parked) :
    let c := descCtx kMigrate job well d
    exec (.migrate job well d) s = startResult c i ((s.named job well i).startUp i .migrate (dfld d 16 24 3) (some c)) := by
  intro c
  subst hi
  have hle : ¬ 4 < dfld d 16 24 3 := by omega
  have hpeer : dfld d 16 24 3 ≠ 4 := by omega
  have hdown : ¬ (dfld d 16 24 3 = 2 ∨ dfld d 16 24 3 = 3) := by omega
  simp only [exec_eq_migrate, execMigrate, State.takeUp_serves hs]
  rw [State.withSession_names hn]
  unfold State.named at hgone hst ⊢
  simp only [if_true, if_neg hle, hpeer, hgone, not_busy_or_away hst, hdown, if_pos ht, Bool.false_eq_true, or_self, false_and, if_false]
  rfl

/-- A MIGRATE to T0 or T1 that finds room there puts the session into MOVING. -/
theorem exec_migrate_moves {s : State} {job well i : Nat} {d : Desc} (hi : dfld d 16 0 24 = i) (hs : s.Serves kMigrate job well d)
    (hn : (s.takenUp job well).Names job i) (ht : dfld d 16 24 3 ≤ 1) (hgone : (s.named job well i).gone i = false)
    (hst : ((s.named job well i).sess i).state = .open ∨ ((s.named job well i).sess i).state = .toolWait ∨
      ((s.named job well i).sess i).state = .parked)
    (hmove : ((s.named job well i).aux i).move = none)
    (h0 : dfld d 16 24 3 = 0 → (((s.named job well i).sess i).grains.filter (fun g => g.kind != 2)).length ≤
      ((s.named job well i).t0Places job ((s.named job well i).allGrains.map (fun e => e.2.addr))).length)
    (h1 : dfld d 16 24 3 = 1 → (s.named job well i).t1Room job (((s.named job well i).sess i).grains.filter (fun g => g.kind != 2)).length = true) :
    ∃ t, exec (.migrate job well d) s = .next t ∧
      (s.named job well i).Moving t i .migrate (dfld d 16 24 3) (some (descCtx kMigrate job well d)) ((s.named job well i).sess i).state := by
  have hown := State.named_sess_own hn
  obtain ⟨t, hup, hmoving⟩ := State.startUp_moves (kind := .migrate) (ctx := some (descCtx kMigrate job well d)) hmove
    (by rw [hown]; exact h0) (fun h => by rw [hown]; exact h1 (by omega))
  exact ⟨t, (exec_migrate_up hi hs hn ht hgone hst).trans (congrArg (startResult _ i) hup), hmoving⟩

/-! ## PLACE_QUERY (R73) -/

theorem State.opened_gone (s : State) (i : Nat) : (s.opened i).gone i = s.gone i := by simp [State.gone, State.expired]

/-- The data grains of a session in each tier, from T0 on. -/
def State.tierCounts (s : State) (i : Nat) : List Nat :=
  (List.range 5).map (fun t => (((s.sess i).grains.filter (fun g => g.kind != 2)).filter (fun g => gTier g.addr == t)).length)

/-- The placement record: a count for each tier, eight words of estimates and times, and the state (Table 2.10). -/
theorem State.placement_eq (s : State) (i : Nat) :
    ∃ (ws : List Nat) (n : Nat), ws.length = 8 ∧ s.placement i =
      ((s.tierCounts i).flatMap (leBytes 4) ++ (ws.flatMap (leBytes 4) ++ (BitVec.ofNat 8 (s.sess i).state.code :: zeros 11)), s.drawnTo n) := by
  let left := if (s.aux i).expWait = 0 then 0xFFFFFFFF else (s.aux i).expWait - (s.now - (s.aux i).waitFrom) / 1000
  let idle := (s.now % 2 ^ 48 + 2 ^ 48 - (s.sess i).lastActive) % 2 ^ 48 / 1000
  let live := (s.sess i).state == .running || (s.sess i).state == .paused || (s.sess i).state == .moving
  let secs := if live then 0 else ((s.sess i).expiry + 2 ^ 48 - s.now % 2 ^ 48) % 2 ^ 48 / 1000000
  refine ⟨left :: (List.range 5).map (fun k => Config.freeNat (s.freeCtr + k)) ++ [idle, secs], s.freeCtr + 5, rfl, ?_⟩
  simp only [State.placement, State.draw_eq, State.tierCounts, List.flatMap_cons, List.append_assoc, List.nil_append, List.cons_append]
  rfl

theorem SState.code_lt (x : SState) : x.code < 256 := by cases x <;> decide

/-- What Table 2.10 says of the placement record. -/
theorem State.placement_record (s : State) (i : Nat) :
    (s.placement i).1.length = 64 ∧ (∀ k < 5, at_ (s.placement i).1 (4 * k) 4 =
      (((s.sess i).grains.filter (fun g => g.kind != 2)).filter (fun g => gTier g.addr == k)).length % 2 ^ 32) ∧
    at_ (s.placement i).1 52 1 = (s.sess i).state.code := by
  obtain ⟨ws, n, hws, h⟩ := s.placement_eq i
  have hcounts : (s.tierCounts i).length = 5 := by simp [State.tierCounts]
  rw [h]
  refine ⟨?_, fun k hk => ?_, ?_⟩
  · simp [hcounts, hws, zeros]
  · rw [at_words _ _ (by omega)]
    simp [State.tierCounts]
  · have hhead : 52 = ((s.tierCounts i).flatMap (leBytes 4) ++ ws.flatMap (leBytes 4)).length + 0 := by
      rw [List.length_append, words_length, words_length, hcounts, hws]
    rw [← List.append_assoc]
    conv_lhs => rw [hhead]
    rw [at_append_right]
    exact (at_append_left [_] _).trans (by simp [leNat, SState.code_lt])

/-- A PLACE_QUERY of a session that is not gone writes its placement record. -/
theorem exec_placeQuery {s : State} {job well i : Nat} {d : Desc} (hi : dfld d 16 0 24 = i) (hs : s.Serves kPlaceQuery job well d)
    (hn : (s.takenUp job well).Names job i) (hgone : (s.takenUp job well).gone i = false) :
    let p := ((s.takenUp job well).opened i).placement i
    exec (.placeQuery job well d) s =
      .next ((p.2.wr false (dfld d 24 0 64) p.1).complete (descCtx kPlaceQuery job well d) Code.ok 0 0 i) := by
  subst hi
  simp only [exec_eq_placeQuery, execPlaceQuery, State.takeUp_serves hs]
  rw [State.withSession_names hn]
  simp only [Bool.false_eq_true, if_false, State.opened_gone, hgone]

/-! ## REGISTER_T3 (R61) and SET_OUTPUT (R289) -/

/-- The low bits of a 64-bit address field read alike from the descriptor. -/
theorem fld_address (d : Desc) (b : Nat) {w : Nat} (hw : w ≤ 64) : fld (BitVec.ofNat 64 (dfld d b 0 64)) 0 w = dfld d b 0 w := by
  simp only [fld, dfld, BitVec.toNat_ofNat, Nat.shiftRight_zero, Nat.mod_mod]
  exact Nat.mod_mod_of_dvd _ (Nat.pow_dvd_pow 2 hw)

/-- A REGISTER_T3 of an aligned region that is free to be registered, or to be withdrawn. -/
theorem exec_registerT3 {s : State} {job well : Nat} {d : Desc} (hs : s.Serves kRegisterT3 job well d) (hn : dfld d 16 0 16 ≤ 255)
    (halign : dfld d 24 0 14 = 0)
    (hfree : (if dfld d 20 0 32 = 0 then !((s.takenUp job well).regionUsed job (dfld d 16 0 16))
      else (mget ((s.takenUp job well).job job).regions (dfld d 16 0 16)).isNone) = true) :
    let s0 := s.takenUp job well
    let r : T3Region := { iova := BitVec.ofNat 64 (dfld d 24 0 64), grains := dfld d 20 0 32, sealed := bit d 144, used := [] }
    let t := s0.modJob job (fun x => { x with
      regions := if dfld d 20 0 32 = 0 then mdel x.regions (dfld d 16 0 16) else mput x.regions (dfld d 16 0 16) r })
    exec (.registerT3 job well d) s = .next (t.complete (descCtx kRegisterT3 job well d) Code.ok) := by
  have hlow : fld (BitVec.ofNat 64 (dfld d 24 0 64)) 0 14 = 0 := (fld_address d 24 (by decide)).trans halign
  simp only [exec_eq_registerT3, execRegisterT3, State.takeUp_serves hs, hn, decide_true, hlow, beq_self_eq_true, hfree, firstFail_pass, firstFail_nil]

/-- A REGISTER_T3 at an address that is not 16 KiB-aligned. -/
theorem exec_registerT3_unaligned {s : State} {job well : Nat} {d : Desc} (hs : s.Serves kRegisterT3 job well d) (hn : dfld d 16 0 16 ≤ 255)
    (halign : dfld d 24 0 14 ≠ 0) :
    exec (.registerT3 job well d) s = .next ((s.takenUp job well).complete (descCtx kRegisterT3 job well d) Code.badRegion) := by
  have hlow : (fld (BitVec.ofNat 64 (dfld d 24 0 64)) 0 14 == 0) = false := by
    rw [fld_address d 24 (by decide)]
    simpa using halign
  simp only [exec_eq_registerT3, execRegisterT3, State.takeUp_serves hs, hn, decide_true, hlow, firstFail_pass, firstFail_fail]

/-- A SET_OUTPUT whose ring is well formed and free, or which withdraws a ring that no request uses. -/
theorem exec_setOutput {s : State} {job well : Nat} {d : Desc} (hs : s.Serves kSetOutput job well d)
    (hring : dfld d 32 0 5 = 0 ∨ (16 ≤ dfld d 32 0 5 ∧ dfld d 32 0 5 ≤ 30) ∧ dfld d 24 0 12 = 0)
    (hfree : (if dfld d 32 0 5 = 0 then ((s.job job).compWell (dfld d 16 0 4)).ring.isNone || !(s.takenUp job well).ringInUse job (dfld d 16 0 4)
      else ((s.job job).compWell (dfld d 16 0 4)).ring.isNone) = true) :
    let ring : OutRing := { iova := BitVec.ofNat 64 (dfld d 24 0 64), log2 := dfld d 32 0 5, cons := 0, prod := 0 }
    let t := (s.takenUp job well).modJob job (fun x => x.setComp (dfld d 16 0 4)
      { x.compWell (dfld d 16 0 4) with ring := if dfld d 32 0 5 = 0 then none else some ring })
    exec (.setOutput job well d) s = .next (t.complete (descCtx kSetOutput job well d) Code.ok) := by
  have hform : (dfld d 32 0 5 == 0 || (decide (16 ≤ dfld d 32 0 5 ∧ dfld d 32 0 5 ≤ 30) &&
      fld (BitVec.ofNat 64 (dfld d 24 0 64)) 0 12 == 0)) = true := by
    rw [fld_address d 24 (by decide)]
    simpa using hring
  simp only [exec_eq_setOutput, execSetOutput, State.takeUp_serves hs, State.takenUp_compWell, hform, hfree, firstFail_pass, firstFail_nil]

@[simp] theorem Job.compWell_setComp (x : Job) (w : Nat) (y : CompWell) : (x.setComp w y).compWell w = y := by
  simp [Job.compWell, Job.setComp]

/-- The three tables of a served REGISTER_T3 (R61). -/
theorem registerT3_settled {s : State} {job well : Nat} {d : Desc} (hs : s.Serves kRegisterT3 job well d) (hn : dfld d 16 0 16 ≤ 255) :
    let n := dfld d 16 0 16
    let c := descCtx kRegisterT3 job well d
    (dfld d 20 0 32 ≠ 0 → dfld d 24 0 14 = 0 → mget (s.job job).regions n = none →
      ∃ t : State, exec (.registerT3 job well d) s = .next (t.complete c Code.ok) ∧
        mget (t.job job).regions n = some { iova := BitVec.ofNat 64 (dfld d 24 0 64), grains := dfld d 20 0 32, sealed := bit d 144, used := [] } ∧
        (∀ k, k ≠ n → mget (t.job job).regions k = mget (s.job job).regions k) ∧ t.sessions = s.sessions) ∧
    (dfld d 20 0 32 = 0 → dfld d 24 0 14 = 0 → (s.takenUp job well).regionUsed job n = false →
      ∃ t : State, exec (.registerT3 job well d) s = .next (t.complete c Code.ok) ∧ mget (t.job job).regions n = none ∧ t.sessions = s.sessions) := by
  intro n c
  refine ⟨fun hg ha hnone => ?_, fun hg ha hused => ?_⟩
  · refine ⟨_, exec_registerT3 hs hn ha (by simp [hg, n, hnone]), ?_, fun k hk => ?_, ?_⟩
    · simp [hg, n]
    · simp [hg, show k ≠ dfld d 16 0 16 from hk]
    · simp
  · refine ⟨_, exec_registerT3 hs hn ha (by rw [if_pos hg, hused]; rfl), ?_, ?_⟩
    all_goals simp [hg, n]

/-- Settles O34: PARK and MIGRATE start a move that finds its place (`State.startPark_moves`, `State.startUp_moves`), PLACE_QUERY writes the record of
`State.placement_record`, and REGISTER_T3 and SET_OUTPUT change the table they name (an address that is not aligned, and GRAINS 0: log entry 53). -/
theorem placement : Obligations.Placement := by
  unfold Obligations.Placement
  intro s job well d s0 i
  refine ⟨?_, ?_, ?_, ?_, ?_⟩
  · intro hs hn s1 tier ttl c s2 ht hgone hst htarget
    refine ⟨?_, fun hgrace hmove hok => ?_⟩
    · intro hgrace wait p ms
      obtain ⟨t, hexec, hsess, hwait, hothers⟩ := exec_park_waits rfl hs hn ht hgone hst htarget hgrace
      refine ⟨t, hexec, hsess, hwait.trans ?_, hothers⟩
      rw [State.gracePark, State.named_now]
      rfl
    · have hidle : (s1.aux i).move = none := by simpa [s2] using hmove
      obtain ⟨t, hexec, hmoving, ⟨m, hm, hkind, htier, hctx, hsrc⟩, hothers⟩ := exec_park_moves rfl hs hn ht hgone hst htarget hgrace hidle hok
      exact ⟨t, m, hexec, hmoving, hm, hkind, htier, hctx, hsrc, fun k hk => (hothers k hk).trans (s.named_sess_other job well i hk)⟩
  · intro hs hn s1 tier c ht hgone hst data hmove h0 h1
    obtain ⟨t, hexec, hmoving, ⟨m, hm, hkind, htier, hctx, hsrc⟩, hothers⟩ := exec_migrate_moves rfl hs hn ht hgone hst hmove h0 h1
    exact ⟨t, m, hexec, hmoving, hm, hkind, htier, hctx, hsrc, fun k hk => (hothers k hk).trans (s.named_sess_other job well i hk)⟩
  · intro hs hn hgone
    obtain ⟨hlen, hcounts, hstate⟩ := (s0.opened i).placement_record i
    obtain ⟨ws, n, -, hplace⟩ := (s0.opened i).placement_eq i
    refine ⟨_, _, exec_placeQuery rfl hs hn hgone, hlen, ?_, ?_, ?_, ?_⟩
    · simpa [s0] using hcounts
    · simpa [s0] using hstate
    · simp [hplace, s0]
    · simp [hplace, s0]
  · intro hs hn n c
    obtain ⟨hadd, hdrop⟩ := registerT3_settled hs hn
    exact ⟨hadd, fun ha => exec_registerT3_unaligned hs hn ha, hdrop⟩
  · intro hs w n c
    refine ⟨fun hlo hhi ha hnone => ?_, fun hz hused => ?_⟩
    · have hne : dfld d 32 0 5 ≠ 0 := by omega
      refine ⟨_, exec_setOutput hs (.inr ⟨⟨hlo, hhi⟩, ha⟩) (by rw [if_neg hne, hnone]; rfl), ?_, ?_⟩
      all_goals simp [hne, n, w]
    · refine ⟨_, exec_setOutput hs (.inl hz) (by rw [if_pos hz, hused]; simp), ?_, ?_⟩
      all_goals simp [show dfld d 32 0 5 = 0 from hz, w]

end Sys2Proof.Machine
end

section
/-!
PROOF. Byte memories (02_grains_and_tiers, R528): what every address reads after a run is written, and equality of memories that read alike:
obligation MemoryReadsBack.
-/
namespace Sys2Proof.Machine

open Sys2Proof

variable {z : Option Byte}

/-- What an address reads after a run has been written. -/
theorem Memory.find_write {m : List Host.Cell} {a x : Nat} {bs : List Byte} (h : Memory.wf z m = true) :
    Memory.find (Memory.write z m a bs) x =
      if a ≤ x then (match bs[x - a]? with
        | some b => if some b = z then none else some b
        | none => Memory.find m x)
      else Memory.find m x := by
  induction bs generalizing m a with
  | nil => simp [Memory.write]
  | cons b bs ih =>
    rw [Memory.write, ih (Memory.set_wf h), Memory.find_set h]
    obtain hlt | rfl | hgt := Nat.lt_trichotomy x a
    · simp [show ¬ a + 1 ≤ x by omega, show ¬ a ≤ x by omega, show x ≠ a by omega]
    · simp
    · obtain ⟨n, rfl⟩ := Nat.exists_eq_add_of_lt hgt
      simp [show a + n + 1 - (a + 1) = n by omega, show a + n + 1 - a = n + 1 by omega, show a + 1 ≤ a + n + 1 by omega,
        show a ≤ a + n + 1 by omega, show a + n + 1 ≠ a by omega]

/-- In a canonical memory the first cell is the one read at its address. -/
theorem Memory.find_head (c : Host.Cell) (m : List Host.Cell) : Memory.find (c :: m) c.1 = some c.2 := by
  simp [Memory.find]

/-- A canonical memory with a first cell reads nothing below it. -/
theorem Memory.find_before {c : Host.Cell} {m : List Host.Cell} {x : Nat} (hx : x < c.1) : Memory.find (c :: m) x = none := by
  simp [Memory.find, hx, Nat.ne_of_lt hx]

/-- What is read of a canonical memory past its first cell. -/
theorem Memory.find_tail {c : Host.Cell} {m : List Host.Cell} (h : Memory.wf z (c :: m) = true) (x : Nat) :
    Memory.find m x = if x = c.1 then none else Memory.find (c :: m) x := by
  obtain ⟨-, habove, hm⟩ := Memory.wf_cons.1 h
  by_cases hx : x ≤ c.1
  · rw [Memory.find_below hm habove hx]
    simp only [Memory.find]
    split <;> grind
  · simp only [Memory.find]
    grind

/-- Canonical memories that read alike are equal. -/
theorem Memory.ext_find {m m' : List Host.Cell} (h : Memory.wf z m = true) (h' : Memory.wf z m' = true)
    (heq : ∀ x, Memory.find m x = Memory.find m' x) : m = m' := by
  induction m generalizing m' with
  | nil => cases m' with
    | nil => rfl
    | cons c' m' => simpa [Memory.find] using heq c'.1
  | cons c m ih => cases m' with
    | nil => simpa [Memory.find] using heq c.1
    | cons c' m' =>
      have haddr : c.1 = c'.1 := by
        have hl := heq c.1
        have hr := heq c'.1
        rw [Memory.find_head] at hl hr
        rcases Nat.lt_trichotomy c.1 c'.1 with hlt | heq' | hgt
        · rw [Memory.find_before hlt] at hl; cases hl
        · exact heq'
        · rw [Memory.find_before hgt] at hr; cases hr
      have hbyte : c.2 = c'.2 := by
        have hl := heq c.1
        rw [Memory.find_head, haddr, Memory.find_head] at hl
        exact Option.some.inj hl
      have hrest : m = m' := by
        refine ih (Memory.wf_cons.1 h).2.2 (Memory.wf_cons.1 h').2.2 fun x => ?_
        rw [Memory.find_tail h, Memory.find_tail h', haddr, heq]
      rw [hrest, Prod.ext haddr hbyte]

/-- Settles O6: what `Memory.find_write` says of each address, and `Memory.ext_find`. -/
theorem memoryReadsBack : Obligations.MemoryReadsBack := by
  unfold Obligations.MemoryReadsBack
  refine ⟨fun z m a bs h => ⟨Memory.write_wf h, fun x hx => ?_, fun x b hb => ?_⟩, fun z m m' h h' heq => Memory.ext_find h h' heq⟩
  · rw [Memory.find_write h]
    obtain hx | hx := hx
    · rw [if_neg (by omega)]
    · rw [List.getElem?_eq_none (by omega)]
      simp
  · rw [Memory.find_write h, if_pos (by omega), Nat.add_sub_cancel_left, hb]

end Sys2Proof.Machine
end

section
/-!
SUPPORT. The canonical form (02_grains_and_tiers, R528) of each part of the state that holds bytes, and how a write to a part keeps it.
-/
namespace Sys2Proof.Machine

open Sys2Proof

/-! ## What the canonical form says of each part of the state that holds bytes -/

/-- The store of a core is in canonical form. -/
def Core.Canon (k : Core) : Prop := Memory.wf (some 0) k.store = true

/-- The stores of the cores saved in a group are in canonical form. -/
def Group.Canon (g : Group) : Prop := ∀ m ∈ g.saved, ∀ e ∈ m.2, e.2.Canon

/-- HBM, host memory, the stores of cores and those saved in groups are in canonical form. -/
structure Canonical (hbm host : List Host.Cell) (cores : Map Core) (groups : Map Group) : Prop where
  hbm : Memory.wf (some 0) hbm = true
  host : Memory.wf none host = true
  cores : ∀ e ∈ cores, e.2.Canon
  groups : ∀ e ∈ groups, e.2.Canon

/-- The byte memories of a state are in canonical form. It speaks of four fields only: a state that differs in others is canonical by the same
proof. -/
def State.Canon (s : State) : Prop := Canonical s.hbm s.host s.cores s.groups

theorem State.memWf_iff {s : State} : s.memWf = true ↔ s.Canon := by
  simp only [State.memWf, Bool.and_eq_true, List.all_eq_true]
  exact ⟨fun ⟨⟨⟨hb, ho⟩, hc⟩, hg⟩ => ⟨hb, ho, hc, hg⟩, fun ⟨hb, ho, hc, hg⟩ => ⟨⟨⟨hb, ho⟩, hc⟩, hg⟩⟩

/-- An answer that is a next state answers a canonical one. -/
def Res.Canon : Res → Prop
  | .next t => t.Canon
  | _ => True

/-- A word that takes effect leaves its core canonical. -/
def Word.Canon : Word → Prop
  | .ok k => k.Canon
  | _ => True

/-- What becomes of a packet leaves a canonical state. -/
def Arrival.Canon : Arrival → Prop
  | .drop t => t.Canon
  | .deliver _ _ t => t.Canon

/-- An optional answer that is there holds a canonical state, at the place `f` names. -/
def OptCanon {α : Type} (f : α → State) : Option α → Prop
  | some x => (f x).Canon
  | none => True

/-- The same of an answer that may be an error code. -/
def ExcCanon {ε α : Type} (f : α → State) : Except ε α → Prop
  | .ok x => (f x).Canon
  | .error _ => True

/-- The state at the place `f` of an answer, where the answer is given by an equation. -/
theorem State.Canon.of_eq {α : Type} {f : α → State} {x y : α} (e : x = y) (h : (f x).Canon) : (f y).Canon := e ▸ h

theorem OptCanon.of_eq {α : Type} {f : α → State} {o : Option α} {x : α} (e : o = some x) (h : OptCanon f o) : (f x).Canon := by
  subst e
  exact h

theorem ExcCanon.of_eq {ε α : Type} {f : α → State} {r : Except ε α} {x : α} (e : r = .ok x) (h : ExcCanon f r) : (f x).Canon := by
  subst e
  exact h

/-! ## Keyed collections: what a write can add -/

theorem mem_mput {α : Type} {m : Map α} {i : Nat} {v : α} {e : Nat × α} (h : e ∈ mput m i v) : e = (i, v) ∨ e ∈ m := by
  induction m with
  | nil => simpa [mput] using h
  | cons c m ih =>
    simp only [mput] at h
    grind

theorem mem_of_mem_mdel {α : Type} {m : Map α} {i : Nat} {e : Nat × α} (h : e ∈ mdel m i) : e ∈ m := List.mem_of_mem_filter h

/-- A property of every value of a collection, kept by a write of a value that has it. -/
theorem forall_mput {α : Type} {m : Map α} {i : Nat} {v : α} {P : α → Prop} (h : ∀ e ∈ m, P e.2) (hv : P v) : ∀ e ∈ mput m i v, P e.2 :=
  fun e he => (mem_mput he).elim (fun e' => e' ▸ hv) (h e)

theorem forall_mdel {α : Type} {m : Map α} {i : Nat} {P : α → Prop} (h : ∀ e ∈ m, P e.2) : ∀ e ∈ mdel m i, P e.2 :=
  fun e he => h e (mem_of_mem_mdel he)

/-- The value read has the property too, where the default has it. -/
theorem forall_mgetD {α : Type} {m : Map α} {i : Nat} {d : α} {P : α → Prop} (h : ∀ e ∈ m, P e.2) (hd : P d) : P (mgetD m i d) := by
  unfold mgetD
  cases hv : mget m i with
  | none => exact hd
  | some v => exact h _ (mem_of_mget hv)

/-! ## Reading and writing the parts

What is written in place of a core or a group may be shown canonical from the state it is written to, which it is most often read from. -/

section
variable {s : State} {c g : Nat} {k : Core} {x : Group} {hbm host : List Host.Cell}

theorem State.Canon.core (h : s.Canon) : (s.core c).Canon := forall_mgetD h.cores rfl

theorem State.Canon.group (h : s.Canon) : (s.group g).Canon := forall_mgetD h.groups (by simp [Group.Canon])

theorem State.Canon.setCore (h : s.Canon) (hk : s.Canon → k.Canon) : (s.setCore c k).Canon := ⟨h.hbm, h.host, forall_mput h.cores (hk h), h.groups⟩

theorem State.Canon.setGroup (h : s.Canon) (hx : s.Canon → x.Canon) :
    (s.setGroup g x).Canon := ⟨h.hbm, h.host, h.cores, forall_mput h.groups (hx h)⟩

/-- HBM and host memory replaced by canonical ones. -/
theorem State.Canon.withMemories (h : s.Canon) (hm : Memory.wf (some 0) hbm = true) (ho : Memory.wf none host = true) :
    Canonical hbm host s.cores s.groups := ⟨hm, ho, h.cores, h.groups⟩

/-- HBM replaced by a canonical one. -/
theorem State.Canon.withHbm (h : s.Canon) (hm : Memory.wf (some 0) hbm = true) : Canonical hbm s.host s.cores s.groups :=
  h.withMemories hm h.host

end

/-! ## A state that one of two branches answers -/

section
variable {s t : State} {α β : Type} {c : Prop} [Decidable c]

theorem State.Canon.ite (hs : s.Canon) (ht : t.Canon) : (if c then s else t).Canon := by
  split
  · exact hs
  · exact ht

theorem Res.Canon.ite {p q : Res} (hp : p.Canon) (hq : q.Canon) : (if c then p else q).Canon := by
  split
  · exact hp
  · exact hq

theorem State.Canon.ite_fst {p q : State × α} (hp : p.1.Canon) (hq : q.1.Canon) : (if c then p else q).1.Canon := by
  split
  · exact hp
  · exact hq

theorem State.Canon.ite_snd {p q : α × State} (hp : p.2.Canon) (hq : q.2.Canon) : (if c then p else q).2.Canon := by
  split
  · exact hp
  · exact hq

theorem State.Canon.ite_snd_snd {p q : α × β × State} (hp : p.2.2.Canon) (hq : q.2.2.Canon) : (if c then p else q).2.2.Canon := by
  split
  · exact hp
  · exact hq

end

/-! ## Running one effect after another -/

section
variable {s : State} {α : Type}

theorem State.Canon.foldl {f : State → α → State} {l : List α} (h : s.Canon) (hf : ∀ t x, t.Canon → (f t x).Canon) : (l.foldl f s).Canon := by
  induction l generalizing s with
  | nil => exact h
  | cons x l ih => exact ih (hf s x h)

end

end Sys2Proof.Machine
end

section
/-!
SUPPORT. The shared operations keep the byte memories canonical: the named updates of the state, descriptors and their records, engine
commands, packets, error records.
-/
namespace Sys2Proof.Machine

open Sys2Proof

/-! ## Updates of other fields -/

section
variable {s : State}

/-- The fields that hold no bytes are free in a canonical state. -/
theorem State.Canon.updated
    {pending : List Instr} {freeCtr nextWork nextProg : Nat} {power : Power} {pins : Pins} {sec : Sec} {errs : ErrState} {funcs : Map Func}
    {jobs : Map Job} {regs : Map W64} {sessions : Map Session} {sessAux : Map SessAux} {sesCache snapshot refreshing blockOff : List Nat}
    {sesBypass : Option Nat} {reqs : Map Req} {reqAux : Map ReqAux} {serving : Map Serving} {models : Map Model} {pools : Map Pool} {shapers :
    Map Shaper} {hists : Map Hist} {tierLat : Map (List Nat)} {pumpDescs : Map PumpDesc} {searches : Map Search} {lookups : Map Lookup} {progs :
    Map Prog} {seqs : Map Seq} {winHeld : List (Nat × Nat × Nat × Nat)} {fabric : Fabric} {ftl : Ftl} {privSlots : Map (Nat × Nat)}
    {blockRefused : Bool} {busOut : List Byte}
    (h : s.Canon) :
    State.Canon { s with
      pending := pending, freeCtr := freeCtr, power := power, pins := pins, sec := sec, errs := errs, funcs := funcs, jobs := jobs, regs := regs,
      sessions := sessions, sessAux := sessAux, sesCache := sesCache, sesBypass := sesBypass, reqs := reqs, reqAux := reqAux, serving := serving,
      models := models, pools := pools, shapers := shapers, hists := hists, tierLat := tierLat, snapshot := snapshot, pumpDescs := pumpDescs,
      searches := searches, lookups := lookups, nextWork := nextWork, progs := progs, nextProg := nextProg, seqs := seqs, refreshing :=
      refreshing, winHeld := winHeld, fabric := fabric, ftl := ftl, privSlots := privSlots, blockOff := blockOff, blockRefused := blockRefused,
      busOut := busOut } := h

/-- The fields of a core but its store are free. -/
theorem Core.Canon.updated {k : Core}
    {regs snap : CoreRegs} {pc prog lcore bedPos beds : Nat} {sems : Map W64} {halted : Bool} {bedSlots bedWrites : List Nat} {late : List Late}
    {target : Option Nat} {wait : CoreWait} {flight : List Flight} {bars : Map Nat}
    (h : k.Canon) :
    Core.Canon { k with
      regs := regs, pc := pc, sems := sems, prog := prog, lcore := lcore, halted := halted, bedPos := bedPos, bedSlots := bedSlots, bedWrites :=
      bedWrites, snap := snap, late := late, target := target, beds := beds, wait := wait, flight := flight, bars := bars } := h

/-- A run written to the store of a canonical core, its other fields free. -/
theorem Core.Canon.written {k : Core} {a : Nat} {bs : List Byte}
    {regs snap : CoreRegs} {pc prog lcore bedPos beds : Nat} {sems : Map W64} {halted : Bool} {bedSlots bedWrites : List Nat} {late : List Late}
    {target : Option Nat} {wait : CoreWait} {flight : List Flight} {bars : Map Nat}
    (h : k.Canon) :
    Core.Canon { k with
      store := Memory.write (some 0) k.store a bs, regs := regs, pc := pc, sems := sems, prog := prog, lcore := lcore, halted := halted, bedPos :=
        bedPos, bedSlots := bedSlots, bedWrites :=
      bedWrites, snap := snap, late := late, target := target, beds := beds, wait := wait, flight := flight, bars := bars } := Memory.write_wf h

theorem State.Canon.modJob {j : Nat} {f : Job → Job} (h : s.Canon) : (s.modJob j f).Canon := h
theorem State.Canon.setSess {i : Nat} {x : Session} (h : s.Canon) : (s.setSess i x).Canon := h
theorem State.Canon.modSess {i : Nat} {f : Session → Session} (h : s.Canon) : (s.modSess i f).Canon := h
theorem State.Canon.setAux {i : Nat} {x : SessAux} (h : s.Canon) : (s.setAux i x).Canon := h
theorem State.Canon.modAux {i : Nat} {f : SessAux → SessAux} (h : s.Canon) : (s.modAux i f).Canon := h
theorem State.Canon.setReq {i : Nat} {x : Req} (h : s.Canon) : (s.setReq i x).Canon := h
theorem State.Canon.modReq {i : Nat} {f : Req → Req} (h : s.Canon) : (s.modReq i f).Canon := h
theorem State.Canon.setRaux {i : Nat} {x : ReqAux} (h : s.Canon) : (s.setRaux i x).Canon := h
theorem State.Canon.modFunc {n : Nat} {f : Func → Func} (h : s.Canon) : (s.modFunc n f).Canon := h
theorem State.Canon.setSeq {n : Nat} {x : Seq} (h : s.Canon) : (s.setSeq n x).Canon := h
theorem State.Canon.setPool {c : Nat} {x : Pool} (h : s.Canon) : (s.setPool c x).Canon := h
theorem State.Canon.setPort {l : Nat} {x : Port} (h : s.Canon) : (s.setPort l x).Canon := h
theorem State.Canon.draw (h : s.Canon) : s.draw.2.Canon := h
theorem State.Canon.setReg {off : Nat} {v : W64} (h : s.Canon) : (s.setReg off v).Canon := h
theorem State.Canon.countReg {off lo w n : Nat} (h : s.Canon) : (s.countReg off lo w n).Canon := h
theorem State.Canon.dmaFailed {j : Nat} (h : s.Canon) : (s.dmaFailed j).Canon := h
theorem State.Canon.signal {fn v : Nat} (h : s.Canon) : (s.signal fn v).Canon := h
end

/-! ## The named operations over the state (R6, R20, R228, R337 to R339, R501 to R508) -/

section
variable {s : State}

theorem Res.Canon.andThen {r : Res} {f : State → Res} (h : r.Canon) (hf : ∀ t, t.Canon → (f t).Canon) : (r.andThen f).Canon := by
  cases r with
  | next t => exact hf t h
  | fault _ => trivial
  | refused _ => trivial

theorem State.Canon.modRaux {i : Nat} {f : ReqAux → ReqAux} (h : s.Canon) : (s.modRaux i f).Canon := by
  unfold State.modRaux
  split <;> exact h

/-- Bytes written one by one, wherever they lie. -/
theorem Memory.foldl_set_wf {dflt : Option Byte} {cs m : List Host.Cell} (h : Memory.wf dflt m = true) :
    Memory.wf dflt (cs.foldl (fun m c => Memory.set dflt m c.1 c.2) m) = true := by
  induction cs generalizing m with
  | nil => exact h
  | cons c cs ih => exact ih (Memory.set_wf h)

theorem State.Canon.spoil {j : Nat} (h : s.Canon) : (s.spoil j).Canon := h.withHbm (Memory.foldl_set_wf h.hbm)

theorem State.Canon.spoilIf {on : Bool} {j : Nat} (h : s.Canon) : (s.spoilIf on j).Canon := by
  unfold State.spoilIf
  split
  · exact h.spoil
  · exact h

theorem Res.Canon.spoilIf {r : Res} {on : Bool} {j : Nat} (h : r.Canon) : (r.spoilIf on j).Canon := by
  unfold Res.spoilIf
  split
  · exact h.andThen fun _ ht => ht.spoil
  · exact h

theorem State.Canon.wrHbm {a : Nat} {bs : List Byte} (h : s.Canon) : (s.wrHbm a bs).Canon := by
  obtain ⟨q, m, r, e, hm⟩ := s.wrHbm_only a bs
  rw [e]
  exact h.withHbm (hm h.hbm)

theorem State.Canon.wr {hbm : Bool} {a : Nat} {bs : List Byte} (h : s.Canon) : (s.wr hbm a bs).Canon := by
  obtain ⟨q, m, r, g, e, hm, hg⟩ := s.wr_only hbm a bs
  rw [e]
  exact h.withMemories (hm h.hbm) (hg h.host)

theorem State.Canon.drain {n j w : Nat} (h : s.Canon) : (State.drain n s j w).Canon := by
  obtain ⟨js, fs, q, m, r, g, e, hm, hg⟩ := State.drain_only n s j w
  rw [e]
  exact h.withMemories (hm h.hbm) (hg h.host)

theorem State.Canon.post {j w : Nat} {r : Rec} (h : s.Canon) : (s.post j w r).Canon := by
  obtain ⟨js, fs, q, m, x, g, e, hm, hg⟩ := s.post_only j w r
  rw [e]
  exact h.withMemories (hm h.hbm) (hg h.host)

theorem State.Canon.complete {c : DescCtx} {status result req session : Nat} (h : s.Canon) :
    (s.complete c status result req session).Canon := h.post

theorem State.Canon.record {c : DescCtx} {status : Nat} {final : Bool} {result req session : Nat} (h : s.Canon) :
    (s.record c status final result req session).Canon := h.post

theorem State.Canon.event {j w status result session : Nat} (h : s.Canon) : (s.event j w status result session).Canon := h.post

theorem State.Canon.complete? {c : Option DescCtx} {status result req session : Nat} (h : s.Canon) :
    (s.complete? c status result req session).Canon := by
  unfold State.complete?
  split
  · exact h
  · exact h.complete

theorem State.Canon.ifUp {r : Res} (h : s.Canon) (hr : r.Canon) : (s.ifUp r).Canon := by
  unfold State.ifUp
  split
  · exact hr
  · exact h

theorem State.Canon.ifReady {r : Res} (h : s.Canon) (hr : r.Canon) : (s.ifReady r).Canon := by
  unfold State.ifReady
  split
  · exact hr
  · exact h

/-- A descriptor's own effect is run on a canonical state (R501, R502, R531). -/
theorem State.Canon.takeUp {k : Kind} {j w : Nat} {d : Desc} {body : DescCtx → State → Res} (h : s.Canon)
    (hbody : ∀ c t, t.Canon → (body c t).Canon) : (State.takeUp k j w d s body).Canon := by
  unfold State.takeUp
  split
  · exact h
  · refine Res.Canon.spoilIf ?_
    split
    · exact State.Canon.complete (s := s.takenUp j w) h
    · exact hbody _ _ h

theorem mergeStore_wf {take : BitVec 48} {mine cur : List Host.Cell} (h : Memory.wf (some 0) cur = true) :
    Memory.wf (some 0) (mergeStore take mine cur) = true := Memory.foldl_set_wf (Memory.filter_wf h)

theorem State.Canon.jobCore {j c : Nat} (h : s.Canon) : (s.jobCore j c).Canon := by
  unfold State.jobCore
  dsimp only
  split
  · exact h.core
  · exact mergeStore_wf h.core

/-- One more core saved in a group. -/
theorem Group.Canon.save {g : Group} {j : Nat} {m : Map Core} (h : g.Canon) (hm : ∀ e ∈ m, e.2.Canon) :
    Group.Canon { g with saved := mput g.saved j m } :=
  forall_mput (P := fun m : Map Core => ∀ e ∈ m, e.2.Canon) h hm

theorem Group.Canon.savedOf {g : Group} {j : Nat} (h : g.Canon) : ∀ e ∈ mgetD g.saved j [], e.2.Canon :=
  forall_mgetD (P := fun m : Map Core => ∀ e ∈ m, e.2.Canon) h (by simp)

theorem State.Canon.setJobCore {j c : Nat} {k : Core} (h : s.Canon) (hk : s.Canon → k.Canon) : (s.setJobCore j c k).Canon := by
  unfold State.setJobCore
  dsimp only
  split
  · exact h.setCore hk
  · exact State.Canon.setCore (h.setGroup fun h => h.group.save (forall_mput h.group.savedOf (hk h))) fun _ => mergeStore_wf h.core

theorem State.Canon.wakeFor {c : Nat} (h : s.Canon) : (s.wakeFor c).Canon := by
  unfold State.wakeFor
  dsimp only
  split
  · exact h
  · exact h.setGroup fun h => h.group

end

/-! ## Error records (R469 to R473, R480) -/

section
variable {s : State}

theorem State.Canon.logErr {r : ErrRec} (h : s.Canon) : (s.logErr r).2.Canon := by
  obtain ⟨e, rs, fs, he⟩ := s.logErr_only r
  rw [he]
  exact h

theorem State.Canon.noteCorrected {source unit : Nat} (h : s.Canon) : (s.noteCorrected source unit).Canon := by
  unfold State.noteCorrected
  split <;> exact h

theorem State.Canon.mergeErr {slot : Nat} (h : s.Canon) : (s.mergeErr slot).Canon := by
  unfold State.mergeErr
  split <;> exact h

theorem State.Canon.writeDump {fw : BitVec 256} {abandoned fwOk : Bool} (h : s.Canon) : (s.writeDump fw abandoned fwOk).Canon := by
  unfold State.writeDump
  dsimp only
  generalize Dump.header _ _ = bytes
  exact h.withHbm (Memory.write_wf h.hbm)

theorem State.Canon.countEvict {positions grains : Nat} (h : s.Canon) : (s.countEvict positions grains).Canon := h

theorem State.Canon.countChecks {first second : Nat} (h : s.Canon) : (s.countChecks first second).Canon := h

/-- One late effect after another, each of which keeps the form. -/
theorem Core.Canon.foldl {α : Type} {f : Core → α → Core} {l : List α} {k : Core} (h : k.Canon) (hf : ∀ k x, k.Canon → (f k x).Canon) :
    (l.foldl f k).Canon := List.foldlRecOn (motive := Core.Canon) _ _ h fun k hk x _ => hf k x hk

end

/-! ## The error unit's shared operations (R469 to R473) -/

section
variable {s : State}

theorem State.Canon.errSignal (h : s.Canon) : s.errSignal.Canon := by
  unfold State.errSignal
  split <;> exact h

theorem State.Canon.edgeCorrected {a : Nat} (h : s.Canon) : (s.edgeCorrected a).Canon := by
  unfold State.edgeCorrected
  refine State.Canon.noteCorrected ?_
  split
  · exact h.mergeErr
  · exact h.logErr

end

/-! ## The working copy of a session (R88, R96) -/

section
variable {s : State}

theorem State.Canon.groupScores {j model : Nat} {scores : List Nat} (h : s.Canon) : (s.groupScores j model scores).2.Canon := by
  unfold State.groupScores
  split <;> exact h

end

/-! ## Engine pools, shapers and histograms (R334 to R343) -/

section
variable {s : State}

theorem State.Canon.dropMoveWork {i : Nat} (h : s.Canon) : (s.dropMoveWork i).Canon := h

theorem State.Canon.pick {c i : Nat} (h : s.Canon) : (s.pick c i).Canon := by
  unfold State.pick
  dsimp only
  repeat' split
  all_goals exact h

theorem State.Canon.dispatch {c : Nat} (h : s.Canon) : (s.dispatch c).Canon := by
  unfold State.dispatch
  split
  · exact h
  · exact h.foldl (fun _ _ ht => ht.pick)

theorem State.Canon.enqueue {c : Nat} {x : EngCmd} (h : s.Canon) : (s.enqueue c x).Canon :=
  State.Canon.dispatch h

theorem State.Canon.account {c j share req cyc : Nat} (h : s.Canon) : (s.account c j share req cyc).Canon := by
  unfold State.account
  dsimp only
  split
  · split
    · exact h
    · exact State.Canon.wr h
  · split
    · exact h
    · exact State.Canon.wr h

theorem execShaperToken_canon {kind : ShaperKind} {job idx : Nat} (h : s.Canon) : (execShaperToken kind job idx s).Canon := by
  unfold execShaperToken
  refine h.ifReady ?_
  dsimp only
  split <;> exact h

theorem execShaperCfgWrite_canon {kind : ShaperKind} {job idx : Nat} {v : W64} (h : s.Canon) : (execShaperCfgWrite kind job idx v s).Canon := by
  unfold execShaperCfgWrite
  refine h.ifUp ?_
  dsimp only
  split
  · trivial
  · exact h

theorem execHistSample_canon (h : s.Canon) : (execHistSample s).Canon := by
  unfold execHistSample
  refine h.ifReady ?_
  dsimp only
  split
  · exact h
  · exact h.foldl (fun _ _ ht => ht.foldl (fun _ _ hu => hu.foldl (fun _ _ hv => hv)))

theorem execSnap_canon {v : W64} (h : s.Canon) : (execSnap v s).Canon := by
  unfold execSnap
  refine h.ifUp ?_
  dsimp only
  split
  · trivial
  · repeat' split
    all_goals exact h

theorem State.Canon.ended {c i cyc : Nat} (h : s.Canon) : OptCanon (·.2) (s.ended c i cyc) := by
  unfold State.ended
  dsimp only
  split
  · trivial
  · exact State.Canon.account h

end

/-! ## Packets (R351 to R360) -/

section
variable {s : State}

theorem State.Canon.egress {n l : Nat} (h : s.Canon) : (State.egress n s l).Canon := by
  obtain ⟨p, sh, f, e⟩ := State.egress_only n s l
  rw [e]
  exact h

theorem State.Canon.place {p : Packet} {job : Option Nat} {share : Nat} (h : s.Canon) : (s.place p job share).Canon := by
  unfold State.place
  dsimp only
  split
  · exact h
  · refine State.Canon.egress ?_
    split
    · exact h
    · exact State.Canon.enqueue h

theorem State.Canon.send {j vc type dst flow : Nat} {arg : W64} {data : List Byte} {share : Nat} (h : s.Canon) :
    (s.send j vc type dst flow arg data share).1.Canon := by
  unfold State.send
  dsimp only
  split
  · exact h
  · exact State.Canon.place h

theorem State.Canon.reply {p : Packet} {type : Nat} (h : s.Canon) : (s.reply p type).Canon :=
  State.Canon.place h

theorem State.Canon.arrive {p : Packet} (h : s.Canon) : (s.arrive p).Canon := by
  unfold State.arrive
  dsimp only
  split
  · exact h.reply
  · split
    · exact h
    · split
      · exact State.Canon.reply h
      · split <;> exact h

theorem State.Canon.sendGrain {j vc type dst flow : Nat} {arg : W64} {g : List Byte} {share : Nat} (h : s.Canon) :
    (s.sendGrain j vc type dst flow arg g share).Canon :=
  h.foldl (fun _ _ ht => ht.send)

end

end Sys2Proof.Machine
end

section
/-!
SUPPORT. Cores, bank logic and programs keep the byte memories canonical.
-/
namespace Sys2Proof.Machine

open Sys2Proof

/-! ## Fletegus words: fetch, issue, faults, the end of a bed (R131 to R148) -/

section
variable {s : State}

theorem Core.Canon.initCore {p : Prog} {n l : Nat} {keep : Bool} {k : Core} (h : k.Canon) : (p.initCore n l keep k).Canon := by
  unfold Prog.initCore
  refine Memory.write_wf (Memory.write_wf (Memory.write_wf ?_))
  split
  · exact h
  · rfl

theorem State.Canon.startProg {n : Nat} {p : Prog} (h : s.Canon) : (s.startProg n p).Canon := by
  unfold State.startProg
  refine State.Canon.foldl (State.Canon.foldl (h.foldl fun _ _ ht => ?_) fun _ _ ht => ht.setJobCore fun ht => ht.jobCore.initCore) fun _ _ ht => ?_
  · exact ht.setGroup fun ht => ht.group
  · split
    · exact ht.setGroup fun ht => ht.group
    · exact ht

theorem Core.Canon.rollback {k : Core} (hk : k.Canon) : k.rollback.Canon := by
  unfold Core.rollback
  split <;> exact hk

theorem State.Canon.claimGroup {g j : Nat} (h : s.Canon) : (s.claimGroup g j).Canon :=
  h.setGroup (fun _ => h.group)

theorem State.Canon.startProgs (h : s.Canon) : s.startProgs.Canon := by
  unfold State.startProgs
  refine h.foldl (fun _ _ ht => ?_)
  dsimp only
  split
  · exact ht
  · exact ht.startProg

theorem State.Canon.stopProg {n status : Nat} {record : List Byte} (h : s.Canon) : (s.stopProg n status record).Canon := by
  unfold State.stopProg
  dsimp only
  split
  · exact h
  · split
    · exact h
    · exact State.Canon.updated (State.Canon.foldl (h.foldl (fun _ _ ht => ht.setJobCore (fun _ => Core.Canon.updated ht.jobCore.rollback)))
        (fun _ _ hu => hu.setGroup (fun _ => hu.group)))

theorem State.Canon.issueLate {e : Env} {x : Late} (h : s.Canon) : (s.issueLate e x).Canon := by
  unfold State.issueLate
  dsimp only
  split
  · exact State.Canon.spoilIf (h.setCore (fun _ => Core.Canon.written h.core))
  · exact h.setCore (fun _ => h.core)
  · exact h.setCore (fun _ => h.core)
  · exact h.setCore (fun _ => h.core)
  · exact h.setCore (fun _ => h.core)
  · exact h.setCore (fun _ => h.core)
  · exact h.setCore (fun _ => h.core)
  · exact h.setCore (fun _ => h.core)
  · exact h.foldl (fun _ _ ht => State.Canon.enqueue ht)
  · exact h.send.setCore (fun _ => h.send.core)
  · split
    · exact State.Canon.updated (State.Canon.setGroup (h.setCore (fun _ => h.core)) (fun hu => hu.group))
    · exact State.Canon.setGroup (h.setCore (fun _ => h.core)) (fun hv => hv.group)

theorem State.Canon.issueBed {e : Env} (h : s.Canon) : (s.issueBed e).Canon := by
  unfold State.issueBed
  dsimp only
  split
  · split
    · exact State.Canon.setCore (h.foldl (fun _ _ ht => ht.issueLate)) (fun hu => hu.core)
    · exact State.Canon.updated (State.Canon.setCore (h.foldl (fun _ _ hv => hv.issueLate)) (fun hw => hw.core))
  · exact State.Canon.setCore (h.foldl (fun _ _ hx => hx.issueLate)) (fun hy => hy.core)

theorem State.Canon.endProg {n : Nat} (h : s.Canon) : (s.endProg n).Canon := by
  unfold State.endProg
  dsimp only
  split
  · exact h
  · split
    · exact h
    · split
      · exact h
      · refine State.Canon.complete (State.Canon.startProgs (State.Canon.updated
          (State.Canon.foldl ?_ (fun _ _ ht => ht.setJobCore (fun _ => Core.Canon.updated ht.jobCore)))))
        split
        · exact h
        · exact h.wr

theorem State.Canon.advance {h : Head} {e : Env} {k : Core} (hs : s.Canon) (hk : k.Canon) : (s.advance h e k).Canon := by
  unfold State.advance
  split
  · exact State.Canon.endProg (State.Canon.issueBed (hs.setCore (fun _ => hk)))
  · exact hs.setCore (fun _ => hk)

theorem State.Canon.startWord {c : Nat} (h : s.Canon) : (s.startWord c).Canon := by
  unfold State.startWord
  dsimp only
  split <;> exact h.core

theorem Core.Canon.joined {k : Core} {slot : Nat} {writes : List Nat} (hk : k.Canon) : (k.joined slot writes).Canon :=
  hk

theorem State.Canon.firstBed {n : Nat} {p : Prog} (h : s.Canon) : (s.firstBed n p).Canon := by
  unfold State.firstBed
  split <;> exact h

theorem regsOnly_canon {f : CoreRegs → CoreRegs → CoreRegs} {x : Env} {y : Core} (hy : y.Canon) : (regsOnly f x y).Canon :=
  hy

theorem Core.Canon.later {k : Core} {x : Late} (hk : k.Canon) : (k.later x).Canon :=
  hk

theorem State.Canon.wordFault {c : Nat} {cands : List (Cause × Nat)} (h : s.Canon) : (s.wordFault c cands).Canon := by
  unfold State.wordFault
  have hdraw : (if cands.length ≤ 1 then (0, s) else s.draw).2.Canon := by split <;> exact h
  exact State.Canon.endProg (State.Canon.stopProg hdraw)

/-- A word whose own effect leaves its core canonical: what its bed does when it issues is canonical too (R137 to R139). -/
theorem State.Canon.joinBed {c : Nat} {p : Prog} {k : Core} {hd : Head} {slot : Nat} {writes : List Nat} {legal : Bool} {body : Env → Core → Word}
    (h : s.Canon) (hk : k.Canon) (hbody : ∀ e k, k.Canon → (body e k).Canon) : (s.joinBed c p k hd slot writes legal body).Canon := by
  unfold State.joinBed
  dsimp only
  split
  · exact h.wordFault
  · generalize hr : (if (!k.takes hd) = true then Word.ok (k.joined slot writes) else _) = r
    have hword : r.Canon := by
      rw [← hr]
      split
      · exact hk
      · split
        · trivial
        · exact hbody _ _ hk
    split
    · exact h.wordFault
    · exact h.setCore fun _ => Core.Canon.updated hk.rollback
    · exact h.advance hword

/-- A word of a core, by the same fact of its own effect (R135, R161, R162). -/
theorem State.Canon.word {i : Instr} {c : Nat} {hd : Head} {slot : Nat} {writes : List Nat} {legal : Prog → Bool} {body : Env → Core → Word}
    (h : s.Canon) (hbody : ∀ e k, k.Canon → (body e k).Canon) : (s.word i c hd slot writes legal body).Canon := by
  have hstart (p : Prog) : ((s.firstBed (s.startWord c).prog p).setCore c (s.startWord c)).Canon := h.firstBed.setCore fun _ => h.startWord
  unfold State.word
  split
  · exact h
  · dsimp only
    split
    · exact State.Canon.wordFault (hstart _)
    · split
      · exact State.Canon.joinBed (hstart _) h.startWord hbody
      · split
        · exact State.Canon.joinBed (hstart _) h.startWord fun _ _ hk => hk
        · exact h

end

/-! ## Bank logic (R221 to R234) -/

section
variable {s : State}

theorem State.Canon.seqNotify {q : Seq} {dev : Bool} {x : SeqCtx} (h : s.Canon) : (s.seqNotify q dev x).Canon := by
  unfold State.seqNotify
  dsimp only
  split
  · refine State.Canon.signal ?_
    split
    · exact h.setJobCore (fun _ => Core.Canon.updated h.jobCore)
    · exact h
  · split
    · exact h.setJobCore (fun _ => Core.Canon.updated h.jobCore)
    · exact h

theorem State.Canon.seqEnd {n : Nat} {dev : Bool} {f : SeqCtx → SeqCtx} (h : s.Canon) : (s.seqEnd n dev f).Canon :=
  State.Canon.seqNotify h

theorem State.Canon.seqFault {n : Nat} {dev : Bool} {cause : Nat} (h : s.Canon) : (s.seqFault n dev cause).Canon :=
  h.seqEnd

theorem State.Canon.seqStart {n : Nat} (h : s.Canon) : (s.seqStart n).Canon := by
  unfold State.seqStart
  dsimp only
  split
  · exact h
  · split
    · exact h
    · split
      · exact h
      · split
        · exact h.seqFault
        · exact h

theorem execSeqAbort_canon {n : Nat} (h : s.Canon) : (execSeqAbort n s).Canon := by
  unfold execSeqAbort
  refine h.ifUp ?_
  split
  · exact h
  · exact h.seqEnd

theorem State.Canon.seqNext {n : Nat} {dev : Bool} {cost : Nat} (h : s.Canon) : (s.seqNext n dev cost).Canon := by
  unfold State.seqNext
  dsimp only
  split
  · exact State.Canon.seqFault h
  · exact h

theorem execRefreshDue_canon {n : Nat} (h : s.Canon) : (execRefreshDue n s).Canon := by
  unfold execRefreshDue
  refine h.ifReady ?_
  dsimp only
  split <;> exact h

theorem execHbmSelfRefresh_canon {pc : Nat} (h : s.Canon) : (execHbmSelfRefresh pc s).Canon := by
  unfold execHbmSelfRefresh
  refine h.ifReady ?_
  split <;> exact h

theorem State.Canon.setRow {a : Nat} {bs : List Byte} (h : s.Canon) : (s.setRow a bs).Canon := h.withHbm (Memory.write_wf h.hbm)

theorem State.Canon.setRows {j : Nat} {as : List Nat} {bs : List Byte} (h : s.Canon) : (s.setRows j as bs).Canon :=
  State.Canon.spoilIf (h.foldl (fun _ _ ht => ht.setRow))

theorem State.Canon.areaWrite {n off : Nat} {bs : List Byte} (h : s.Canon) : OptCanon (fun p => p) (s.areaWrite n off bs) := by
  unfold State.areaWrite
  dsimp only
  split
  · trivial
  · split
    · split
      · exact h.seqEnd
      · split <;> exact h
    · split
      · exact State.Canon.seqStart h
      · exact h

theorem execSeqGo_canon {n : Nat} {v : W64} (h : s.Canon) : (execSeqGo n v s).Canon := by
  unfold execSeqGo
  refine h.ifUp ?_
  split
  · exact h
  · split
    · trivial
    · rename_i e
      exact OptCanon.of_eq e h.areaWrite

theorem State.Canon.micro {n : Nat} {dev : Bool} {m : Micro} {body : W32 → SeqCtx → State → State} (h : s.Canon)
    (hbody : ∀ w x t, t.Canon → (body w x t).Canon) : (State.micro n dev m s body).Canon := by
  unfold State.micro
  dsimp only
  split
  · exact h
  · split
    · exact h.seqFault
    · split
      · exact h
      · split
        · exact h.seqFault
        · exact hbody _ _ _ h

theorem State.Canon.withEcc {n : Nat} {dev : Bool} {ecc : RowEcc} {a : Nat} {body : State → State} (h : s.Canon)
    (hbody : ∀ t, t.Canon → (body t).Canon) : (s.withEcc n dev ecc a body).Canon := by
  unfold State.withEcc
  split
  · exact hbody _ h
  · exact State.Canon.edgeCorrected h
  · exact h.seqFault

theorem execMicroHalt_canon {n : Nat} {dev : Bool} (h : s.Canon) : (execMicroHalt n dev s).Canon :=
  h.micro (fun _ _ _ ht => ht.seqEnd)

theorem execMicroNop_canon {n : Nat} {dev : Bool} (h : s.Canon) : (execMicroNop n dev s).Canon :=
  h.micro (fun _ _ _ ht => ht.seqNext)

theorem execSegend_canon {n : Nat} {dev : Bool} (h : s.Canon) : (execSegend n dev s).Canon :=
  h.micro (fun _ _ _ ht => ht.seqNext.setSeq)

theorem execRop_canon {n : Nat} {dev : Bool} {ecc : RowEcc} (h : s.Canon) : (execRop n dev ecc s).Canon := by
  unfold execRop
  refine h.micro (fun _ _ _ ht => ?_)
  dsimp only
  split
  · exact ht.seqFault
  · exact ht.withEcc (fun _ hu => hu.setRows.seqNext)

theorem execMaj_canon {n : Nat} {dev : Bool} {ecc : RowEcc} (h : s.Canon) : (execMaj n dev ecc s).Canon := by
  unfold execMaj
  refine h.micro (fun _ _ _ ht => ?_)
  dsimp only
  split
  · exact ht.seqFault
  · exact ht.withEcc (fun _ hu => hu.setRows.seqNext)

theorem execMicroFill_canon {n : Nat} {dev : Bool} (h : s.Canon) : (execMicroFill n dev s).Canon := by
  unfold execMicroFill
  refine h.micro (fun _ _ _ ht => ?_)
  dsimp only
  split
  · exact ht.seqFault
  · exact ht.setRows.seqNext

theorem execPopc_canon {n : Nat} {dev : Bool} {ecc : RowEcc} (h : s.Canon) : (execPopc n dev ecc s).Canon := by
  unfold execPopc
  refine h.micro (fun _ _ _ ht => ?_)
  dsimp only
  split
  · exact ht.seqFault
  · split
    · exact ht.seqFault
    · refine ht.withEcc (fun _ hu => State.Canon.seqNext ?_)
      split
      · exact hu
      · exact State.Canon.setJobCore hu (fun hv => Core.Canon.written hv.jobCore)

theorem execMicroIdx_canon {n : Nat} {dev : Bool} (h : s.Canon) : (execMicroIdx n dev s).Canon := by
  unfold execMicroIdx
  refine h.micro (fun _ _ _ ht => ?_)
  dsimp only
  split
  · exact State.Canon.seqNext ht
  · exact State.Canon.seqNext ht
  · split
    · exact ht.seqFault
    · exact State.Canon.seqNext ht

theorem execMicroLoop_canon {n : Nat} {dev : Bool} (h : s.Canon) : (execMicroLoop n dev s).Canon := by
  unfold execMicroLoop
  refine h.micro (fun _ _ _ ht => State.Canon.setSeq ?_)
  dsimp only
  split
  · exact State.Canon.seqNext ht
  · exact ht

end

/-! ## Flash (R378 to R396) -/

section
variable {s : State}

theorem State.Canon.rebuildPage {lgn : Nat} (h : s.Canon) : (s.rebuildPage lgn).Canon := by
  unfold State.rebuildPage
  dsimp only
  split <;> exact h

theorem State.Canon.stripeClosed {stream die : Nat} (h : s.Canon) : (s.stripeClosed stream die).Canon := by
  unfold State.stripeClosed
  dsimp only
  split <;> exact h

theorem execGarbageCollection_canon (h : s.Canon) : (execGarbageCollection s).Canon := by
  unfold execGarbageCollection
  refine h.ifUp ?_
  dsimp only
  split
  · exact h
  · split <;> exact h

theorem execReadRefresh_canon {ch die plane block : Nat} (h : s.Canon) : (execReadRefresh ch die plane block s).Canon := by
  unfold execReadRefresh
  refine h.ifUp ?_
  dsimp only
  split <;> exact h

theorem execEraseFail_canon {ch die plane block : Nat} (h : s.Canon) : (execEraseFail ch die plane block s).Canon := by
  unfold execEraseFail
  refine h.ifUp ?_
  split <;> exact h

theorem execPageProgramFail_canon {ch die plane block page : Nat} (h : s.Canon) : (execPageProgramFail ch die plane block page s).Canon := by
  unfold execPageProgramFail
  refine h.ifUp ?_
  dsimp only
  split <;> exact h

theorem execFtlSplitWrite_canon {v : W32} (h : s.Canon) : (execFtlSplitWrite v s).Canon := by
  unfold execFtlSplitWrite
  refine h.ifUp ?_
  dsimp only
  split
  · exact h
  · split <;> exact h

end

/-! ## Loads, stores and messages of a core (R135, R144, R176) -/

section
variable {s : State}

theorem execLdw_canon {c : Nat} {h : Head} {f : FmtR} (hs : s.Canon) : (execLdw c h f s).Canon := by
  unfold execLdw
  refine hs.word (fun _ _ ht => ?_)
  dsimp only
  split
  · trivial
  · exact ht

theorem execStw_canon {c : Nat} {h : Head} {f : FmtR} (hs : s.Canon) : (execStw c h f s).Canon := by
  unfold execStw
  refine hs.word (fun _ _ ht => ?_)
  dsimp only
  split
  · trivial
  · exact ht.later

theorem execVld_canon {c : Nat} {h : Head} {f : FmtR} (hs : s.Canon) : (execVld c h f s).Canon := by
  unfold execVld
  refine hs.word (fun _ _ ht => ?_)
  dsimp only
  split
  · trivial
  · exact ht

theorem execVst_canon {c : Nat} {h : Head} {f : FmtR} (hs : s.Canon) : (execVst c h f s).Canon := by
  unfold execVst
  refine hs.word (fun _ _ ht => ?_)
  dsimp only
  split
  · trivial
  · exact ht.later

theorem launch_canon {k : Core} {cands : List (Cause × Nat)} {x : Late} (hk : k.Canon) : (launch k cands x).Canon := by
  unfold launch
  split
  · trivial
  · split
    · trivial
    · exact hk.later

theorem execRwr_canon {c : Nat} {h : Head} {f : FmtP} (hs : s.Canon) : (execRwr c h f s).Canon :=
  hs.word (fun _ _ ht => launch_canon ht)

theorem execRwrv_canon {c : Nat} {h : Head} {f : FmtP} (hs : s.Canon) : (execRwrv c h f s).Canon :=
  hs.word (fun _ _ ht => launch_canon ht)

theorem execHld_canon {c : Nat} {h : Head} {f : FmtP} (hs : s.Canon) : (execHld c h f s).Canon :=
  hs.word (fun _ _ ht => launch_canon ht)

theorem execHst_canon {c : Nat} {h : Head} {f : FmtP} (hs : s.Canon) : (execHst c h f s).Canon :=
  hs.word (fun _ _ ht => launch_canon ht)

theorem execSend_canon {c : Nat} {h : Head} {f : FmtP} (hs : s.Canon) : (execSend c h f s).Canon :=
  hs.word (fun _ _ ht => launch_canon ht)

theorem execPut_canon {c : Nat} {h : Head} {f : FmtP} (hs : s.Canon) : (execPut c h f s).Canon := by
  unfold execPut
  refine hs.word (fun _ _ ht => ?_)
  dsimp only
  split
  · trivial
  · split
    · trivial
    · exact ht.later

theorem execFenceL_canon {c : Nat} {h : Head} {f : FmtI} (hs : s.Canon) : (execFenceL c h f s).Canon :=
  hs.word (fun _ _ ht => ht.later)

theorem execFenceM_canon {c : Nat} {h : Head} {f : FmtI} (hs : s.Canon) : (execFenceM c h f s).Canon :=
  hs.word (fun _ _ ht => ht.later)

theorem execSeminc_canon {c : Nat} {h : Head} {f : FmtI} (hs : s.Canon) : (execSeminc c h f s).Canon := by
  unfold execSeminc
  refine hs.word (fun _ _ ht => ?_)
  dsimp only
  split
  · split
    · trivial
    · exact ht.later
  · exact ht.later

theorem execSemwait_canon {c : Nat} {h : Head} {f : FmtI} (hs : s.Canon) : (execSemwait c h f s).Canon := by
  unfold execSemwait
  refine hs.word (fun _ _ ht => ?_)
  dsimp only
  split
  · trivial
  · exact ht.later

theorem execBar_canon {c : Nat} {h : Head} {f : FmtI} (hs : s.Canon) : (execBar c h f s).Canon :=
  hs.word (fun _ _ ht => ht.later)

theorem State.Canon.incSem {j c n v : Nat} (h : s.Canon) : (s.incSem j c n v).Canon :=
  h.setJobCore (fun _ => Core.Canon.updated h.jobCore)

theorem State.Canon.storeAt {j c a : Nat} {data : List Byte} (h : s.Canon) : (s.storeAt j c a data).Canon :=
  State.Canon.spoilIf (State.Canon.wakeFor (h.setJobCore (fun _ => Core.Canon.written h.jobCore)))

theorem execRemoteWriteLand_canon {src dst : Nat} (h : s.Canon) : (execRemoteWriteLand src dst s).Canon := by
  unfold execRemoteWriteLand
  refine h.ifReady ?_
  dsimp only
  split
  · exact h
  · split
    · exact State.Canon.storeAt (h.setCore (fun _ => h.core))
    · exact State.Canon.incSem (State.Canon.wakeFor (h.setCore (fun _ => h.core)))
    · exact h

theorem State.Canon.countHeld {qs : List Nat} (h : s.Canon) : (s.countHeld qs).Canon :=
  h.foldl (fun _ _ ht => ht)

theorem State.Canon.apertureWrite {a : Nat} {bs : List Byte} (h : s.Canon) : OptCanon (fun t => t) (s.apertureWrite a bs) := by
  refine List.foldlRecOn (motive := OptCanon fun t => t) _ _ h fun o ho p _ => ?_
  cases o with
  | none => trivial
  | some t => exact State.Canon.areaWrite (s := t) ho

theorem execSendLand_canon {p : Packet} (h : s.Canon) : (execSendLand p s).Canon := by
  unfold execSendLand
  refine h.ifReady ?_
  have ha := h.arrive (p := p)
  split
  next t e =>
    rw [e] at ha
    exact ha
  next j data t e =>
    have ht : t.Canon := by
      rw [e] at ha
      exact ha
    extract_lets c a sem k fits g
    split
    · exact h
    · split
      · exact State.Canon.reply ht
      · exact State.Canon.reply (State.Canon.incSem (State.Canon.storeAt ht))

theorem execHbmCopyDone_canon {core idx : Nat} (h : s.Canon) : (execHbmCopyDone core idx s).Canon := by
  unfold execHbmCopyDone
  refine h.ifReady ?_
  dsimp only
  split
  · split
    · split
      · split
        · exact h
        · exact State.Canon.countHeld (h.setCore (fun _ => h.core))
      · exact State.Canon.endProg (State.Canon.incSem (State.Canon.storeAt (h.setCore (fun _ => h.core))))
    · split
      · split
        · exact h
        · exact State.Canon.countHeld (h.setCore (fun _ => h.core))
      · exact State.Canon.endProg (State.Canon.incSem (State.Canon.storeAt (h.setCore (fun _ => h.core))))
  · exact State.Canon.endProg (State.Canon.incSem (State.Canon.storeAt (h.setCore (fun _ => h.core))))
  · split
    · split
      · trivial
      · rename_i t e
        have ht : t.Canon := OptCanon.of_eq e (State.Canon.apertureWrite (h.setCore (fun _ => h.core.updated)))
        exact ht.incSem.endProg
    · exact State.Canon.endProg (State.Canon.incSem (State.Canon.spoilIf (State.Canon.wr (h.setCore (fun _ => h.core)))))
  · exact h

end

/-! ## Programs, pump descriptors, core groups (R63, R121 to R126, R148 to R157, R337 to R339) -/

section
variable {s : State}

theorem execRunProgram_canon {job well : Nat} {d : Desc} (h : s.Canon) : (execRunProgram job well d s).Canon := by
  unfold execRunProgram
  refine h.takeUp (fun _ _ ht => ?_)
  dsimp only
  split
  · exact ht.complete
  · split
    · exact State.Canon.complete ht
    · split
      · split
        · exact ht.complete
        · exact State.Canon.startProgs ht
      · exact State.Canon.complete ht

theorem execProgramTimeout_canon {prog : Nat} (h : s.Canon) : (execProgramTimeout prog s).Canon := by
  unfold execProgramTimeout
  refine h.ifReady ?_
  split
  · exact h
  · split
    · exact h
    · split
      · exact h
      · exact h.stopProg.endProg

theorem State.Canon.grainWrite {j : Nat} {a : W64} {bs : List Byte} (h : s.Canon) : (s.grainWrite j a bs).Canon := by
  unfold State.grainWrite
  split
  · exact h.storeAt
  · exact h.wr.spoilIf

theorem State.Canon.descDone {n : Nat} {x : PumpDesc} (h : s.Canon) : (s.descDone n x).Canon := by
  unfold State.descDone
  dsimp only
  split
  · exact h
  · refine State.Canon.endProg ?_
    split
    · exact State.Canon.updated h.storeAt.incSem
    · exact State.Canon.updated h.storeAt

theorem execPumpDescriptorDone_canon {pump : Nat} (h : s.Canon) : (execPumpDescriptorDone pump s).Canon := by
  unfold execPumpDescriptorDone
  refine h.ifReady ?_
  split
  · split
    · exact h
    · split
      · exact h
      · split
        · exact h.descDone
        · exact h
  · exact h

theorem State.Canon.pumpEnded {x : EngCmd} {n : Nat} (h : s.Canon) : (s.pumpEnded x n).Canon := by
  unfold State.pumpEnded
  dsimp only
  split
  · exact h
  · split
    · exact h
    · split
      · exact h.descDone
      · exact h.enqueue

theorem State.Canon.groupRetain {g : Nat} (h : s.Canon) : (s.groupRetain g).Canon :=
  State.Canon.setGroup (h.foldl (fun _ _ ht => ht.setCore (fun _ => ht.core))) (fun hu => hu.group)

theorem execGroupAutoRetain_canon {g : Nat} (h : s.Canon) : (execGroupAutoRetain g s).Canon := by
  unfold execGroupAutoRetain
  refine h.ifReady ?_
  dsimp only
  split
  · exact h.groupRetain
  · exact h

theorem State.Canon.chargeSteps {j cyc : Nat} (h : s.Canon) : (s.chargeSteps j cyc).Canon := by
  unfold State.chargeSteps
  dsimp only
  split
  · exact h
  · exact h.foldl (fun _ _ ht => ht)

theorem State.Canon.pumpGrain {j : Nat} {bs : List Byte} {x : PumpDesc} {checkOk : Bool} (h : s.Canon) : (s.pumpGrain j bs x checkOk).1.Canon := by
  unfold State.pumpGrain
  extract_lets g check
  have hw : (if check then s else s.grainWrite j (gPlus (BitVec.ofNat 64 (at_ bs 16 8)) x.done) g).Canon := by
    split
    · exact h
    · exact h.grainWrite
  split
  · exact h
  · exact hw

theorem State.Canon.pumpRun {n : Nat} {x : PumpDesc} {p : Prog} {checkOk : Bool} (h : s.Canon) : (s.pumpRun n x p checkOk).Canon := by
  unfold State.pumpRun
  have hrun (j : Nat) (bs : List Byte) (l : List Nat) (x : PumpDesc) :
      (l.foldl (fun (r : State × PumpDesc) _ => if r.2.status ≠ 0 then r else r.1.pumpGrain j bs r.2 checkOk) (s, x)).1.Canon := by
    refine List.foldlRecOn (motive := fun r : State × PumpDesc => r.1.Canon) _ _ h fun r hr _ _ => ?_
    split
    · exact hr
    · exact State.Canon.pumpGrain hr
  dsimp only
  refine State.Canon.updated ?_
  split
  · exact h
  · exact hrun _ _ _ _

theorem State.Canon.groupOff {g : Nat} (h : s.Canon) : (s.groupOff g).Canon :=
  State.Canon.setGroup (State.Canon.foldl h fun _ _ ht => ⟨ht.hbm, ht.host, forall_mdel ht.cores, ht.groups⟩) fun ht => ht.group

theorem State.Canon.switchGroup {g b : Nat} (h : s.Canon) : (s.switchGroup g b).Canon := by
  unfold State.switchGroup
  extract_lets x a shared saved mine t
  have ht : t.Canon := State.Canon.foldl h fun _ _ ht => ht.setCore fun _ => mergeStore_wf ht.core
  have hsaved : ∀ e ∈ saved, e.2.Canon :=
    List.foldlRecOn (motive := fun m : Map Core => ∀ e ∈ m, e.2.Canon) _ _ h.group.savedOf fun _ hm _ _ => forall_mput hm h.core
  exact ht.setGroup fun _ => forall_mput (P := fun m : Map Core => ∀ e ∈ m, e.2.Canon)
    (forall_mdel (P := fun m : Map Core => ∀ e ∈ m, e.2.Canon) h.group) hsaved

theorem execPumpTakeUp_canon {pump : Nat} {checkOk : Bool} (h : s.Canon) : (execPumpTakeUp pump checkOk s).Canon := by
  unfold execPumpTakeUp
  refine h.ifReady ?_
  dsimp only
  split
  · exact h
  · split
    · split
      · exact h.pick
      · split
        · exact h.pick
        · split
          · exact h.pick.pumpRun
          · split
            · exact h
            · exact State.Canon.updated h.countHeld
    · exact h.pick

theorem execPwrGroupCtlWrite_canon {g : Nat} {v : W64} (h : s.Canon) : (execPwrGroupCtlWrite g v s).Canon := by
  unfold execPwrGroupCtlWrite
  refine h.ifUp ?_
  dsimp only
  split
  · trivial
  · split
    · exact h.setGroup (fun _ => h.group)
    · split
      · exact State.Canon.setGroup (h.setGroup (fun _ => h.group)) (fun ht => ht.group)
      · split
        · split
          · exact h.setGroup (fun _ => h.group)
          · exact State.Canon.groupOff (h.setGroup (fun _ => h.group))
        · split
          · exact State.Canon.groupRetain (h.setGroup (fun _ => h.group))
          · exact h.setGroup (fun _ => h.group)

theorem execContextSwitch_canon {group cyc : Nat} (h : s.Canon) : (execContextSwitch group cyc s).Canon := by
  unfold execContextSwitch
  refine h.ifReady ?_
  dsimp only
  split
  · exact h
  · split
    · exact h
    · split
      · exact State.Canon.chargeSteps (State.Canon.account h)
      · split
        · exact State.Canon.setPool (State.Canon.chargeSteps (State.Canon.account h))
        · exact State.Canon.foldl (State.Canon.setPool (State.Canon.chargeSteps (State.Canon.account h))) (fun _ _ ht => ht.switchGroup)

end

/-! ## Matrix words (R170 to R175) -/

section
variable {s : State}

theorem execMout_canon {c : Nat} {h : Head} {f : FmtM} (hs : s.Canon) : (execMout c h f s).Canon := by
  unfold execMout
  refine hs.word (fun _ _ ht => ?_)
  dsimp only
  split
  · trivial
  · exact ht.updated

theorem execMrow_canon {c : Nat} {h : Head} {f : FmtM} (hs : s.Canon) : (execMrow c h f s).Canon := by
  unfold execMrow
  refine hs.word (fun _ _ ht => ?_)
  dsimp only
  split
  · trivial
  · exact ht

theorem execMclr_canon {c : Nat} {h : Head} {f : FmtM} (hs : s.Canon) : (execMclr c h f s).Canon :=
  hs.word (fun _ _ ht => regsOnly_canon ht)

theorem execMrfill_canon {c : Nat} {h : Head} {f : FmtM} (hs : s.Canon) : (execMrfill c h f s).Canon := by
  unfold execMrfill
  refine hs.word (fun _ _ ht => ?_)
  dsimp only
  split
  · trivial
  · exact ht

theorem execMradd_canon {c : Nat} {h : Head} {f : FmtM} (hs : s.Canon) : (execMradd c h f s).Canon := by
  unfold execMradd
  refine hs.word (fun _ _ ht => ?_)
  dsimp only
  split
  · trivial
  · exact ht

theorem execMrdw_canon {c : Nat} {h : Head} {f : FmtM} (hs : s.Canon) : (execMrdw c h f s).Canon := by
  unfold execMrdw
  refine hs.word (fun _ k hk => ?_)
  dsimp only
  split
  · trivial
  · exact Core.Canon.updated (Core.Canon.foldl hk fun _ _ hk => hk.later.later)

theorem execMrdr_canon {c : Nat} {h : Head} {f : FmtM} (hs : s.Canon) : (execMrdr c h f s).Canon := by
  unfold execMrdr
  refine hs.word (fun _ k hk => ?_)
  dsimp only
  split
  · trivial
  · exact Core.Canon.updated (Core.Canon.foldl hk fun _ _ hk => hk.later.later)

theorem Word.Canon.ite {w v : Word} {c : Prop} [Decidable c] (hw : w.Canon) (hv : v.Canon) : (if c then w else v).Canon := by
  split
  · exact hw
  · exact hv

theorem execMrq_canon {c : Nat} {h : Head} {f : FmtM} (hs : s.Canon) : (execMrq c h f s).Canon := by
  unfold execMrq
  refine hs.word (fun _ k hk => ?_)
  dsimp only
  refine Word.Canon.ite trivial ?_
  exact Core.Canon.updated (Core.Canon.foldl hk fun _ _ hk => hk.later.later)

end

/-! ## Scalar words (R163 to R166) -/

section
variable {s : State}

theorem sclOp_canon {i : Instr} {op : W32 → W32 → W32} {c : Nat} {h : Head} {f : FmtR} (hs : s.Canon) : (sclOp i op c h f s).Canon :=
  hs.word (fun _ _ ht => regsOnly_canon ht)

theorem sclImm_canon {i : Instr} {legal : Bool} {op : W32 → W32 → W32} {c : Nat} {h : Head} {f : FmtI} (hs : s.Canon) :
    (sclImm i legal op c h f s).Canon :=
  hs.word (fun _ _ ht => regsOnly_canon ht)

theorem sclCmp_canon {i : Instr} {op : W32 → W32 → Bool} {c : Nat} {h : Head} {f : FmtR} (hs : s.Canon) : (sclCmp i op c h f s).Canon :=
  hs.word (fun _ _ ht => regsOnly_canon ht)

theorem sclCmpImm_canon {i : Instr} {op : W32 → W32 → Bool} {c : Nat} {h : Head} {f : FmtI} (hs : s.Canon) : (sclCmpImm i op c h f s).Canon :=
  hs.word (fun _ _ ht => regsOnly_canon ht)

theorem sclPred_canon {i : Instr} {op : W64 → W64 → W64} {c : Nat} {h : Head} {f : FmtR} (hs : s.Canon) : (sclPred i op c h f s).Canon :=
  hs.word (fun _ _ ht => regsOnly_canon ht)

theorem execNop_canon {c : Nat} {h : Head} {f : FmtR} (hs : s.Canon) : (execNop c h f s).Canon :=
  hs.word (fun _ _ ht => regsOnly_canon ht)

theorem execAdd_canon {c : Nat} {h : Head} {f : FmtR} (hs : s.Canon) : (execAdd c h f s).Canon :=
  sclOp_canon hs

theorem execSub_canon {c : Nat} {h : Head} {f : FmtR} (hs : s.Canon) : (execSub c h f s).Canon :=
  sclOp_canon hs

theorem execMul_canon {c : Nat} {h : Head} {f : FmtR} (hs : s.Canon) : (execMul c h f s).Canon :=
  sclOp_canon hs

theorem execMulh_canon {c : Nat} {h : Head} {f : FmtR} (hs : s.Canon) : (execMulh c h f s).Canon :=
  sclOp_canon hs

theorem execAnd_canon {c : Nat} {h : Head} {f : FmtR} (hs : s.Canon) : (execAnd c h f s).Canon :=
  sclOp_canon hs

theorem execOr_canon {c : Nat} {h : Head} {f : FmtR} (hs : s.Canon) : (execOr c h f s).Canon :=
  sclOp_canon hs

theorem execXor_canon {c : Nat} {h : Head} {f : FmtR} (hs : s.Canon) : (execXor c h f s).Canon :=
  sclOp_canon hs

theorem execShl_canon {c : Nat} {h : Head} {f : FmtR} (hs : s.Canon) : (execShl c h f s).Canon :=
  sclOp_canon hs

theorem execShr_canon {c : Nat} {h : Head} {f : FmtR} (hs : s.Canon) : (execShr c h f s).Canon :=
  sclOp_canon hs

theorem execSra_canon {c : Nat} {h : Head} {f : FmtR} (hs : s.Canon) : (execSra c h f s).Canon :=
  sclOp_canon hs

theorem execMin_canon {c : Nat} {h : Head} {f : FmtR} (hs : s.Canon) : (execMin c h f s).Canon :=
  sclOp_canon hs

theorem execMax_canon {c : Nat} {h : Head} {f : FmtR} (hs : s.Canon) : (execMax c h f s).Canon :=
  sclOp_canon hs

theorem execMinu_canon {c : Nat} {h : Head} {f : FmtR} (hs : s.Canon) : (execMinu c h f s).Canon :=
  sclOp_canon hs

theorem execMaxu_canon {c : Nat} {h : Head} {f : FmtR} (hs : s.Canon) : (execMaxu c h f s).Canon :=
  sclOp_canon hs

theorem execCmpeq_canon {c : Nat} {h : Head} {f : FmtR} (hs : s.Canon) : (execCmpeq c h f s).Canon :=
  sclCmp_canon hs

theorem execCmpne_canon {c : Nat} {h : Head} {f : FmtR} (hs : s.Canon) : (execCmpne c h f s).Canon :=
  sclCmp_canon hs

theorem execCmplt_canon {c : Nat} {h : Head} {f : FmtR} (hs : s.Canon) : (execCmplt c h f s).Canon :=
  sclCmp_canon hs

theorem execCmpltu_canon {c : Nat} {h : Head} {f : FmtR} (hs : s.Canon) : (execCmpltu c h f s).Canon :=
  sclCmp_canon hs

theorem execCmple_canon {c : Nat} {h : Head} {f : FmtR} (hs : s.Canon) : (execCmple c h f s).Canon :=
  sclCmp_canon hs

theorem execCmpleu_canon {c : Nat} {h : Head} {f : FmtR} (hs : s.Canon) : (execCmpleu c h f s).Canon :=
  sclCmp_canon hs

theorem execPand_canon {c : Nat} {h : Head} {f : FmtR} (hs : s.Canon) : (execPand c h f s).Canon :=
  sclPred_canon hs

theorem execPor_canon {c : Nat} {h : Head} {f : FmtR} (hs : s.Canon) : (execPor c h f s).Canon :=
  sclPred_canon hs

theorem execPxor_canon {c : Nat} {h : Head} {f : FmtR} (hs : s.Canon) : (execPxor c h f s).Canon :=
  sclPred_canon hs

theorem execPandn_canon {c : Nat} {h : Head} {f : FmtR} (hs : s.Canon) : (execPandn c h f s).Canon :=
  sclPred_canon hs

theorem execAddi_canon {c : Nat} {h : Head} {f : FmtI} (hs : s.Canon) : (execAddi c h f s).Canon :=
  sclImm_canon hs

theorem execAndi_canon {c : Nat} {h : Head} {f : FmtI} (hs : s.Canon) : (execAndi c h f s).Canon :=
  sclImm_canon hs

theorem execOri_canon {c : Nat} {h : Head} {f : FmtI} (hs : s.Canon) : (execOri c h f s).Canon :=
  sclImm_canon hs

theorem execXori_canon {c : Nat} {h : Head} {f : FmtI} (hs : s.Canon) : (execXori c h f s).Canon :=
  sclImm_canon hs

theorem execShli_canon {c : Nat} {h : Head} {f : FmtI} (hs : s.Canon) : (execShli c h f s).Canon :=
  sclImm_canon hs

theorem execShri_canon {c : Nat} {h : Head} {f : FmtI} (hs : s.Canon) : (execShri c h f s).Canon :=
  sclImm_canon hs

theorem execSrai_canon {c : Nat} {h : Head} {f : FmtI} (hs : s.Canon) : (execSrai c h f s).Canon :=
  sclImm_canon hs

theorem execLi_canon {c : Nat} {h : Head} {f : FmtI} (hs : s.Canon) : (execLi c h f s).Canon :=
  sclImm_canon hs

theorem execCmpeqi_canon {c : Nat} {h : Head} {f : FmtI} (hs : s.Canon) : (execCmpeqi c h f s).Canon :=
  sclCmpImm_canon hs

theorem execCmplti_canon {c : Nat} {h : Head} {f : FmtI} (hs : s.Canon) : (execCmplti c h f s).Canon :=
  sclCmpImm_canon hs

theorem execCmpltui_canon {c : Nat} {h : Head} {f : FmtI} (hs : s.Canon) : (execCmpltui c h f s).Canon :=
  sclCmpImm_canon hs

theorem branchTo_canon {e : Env} {k : Core} {t : Nat} (hk : k.Canon) : (branchTo e k t).Canon := by
  unfold branchTo
  dsimp only
  split
  · split
    · split
      · exact hk
      · trivial
    · split
      · exact hk
      · trivial
  · split
    · split
      · exact hk
      · trivial
    · split
      · exact hk
      · trivial

theorem execBr_canon {c : Nat} {h : Head} {f : FmtB} (hs : s.Canon) : (execBr c h f s).Canon :=
  hs.word (fun _ _ ht => branchTo_canon ht)

theorem execCall_canon {c : Nat} {h : Head} {f : FmtB} (hs : s.Canon) : (execCall c h f s).Canon :=
  hs.word (fun _ _ ht => branchTo_canon ht.later)

theorem execJr_canon {c : Nat} {h : Head} {f : FmtB} (hs : s.Canon) : (execJr c h f s).Canon :=
  hs.word (fun _ _ ht => branchTo_canon ht)

theorem execLoop_canon {c : Nat} {h : Head} {f : FmtB} (hs : s.Canon) : (execLoop c h f s).Canon := by
  unfold execLoop
  refine hs.word (fun _ _ ht => ?_)
  dsimp only
  split
  · exact ht
  · exact branchTo_canon ht

theorem execMfsr_canon {c : Nat} {h : Head} {f : FmtI} (hs : s.Canon) : (execMfsr c h f s).Canon :=
  hs.word (fun _ _ ht => ht)

theorem execMtsr_canon {c : Nat} {h : Head} {f : FmtI} (hs : s.Canon) : (execMtsr c h f s).Canon :=
  hs.word (fun _ _ ht => regsOnly_canon ht)

theorem execHalt_canon {c : Nat} {h : Head} {f : FmtI} (hs : s.Canon) : (execHalt c h f s).Canon :=
  hs.word (fun _ _ ht => ht.later)

end

/-! ## Vector words (R167 to R169) -/

section
variable {s : State}

theorem vec2_canon {i : Instr} {tys : List Nat} {g : Nat → W32 → W32 → W32 × Nat} {c : Nat} {h : Head} {f : FmtR} (hs : s.Canon) :
    (vec2 i tys g c h f s).Canon :=
  hs.word (fun _ _ ht => regsOnly_canon ht)

theorem vecCmp_canon {i : Instr} {fi : W32 → W32 → Bool} {ff : Fmt → Nat → Nat → Bool × Nat} {c : Nat} {h : Head} {f : FmtR} (hs : s.Canon) :
    (vecCmp i fi ff c h f s).Canon :=
  hs.word (fun _ _ ht => regsOnly_canon ht)

theorem vec1_canon {i : Instr} {tys : List Nat} {masked : Prog → Bool} {g : CoreRegs → Nat → W32 → W32 × Nat} {c : Nat} {h : Head} {f : FmtR}
    (hs : s.Canon) : (vec1 i tys masked g c h f s).Canon :=
  hs.word (fun _ _ ht => regsOnly_canon ht)

theorem execVadd_canon {c : Nat} {h : Head} {f : FmtR} (hs : s.Canon) : (execVadd c h f s).Canon :=
  vec2_canon hs

theorem execVsub_canon {c : Nat} {h : Head} {f : FmtR} (hs : s.Canon) : (execVsub c h f s).Canon :=
  vec2_canon hs

theorem execVmul_canon {c : Nat} {h : Head} {f : FmtR} (hs : s.Canon) : (execVmul c h f s).Canon :=
  vec2_canon hs

theorem execVfma_canon {c : Nat} {h : Head} {f : FmtR} (hs : s.Canon) : (execVfma c h f s).Canon :=
  hs.word (fun _ _ ht => regsOnly_canon ht)

theorem execVmin_canon {c : Nat} {h : Head} {f : FmtR} (hs : s.Canon) : (execVmin c h f s).Canon :=
  vec2_canon hs

theorem execVmax_canon {c : Nat} {h : Head} {f : FmtR} (hs : s.Canon) : (execVmax c h f s).Canon :=
  vec2_canon hs

theorem execVand_canon {c : Nat} {h : Head} {f : FmtR} (hs : s.Canon) : (execVand c h f s).Canon :=
  vec2_canon hs

theorem execVor_canon {c : Nat} {h : Head} {f : FmtR} (hs : s.Canon) : (execVor c h f s).Canon :=
  vec2_canon hs

theorem execVxor_canon {c : Nat} {h : Head} {f : FmtR} (hs : s.Canon) : (execVxor c h f s).Canon :=
  vec2_canon hs

theorem execVshl_canon {c : Nat} {h : Head} {f : FmtR} (hs : s.Canon) : (execVshl c h f s).Canon :=
  vec2_canon hs

theorem execVshr_canon {c : Nat} {h : Head} {f : FmtR} (hs : s.Canon) : (execVshr c h f s).Canon :=
  vec2_canon hs

theorem execVsra_canon {c : Nat} {h : Head} {f : FmtR} (hs : s.Canon) : (execVsra c h f s).Canon :=
  vec2_canon hs

theorem execVcmpeq_canon {c : Nat} {h : Head} {f : FmtR} (hs : s.Canon) : (execVcmpeq c h f s).Canon :=
  vecCmp_canon hs

theorem execVcmplt_canon {c : Nat} {h : Head} {f : FmtR} (hs : s.Canon) : (execVcmplt c h f s).Canon :=
  vecCmp_canon hs

theorem execVcmple_canon {c : Nat} {h : Head} {f : FmtR} (hs : s.Canon) : (execVcmple c h f s).Canon :=
  vecCmp_canon hs

theorem execVsel_canon {c : Nat} {h : Head} {f : FmtR} (hs : s.Canon) : (execVsel c h f s).Canon :=
  hs.word (fun _ _ ht => regsOnly_canon ht)

theorem execVbcs_canon {c : Nat} {h : Head} {f : FmtR} (hs : s.Canon) : (execVbcs c h f s).Canon :=
  hs.word (fun _ _ ht => regsOnly_canon ht)

theorem execVidx_canon {c : Nat} {h : Head} {f : FmtR} (hs : s.Canon) : (execVidx c h f s).Canon :=
  hs.word (fun _ _ ht => regsOnly_canon ht)

theorem execVext_canon {c : Nat} {h : Head} {f : FmtR} (hs : s.Canon) : (execVext c h f s).Canon :=
  hs.word (fun _ _ ht => regsOnly_canon ht)

theorem execVins_canon {c : Nat} {h : Head} {f : FmtR} (hs : s.Canon) : (execVins c h f s).Canon :=
  hs.word (fun _ _ ht => regsOnly_canon ht)

theorem vecRed_canon {i : Instr} {fi : W32 → W32 → W32} {ff : Fmt → Nat → Nat → Nat × Nat} {idI : W32} {idF : Fmt → Nat} {c : Nat} {h : Head}
    {f : FmtR} (hs : s.Canon) : (vecRed i fi ff idI idF c h f s).Canon :=
  hs.word (fun _ _ ht => regsOnly_canon ht)

theorem execVredadd_canon {c : Nat} {h : Head} {f : FmtR} (hs : s.Canon) : (execVredadd c h f s).Canon :=
  vecRed_canon hs

theorem execVredmax_canon {c : Nat} {h : Head} {f : FmtR} (hs : s.Canon) : (execVredmax c h f s).Canon :=
  vecRed_canon hs

theorem execVredmin_canon {c : Nat} {h : Head} {f : FmtR} (hs : s.Canon) : (execVredmin c h f s).Canon :=
  vecRed_canon hs

theorem execVredaddx_canon {c : Nat} {h : Head} {f : FmtR} (hs : s.Canon) : (execVredaddx c h f s).Canon :=
  hs.word (fun _ _ ht => regsOnly_canon ht)

theorem execVlog2_canon {c : Nat} {h : Head} {f : FmtR} (hs : s.Canon) : (execVlog2 c h f s).Canon :=
  vec1_canon hs

theorem execVexp2_canon {c : Nat} {h : Head} {f : FmtR} (hs : s.Canon) : (execVexp2 c h f s).Canon :=
  vec1_canon hs

theorem execVlog2c_canon {c : Nat} {h : Head} {f : FmtR} (hs : s.Canon) : (execVlog2c c h f s).Canon :=
  hs.word (fun _ _ ht => regsOnly_canon ht)

theorem execVcvtc_canon {c : Nat} {h : Head} {f : FmtR} (hs : s.Canon) : (execVcvtc c h f s).Canon :=
  hs.word (fun _ _ ht => regsOnly_canon ht)

theorem execVcvtw_canon {c : Nat} {h : Head} {f : FmtR} (hs : s.Canon) : (execVcvtw c h f s).Canon :=
  vec1_canon hs

theorem execVcvtf_canon {c : Nat} {h : Head} {f : FmtR} (hs : s.Canon) : (execVcvtf c h f s).Canon :=
  vec1_canon hs

theorem execVcvtif_canon {c : Nat} {h : Head} {f : FmtR} (hs : s.Canon) : (execVcvtif c h f s).Canon :=
  vec1_canon hs

theorem execVcvtfi_canon {c : Nat} {h : Head} {f : FmtR} (hs : s.Canon) : (execVcvtfi c h f s).Canon :=
  vec1_canon hs

theorem execVrqf_canon {c : Nat} {h : Head} {f : FmtR} (hs : s.Canon) : (execVrqf c h f s).Canon :=
  hs.word (fun _ _ ht => regsOnly_canon ht)

theorem execVrqw_canon {c : Nat} {h : Head} {f : FmtR} (hs : s.Canon) : (execVrqw c h f s).Canon :=
  hs.word (fun _ _ ht => regsOnly_canon ht)

theorem execSmxx_canon {c : Nat} {h : Head} {f : FmtR} (hs : s.Canon) : (execSmxx c h f s).Canon :=
  hs.word (fun _ _ ht => regsOnly_canon ht)

theorem execSmxe_canon {c : Nat} {h : Head} {f : FmtR} (hs : s.Canon) : (execSmxe c h f s).Canon :=
  hs.word (fun _ _ ht => regsOnly_canon ht)

theorem execSmxc_canon {c : Nat} {h : Head} {f : FmtR} (hs : s.Canon) : (execSmxc c h f s).Canon :=
  hs.word (fun _ _ ht => regsOnly_canon ht)

theorem execSmxl_canon {c : Nat} {h : Head} {f : FmtR} (hs : s.Canon) : (execSmxl c h f s).Canon :=
  hs.word (fun _ _ ht => regsOnly_canon ht)

theorem execSmxcl_canon {c : Nat} {h : Head} {f : FmtR} (hs : s.Canon) : (execSmxcl c h f s).Canon :=
  hs.word (fun _ _ ht => regsOnly_canon ht)

end

end Sys2Proof.Machine
end

section
/-!
SUPPORT. Sessions, requests, grains and moves keep the byte memories canonical.
-/
namespace Sys2Proof.Machine

open Sys2Proof

/-! ## The session table (R11 to R43) -/

section
variable {s : State}

theorem State.Canon.sesWriteBack {i : Nat} (h : s.Canon) : (s.sesWriteBack i).Canon := by
  unfold State.sesWriteBack
  dsimp only
  split
  · refine State.Canon.countReg (State.Canon.wrHbm ?_)
    split <;> exact h
  · exact h

theorem State.Canon.sesBypassed (h : s.Canon) : s.sesBypassed.Canon := by
  unfold State.sesBypassed
  dsimp only
  split
  · exact h
  · exact State.Canon.updated h.sesWriteBack

theorem State.Canon.peerRelease {i j : Nat} {a : W64} (h : s.Canon) : (s.peerRelease i j a).Canon :=
  State.Canon.send h

theorem State.Canon.extentFree {j : Nat} {root : W64} {count : Nat} (h : s.Canon) : (s.extentFree j root count).Canon := by
  unfold State.extentFree
  dsimp only
  repeat' split
  all_goals exact h

theorem State.Canon.closeDone {i code : Nat} (h : s.Canon) : (s.closeDone i code).Canon :=
  h.foldl (fun _ _ ht => ht.complete)

theorem State.Canon.sessEvent {i status result : Nat} (h : s.Canon) : (s.sessEvent i status result).Canon := by
  unfold State.sessEvent
  split
  · exact h
  · exact h.event

theorem State.Canon.touch {i : Nat} (h : s.Canon) : (s.touch i).Canon := by
  unfold State.touch
  dsimp only
  split <;> exact h

theorem execSesCacheFlush_canon (h : s.Canon) : (execSesCacheFlush s).Canon :=
  h.ifUp (h.foldl (fun _ _ ht => ht.sesWriteBack))

theorem execJobTagWrite_canon {job : Nat} {tag : W32} (h : s.Canon) : (execJobTagWrite job tag s).Canon := by
  unfold execJobTagWrite
  refine h.ifUp ?_
  dsimp only
  split <;> exact h

theorem State.Canon.placeAll {j pairs tier : Nat} {near gs done : List SGrain} (h : s.Canon) : (s.placeAll j pairs tier near gs done).2.Canon := by
  obtain ⟨n, e⟩ := s.placeAll_only j pairs tier near gs done
  rw [e]
  exact h

theorem State.Canon.withMaps {j pairs level epoch tier : Nat} {gs : List SGrain} (h : s.Canon) :
    (s.withMaps j pairs level epoch tier gs).2.Canon := h.placeAll

theorem State.Canon.sesRoom (h : s.Canon) : OptCanon (fun t => t) s.sesRoom := by
  unfold State.sesRoom
  split
  · exact h
  · cases s.sesCache.reverse.find? (fun k => (s.sess k).curReq == 0) with
    | none => trivial
    | some k => exact h.sesWriteBack.updated

theorem State.Canon.sesAccess {i : Nat} (h : s.Canon) : (s.sesAccess i).1.Canon := by
  unfold State.sesAccess
  extract_lets t bad
  have ht : t.Canon := h.sesBypassed
  split
  · exact ht
  · split
    next => exact ht
    next u e =>
      have hu : u.Canon := OptCanon.of_eq e ht.sesRoom
      exact hu

theorem State.Canon.settle {i : Nat} (h : s.Canon) : (s.settle i).Canon := by
  unfold State.settle
  extract_lets x a t u
  split
  · exact State.Canon.foldl (s := u) h.sesAccess fun _ _ ht => ht.complete
  · exact h

theorem State.Canon.endSession {i : Nat} (h : s.Canon) : (s.endSession i).Canon :=
  State.Canon.settle (State.Canon.modAux (State.Canon.setSess (h.extentFree.foldl (fun _ _ ht => ht.peerRelease))))

theorem State.Canon.entryCorrupt {i : Nat} (h : s.Canon) : (s.entryCorrupt i).Canon := by
  unfold State.entryCorrupt
  refine State.Canon.endSession (State.Canon.modAux (State.Canon.logErr ?_))
  exact h

theorem State.Canon.withSession {c : DescCtx} {i : Nat} {touch : Bool} {body : State → Res} (h : s.Canon)
    (hbody : ∀ (a : State), a.Canon → (body a).Canon) : (s.withSession c i touch body).Canon := by
  unfold State.withSession
  dsimp only
  split
  · exact h.sesAccess.complete
  · split
    · exact h.sesAccess.entryCorrupt.complete
    · split
      · exact h.sesAccess.complete
      · refine hbody _ ?_
        split
        · exact h.sesAccess.touch
        · exact h.sesAccess

theorem execSessionExpiry_canon {session : Nat} (h : s.Canon) : (execSessionExpiry session s).Canon := by
  unfold execSessionExpiry
  refine h.ifReady ?_
  split
  · exact h
  · split
    rename_i e
    split
    · exact State.Canon.entryCorrupt (State.Canon.of_eq (f := (·.1)) e h.sesAccess)
    · split
      · exact State.Canon.of_eq (f := (·.1)) e h.sesAccess
      · exact State.Canon.endSession (State.Canon.sessEvent (State.Canon.of_eq (f := (·.1)) e h.sesAccess))

theorem execSesPeek_canon {fn : Nat} {v : W64} (h : s.Canon) : (execSesPeek fn v s).Canon := by
  unfold execSesPeek
  refine h.ifUp ?_
  dsimp only
  split
  · trivial
  · split
    · exact h
    · refine State.Canon.modFunc ?_
      split
      · split
        · exact State.Canon.entryCorrupt h
        · exact h
      · split
        · exact State.Canon.entryCorrupt (State.Canon.sesAccess h)
        · exact State.Canon.sesAccess h

theorem execSesRebuiltDrop_canon {job : Nat} (h : s.Canon) : (execSesRebuiltDrop job s).Canon :=
  h.ifUp (h.foldl (fun _ _ ht => ht.sesAccess.endSession))

theorem execOpenSession_canon {job well : Nat} {d : Desc} (h : s.Canon) : (execOpenSession job well d s).Canon := by
  unfold execOpenSession
  refine h.takeUp fun _ t ht => ?_
  dsimp only
  split
  · exact State.Canon.complete ht
  · exact State.Canon.complete (State.Canon.setAux (State.Canon.setSess (State.Canon.sesAccess
      (State.Canon.withMaps (State.Canon.placeAll (s := t.draw.2) ht)))))
  · exact ht

end

/-! ## Vocabularies (R279 to R288) -/

section
variable {s : State}

theorem execLoadGrammar_canon {job well : Nat} {d : Desc} (h : s.Canon) : (execLoadGrammar job well d s).Canon := by
  unfold execLoadGrammar
  refine h.takeUp (fun _ _ ht => ?_)
  dsimp only
  split
  · exact ht.complete
  · split
    · split
      · exact ht.complete
      · split
        · exact ht.complete
        · exact State.Canon.complete ht
    · split
      · exact ht.complete
      · split
        · exact ht.complete
        · split
          · exact State.Canon.complete ht
          · split
            · exact ht.complete
            · split
              · exact ht.complete
              · exact State.Canon.complete ht

theorem State.Canon.placeLane {lane : Nat} (h : s.Canon) : (s.placeLane lane).Canon := by
  refine List.foldlRecOn (motive := fun e : Nat × State => e.2.Canon) _ _ h fun e he k _ => ?_
  dsimp only
  split
  · exact he
  · split <;> exact he

theorem State.Canon.refillSlots {j m : Nat} (h : s.Canon) : (s.refillSlots j m).Canon := by
  unfold State.refillSlots
  refine h.foldl (fun _ _ ht => ?_)
  dsimp only
  split
  · exact ht.placeLane
  · exact ht

theorem execPrivSlotWrite_canon {n : Nat} {v : W64} (h : s.Canon) : (execPrivSlotWrite n v s).Canon := by
  unfold execPrivSlotWrite
  refine h.ifUp ?_
  split
  · trivial
  · exact State.Canon.placeLane h

theorem execLoadVocab_canon {job well : Nat} {d : Desc} (h : s.Canon) : (execLoadVocab job well d s).Canon := by
  unfold execLoadVocab
  refine h.takeUp (fun _ _ ht => ?_)
  dsimp only
  split
  · split
    · exact ht.complete
    · split
      · exact ht.complete
      · exact State.Canon.complete (State.Canon.refillSlots ht)
  · split
    · exact ht.complete
    · split
      · exact ht.complete
      · split
        · exact State.Canon.complete ht
        · split
          · exact ht.complete
          · exact State.Canon.complete (State.Canon.refillSlots ht)

end

/-! ## Requests and their output (R240, R289 to R291) -/

section
variable {s : State}

theorem State.Canon.freeReqEntry {i : Nat} (h : s.Canon) : (s.freeReqEntry i).Canon := by
  unfold State.freeReqEntry
  dsimp only
  split <;> exact h

theorem State.Canon.countMiss {i : Nat} (h : s.Canon) : (s.countMiss i).Canon := by
  unfold State.countMiss
  dsimp only
  split <;> exact h

theorem State.Canon.discardReq {i : Nat} {a : ReqAux} (h : s.Canon) : (s.discardReq i a).Canon :=
  h.modRaux.dropMoveWork.modSess

theorem State.Canon.dropXfer {t : Nat} (h : s.Canon) : (s.dropXfer t).Canon := by
  unfold State.dropXfer
  dsimp only
  split
  · exact h
  · exact State.Canon.modSess (State.Canon.updated h.send)

theorem State.Canon.sendSplit {i t : Nat} {x : Xfer} {a : ReqAux} (h : s.Canon) : (s.sendSplit i t x a).Canon :=
  State.Canon.send (h.foldl (fun _ _ ht => ht.sendGrain))

theorem State.Canon.splitSent {i : Nat} (h : s.Canon) : (s.splitSent i).Canon := by
  unfold State.splitSent
  dsimp only
  split
  · exact h
  · split
    · exact h
    · split
      · exact State.Canon.setRaux (State.Canon.updated h.sendSplit)
      · exact State.Canon.modAux (State.Canon.modSess (State.Canon.setRaux (State.Canon.updated h.sendSplit)))

theorem execSetOutput_canon {job well : Nat} {d : Desc} (h : s.Canon) : (execSetOutput job well d s).Canon := by
  unfold execSetOutput
  refine h.takeUp (fun _ _ ht => ?_)
  dsimp only
  split
  · exact ht.complete
  · exact State.Canon.complete ht

theorem State.Canon.putChunk {i : Nat} {a : ReqAux} {body : List Byte} {last : Bool} {status : Nat} (h : s.Canon) :
    OptCanon (fun t => t) (s.putChunk i a body last status) := by
  unfold State.putChunk
  extract_lets r c
  split
  · trivial
  next ring _ =>
    cases ring.fit _ with
    | none => trivial
    | some p =>
      obtain ⟨off, wrap⟩ := p
      have ht (a : Nat) (bs : List Byte) : (if wrap then s.wr false a bs else s).Canon := h.wr.ite h
      dsimp only [OptCanon, Option.map]
      split
      · exact State.Canon.record (State.Canon.setRaux (State.Canon.modJob (State.Canon.wr (State.Canon.ite_snd_snd (ht _ _) (ht _ _)))))
      · exact State.Canon.setRaux (State.Canon.modJob (State.Canon.wr (State.Canon.ite_snd_snd (ht _ _) (ht _ _))))

theorem State.Canon.flush {n i : Nat} (h : s.Canon) : (State.flush n s i).Canon := by
  induction n generalizing s with
  | zero => exact h
  | succ n ih =>
    unfold State.flush
    split
    · exact h
    next a _ =>
      extract_lets most
      split
      · exact h
      · split
        next => exact h
        next t e => exact ih (OptCanon.of_eq (f := fun t => t) e h.putChunk)

theorem State.Canon.evictCommit {j i : Nat} {work gs : List SGrain} {retained : Nat} (h : s.Canon) :
    (s.evictCommit j i work gs retained).2.2.Canon := by
  unfold State.evictCommit
  dsimp only
  split
  · exact h
  · split
    · exact h.groupScores
    · exact h.groupScores.placeAll.countEvict

theorem State.Canon.commitReq {i code : Nat} {a : ReqAux} (h : s.Canon) : (s.commitReq i a code).Canon := by
  unfold State.commitReq
  extract_lets r n x pairs revived base gs t u v w
  have ht : t.Canon := h.extentFree.ite h
  have hu : u.Canon := ht.peerRelease.ite ht
  have hw : w.Canon := State.Canon.setSess hu.modRaux
  dsimp only
  exact State.Canon.modAux (State.Canon.setSess (State.Canon.withMaps (State.Canon.setSess hw.evictCommit)))

theorem State.Canon.finish {i code : Nat} {a : ReqAux} {commit : Bool} (h : s.Canon) : (s.finish i a code commit).Canon := by
  unfold State.finish
  extract_lets r n id t u v lost len w x src y
  have ht : t.Canon := h.ite h.dropXfer
  have hv : v.Canon := ht.countMiss.commitReq.ite ht.countMiss.discardReq
  have hx : x.Canon := hv.freeReqEntry.endSession.ite hv.freeReqEntry
  have hy : y.Canon := hx.complete
  exact hy.endSession.ite hy

theorem State.Canon.tryFinish {i : Nat} (h : s.Canon) : (s.tryFinish i).Canon := by
  unfold State.tryFinish
  split
  · exact h
  · split
    · exact h
    next a _ code commit _ =>
      split
      · exact h
      · extract_lets t
        have ht : t.Canon := h.flush
        split
        · exact ht
        next b _ =>
          have hu : OptCanon (fun t => t) (if b.lastDone || b.chunkFailed then some t
              else if b.out.length ≤ t.chunkMax (t.req i).job then t.putChunk i b b.out true code else none) := by
            split
            · exact ht
            · split
              · exact ht.putChunk
              · trivial
          dsimp only
          split
          next => exact ht
          next v e =>
            have hv : v.Canon := OptCanon.of_eq e hu
            split
            · split
              · exact hv
              · exact hv.finish
            · exact hv

theorem State.Canon.endNow {i code : Nat} {commit : Bool} (h : s.Canon) : (s.endNow i code commit).Canon := by
  unfold State.endNow
  split
  · exact h
  · split
    · exact h
    · exact State.Canon.tryFinish (State.Canon.modReq h.setRaux)

theorem State.Canon.endReq {i code : Nat} {commit : Bool} (h : s.Canon) : (s.endReq i code commit).Canon := by
  unfold State.endReq
  split
  · exact h.modRaux
  · exact h.endNow

theorem State.Canon.discardEnd {i code : Nat} (h : s.Canon) : (s.discardEnd i code).Canon := by
  unfold State.discardEnd
  split <;> exact h.endReq

theorem State.Canon.dropReq {i : Nat} (h : s.Canon) : (s.dropReq i).Canon := by
  unfold State.dropReq
  dsimp only
  split
  · exact h
  · split
    · split
      · exact h.discardReq.freeReqEntry.endSession
      · exact h.discardReq.freeReqEntry
    · split
      · exact h.dropXfer.discardReq.freeReqEntry.endSession
      · exact h.dropXfer.discardReq.freeReqEntry

theorem State.Canon.retryEnds {j w : Nat} (h : s.Canon) : (s.retryEnds j w).Canon := by
  unfold State.retryEnds
  refine h.foldl (fun _ _ ht => ?_)
  dsimp only
  split
  · exact ht.flush.tryFinish
  · exact ht

theorem execTokRingConsWrite_canon {job well : Nat} {v : W64} (h : s.Canon) : (execTokRingConsWrite job well v s).Canon := by
  unfold execTokRingConsWrite
  refine h.ifUp ?_
  dsimp only
  split
  · trivial
  · split
    · exact h
    · exact Res.Canon.spoilIf (State.Canon.retryEnds h)

theorem execChunkWriteFail_canon {req : Nat} (h : s.Canon) : (execChunkWriteFail req s).Canon := by
  unfold execChunkWriteFail
  refine h.ifReady ?_
  dsimp only
  split
  · exact h
  · exact State.Canon.discardEnd h

end

/-! ## Grains in T3 (R61, R66) -/

section
variable {s : State}

theorem State.Canon.writeT3 {j n g : Nat} {gs : List (List Byte)} (h : s.Canon) : (s.writeT3 j n g gs).Canon := by
  unfold State.writeT3
  split
  · exact h
  · refine State.Canon.foldl h fun t e ht => ?_
    dsimp only
    split
    · exact State.Canon.wr (State.Canon.ite_snd_snd ht ht)
    · exact ht.wr

theorem State.Canon.writeParked {i : Nat} (h : s.Canon) : (s.writeParked i).Canon := by
  unfold State.writeParked
  dsimp only
  split
  · exact h.writeT3
  · exact h

end

/-! ## Parking, moves and revival (R59 to R79) -/

section
variable {s : State}

theorem State.Canon.extentPlace {j tier place count : Nat} (h : s.Canon) : (s.extentPlace j tier place count).2.Canon := by
  unfold State.extentPlace
  split
  rename_i e
  repeat' split
  all_goals exact State.Canon.of_eq (f := (·.2)) e h.draw

theorem State.Canon.freeDest {i : Nat} {m : Move} (h : s.Canon) : (s.freeDest i m).Canon := by
  unfold State.freeDest
  dsimp only
  split
  · exact h.extentFree
  · split
    · exact h.peerRelease
    · exact h

theorem State.Canon.enqueueMove {i count : Nat} (h : s.Canon) : (s.enqueueMove i count).Canon := by
  unfold State.enqueueMove
  refine State.Canon.foldl ?_ (fun _ _ ht => ht.enqueue)
  split
  · refine State.Canon.send (State.Canon.modAux ?_)
    split <;> exact h
  · refine State.Canon.modAux ?_
    split <;> exact h

theorem State.Canon.pumpStatus {i status count : Nat} (h : s.Canon) : (s.pumpStatus i status count).Canon := h

theorem State.Canon.setXfer {t : Nat} {x : Xfer} (h : s.Canon) : (s.setXfer t x).Canon := h

theorem State.Canon.delXfer {t : Nat} (h : s.Canon) : (s.delXfer t).Canon := h

theorem State.Canon.dropAbandoned {i : Nat} (h : s.Canon) : (s.dropAbandoned i).Canon := by
  unfold State.dropAbandoned
  split
  · exact h
  · split
    · exact h
    · exact State.Canon.complete? (State.Canon.pumpStatus (State.Canon.modAux h.dropMoveWork.freeDest))

theorem State.Canon.startPark {i : Nat} {kind : MoveKind} {tier place ttl : Nat} {evict : Bool} {ctx : Option DescCtx} (h : s.Canon) :
    (s.startPark i kind tier place ttl evict ctx).2.Canon := by
  unfold State.startPark
  extract_lets t x a j pairs seqs
  have ht : t.Canon := h.dropAbandoned
  dsimp only
  split
  next e => exact State.Canon.of_eq (f := (·.2)) e (State.Canon.extentPlace (State.Canon.ite_snd ht.groupScores ht))
  next u e =>
    have hu : u.Canon := State.Canon.of_eq (f := (·.2)) e (State.Canon.extentPlace (State.Canon.ite_snd ht.groupScores ht))
    refine State.Canon.enqueueMove ?_
    repeat' split
    all_goals exact hu

theorem State.Canon.sesOp {i : Nat} {f : State → State} (h : s.Canon) (hf : ∀ (a : State), a.Canon → (f a).Canon) : (s.sesOp i f).Canon := by
  unfold State.sesOp
  split
  rename_i e
  split
  · exact State.Canon.entryCorrupt (State.Canon.of_eq (f := (·.1)) e h.sesAccess)
  · exact hf _ (State.Canon.of_eq (f := (·.1)) e h.sesAccess)

theorem State.Canon.demote {i : Nat} (h : s.Canon) : (s.demote i).Canon := by
  unfold State.demote
  refine h.sesOp (fun _ ht => ?_)
  dsimp only
  split
  · exact ht
  · rename_i e
    exact State.Canon.of_eq (f := (·.2)) e ht.startPark

theorem State.Canon.demoteDown {j : Nat} (h : s.Canon) : (s.demoteDown j).Canon := by
  unfold State.demoteDown
  refine h.foldl (fun _ _ ht => ?_)
  split
  · exact ht.demote
  · exact ht

theorem State.Canon.placeUp {i : Nat} {m : Move} (h : s.Canon) : (s.placeUp i m).Canon := by
  unfold State.placeUp
  dsimp only
  refine State.Canon.enqueueMove (State.Canon.modAux (State.Canon.withMaps (State.Canon.placeAll ?_)))
  exact h

theorem State.Canon.startUp {i : Nat} {kind : MoveKind} {tier : Nat} {ctx : Option DescCtx} (h : s.Canon) :
    (s.startUp i kind tier ctx).2.Canon := by
  unfold State.startUp
  extract_lets t x a j data n need m start m' u
  have ht : t.Canon := h.dropAbandoned
  have hu : u.Canon := State.Canon.demoteDown ht
  split
  · split
    · exact ht
    · exact State.Canon.placeUp ht
  · split
    · exact State.Canon.placeUp ht
    · split
      · exact hu
      · exact hu

theorem State.Canon.retryUp {j : Nat} (h : s.Canon) : (s.retryUp j).Canon := by
  unfold State.retryUp
  refine h.foldl (fun _ _ ht => ?_)
  dsimp only
  split
  · exact ht
  · split
    · exact ht
    · split
      · exact ht.placeUp
      · split
        · exact ht
        · exact State.Canon.complete? ht

theorem State.Canon.own {j t dst type : Nat} {data : List Byte} (h : s.Canon) : (s.own j t dst type data).Canon :=
  h.send

theorem State.Canon.offer {i node : Nat} {ctx : DescCtx} {src : SState} {turn : Option Desc} {cwell phaseUs rows : Nat} (h : s.Canon) :
    (s.offer i node ctx src turn cwell phaseUs rows).Canon :=
  State.Canon.own (State.Canon.updated h.dropAbandoned)

theorem execPark_canon {job well : Nat} {d : Desc} (h : s.Canon) : (execPark job well d s).Canon := by
  unfold execPark
  refine h.takeUp (fun _ _ ht => ht.withSession (fun _ hu => ?_))
  dsimp only
  split
  · exact hu.complete
  · split
    · exact hu.complete
    · split
      · exact hu.complete
      · split
        · exact State.Canon.complete hu
        · split
          next e =>
            refine State.Canon.complete (State.Canon.of_eq (f := (·.2)) e (State.Canon.startPark ?_))
            exact hu
          next e =>
            refine State.Canon.of_eq (f := (·.2)) e (State.Canon.startPark ?_)
            exact hu

theorem State.Canon.abandonMove {i : Nat} (h : s.Canon) : (s.abandonMove i).Canon := by
  unfold State.abandonMove
  dsimp only
  split
  · exact State.Canon.updated (State.Canon.own h)
  · exact h

theorem execClose_canon {job well : Nat} {d : Desc} (h : s.Canon) : (execClose job well d s).Canon := by
  unfold execClose
  refine h.takeUp (fun _ _ ht => ht.withSession (fun _ hu => ?_))
  dsimp only
  split
  · exact hu.complete
  · split
    · exact State.Canon.endReq hu
    · exact State.Canon.endReq hu
    · split
      · split
        · exact hu
        · exact State.Canon.endSession (State.Canon.abandonMove hu)
      · exact State.Canon.endSession hu
    · exact State.Canon.endSession hu

theorem execEndRequest_canon {job well : Nat} {d : Desc} (h : s.Canon) : (execEndRequest job well d s).Canon := by
  unfold execEndRequest
  refine h.takeUp (fun _ _ ht => ?_)
  dsimp only
  split
  · exact ht.complete
  · split
    · exact ht.complete
    · split
      · exact ht.complete
      · split
        · exact ht.complete.endReq
        · exact ht.complete.discardEnd

theorem execPlaceQuery_canon {job well : Nat} {d : Desc} (h : s.Canon) : (execPlaceQuery job well d s).Canon := by
  unfold execPlaceQuery
  refine h.takeUp (fun _ _ ht => ht.withSession (fun _ hu => ?_))
  split
  · exact hu.complete
  · exact State.Canon.complete (State.Canon.wr hu)

theorem execRegisterT3_canon {job well : Nat} {d : Desc} (h : s.Canon) : (execRegisterT3 job well d s).Canon := by
  unfold execRegisterT3
  refine h.takeUp (fun _ _ ht => ?_)
  dsimp only
  split
  · exact ht.complete
  · exact State.Canon.complete ht

theorem execGracePeriodEnd_canon {session : Nat} (h : s.Canon) : (execGracePeriodEnd session s).Canon := by
  unfold execGracePeriodEnd
  refine h.ifReady ?_
  dsimp only
  split
  · exact h
  · split
    · exact h
    · refine h.sesOp (fun _ ht => ?_)
      split
      next e =>
        refine State.Canon.sessEvent (State.Canon.of_eq (f := (·.2)) e (State.Canon.startPark ?_))
        exact ht
      next e =>
        refine State.Canon.of_eq (f := (·.2)) e (State.Canon.startPark ?_)
        exact ht

theorem execIdleDemotion_canon {session : Nat} (h : s.Canon) : (execIdleDemotion session s).Canon := by
  unfold execIdleDemotion
  refine h.ifReady ?_
  dsimp only
  split
  · exact h.demote
  · exact h

theorem execT1PressureDemotion_canon {job : Nat} (h : s.Canon) : (execT1PressureDemotion job s).Canon := by
  unfold execT1PressureDemotion
  refine h.ifReady ?_
  split
  · exact h.demoteDown
  · exact h

theorem State.Canon.moveFails {i code : Nat} {damaged : Bool} (h : s.Canon) : (s.moveFails i code damaged).Canon := by
  unfold State.moveFails
  extract_lets x
  split
  · exact h
  · split
    · exact h
    · extract_lets t u v w
      have hv : v.Canon := State.Canon.pumpStatus (State.Canon.modAux (State.Canon.setSess h.dropMoveWork.freeDest))
      refine State.Canon.retryUp ?_
      simp only [w]
      split
      · exact hv.complete?
      · exact hv.sessEvent
      · exact hv.complete?.sessEvent

theorem execMoveAbandon_canon {session : Nat} (h : s.Canon) : (execMoveAbandon session s).Canon :=
  h.ifReady h.dropAbandoned.retryUp.settle

theorem execMoveFailed_canon {session code : Nat} {damaged : Bool} (h : s.Canon) : (execMoveFailed session code damaged s).Canon := by
  unfold execMoveFailed
  refine h.ifReady (State.Canon.moveFails ?_)
  split <;> exact h

theorem State.Canon.placeRevival {i : Nat} (h : s.Canon) : (s.placeRevival i).Canon := by
  unfold State.placeRevival
  dsimp only
  split
  · exact h
  · split
    · exact h
    · split
      · exact h
      · exact h.placeAll.setRaux.enqueueMove

theorem State.Canon.enterGrain {i : Nat} {a : ReqAux} {bytes : Option (List Byte)} (h : s.Canon) : (s.enterGrain i a bytes).Canon := by
  unfold State.enterGrain
  dsimp only
  split
  · exact h
  · split
    · exact State.Canon.modRaux (State.Canon.withMaps h)
    · exact State.Canon.updated (State.Canon.modRaux (State.Canon.withMaps h))

theorem execGrainLand_canon {req : Nat} {res : Landing} (h : s.Canon) : (execGrainLand req res s).Canon := by
  unfold execGrainLand
  refine h.ifReady ?_
  split
  · exact h
  · split
    · exact h
    · extract_lets t
      have ht : t.Canon := h.placeRevival
      split
      · exact ht
      · extract_lets got r u
        have hu : u.Canon := ht.rebuildPage.ite ht
        clear_value u r
        split
        · exact ht
        · split
          · exact ht.endReq
          · split
            · exact hu.enterGrain
            · exact State.Canon.enterGrain hu
            · exact State.Canon.endReq hu

theorem execTierLate_canon {req : Nat} (h : s.Canon) : (execTierLate req s).Canon := by
  unfold execTierLate
  refine h.ifReady ?_
  split
  · exact h
  · split
    · exact h.endReq
    · exact h

theorem execTierError_canon {req : Nat} {damaged : Bool} (h : s.Canon) : (execTierError req damaged s).Canon := by
  unfold execTierError
  refine h.ifReady ?_
  split
  · exact h
  · split
    · exact h
    · split
      · exact State.Canon.endReq h
      · exact h.endReq

theorem execMigrate_canon {job well : Nat} {d : Desc} (h : s.Canon) : (execMigrate job well d s).Canon := by
  unfold execMigrate
  refine h.takeUp (fun _ _ ht => ht.withSession (fun _ hu => ?_))
  dsimp only
  split
  · exact hu.complete
  · split
    · exact hu.complete
    · split
      · exact hu.complete
      · split
        · exact hu.complete
        · split
          · split
            · exact hu.complete
            · exact State.Canon.modAux (State.Canon.setSess hu.offer)
          · split
            next e => exact State.Canon.complete (State.Canon.of_eq (f := (·.2)) e (State.Canon.ite_snd hu.startUp hu.startPark))
            next e => exact State.Canon.of_eq (f := (·.2)) e (State.Canon.ite_snd hu.startUp hu.startPark)

theorem State.Canon.moveEnds {i : Nat} {m : Move} (h : s.Canon) : (s.moveEnds i m).Canon := by
  unfold State.moveEnds
  extract_lets x old count t u v w up y z a b c
  have ht : t.Canon := h.dropMoveWork
  have hu : u.Canon := ht.extentFree.ite ht
  have hv : v.Canon := hu.peerRelease.ite hu
  have ha : a.Canon := State.Canon.modAux (State.Canon.setSess (State.Canon.countEvict hv))
  have hb : b.Canon := ha.complete?.writeParked
  exact State.Canon.retryUp (State.Canon.ite hb.sessEvent hb)

theorem execMoveComplete_canon {session : Nat} (h : s.Canon) : (execMoveComplete session s).Canon := by
  unfold execMoveComplete
  refine h.ifReady ?_
  dsimp only
  split
  · exact h
  · split
    · exact h
    · split
      · exact h.moveFails
      · split
        · split
          · exact h
          · refine h.sesOp (fun _ ht => ?_)
            split
            · exact ht.moveFails
            · exact State.Canon.moveFails ht
            · split
              · exact State.Canon.moveEnds (State.Canon.countChecks ht)
              · exact ht.moveEnds
        · split
          · exact h
          · refine h.sesOp (fun _ hu => ?_)
            split
            · exact hu.moveFails
            · exact State.Canon.moveFails hu
            · split
              · exact State.Canon.moveEnds (State.Canon.countChecks hu)
              · exact hu.moveEnds

end

end Sys2Proof.Machine
end

section
/-!
SUPPORT. Serving, models, indexes and tables keep the byte memories canonical.
-/
namespace Sys2Proof.Machine

open Sys2Proof

/-! ## Turns (R32, R238) -/

section
variable {s : State}

theorem State.Canon.enqueueLane {r bytes : Nat} (h : s.Canon) : (s.enqueueLane r bytes).Canon := by
  unfold State.enqueueLane
  dsimp only
  split
  · exact h
  · exact h.enqueue

theorem State.Canon.createReq {ctx : DescCtx} {i : Nat} {d : Desc} {t : TurnIn} {prior : SState} {toolp : Bool} (h : s.Canon) :
    (s.createReq ctx i d t prior toolp).Canon :=
  State.Canon.enqueueLane h

theorem State.Canon.acceptTurn {c : DescCtx} {i : Nat} {d : Desc} {t : TurnIn} {prior : SState} (h : s.Canon) :
    (s.acceptTurn c i d t prior).Canon := by
  unfold State.acceptTurn
  dsimp only
  split
  · split
    · split
      · exact h.abandonMove.createReq.record.endReq
      · exact h.abandonMove.createReq.record.placeRevival
    · split
      · exact h.abandonMove.createReq.record.endReq
      · exact h.abandonMove.createReq.record
  · split
    · split
      · exact h.createReq.record.endReq
      · exact h.createReq.record.placeRevival
    · split
      · exact h.createReq.record.endReq
      · exact h.createReq.record

theorem State.Canon.turn {c : DescCtx} {d : Desc} {tool : Bool} (h : s.Canon) : (s.turn c d tool).Canon := by
  unfold State.turn
  refine h.withSession (fun _ ht => Res.Canon.spoilIf ?_)
  split
  · refine State.Canon.complete ?_
    split <;> exact ht
  · exact State.Canon.complete ht
  · exact State.Canon.acceptTurn ht

theorem execSubmitTurn_canon {job well : Nat} {d : Desc} (h : s.Canon) : (execSubmitTurn job well d s).Canon :=
  h.takeUp (fun _ _ ht => ht.turn)

theorem State.Canon.cancelTool {c : DescCtx} {i : Nat} (h : s.Canon) : (s.cancelTool c i).Canon := by
  unfold State.cancelTool
  refine h.withSession (fun _ ht => ?_)
  dsimp only
  split
  · exact ht.complete
  · split
    · exact State.Canon.complete ht
    · split
      · exact ht.complete
      · split
        · rename_i e
          exact State.Canon.complete (State.Canon.of_eq (f := (·.2)) e ht.startUp)
        · rename_i eq
          exact State.Canon.of_eq (f := (·.2)) eq ht.startUp
    · split
      · exact ht.complete
      · exact ht.abandonMove.setSess.complete
    · exact ht.complete

theorem execToolReturn_canon {job well : Nat} {d : Desc} (h : s.Canon) : (execToolReturn job well d s).Canon := by
  unfold execToolReturn
  dsimp only
  split
  · exact h.takeUp (fun _ _ ht => ht.cancelTool)
  · exact h.takeUp (fun _ _ hu => hu.turn)

end

/-! ## Serving steps (R240 to R255) -/

section
variable {s : State}

theorem State.Canon.countEntry {e : StepEntry} {u : RowRun} {sel : Bool} {pairs : Nat} (h : s.Canon) : (s.countEntry e u sel pairs).Canon := by
  unfold State.countEntry
  dsimp only
  split <;> exact h

theorem State.Canon.countMasks {masks : Nat} (h : s.Canon) : (s.countMasks masks).Canon := by
  unfold State.countMasks
  dsimp only
  split
  · exact h
  · exact State.Canon.setReg (State.Canon.countReg h)

theorem State.Canon.saveStats {e : StepEntry} {m : Model} {st : StepRows} (h : s.Canon) : (s.saveStats e m st).Canon := by
  unfold State.saveStats
  dsimp only
  split
  · exact h
  · split
    · exact h.wr
    · exact h

theorem State.Canon.scoreRuns {e : StepEntry} {sel : Option (Nat × Nat × Nat)} {heads pairs live : Nat} {work : List SGrain} (h : s.Canon) :
    (s.scoreRuns e sel heads pairs live work).Canon := by
  unfold State.scoreRuns
  dsimp only
  split
  · exact h
  · exact h.foldl (fun _ _ ht => ht.foldl (fun _ _ hu => hu.foldl (fun _ _ hv => hv)))

theorem State.Canon.copyRuns {e : StepEntry} {n : Nat} (h : s.Canon) : (s.copyRuns e n).Canon :=
  h.foldl (fun _ _ ht => ht.enqueue)

theorem State.Canon.endAsked {i : Nat} (h : s.Canon) : (s.endAsked i).Canon := by
  unfold State.endAsked
  split
  · exact h.endNow
  · exact h

theorem State.Canon.pauseReq {i : Nat} (h : s.Canon) : (s.pauseReq i).Canon :=
  h.modRaux.setReq.modSess.countReg

theorem State.Canon.setMember {j : Nat} {m : Member} {resident used : Bool} (h : s.Canon) : (s.setMember j m resident used).Canon := by
  unfold State.setMember
  dsimp only
  split <;> exact h

theorem State.Canon.dropMember {j : Nat} {m : Member} (h : s.Canon) : (s.dropMember j m).Canon :=
  h.setMember.countReg

theorem State.Canon.takeGroups {j : Nat} (h : s.Canon) : (s.takeGroups j).Canon :=
  h.foldl (fun _ _ ht => ht.setGroup (fun _ => ht.group))

theorem State.Canon.sendColl {j h : Nat} {g : FabGroup} {share rank : Nat} {p : CollPacket} (hs : s.Canon) :
    (s.sendColl j h g share rank p).Canon :=
  hs.foldl (fun _ _ ht => ht.send)

theorem State.Canon.collFail {j h : Nat} (hs : s.Canon) : (s.collFail j h).Canon := by
  unfold State.collFail
  dsimp only
  split
  · exact hs
  · exact State.Canon.foldl hs (fun _ _ ht => ht.discardEnd)

theorem State.Canon.startColl {j h share op : Nat} {part : List (BitVec 48)} (hs : s.Canon) : (s.startColl j h share op part).Canon := by
  unfold State.startColl
  dsimp only
  split
  · exact hs
  · split
    · exact hs.collFail
    · exact State.Canon.enqueue (State.Canon.sendColl hs)

theorem State.Canon.nextLayer {j model : Nat} (h : s.Canon) : (s.nextLayer j model).Canon := by
  unfold State.nextLayer
  dsimp only
  split
  · split
    · exact h.startColl
    · exact h
  · exact h

theorem State.Canon.collDone {j model op : Nat} {total : List (BitVec 48)} (h : s.Canon) : (s.collDone j model op total).Canon := by
  unfold State.collDone
  dsimp only
  split
  · split
    · exact h
    · split
      · exact State.Canon.startColl h
      · exact State.Canon.nextLayer h
  · exact h

theorem State.Canon.boundaryOutput {j model : Nat} (h : s.Canon) : (s.boundaryOutput j model).Canon :=
  h.foldl (fun _ _ ht => ht.flush.tryFinish)

theorem State.Canon.quiesce {j model : Nat} (h : s.Canon) : (s.quiesce j model).Canon := by
  unfold State.quiesce
  split
  · exact h
  · refine h.foldl (fun _ _ ht => ?_)
    split
    · split
      · exact ht
      · exact ht.discardEnd
    · exact ht

theorem State.Canon.enterGrains {i : Nat} {a : ReqAux} {seqs cleared : List (List KvSlot)} (h : s.Canon) :
    OptCanon (fun p => p.2) (s.enterGrains i a seqs cleared).1 := by
  unfold State.enterGrains
  dsimp only
  generalize changedGrains _ _ _ _ _ _ _ = p
  split
  · trivial
  · exact h.placeAll.withMaps

theorem State.Canon.endEntry {m : Model} {e : StepEntry} (h : s.Canon) : (s.endEntry m e).1.Canon := by
  unfold State.endEntry
  split
  · exact h
  next a _ =>
    split
    · exact h
    · dsimp -zeta only [State.draw_eq]
      have ht : (s.drawnTo (s.freeCtr + 1)).Canon := h
      extract_lets -lift q base
      split
      · exact h
      · extract_lets -lift o
        have he := ht.enterGrains (i := e.req) (a := a) (seqs := o.seqs) (cleared := o.cleared)
        split
        next => exact h
        next work u _ eq =>
          rw [eq] at he
          extract_lets -lift r v w sel x y z
          have hu : u.Canon := he
          have hx : x.Canon := State.Canon.countEntry (State.Canon.saveStats hu)
          have hz : z.Canon := hx.scoreRuns.copyRuns
          dsimp only
          split
          · exact hz.endNow
          · exact hz.tryFinish.ite (hz.splitSent.ite hz)

theorem State.Canon.endStep {model us : Nat} {m : Model} (h : s.Canon) : (s.endStep model us m).Canon := by
  unfold State.endStep
  extract_lets v rows times t st
  have ht : t.Canon := State.Canon.ite (State.Canon.foldl h fun _ _ hu => hu.discardEnd) h
  have hst : st.1.Canon := List.foldlRecOn (motive := fun st : State × Nat => st.1.Canon) _ _ ht fun _ hu _ _ => hu.endEntry
  split
  · exact h
  · exact State.Canon.foldl (s := _) hst.countMasks fun _ _ hu => hu.endAsked

theorem State.Canon.pausing {j : Nat} (h : s.Canon) : (s.pausing j).Canon := by
  unfold State.pausing
  dsimp only
  refine List.foldlRecOn (motive := fun st : State × Nat => st.1.Canon) _ _ ?_ fun st hst e _ => ?_
  · refine List.foldlRecOn (motive := fun st : State × Nat => st.1.Canon) _ _ h fun st hst u _ => ?_
    split
    · exact hst
    · exact State.Canon.foldl hst fun _ _ ht => ht.pauseReq
  · split
    · exact hst
    · exact hst

theorem State.Canon.evictUntil {n j extra : Nat} {model : Bool} {keep : List (Bool × Nat × Nat)} (h : s.Canon) :
    (State.evictUntil n s j extra model keep).1.Canon := by
  induction n generalizing s with
  | zero => exact h
  | succ n ih =>
    unfold State.evictUntil
    dsimp only
    split
    · exact h
    · split
      · exact h
      · exact ih h.setMember.countReg

theorem State.Canon.reside {j model : Nat} {adapters : List (Nat × Nat)} (h : s.Canon) : (s.reside j model adapters).Canon := by
  unfold State.reside
  dsimp only
  refine State.Canon.foldl ?_ fun t k ht => ?_
  · have hu : ((s.members j).foldl (fun s m => if m.resident && decide (s.hotRoom j < m.share) then s.dropMember j m else s) s).Canon :=
      State.Canon.foldl h fun _ _ ht => ht.dropMember.ite ht
    exact hu.evictUntil.ite hu.evictUntil.evictUntil
  · split
    · exact ht
    · split
      · exact ht.setMember
      · split
        · exact ht.setMember
        · split
          · exact ht.evictUntil.setMember.countReg
          · exact ht.evictUntil.setMember

theorem State.Canon.admitOne {j : Nat} {e : Nat × Req} {a : ReqAux} (h : s.Canon) : (s.admitOne j e a).Canon := by
  unfold State.admitOne
  extract_lets t
  have ht : t.Canon := State.Canon.ite h (h.placeRevival.ite h)
  split
  · exact ht
  · exact State.Canon.ite (State.Canon.endReq (State.Canon.ite ht ht)) (State.Canon.ite ht ht)

theorem State.Canon.admitReqs {j model : Nat} (h : s.Canon) : (s.admitReqs j model).Canon := by
  refine List.foldlRecOn (motive := fun st : State × Nat => st.1.Canon) _ _ h fun st hst e _ => ?_
  split
  · exact hst
  · split
    · exact hst
    · exact State.Canon.admitOne hst

theorem State.Canon.startStep {j model : Nat} (h : s.Canon) : (s.startStep j model).Canon := by
  unfold State.startStep
  extract_lets idle
  have hi : idle.Canon := h.evictUntil
  split
  · exact hi
  · split
    · exact hi
    · refine State.Canon.nextLayer (State.Canon.foldl ?_ fun _ _ ht => ht.enqueue.ite ht)
      exact State.Canon.updated (State.Canon.reside h.takeGroups)

theorem execStepBoundary_canon {job model us : Nat} (h : s.Canon) : (execStepBoundary job model us s).Canon := by
  unfold execStepBoundary
  dsimp only
  split
  · exact h
  · split
    · exact h
    · exact State.Canon.startStep (State.Canon.admitReqs (State.Canon.pausing (State.Canon.boundaryOutput (State.Canon.updated h.quiesce.endStep))))

end

/-! ## Models and adapters (R256 to R268) -/

section
variable {s : State}

theorem State.Canon.loadFails {c : DescCtx} {e : Nat} (h : s.Canon) : (s.loadFails c e).Canon :=
  State.Canon.complete (State.Canon.ite h h)

theorem execLoadModel_canon {job well : Nat} {d : Desc} (h : s.Canon) : (execLoadModel job well d s).Canon := by
  unfold execLoadModel
  refine h.takeUp (fun _ _ ht => ?_)
  dsimp only
  split
  · exact ht.loadFails
  · repeat' split
    all_goals exact State.Canon.complete ht

theorem execUnloadModel_canon {job well : Nat} {d : Desc} (h : s.Canon) : (execUnloadModel job well d s).Canon := by
  unfold execUnloadModel
  refine h.takeUp (fun _ _ ht => ?_)
  dsimp only
  split
  · exact ht.complete
  · split
    · exact ht.complete
    · exact State.Canon.complete ht

theorem execLoadAdapter_canon {job well : Nat} {d : Desc} (h : s.Canon) : (execLoadAdapter job well d s).Canon := by
  unfold execLoadAdapter
  refine h.takeUp (fun _ _ ht => ?_)
  dsimp only
  split
  · split
    · exact ht.complete
    · split
      · exact ht.complete
      · exact State.Canon.complete ht
  · split
    · exact ht.complete
    · split
      · exact ht.complete
      · split
        · exact ht.loadFails
        · split
          · exact ht.complete
          · exact State.Canon.complete ht

end

/-! ## Indexes and filters (R293 to R310) -/

section
variable {s : State}

theorem State.Canon.reapIndex {j h : Nat} (hs : s.Canon) : (s.reapIndex j h).Canon := by
  unfold State.reapIndex
  dsimp only
  split
  · exact hs
  · refine State.Canon.updated (hs.foldl (fun _ _ ht => ?_))
    split <;> exact ht

theorem State.Canon.reapFilter {j h : Nat} (hs : s.Canon) : (s.reapFilter j h).Canon := by
  unfold State.reapFilter
  split <;> exact hs

theorem execTombstone_canon {job well : Nat} {d : Desc} (h : s.Canon) : (execTombstone job well d s).Canon := by
  unfold execTombstone
  refine h.takeUp (fun _ _ ht => ?_)
  dsimp only
  split
  · exact ht.complete
  · split
    · exact ht.complete
    · split
      · exact ht.complete
      · split
        · exact ht.complete
        · split
          · exact ht.complete
          · split <;> exact State.Canon.complete ht

theorem execIndexWrite_canon {job well : Nat} {d : Desc} (h : s.Canon) : (execIndexWrite job well d s).Canon := by
  unfold execIndexWrite
  refine h.takeUp (fun _ _ ht => ?_)
  dsimp only
  split
  · exact ht.complete
  · split
    · exact ht.complete
    · split
      · exact ht.complete
      · split
        · exact ht.complete
        · split
          · exact State.Canon.complete ht
          · split
            · exact ht.complete
            · exact ht

theorem State.Canon.feedWalkers {j : Nat} (h : s.Canon) : (s.feedWalkers j).Canon :=
  h.foldl (fun _ _ ht => ht.enqueue.ite ht)

theorem execIndexWriteApply_canon {job index : Nat} (h : s.Canon) : (execIndexWriteApply job index s).Canon := by
  unfold execIndexWriteApply
  refine h.ifReady ?_
  dsimp only
  split
  · exact h
  · split
    · exact h
    · split
      · exact h
      · exact State.Canon.feedWalkers (State.Canon.complete (State.Canon.reapIndex (State.Canon.foldl h (fun _ _ ht => ht))))

theorem State.Canon.passMap {j ix ops nodes : Nat} {filters : List (Nat × Nat)} {maps : List (List Byte)} (h : s.Canon) :
    (s.passMap j ix ops nodes filters maps).Canon :=
  State.Canon.ite h (State.Canon.enqueue h)

theorem execSearch_canon {job well : Nat} {d : Desc} (h : s.Canon) : (execSearch job well d s).Canon := by
  unfold execSearch
  refine h.takeUp (fun _ _ ht => ?_)
  dsimp only
  split
  · exact ht.complete
  · split
    · exact ht.complete
    · split
      · exact ht.complete
      · split
        · exact State.Canon.complete ht
        · refine State.Canon.feedWalkers ?_
          split
          · refine State.Canon.updated (State.Canon.foldl (ht.ite ht) (fun _ _ hu => ?_))
            split <;> exact hu
          · refine State.Canon.passMap (State.Canon.updated (State.Canon.foldl (ht.ite ht) (fun _ _ hv => ?_)))
            split <;> exact hv

theorem State.Canon.searchOver {n : Nat} {x : Search} (h : s.Canon) : (s.searchOver n x).Canon := by
  unfold State.searchOver
  refine State.Canon.feedWalkers (State.Canon.foldl ?_ (fun _ _ ht => ?_))
  · split
    · exact h
    · exact State.Canon.reapIndex h
  · split
    · exact ht
    · exact State.Canon.reapFilter ht

theorem State.Canon.searchEnded {n : Nat} {fail : Bool} (h : s.Canon) : (s.searchEnded n fail).Canon := by
  unfold State.searchEnded
  dsimp only
  split
  · exact h
  · split
    · exact h.searchOver.complete
    · split
      · exact h.searchOver.complete
      · refine State.Canon.complete (State.Canon.searchOver ?_)
        split
        · exact h.wr.countReg.countReg.countReg
        · exact h.wr.countReg.countReg.countReg.draw.draw.countReg.countReg

theorem State.Canon.generalPlace {j count : Nat} {bytes : List Byte} (h : s.Canon) : OptCanon (·.2) (s.generalPlace j count bytes) := by
  unfold State.generalPlace
  split
  · trivial
  · dsimp only
    cases s.draw.2.ftl.findRun _ count _ _ with
    | none => trivial
    | some a => exact h

theorem State.Canon.setIndex {j i : Nat} {o : Index} (h : s.Canon) : (s.setIndex j i o).Canon := h

theorem execLoadIndex_canon {job well : Nat} {d : Desc} (h : s.Canon) : (execLoadIndex job well d s).Canon := by
  unfold execLoadIndex
  refine h.takeUp fun c t ht => ?_
  extract_lets -lift i len o
  split
  · split
    · exact ht.complete
    · exact State.Canon.complete (State.Canon.reapIndex ht)
  · split
    · exact ht.loadFails
    · extract_lets -lift hot cold placed
      have hp : OptCanon (·.2) placed := by
        simp only [placed]
        split
        · exact ht
        · cases e : t.generalPlace job cold _ with
          | none => trivial
          | some p => exact OptCanon.of_eq (f := (·.2)) e ht.generalPlace
      clear_value placed
      split
      · exact ht.complete
      · split
        next => exact ht.complete
        next cold u =>
          have hu : u.Canon := hp
          exact State.Canon.complete (State.Canon.reapIndex hu)

theorem execLoadFilter_canon {job well : Nat} {d : Desc} (h : s.Canon) : (execLoadFilter job well d s).Canon := by
  unfold execLoadFilter
  refine h.takeUp fun c t ht => ?_
  dsimp only
  split
  · split
    · exact ht.complete
    · exact State.Canon.complete (State.Canon.reapFilter ht)
  · split
    · exact ht.complete
    · split
      · exact ht.loadFails
      · split
        · exact ht.complete
        · exact State.Canon.complete (State.Canon.reapFilter ht)

end

/-! ## Tables (R311 to R322) -/

section
variable {s : State}

theorem State.Canon.areaFree {j : Nat} {a : Nat × Nat × Nat × Nat} (h : s.Canon) : (s.areaFree j a).Canon :=
  State.Canon.ite h h

theorem State.Canon.rowWrite {j : Nat} {v : TableVer} {tier region offset : Nat} {bytes : List Byte} (h : s.Canon) :
    (s.rowWrite j v tier region offset bytes).Canon := by
  unfold State.rowWrite
  split
  · exact h
  · split
    · split
      · exact h.ite h.wr
      · exact h
    · exact h

theorem State.Canon.trimTable {j h : Nat} (hs : s.Canon) : (s.trimTable j h).Canon := by
  unfold State.trimTable
  dsimp only
  split
  · exact hs
  · exact State.Canon.foldl hs (fun _ _ ht => ht.areaFree)

theorem State.Canon.reapTable {j h : Nat} (hs : s.Canon) : (s.reapTable j h).Canon := by
  unfold State.reapTable
  dsimp only
  split
  · exact hs.trimTable
  · exact State.Canon.updated (hs.trimTable.foldl (fun _ _ ht => ht.foldl (fun _ _ hu => hu.areaFree)))

theorem execTableSwap_canon {job well : Nat} {d : Desc} (h : s.Canon) : (execTableSwap job well d s).Canon := by
  unfold execTableSwap
  refine h.takeUp (fun _ _ ht => ?_)
  dsimp only
  split
  · exact ht.complete
  · split
    · exact ht.complete
    · exact State.Canon.complete (State.Canon.reapTable ht)

theorem execEmbedLookup_canon {job well : Nat} {d : Desc} (h : s.Canon) : (execEmbedLookup job well d s).Canon := by
  unfold execEmbedLookup
  refine h.takeUp (fun _ _ ht => ?_)
  dsimp only
  split
  · exact ht.complete
  · split
    · exact ht.complete
    · split
      · exact State.Canon.complete ht
      · split
        · exact ht.complete
        · split
          · split
            · exact ht.complete
            · exact State.Canon.foldl (State.Canon.foldl ht (fun _ _ hu => hu.send)) (fun _ _ hv => hv.enqueue)
          · exact State.Canon.complete ht

theorem State.Canon.lookupFree {n : Nat} {x : Lookup} (h : s.Canon) : (s.lookupFree n x).Canon := by
  unfold State.lookupFree
  dsimp only
  split
  · exact h
  · exact State.Canon.reapTable h

theorem State.Canon.lookupOver {n : Nat} {x : Lookup} (h : s.Canon) : (s.lookupOver n x).Canon :=
  State.Canon.ite h h.lookupFree.complete

theorem State.Canon.bagEnded {n b : Nat} {fail : Bool} {remote : List (Nat × List Byte)} (h : s.Canon) : (s.bagEnded n b fail remote).Canon := by
  unfold State.bagEnded
  dsimp only
  split
  · exact h
  · split
    · exact h.lookupOver
    · split
      · exact h.lookupOver
      · split
        · exact h.lookupOver
        · exact State.Canon.lookupOver (State.Canon.countReg (State.Canon.countReg (State.Canon.wr h)))

theorem execGatherRequest_canon {node : Nat} {tag : W32} {table row : Nat} (h : s.Canon) : (execGatherRequest node tag table row s).Canon := by
  unfold execGatherRequest
  refine h.ifReady ?_
  split
  · exact h
  · split
    · exact h
    · split
      · exact h
      · split
        · exact h
        · exact h.send

theorem State.Canon.stepOver {j h step : Nat} {o : Table} {applied : Bool} (hs : s.Canon) : (s.stepOver j h step o applied).Canon :=
  State.Canon.complete? (State.Canon.ite (State.Canon.reapTable hs) (State.Canon.countReg (State.Canon.reapTable hs)))

theorem State.Canon.stepLook {j h : Nat} (hs : s.Canon) : (s.stepLook j h).Canon := by
  unfold State.stepLook
  dsimp only
  split
  · exact hs
  · split
    · exact hs.stepOver.ite (State.Canon.ite (State.Canon.enqueue hs) (hs.stepOver.ite hs))
    · exact hs

theorem State.Canon.bufferItems {j h step : Nat} {items : List UpdItem} (hs : s.Canon) : (s.bufferItems j h step items).1.Canon := by
  unfold State.bufferItems
  dsimp only
  split
  · exact hs
  · exact State.Canon.ite_fst (State.Canon.stepLook hs) hs

theorem execTableUpdate_canon {job well : Nat} {d : Desc} (h : s.Canon) : (execTableUpdate job well d s).Canon := by
  unfold execTableUpdate
  refine h.takeUp (fun _ _ ht => ?_)
  dsimp only
  split
  · exact ht.complete
  · split
    · exact ht.complete
    · split
      · exact ht.complete
      · split
        · exact State.Canon.complete ht
        · split
          · exact ht.complete
          · split
            · exact ht.bufferItems.complete
            · exact State.Canon.complete (ht.bufferItems.foldl (fun _ _ hu => hu.send))

theorem execUpdateItem_canon {node : Nat} {tag : W32} {table step row : Nat} {lr : W32} {grad : List W32} (h : s.Canon) :
    (execUpdateItem node tag table step row lr grad s).Canon := by
  unfold execUpdateItem
  refine h.ifReady ?_
  split
  · exact h
  · split
    · exact h
    · split
      · exact h
      · split
        · exact h
        · exact h.bufferItems

theorem execTableStep_canon {job well : Nat} {d : Desc} (h : s.Canon) : (execTableStep job well d s).Canon := by
  unfold execTableStep
  refine h.takeUp (fun _ _ ht => ?_)
  dsimp only
  split
  · exact ht.complete
  · split
    · exact ht.complete
    · split
      · exact ht.complete
      · exact State.Canon.stepLook (State.Canon.updated (ht.foldl (fun _ _ hu => hu.send)))

theorem execStepMark_canon {node : Nat} {tag : W32} {table step : Nat} (h : s.Canon) : (execStepMark node tag table step s).Canon := by
  unfold execStepMark
  refine h.ifReady ?_
  split
  · exact h
  · split
    · exact h
    · split
      · exact h
      · exact State.Canon.stepLook h

theorem execStepBudgetTimer_canon {job table step : Nat} (h : s.Canon) : (execStepBudgetTimer job table step s).Canon := by
  unfold execStepBudgetTimer
  refine h.ifReady ?_
  split
  · exact h
  · split
    · split
      · exact h.stepLook
      · exact h
    · exact h

theorem State.Canon.migLook {j h : Nat} (hs : s.Canon) : (s.migLook j h).Canon := by
  unfold State.migLook
  dsimp only
  split
  · exact hs
  · exact State.Canon.reapTable (State.Canon.foldl hs (fun _ _ ht => ht.complete))

theorem State.Canon.applyEnded {j h : Nat} (hs : s.Canon) : (s.applyEnded j h).Canon := by
  unfold State.applyEnded
  dsimp only
  split
  · exact hs
  · split
    · split
      · refine hs.foldl (fun _ _ ht => ht.foldl (fun _ _ hu => ?_))
        split
        · exact hu
        · split
          · exact hu
          · split
            · exact hu
            · exact State.Canon.countReg (State.Canon.updated hu.rowWrite)
      · refine State.Canon.migLook (State.Canon.stepOver (hs.foldl (fun _ _ hv => hv.foldl (fun _ _ hw => ?_))))
        split
        · exact hw
        · split
          · exact hw
          · split
            · exact hw
            · exact State.Canon.countReg (State.Canon.updated hw.rowWrite)
    · exact hs

theorem execRowCopyDone_canon {job table row : Nat} {ok : Bool} (h : s.Canon) : (execRowCopyDone job table row ok s).Canon := by
  unfold execRowCopyDone
  refine h.ifReady ?_
  dsimp only
  split
  · exact h
  · split
    · exact h
    · split
      · exact h
      · split
        · exact h
        · exact State.Canon.migLook (State.Canon.updated (h.rowWrite.ite h))


theorem State.Canon.setTable {j i : Nat} {o : Table} (h : s.Canon) : (s.setTable j i o).Canon := h

theorem State.Canon.areaTake {j tier region count : Nat} {bytes : List Byte} (h : s.Canon) :
    ExcCanon (·.2) (s.areaTake j tier region count bytes) := by
  unfold State.areaTake
  split
  · split
    next => trivial
    next a t e =>
      have ht : t.Canon := OptCanon.of_eq (f := (·.2)) e h.generalPlace
      exact ht
  · split
    · trivial
    · dsimp only
      split
      · trivial
      · exact State.Canon.ite h (State.Canon.wr h)

theorem execLoadTable_canon {job well : Nat} {d : Desc} (h : s.Canon) : (execLoadTable job well d s).Canon := by
  unfold execLoadTable
  refine h.takeUp fun c t ht => ?_
  extract_lets -lift i len hot tier region o
  split
  · exact ht.loadFails
  · split
    · exact ht.complete
    · split
      · exact State.Canon.complete ht
      · extract_lets -lift rl loc hots tails cold placed
        have hp : ExcCanon (·.2) placed := by
          simp only [placed]
          split
          · exact ht
          · split
            next => trivial
            next a u e =>
              have hu : u.Canon := ExcCanon.of_eq (f := (·.2)) e ht.areaTake
              exact hu
        clear_value placed
        split
        · exact ht.complete
        · split
          next => exact ht.complete
          next areas u =>
            have hu : u.Canon := hp
            exact State.Canon.complete hu

theorem execMigrateRows_canon {job well : Nat} {d : Desc} (h : s.Canon) : (execMigrateRows job well d s).Canon := by
  unfold execMigrateRows
  refine h.takeUp fun c t ht => ?_
  extract_lets -lift i n tier region
  split
  · exact ht.complete
  · refine Res.Canon.ite ht.complete (Res.Canon.ite ht.complete (Res.Canon.ite ht.complete ?_))
    generalize t.fetch d 24 (8 * n) = f
    cases f with
    | none => exact State.Canon.complete ht
    | some bs =>
      extract_lets -lift rows
      refine Res.Canon.ite ht.complete ?_
      extract_lets -lift busy go skipped had v room
      have hp : ExcCanon (·.2) room := by
        simp only [room]
        split
        · split
          · exact ht
          · trivial
        · split
          · exact ht
          · split
            next => trivial
            next a u e =>
              have hu : u.Canon := ExcCanon.of_eq (f := (·.2)) e ht.areaTake
              exact hu
      clear_value room
      split
      next => exact ht.complete
      next w u =>
        have hu : u.Canon := hp
        split
        · exact hu.complete
        · exact State.Canon.migLook hu

theorem execEmbedDocs_canon {job well : Nat} {d : Desc} (h : s.Canon) : (execEmbedDocs job well d s).Canon := by
  unfold execEmbedDocs
  refine h.takeUp fun c t ht => ?_
  extract_lets -lift mh pre wide n mt most
  split
  · exact ht.complete
  · extract_lets -lift vocab stride
    split
    · exact ht.complete
    · split
      · exact State.Canon.complete ht
      · extract_lets -lift docs
        split
        · exact ht.complete
        · split
          · exact State.Canon.complete ht
          · dsimp only
            refine Res.Canon.spoilIf (State.Canon.complete ?_)
            split
            · exact State.Canon.updated (State.Canon.foldl (s := t.draw.2) ht fun _ _ hu => hu.wr)
            · exact State.Canon.updated (State.Canon.foldl (s := t.draw.2) ht fun _ _ hu => hu.wr)

end

end Sys2Proof.Machine
end

section
/-!
SUPPORT. Jobs, the fabric and checkpoints keep the byte memories canonical.
-/
namespace Sys2Proof.Machine

open Sys2Proof

/-! ## Jobs and their slices (R323 to R333) -/

section
variable {s : State}

theorem execCreate_canon {job : Nat} {v : W64} (h : s.Canon) : (execCreate job v s).Canon := by
  unfold execCreate
  refine h.ifUp ?_
  dsimp only
  split
  · exact h
  · split <;> exact h

theorem execDestroy_canon {job : Nat} (h : s.Canon) : (execDestroy job s).Canon := by
  unfold execDestroy
  refine h.ifUp ?_
  dsimp only
  split
  · exact h
  · split <;> exact h

theorem execRecompose_canon {job : Nat} (h : s.Canon) : (execRecompose job s).Canon := by
  unfold execRecompose
  refine h.ifUp ?_
  dsimp only
  split
  · exact h
  · split <;> exact h

theorem State.Canon.setWindow {p : Nat} {j : Option Nat} (h : s.Canon) : (s.setWindow p j).Canon :=
  h.foldl (fun _ _ ht => ht)

theorem State.Canon.relocate {j : Nat} {bad : W64 → Bool} {gs : List SGrain} {same : Bool} (h : s.Canon) : (s.relocate j bad gs same).2.Canon := by
  refine List.foldlRecOn (motive := fun r : List SGrain × State => r.2.Canon) _ _ h fun r hr g _ => ?_
  split
  · exact hr
  · exact State.Canon.ite_snd hr hr

theorem State.Canon.relocateAll {j : Nat} {bad : W64 → Bool} {same : Bool} (h : s.Canon) : (s.relocateAll j bad same).Canon := by
  refine State.Canon.foldl (State.Canon.foldl (State.Canon.foldl (State.Canon.foldl h ?_) ?_) ?_) ?_
  · exact fun t e ht => ht.ite ht.relocate.modSess
  · exact fun t e ht => ht.ite ht.relocate.modRaux
  · intro t e ht
    dsimp only
    split
    · exact ht
    · exact ht.ite ht.relocate.modAux
  · exact fun t e ht => ht.ite ht.relocate.updated

theorem Group.Canon.drop {g : Group} {j : Nat} (h : g.Canon) : Group.Canon { g with saved := mdel g.saved j } :=
  forall_mdel (P := fun m : Map Core => ∀ e ∈ m, e.2.Canon) h

theorem State.Canon.dropGroup {j g : Nat} (h : s.Canon) : (s.dropGroup j g).Canon := by
  unfold State.dropGroup
  dsimp only
  split
  · exact State.Canon.setGroup (h.groupOff.setGroup fun ht => ht.group) fun ht => ht.group.drop
  · exact State.Canon.setGroup (h.switchGroup.ite h) fun ht => ht.group.drop

theorem State.Canon.zeroPc {gone : BitVec 256} (h : s.Canon) : (s.zeroPc gone).Canon := h.withHbm (Memory.filter_wf h.hbm)

theorem execRecomposeCommit_canon {job : Nat} (h : s.Canon) : (execRecomposeCommit job s).Canon := by
  unfold execRecomposeCommit
  refine h.ifReady ?_
  dsimp only
  split
  · exact h
  · split
    · exact h
    · refine State.Canon.foldl (State.Canon.foldl (State.Canon.foldl
        (State.Canon.foldl (State.Canon.foldl (State.Canon.modJob ?_) (fun _ _ ht => ht.dropGroup)) (fun _ _ hu => hu.claimGroup))
          (fun _ _ hv => hv.setWindow)) (fun _ _ hw => hw.setWindow)) (fun _ _ hx => hx.dispatch)
      split
      · exact State.Canon.updated (h.relocateAll.ite h.relocateAll.zeroPc)
      · exact h.relocateAll.ite h.relocateAll.zeroPc

end

/-! ## Handoff of sessions (R364 to R371) -/

section
variable {s : State}

theorem State.Canon.ownRaw {t dst type : Nat} {tag : W32} {data : List Byte} (h : s.Canon) : (s.ownRaw t dst type tag data).Canon := by
  unfold State.ownRaw
  exact State.Canon.place h

theorem State.Canon.refuseXfer {t : Nat} (h : s.Canon) : (s.refuseXfer t).Canon := by
  unfold State.refuseXfer
  dsimp only
  split
  · exact State.Canon.setXfer (State.Canon.ite h h)
  · exact h

theorem execHandoffOut_canon {xfer : Nat} {m : HandoffMsg} (h : s.Canon) : (execHandoffOut xfer m s).Canon := by
  unfold execHandoffOut
  refine h.ifReady ?_
  dsimp only
  split
  · exact h
  · split
    · exact h.refuseXfer.ownRaw
    · split
      · exact State.Canon.own (State.Canon.refuseXfer (State.Canon.ite_snd h.extentPlace h))
      · refine State.Canon.own (State.Canon.setXfer ?_)
        split
        · split
          · exact State.Canon.updated (State.Canon.ite_snd h.extentPlace h)
          · exact State.Canon.ite_snd h.extentPlace h
        · split
          · exact State.Canon.updated (State.Canon.ite_snd h.extentPlace h)
          · exact State.Canon.ite_snd h.extentPlace h

theorem State.Canon.placeArrived {x : Xfer} {m : HandoffMsg} {gs : List SGrain} (h : s.Canon) : (s.placeArrived x m gs).2.Canon :=
  State.Canon.ite_snd h h.placeAll

theorem State.Canon.splitArrived {j : Nat} {m : HandoffMsg} {gs : List SGrain} (h : s.Canon) : (s.splitArrived j m gs).2.2.Canon :=
  h.placeAll

theorem State.Canon.carriedReq {i : Nat} {x : Xfer} {m : HandoffMsg} {work : List SGrain} {prior : SState} (h : s.Canon) :
    (s.carriedReq i x m work prior).Canon := by
  unfold State.carriedReq
  dsimp only
  split
  · split
    · exact h
    · exact State.Canon.modSess (State.Canon.setRaux (State.Canon.setReq (State.Canon.modJob h)))
  · exact h

theorem State.Canon.enterSession {t : Nat} {x : Xfer} {m : HandoffMsg} (h : s.Canon) : (s.enterSession t x m).Canon := by
  unfold State.enterSession
  dsimp only
  split
  · refine State.Canon.own (State.Canon.sessEvent (State.Canon.setXfer ?_))
    split
    · exact State.Canon.updated (State.Canon.setSess (State.Canon.setAux h))
    · split
      · exact State.Canon.setSess (State.Canon.withMaps (State.Canon.setAux h))
      · split
        · exact State.Canon.carriedReq (State.Canon.setSess (State.Canon.splitArrived (State.Canon.setAux h)))
        · exact State.Canon.carriedReq (State.Canon.setSess (State.Canon.withMaps (State.Canon.splitArrived (State.Canon.setAux h))))
  · exact h

theorem execHandoffGrain_canon {xfer n : Nat} {res : Landing} {g : XferGrain} (h : s.Canon) : (execHandoffGrain xfer n res g s).Canon := by
  unfold execHandoffGrain
  refine h.ifReady ?_
  dsimp only
  split
  · exact h
  · split
    · exact h
    · split
      · exact h
      · split
        · exact State.Canon.ite h h
        · split
          · split
            · split
              · exact State.Canon.enterSession (State.Canon.setXfer (State.Canon.placeArrived h))
              · exact State.Canon.setXfer (State.Canon.placeArrived h)
            · split
              · exact h.placeArrived.setXfer.enterSession
              · exact h.placeArrived.setXfer
          · split
            · split
              · exact State.Canon.enterSession (State.Canon.setXfer (State.Canon.placeArrived h))
              · exact State.Canon.setXfer (State.Canon.placeArrived h)
            · split
              · exact h.placeArrived.setXfer.enterSession
              · exact h.placeArrived.setXfer
          · split
            · split
              · exact State.Canon.enterSession (State.Canon.setXfer h)
              · exact State.Canon.setXfer h
            · split
              · exact h.setXfer.enterSession
              · exact h.setXfer

theorem State.Canon.backToSource {i : Nat} (h : s.Canon) : (s.backToSource i).Canon := by
  unfold State.backToSource
  dsimp only
  split <;> exact h

theorem State.Canon.xferDone {x : Xfer} {code result : Nat} (h : s.Canon) : (s.xferDone x code result).Canon :=
  h.complete?

theorem execRefused_canon {xfer reason : Nat} (h : s.Canon) : (execRefused xfer reason s).Canon := by
  unfold execRefused
  refine h.ifReady ?_
  split
  · exact h
  · split
    · exact h
    · exact State.Canon.xferDone (State.Canon.delXfer (State.Canon.backToSource h))

theorem State.Canon.readySplit {t : Nat} {x : Xfer} {ctx : DescCtx} {d : Desc} (h : s.Canon) : (s.readySplit t x ctx d).Canon := by
  unfold State.readySplit
  dsimp only
  split
  · split
    · split
      · exact State.Canon.endReq (State.Canon.record (State.Canon.setXfer (State.Canon.modRaux (State.Canon.modReq (State.Canon.createReq h)))))
      · split
        · exact State.Canon.splitSent (State.Canon.placeRevival
            (State.Canon.record (State.Canon.setXfer (State.Canon.modRaux (State.Canon.modReq (State.Canon.createReq h))))))
        · exact State.Canon.placeRevival (State.Canon.record (State.Canon.setXfer
            (State.Canon.modRaux (State.Canon.modReq (State.Canon.createReq h)))))
    · split
      · exact State.Canon.endReq (State.Canon.record (State.Canon.setXfer (State.Canon.modRaux (State.Canon.modReq (State.Canon.createReq h)))))
      · split
        · exact State.Canon.splitSent (State.Canon.record (State.Canon.setXfer
            (State.Canon.modRaux (State.Canon.modReq (State.Canon.createReq h)))))
        · exact State.Canon.record (State.Canon.setXfer (State.Canon.modRaux (State.Canon.modReq (State.Canon.createReq h))))
  · exact State.Canon.complete (State.Canon.delXfer (State.Canon.own h))

theorem execReady_canon {xfer : Nat} (h : s.Canon) : (execReady xfer s).Canon := by
  unfold execReady
  refine h.ifReady ?_
  split
  · exact h
  · split
    · exact h
    · split
      · exact h.readySplit
      · exact State.Canon.enqueueMove h

theorem State.Canon.sendSlice {i k count : Nat} (h : s.Canon) : (s.sendSlice i k count).Canon := by
  unfold State.sendSlice
  dsimp only
  split
  · exact h.ite (h.foldl (fun _ _ ht => ht.sendGrain))
  · split
    · exact h
    · exact h.ite (h.foldl (fun _ _ hu => hu.sendGrain))

theorem State.Canon.moveSliceEnded {i count : Nat} (h : s.Canon) : (s.moveSliceEnded i count).Canon := by
  unfold State.moveSliceEnded
  dsimp only
  split
  · exact h.sendSlice.modAux
  · split
    · exact h.sendSlice.modAux.setXfer.ite h.sendSlice.modAux
    · exact h.sendSlice.modAux

theorem State.Canon.loseClaim {i : Nat} (h : s.Canon) : (s.loseClaim i).Canon :=
  h.sessEvent.endReq.ite h.sessEvent.endSession

theorem State.Canon.handedOver {i : Nat} (h : s.Canon) : (s.handedOver i).Canon :=
  State.Canon.updated (State.Canon.closeDone (State.Canon.dropMoveWork (h.extentFree.peerRelease.ite h.extentFree)))

theorem State.Canon.handedCarried {x : Xfer} {index : Nat} (h : s.Canon) : (s.handedCarried x index).Canon := by
  unfold State.handedCarried
  dsimp only
  split
  · exact h
  · exact State.Canon.complete (State.Canon.updated (State.Canon.closeDone
      (State.Canon.freeReqEntry (State.Canon.modRaux (h.ite (h.peerRelease.ite (State.Canon.updated (State.Canon.ite h h))))))))

theorem execHandoffIn_canon {xfer epoch index : Nat} (h : s.Canon) : (execHandoffIn xfer epoch index s).Canon := by
  unfold execHandoffIn
  refine h.ifReady ?_
  dsimp only
  split
  · exact h
  · split
    · exact h
    · split
      · exact h.own
      · split
        · split
          · exact h.handedCarried.own.delXfer
          · exact h
        · split
          · split
            · exact h.handedOver.own.delXfer.xferDone
            · split
              · exact h.loseClaim.own.delXfer
              · exact h
          · split
            · exact h.handedOver.own.delXfer.xferDone
            · split
              · exact h.loseClaim.own.delXfer
              · exact h

theorem execRelinquished_canon {xfer epoch : Nat} (h : s.Canon) : (execRelinquished xfer epoch s).Canon := by
  unfold execRelinquished
  refine h.ifReady ?_
  split
  · exact h
  · repeat' split
    all_goals exact h

theorem State.Canon.answerQuery {t type : Nat} (h : s.Canon) : (s.answerQuery t type).Canon := by
  unfold State.answerQuery
  split
  · exact h.own.ite h.ownRaw
  · exact h.ownRaw

theorem execQuery_canon {xfer epoch : Nat} (h : s.Canon) : (execQuery xfer epoch s).Canon := by
  unfold execQuery
  refine h.ifReady ?_
  split
  · split
    · exact h
    · split
      · exact h.answerQuery
      · exact h.answerQuery.refuseXfer
  · exact h.answerQuery.refuseXfer

theorem execMine_canon {xfer : Nat} (h : s.Canon) : (execMine xfer s).Canon := by
  unfold execMine
  refine h.ifReady ?_
  split
  · exact h
  · split <;> exact h

theorem State.Canon.splitBack {t : Nat} {x : Xfer} {abort : Bool} (h : s.Canon) : (s.splitBack t x abort).Canon := by
  unfold State.splitBack
  dsimp only
  split
  · exact State.Canon.modSess (State.Canon.delXfer (h.own.ite h))
  · split
    · exact State.Canon.endReq (State.Canon.setRaux (State.Canon.modSess (State.Canon.delXfer (h.own.ite h))))
    · exact State.Canon.endReq (State.Canon.modAux (State.Canon.setRaux (State.Canon.modSess (State.Canon.delXfer (h.own.ite h)))))

theorem State.Canon.reclaim {t : Nat} {x : Xfer} (h : s.Canon) : (s.reclaim t x).Canon := by
  unfold State.reclaim
  dsimp only
  split
  · exact h.splitBack
  · split
    · exact State.Canon.endSession (State.Canon.sessEvent (State.Canon.xferDone (State.Canon.modSess (State.Canon.backToSource h))))
    · split
      · exact State.Canon.sessEvent (State.Canon.xferDone (State.Canon.modSess (State.Canon.backToSource h)))
      · exact State.Canon.endSession (State.Canon.sessEvent (State.Canon.xferDone (State.Canon.modSess (State.Canon.backToSource h))))

theorem execNotMine_canon {xfer : Nat} (h : s.Canon) : (execNotMine xfer s).Canon := by
  unfold execNotMine
  refine h.ifReady ?_
  split
  · exact h
  · split
    · exact h.reclaim
    · exact h

theorem execReclaimed_canon {xfer epoch : Nat} (h : s.Canon) : (execReclaimed xfer epoch s).Canon := by
  unfold execReclaimed
  refine h.ifReady ?_
  split
  · exact h
  · split
    · exact h
    · exact h.loseClaim.own.delXfer

theorem execAbort_canon {xfer : Nat} (h : s.Canon) : (execAbort xfer s).Canon := by
  unfold execAbort
  refine h.ifReady ?_
  split
  · exact h.refuseXfer
  · split
    · exact h
    · exact h.refuseXfer

theorem State.Canon.resendFrees (h : s.Canon) : s.resendFrees.Canon :=
  State.Canon.foldl h (fun _ _ ht => ht.send)

theorem execOrphanTimer_canon {xfer : Nat} (h : s.Canon) : (execOrphanTimer xfer s).Canon := by
  unfold execOrphanTimer
  refine h.ifReady ?_
  dsimp only
  split
  · exact h.resendFrees
  · split
    · exact h.resendFrees
    · split
      · split
        · exact h.resendFrees
        · split
          · exact h.resendFrees.reclaim
          · exact h.resendFrees.setXfer.own
      · split
        · exact h.resendFrees.setXfer.own
        · exact h.resendFrees

theorem execPhaseTimer_canon {xfer : Nat} (h : s.Canon) : (execPhaseTimer xfer s).Canon := by
  unfold execPhaseTimer
  refine h.ifReady ?_
  dsimp only
  split
  · exact h
  · split
    · split
      · split
        · exact h
        · split
          · exact h.splitBack
          · exact h
      · split
        · exact h
        · split
          · exact h.splitBack
          · exact h
    · split
      · split
        · exact h
        · split
          · exact h.refuseXfer
          · exact h
      · split
        · exact h
        · split
          · exact h.refuseXfer
          · exact h

theorem execSplitTurn_canon {job well : Nat} {d : Desc} (h : s.Canon) : (execSplitTurn job well d s).Canon := by
  unfold execSplitTurn
  refine h.takeUp (fun _ _ ht => ht.withSession (fun _ hu => ?_))
  dsimp only
  split
  · exact hu.complete
  · split
    · exact State.Canon.complete hu
    · split
      · exact hu.complete
      · split
        · exact hu.complete
        · refine Res.Canon.spoilIf ?_
          split
          · exact State.Canon.complete (State.Canon.ite (State.Canon.dmaFailed hu) hu)
          · split
            · exact State.Canon.complete hu
            · exact State.Canon.offer hu

theorem State.Canon.heldFree {key : Nat} {h : HeldExtent} (hs : s.Canon) : (s.heldFree key h).Canon :=
  State.Canon.updated hs.extentFree

theorem execPeerTierGrains_canon {node : Nat} {tag : W32} {write : Bool} {addr : W64} {grains : List (List Byte)} {ttlUs : Nat} (h : s.Canon) :
    (execPeerTierGrains node tag write addr grains ttlUs s).Canon := by
  unfold execPeerTierGrains
  refine h.ifReady ?_
  dsimp only
  split
  · exact h
  · split
    · split <;> exact h
    · split
      · exact h
      · split
        · exact h
        · exact h.foldl (fun _ _ ht => ht.sendGrain)

theorem execPeerFree_canon {src : Nat} {addr : W64} (h : s.Canon) : (execPeerFree src addr s).Canon := by
  unfold execPeerFree
  refine h.ifReady ?_
  dsimp only
  split
  · exact h
  · split
    · exact h.heldFree
    · exact h

theorem execPeerExtentExpiry_canon {addr : W64} (h : s.Canon) : (execPeerExtentExpiry addr s).Canon := by
  unfold execPeerExtentExpiry
  refine h.ifReady ?_
  dsimp only
  split
  · exact h
  · split
    · split
      · exact h.heldFree
      · exact h
    · exact h

theorem State.Canon.peerSettled {node : Nat} {addr : Option W64} (h : s.Canon) : (s.peerSettled node addr).Canon := by
  unfold State.peerSettled
  refine State.Canon.foldl ?_ (fun _ _ ht => ht.ite (State.Canon.ite (State.Canon.settle ht) ht))
  dsimp only
  split <;> exact h

end

/-! ## Checkpoints (R404 to R415) -/

section
variable {s : State}

theorem State.Canon.ckptTell {j : Nat} {k : Ckpt} {what code : Nat} {data : List Byte} (h : s.Canon) : (s.ckptTell j k what code data).Canon :=
  h.foldl (fun _ _ ht => ht.send)

theorem State.Canon.ckptDrop {j : Nat} {k : Ckpt} (h : s.Canon) : (s.ckptDrop j k).Canon := by
  unfold State.ckptDrop
  dsimp only
  split
  · exact State.Canon.updated (h.foldl (fun _ _ ht => State.Canon.ite ht ht))
  · exact h.foldl (fun _ _ hu => State.Canon.ite hu hu.peerRelease)

theorem State.Canon.ckptFail {j code : Nat} {tell : Bool} (h : s.Canon) : (s.ckptFail j code tell).Canon := by
  unfold State.ckptFail
  dsimp only
  split
  · exact h
  · refine State.Canon.complete ?_
    split
    · exact State.Canon.ckptTell (State.Canon.countReg (State.Canon.updated h.ckptDrop.modJob.startProgs))
    · exact State.Canon.countReg (State.Canon.updated h.ckptDrop.modJob.startProgs)

theorem State.Canon.ckptCommit {j : Nat} {k : Ckpt} {result : Nat} (h : s.Canon) : (s.ckptCommit j k result).Canon :=
  State.Canon.complete h

theorem State.Canon.ckptSend {j : Nat} {k : Ckpt} {a : Nat} {gs : List (List Byte)} (h : s.Canon) : (s.ckptSend j k a gs).Canon :=
  h.foldl (fun _ _ ht => ht.sendGrain)

theorem State.Canon.ckptPut {j : Nat} {k : Ckpt} {bytes : List Byte} {man : Bool} (h : s.Canon) :
    ExcCanon (fun p => p.2.2) (s.ckptPut j k bytes man) := by
  unfold State.ckptPut
  dsimp only
  split
  · split
    · trivial
    · split
      · trivial
      · rename_i t e
        have ht : t.Canon := OptCanon.of_eq e h.generalPlace
        exact ht
  · split
    · split
      · trivial
      · split
        · split
          · trivial
          · exact h.wr
        · split
          · exact State.Canon.wr h
          · trivial
    · exact State.Canon.ckptSend h

theorem State.Canon.ckptPiece {j : Nat} {k : Ckpt} {step : Nat} {p : Piece} (h : s.Canon) : ExcCanon (fun p => p.2) (s.ckptPiece j k step p) := by
  unfold State.ckptPiece
  dsimp only
  split
  · trivial
  · rename_i t e
    have ht : t.Canon := ExcCanon.of_eq e h.ckptPut
    exact ht

theorem State.Canon.ckptSession {j : Nat} {k : Ckpt} {i : Nat} {toolp : Bool} (h : s.Canon) :
    ExcCanon (fun p => p.2) (s.ckptSession j k i toolp) := by
  unfold State.ckptSession
  dsimp only
  split
  · split
    · trivial
    · rename_i e
      exact State.Canon.updated (State.Canon.of_eq (f := (·.2)) e h.extentPlace)
  · split
    · split
      · trivial
      · split
        · exact State.Canon.writeT3 h
        · trivial
    · exact State.Canon.ckptSend h

theorem State.Canon.ckptTable {j : Nat} {k : Ckpt} {h : Nat} (hs : s.Canon) : ExcCanon (fun p => p.2) (s.ckptTable j k h) := by
  unfold State.ckptTable
  dsimp only
  split
  · exact hs
  · split
    · exact hs
    · split
      · trivial
      · split
        · trivial
        · exact State.Canon.ckptPiece hs

theorem State.Canon.tensorList {c : DescCtx} {d : Desc} {b n : Nat} {body : List (List Byte) → Res} (h : s.Canon)
    (hbody : ∀ (a : List (List Byte)), (body a).Canon) : (s.tensorList c d b n body).Canon := by
  unfold State.tensorList
  dsimp only
  split
  · exact hbody _
  · split
    · exact h.complete
    · split
      · exact State.Canon.complete h
      · refine Res.Canon.spoilIf ?_
        split
        · exact h.complete
        · split
          · exact h.complete
          · exact hbody _

theorem execResume_canon {job : Nat} (h : s.Canon) : (execResume job s).Canon :=
  h.ifUp h

theorem execCommitNotice_canon {job : Nat} (h : s.Canon) : (execCommitNotice job s).Canon := by
  unfold execCommitNotice
  refine h.ifReady ?_
  split
  · exact h
  · split
    · exact h.ckptCommit
    · exact h

theorem execAbortNotice_canon {job code : Nat} (h : s.Canon) : (execAbortNotice job code s).Canon := by
  unfold execAbortNotice
  refine h.ifReady ?_
  split
  · exact h
  · exact h.ckptFail

theorem execCkptBudget_canon {job : Nat} (h : s.Canon) : (execCkptBudget job s).Canon := by
  unfold execCkptBudget
  refine h.ifReady ?_
  split
  · exact h
  · split
    · exact h
    · split
      · exact h
      · split <;> exact h.ckptFail

theorem execCommitNoticeTimeout_canon {job : Nat} (h : s.Canon) : (execCommitNoticeTimeout job s).Canon := by
  unfold execCommitNoticeTimeout
  refine h.ifReady ?_
  dsimp only
  split
  · exact h
  · split
    · split
      · exact h.ckptFail
      · exact h
    · exact h

theorem State.Canon.ckptNodeLost {node : Nat} (h : s.Canon) : (s.ckptNodeLost node).Canon := by
  unfold State.ckptNodeLost
  refine h.foldl (fun _ _ ht => ?_)
  split
  · exact ht
  · exact ht.ckptFail.ite ht

theorem State.Canon.t3Give {j n first : Nat} (h : s.Canon) : (s.t3Give j n first).Canon := h

theorem State.Canon.ckptStat {j code : Nat} {step : Option W64} (h : s.Canon) : (s.ckptStat j code step).Canon := h

/-- A part of a checkpoint after another, each of which keeps the form. -/
theorem State.Canon.ckptAll {α : Type} {k : Ckpt} {xs : List α} {f : State → Ckpt → α → Except Nat (Ckpt × State)} (h : s.Canon)
    (hf : ∀ t k x, t.Canon → ExcCanon (·.2) (f t k x)) : ExcCanon (·.2) (s.ckptAll k xs f) := by
  refine List.foldlRecOn (motive := ExcCanon (fun p : Ckpt × State => p.2)) _ _ h fun r hr x _ => ?_
  cases r with
  | error e => trivial
  | ok p => exact hf p.2 p.1 x hr

theorem State.Canon.ckptSet {j : Nat} {k : Ckpt} {r : Except Nat (Ckpt × State)} {done : Ckpt → Ckpt} (h : s.Canon) (hr : ExcCanon (·.2) r) :
    (s.ckptSet j k r done).Canon := by
  unfold State.ckptSet
  split
  · exact hr
  · exact State.Canon.ckptFail h

theorem State.Canon.ckptLook {n j : Nat} (h : s.Canon) : (State.ckptLook n s j).Canon := by
  induction n generalizing s with
  | zero => exact h
  | succ n ih =>
    unfold State.ckptLook
    split
    · exact h
    next k _ =>
      split
      · exact ih (h.ckptSet (h.ckptAll fun _ _ _ ht => ht.ckptPiece)).startProgs
      · split
        · exact ih (h.ckptSet h.ckptTable)
        · split
          · exact h
          · split
            · exact h.ite h.ckptTell.modJob
            · split
              · exact h
              · split
                · refine ih (h.ckptSet ?_)
                  split
                  next => trivial
                  next a k t e =>
                    have ht : t.Canon := ExcCanon.of_eq (f := (·.2.2)) e h.ckptPut
                    exact ht
                · exact h.ckptTell.ckptCommit

theorem State.Canon.ckptLooks (h : s.Canon) : s.ckptLooks.Canon := by
  unfold State.ckptLooks
  refine h.foldl (fun _ _ ht => ?_)
  split
  · exact ht
  · exact ht.ckptLook

theorem execCkptEntries_canon {job rank : Nat} {shards : List ShardEntry} {sessions : List SessRecord} (h : s.Canon) :
    (execCkptEntries job rank shards sessions s).Canon := by
  unfold execCkptEntries
  refine h.ifReady ?_
  dsimp only
  split
  · exact h
  · exact State.Canon.ckptLook h

theorem State.Canon.checkpoint {c : DescCtx} {d : Desc} {preempt : Bool} (h : s.Canon) : (s.checkpoint c d preempt).Canon := by
  unfold State.checkpoint
  extract_lets -lift j x target i us n dest man off form
  split
  · exact h.complete
  · exact h.complete
  · extract_lets -lift away
    refine Res.Canon.ite h.complete ?_
    clear_value away
    split
    · exact h.complete
    · refine h.tensorList fun es => ?_
      extract_lets -lift k t job u pieces r who r'
      refine Res.Canon.ite (State.Canon.ckptFail h) ?_
      have hu : u.Canon := State.Canon.ite h h
      have hr : ExcCanon (·.2) r := by
        refine hu.ckptAll fun t k p ht => ?_
        split
        · exact ht.ckptPiece
        · trivial
      have hr' : ExcCanon (·.2) r' := by
        simp only [r']
        clear_value r
        split
        next => trivial
        next k v =>
          have hv : v.Canon := hr
          refine hv.ckptAll fun t k p ht => ?_
          split
          · trivial
          · exact ht.ckptSession
      exact (hu.ckptSet hr').ckptLook

theorem execCheckpoint_canon {job well : Nat} {d : Desc} (h : s.Canon) : (execCheckpoint job well d s).Canon :=
  h.takeUp (fun _ _ ht => ht.checkpoint)

theorem execPreemptNotice_canon {job well : Nat} {d : Desc} (h : s.Canon) : (execPreemptNotice job well d s).Canon :=
  h.takeUp (fun _ _ ht => ht.checkpoint)

end

/-! ## Links, nodes and collectives (R351 to R363) -/

section
variable {s : State}

theorem execSetGroup_canon {job well : Nat} {d : Desc} (h : s.Canon) : (execSetGroup job well d s).Canon := by
  unfold execSetGroup
  refine h.takeUp (fun _ _ ht => ?_)
  dsimp only
  split
  · exact ht.complete
  · split
    · exact State.Canon.complete ht
    · split
      · exact ht.complete
      · split
        · exact State.Canon.complete ht
        · split
          · exact ht.complete
          · exact State.Canon.complete (State.Canon.modJob (State.Canon.ite ht ht))

theorem State.Canon.collTake {job group : Nat} {g : FabGroup} {c : Coll} {p : CollPacket} (h : s.Canon) : (s.collTake job group g c p).Canon := by
  unfold State.collTake
  dsimp only
  split
  · split
    · exact h
    · split
      · split
        · split
          · exact State.Canon.collDone (State.Canon.ite (State.Canon.sendColl h) h)
          · exact State.Canon.ite (State.Canon.sendColl h) h
        · split
          · exact State.Canon.collDone (State.Canon.ite (State.Canon.sendColl h) h)
          · exact State.Canon.ite (State.Canon.sendColl h) h
      · split
        · exact State.Canon.collDone (State.Canon.ite (State.Canon.sendColl h) h)
        · exact State.Canon.ite (State.Canon.sendColl h) h
  · split
    · exact h
    · split
      · split
        · split
          · exact State.Canon.collDone (State.Canon.ite (State.Canon.sendColl h) h)
          · exact State.Canon.ite (State.Canon.sendColl h) h
        · split
          · exact State.Canon.collDone (State.Canon.ite (State.Canon.sendColl h) h)
          · exact State.Canon.ite (State.Canon.sendColl h) h
      · split
        · exact State.Canon.collDone (State.Canon.ite (State.Canon.sendColl h) h)
        · exact State.Canon.ite (State.Canon.sendColl h) h

theorem State.Canon.collPacket {job group : Nat} {p : CollPacket} (h : s.Canon) : (s.collPacket job group p).Canon := by
  unfold State.collPacket
  dsimp only
  split
  · exact h
  · split
    · exact h.collFail
    · split
      · exact h.collTake
      · exact h.ite h

theorem execCollectivePacket_canon {job group : Nat} {p : CollPacket} (h : s.Canon) : (execCollectivePacket job group p s).Canon :=
  h.ifReady h.collPacket

theorem State.Canon.collJoined (h : s.Canon) : s.collJoined.Canon :=
  State.Canon.foldl h (fun _ _ ht => ht.collPacket)

theorem execCollectiveTimeout_canon {job group seq : Nat} (h : s.Canon) : (execCollectiveTimeout job group seq s).Canon := by
  unfold execCollectiveTimeout
  refine h.ifReady ?_
  split
  · exact h
  · split
    · exact h.collFail
    · exact h

theorem State.Canon.manage {l type : Nat} {data : List Byte} (h : s.Canon) : (s.manage l type data).Canon :=
  h.ite (State.Canon.egress h)

theorem State.Canon.flood {type : Nat} {data : List Byte} (h : s.Canon) : (s.flood type data).Canon :=
  h.foldl (fun _ _ ht => ht.manage)

theorem State.Canon.announce (h : s.Canon) : s.announce.Canon :=
  State.Canon.updated (State.Canon.flood h)

theorem State.Canon.dropSend {job core node : Nat} {seq : Option Nat} (h : s.Canon) : (s.dropSend job core node seq).Canon :=
  h.setJobCore (fun _ => Core.Canon.updated h.jobCore)

theorem State.Canon.sendFails {node : Nat} {seq : Option Nat} (h : s.Canon) : (s.sendFails node seq).Canon :=
  h.foldl (fun _ _ ht => ht.dropSend.stopProg.endProg)

theorem execNack_canon {dst vc seq : Nat} (h : s.Canon) : (execNack dst vc seq s).Canon := by
  unfold execNack
  refine h.ifReady ?_
  dsimp only
  split
  · exact h
  · exact State.Canon.ite (State.Canon.sendFails h) h

theorem execRetransmitTimer_canon {dst vc : Nat} (h : s.Canon) : (execRetransmitTimer dst vc s).Canon :=
  h.ifReady (State.Canon.foldl h (fun _ _ ht => ht.place))

theorem State.Canon.rehome {ps : List Packet} (h : s.Canon) : (s.rehome ps).Canon := by
  unfold State.rehome
  refine h.foldl (fun _ _ ht => ?_)
  dsimp only
  split
  · exact ht
  · exact State.Canon.egress ht

theorem State.Canon.portDown {l st : Nat} (h : s.Canon) : (s.portDown l st).Canon :=
  h.ite (State.Canon.rehome (State.Canon.ite (State.Canon.announce h) h))

theorem execPortCtlWrite_canon {n : Nat} {v : W64} (h : s.Canon) : (execPortCtlWrite n v s).Canon := by
  unfold execPortCtlWrite
  refine h.ifUp ?_
  dsimp only
  split
  · trivial
  · exact State.Canon.foldl h (fun _ _ ht => ht.portDown)

theorem State.Canon.checkOwnIdent (h : s.Canon) : s.checkOwnIdent.Canon :=
  State.Canon.ite (State.Canon.announce h) h

theorem execIdentifierAssignment_canon {serial node : Nat} (h : s.Canon) : (execIdentifierAssignment serial node s).Canon := by
  unfold execIdentifierAssignment
  refine h.ifUp ?_
  split
  · exact h
  · split
    · split
      · exact State.Canon.announce h
      · exact h
    · split
      · exact h
      · split
        · exact h
        · exact State.Canon.updated (State.Canon.flood h)

theorem execPacketForward_canon {p : Packet} (h : s.Canon) : (execPacketForward p s).Canon := by
  unfold execPacketForward
  refine h.ifUp ?_
  split
  · exact h
  · split
    · exact h
    · exact h.place

theorem execCreditGrant_canon {port vc units : Nat} (h : s.Canon) : (execCreditGrant port vc units s).Canon := by
  unfold execCreditGrant
  refine h.ifUp ?_
  dsimp only
  split
  · exact h
  · exact State.Canon.egress h

theorem State.Canon.nodeLost {node : Nat} (h : s.Canon) : (s.nodeLost node).Canon := by
  unfold State.nodeLost
  refine State.Canon.peerSettled (State.Canon.ckptNodeLost ?_)
  refine State.Canon.foldl (State.Canon.foldl (State.Canon.foldl (State.Canon.foldl (State.Canon.sendFails ?_) ?_) ?_) ?_) ?_
  · exact h
  · intro t e ht
    split
    · exact ht
    · exact ht.moveFails.ite ht
  · exact fun t e ht => ht.endReq.ite ht
  · exact fun t e ht => ht.foldl fun u g hu => State.Canon.ite (State.Canon.modJob (hu.collFail.ite hu)) hu
  · exact fun t e ht => ht.splitBack.ite ht

theorem execUnreachable_canon {node : Nat} (h : s.Canon) : (execUnreachable node s).Canon := by
  unfold execUnreachable
  refine h.ifReady ?_
  dsimp only
  split
  · split
    · exact State.Canon.nodeLost h
    · exact h
  · split
    · exact State.Canon.nodeLost h
    · exact h

theorem execAcknowledgement_canon {src vc seq : Nat} (h : s.Canon) : (execAcknowledgement src vc seq s).Canon := by
  unfold execAcknowledgement
  refine h.ifReady ?_
  dsimp only
  split
  · exact h
  · split
    · exact State.Canon.foldl h (fun _ _ ht => ht.dropSend.endProg)
    · split
      · exact State.Canon.peerSettled h
      · exact h

theorem State.Canon.reroute (h : s.Canon) : s.reroute.Canon := h

theorem State.Canon.keepRecord {r : TopoRec} (h : s.Canon) : (s.keepRecord r).Canon := h

theorem State.Canon.assignIdents (h : s.Canon) : s.assignIdents.Canon := by
  unfold State.assignIdents
  split
  · exact h
  · refine State.Canon.reroute ?_
    refine List.foldlRecOn (motive := fun st : State × List Nat => st.1.Canon) _ _ h fun st hst r _ => ?_
    exact State.Canon.ite (State.Canon.announce hst) (State.Canon.flood hst)

theorem execLinkUp_canon {port ver lanes peerSerial peerNode peerPort : Nat} (h : s.Canon) :
    (execLinkUp port ver lanes peerSerial peerNode peerPort s).Canon := by
  unfold execLinkUp
  refine h.ifUp ?_
  dsimp only
  split
  · exact h
  · split
    · split
      · exact State.Canon.assignIdents (State.Canon.announce (State.Canon.manage h))
      · exact State.Canon.manage h
    · split
      · exact State.Canon.assignIdents (State.Canon.announce (State.Canon.manage h))
      · exact State.Canon.manage h

theorem execLinkDown_canon {port : Nat} {failed : Bool} (h : s.Canon) : (execLinkDown port failed s).Canon := by
  unfold execLinkDown
  refine h.ifUp ?_
  dsimp only
  split
  · exact h
  · exact State.Canon.assignIdents (State.Canon.portDown (State.Canon.ite h h))

theorem execProbe_canon {port serial node peerPort : Nat} (h : s.Canon) : (execProbe port serial node peerPort s).Canon := by
  unfold execProbe
  refine h.ifUp ?_
  dsimp only
  split
  · exact h
  · split
    · exact h
    · exact State.Canon.ite (State.Canon.assignIdents (State.Canon.announce h)) h

theorem execTopologyRecord_canon {r : TopoRec} (h : s.Canon) : (execTopologyRecord r s).Canon := by
  unfold execTopologyRecord
  refine h.ifUp ?_
  dsimp only
  split
  · exact h
  · refine State.Canon.assignIdents (State.Canon.checkOwnIdent ?_)
    split
    · exact h.keepRecord.flood.reroute.nodeLost.ite h.keepRecord.flood.reroute
    · exact h.keepRecord.flood.reroute

end

/-! ## Restores (R416 to R422) -/

section
variable {s : State}

theorem State.Canon.srcRead {j : Nat} {p : Nat × Nat × Nat} {g n : Nat} (h : s.Canon) : ExcCanon (fun p => p.2) (s.srcRead j p g n) := by
  unfold State.srcRead
  split
  · split
    · trivial
    · split
      · trivial
      · exact h
  · split
    · split
      · trivial
      · split
        · trivial
        · exact h
    · split
      · trivial
      · exact h

theorem State.Canon.readManifest {j : Nat} {p : Nat × Nat × Nat} {g : Nat} {requireSig : Bool} (h : s.Canon) :
    ExcCanon (·.2) (s.readManifest j p g requireSig) := by
  unfold State.readManifest
  split
  next => trivial
  next a t e =>
    have ht : t.Canon := ExcCanon.of_eq (f := (·.2)) e h.srcRead
    split
    · trivial
    · split
      next => trivial
      next b u e =>
        have hu : u.Canon := ExcCanon.of_eq (f := (·.2)) e ht.srcRead
        split
        · trivial
        · split
          · trivial
          · split
            · trivial
            · exact hu

theorem State.Canon.restoreAdapter {j h : Nat} {shards : List Piece} (hs : s.Canon) : ExcCanon (fun p => p.2) (s.restoreAdapter j h shards) := by
  unfold State.restoreAdapter
  dsimp only
  split
  · split
    · trivial
    · exact hs
  · trivial

theorem State.Canon.restoreTable {j h rank : Nat} {nodes : List Nat} {shards : List Piece} (hs : s.Canon) :
    ExcCanon (fun p => p.2.2) (s.restoreTable j h rank nodes shards) := by
  unfold State.restoreTable
  dsimp only
  split
  · trivial
  · split
    · trivial
    · split
      · split
        · trivial
        · split
          · exact hs
          · split
            · trivial
            · rename_i t e
              have ht : t.Canon := OptCanon.of_eq e (State.Canon.generalPlace hs)
              exact ht
      · split
        · trivial
        · split
          · exact hs
          · split
            · trivial
            · rename_i t e
              have ht : t.Canon := OptCanon.of_eq e (State.Canon.generalPlace hs)
              exact ht

theorem State.Canon.restoreSession {j old h : Nat} {m : Model} {gs : List (List Byte)} {taken : List Nat} {used : Nat} (hs : s.Canon) :
    ExcCanon (fun p => p.2.2) (s.restoreSession j old h m gs taken used) := by
  unfold State.restoreSession
  dsimp only
  split
  · trivial
  · split
    · trivial
    · split
      · trivial
      · rename_i e
        exact State.Canon.updated (State.Canon.of_eq (f := (·.2)) e (State.Canon.extentPlace (by exact hs)))

theorem State.Canon.report {d : Desc} {rs : List (Nat × Nat)} (h : s.Canon) : (s.report d rs).Canon :=
  h.ite (h.foldl (fun _ _ ht => ht.wr))

theorem State.Canon.restoreDone {j : Nat} {r : Restore} (h : s.Canon) : (s.restoreDone j r).Canon := by
  unfold State.restoreDone
  refine State.Canon.complete ?_
  dsimp only
  split
  · split
    · exact State.Canon.foldl (State.Canon.foldl (h.foldl (fun _ _ ht => ht)) (fun _ _ hu => hu.setTable.reapTable)) (fun _ _ hv => hv)
    · exact State.Canon.foldl (State.Canon.foldl (State.Canon.foldl (h.foldl (fun _ _ hw => hw)) (fun _ _ hx => hx.setTable.reapTable))
        (fun _ _ hy => hy)) (fun _ _ hz => hz.wr)
  · refine State.Canon.wr ?_
    split
    · exact State.Canon.foldl (State.Canon.foldl (h.foldl (fun _ _ ha => ha)) (fun _ _ hb => hb.setTable.reapTable)) (fun _ _ hc => hc)
    · exact State.Canon.foldl (State.Canon.foldl (State.Canon.foldl (h.foldl (fun _ _ hd => hd)) (fun _ _ hf => hf.setTable.reapTable))
        (fun _ _ hg => hg)) (fun _ _ hi => hi.wr)

theorem State.Canon.restoreLook {j : Nat} (h : s.Canon) : (s.restoreLook j).Canon :=
  h.ite (State.Canon.foldl h (fun _ _ ht => ht.restoreDone))

theorem State.Canon.srcAll {j : Nat} {xs : List ((Nat × Nat × Nat) × Nat × Nat)} (h : s.Canon) : ExcCanon (·.2) (s.srcAll j xs) := by
  refine List.foldlRecOn (motive := ExcCanon (fun p : List (List Byte) × State => p.2)) _ _ h fun r hr x _ => ?_
  cases r with
  | error e => trivial
  | ok p =>
    have hp : p.2.Canon := hr
    dsimp only
    split
    next => trivial
    next b t e =>
      have ht : t.Canon := ExcCanon.of_eq (f := (·.2)) e hp.srcRead
      exact ht

theorem State.Canon.looks (h : s.Canon) : s.looks.Canon := h.ckptLooks.foldl fun _ _ ht => ht.restoreLook

/-- One part of what a restore needs after another, each of which keeps the form. -/
theorem collect_canon {α β : Type} {xs : List α} {acc : β} {f : State → β → α → Except Nat (β × State)} (h : s.Canon)
    (hf : ∀ t b x, t.Canon → ExcCanon (·.2) (f t b x)) : ExcCanon (·.2) (collect s xs acc f) := by
  refine List.foldlRecOn (motive := ExcCanon (fun p : β × State => p.2)) _ _ h fun r hr x _ => ?_
  cases r with
  | error e => trivial
  | ok p => exact hf p.2 p.1 x hr

theorem State.Canon.restoreRead {c : DescCtx} {d : Desc} {smap man : List Byte} {body : List (List Byte) → List (List (List Byte)) → State → Res}
    (h : s.Canon) (hbody : ∀ bs exts t, t.Canon → (body bs exts t).Canon) : (s.restoreRead c d smap man body).Canon := by
  unfold State.restoreRead
  extract_lets -lift j shards recs place
  split
  · extract_lets -lift runs
    split
    next => exact h.complete
    next heads t e =>
      have ht : t.Canon := ExcCanon.of_eq (f := (·.2)) e h.srcAll
      extract_lets -lift mixed
      refine Res.Canon.ite ht.report.complete ?_
      split
      next => exact ht.complete
      next all u e =>
        have hu : u.Canon := ExcCanon.of_eq (f := (·.2)) e ht.srcAll
        exact Res.Canon.ite hu.report.complete (hbody _ _ _ hu)
  · exact h.complete

theorem execRestore_canon {job well : Nat} {d : Desc} (h : s.Canon) : (execRestore job well d s).Canon := by
  unfold execRestore
  refine h.takeUp fun c t ht => Res.Canon.ite ht.complete ?_
  split
  · exact State.Canon.complete ht
  · exact ht.complete
  · refine Res.Canon.ite ht.complete (ht.tensorList fun dests => ?_)
    split
    · exact ht.complete
    · split
      next => exact ht.complete
      next man u e =>
        have hu : u.Canon := ExcCanon.of_eq (f := (·.2)) e ht.readManifest
        refine Res.Canon.ite hu.complete (hu.restoreRead fun bs exts v hv => ?_)
        extract_lets w pieces handles r place
        have hr : ExcCanon (·.2) r := by
          refine collect_canon hv fun t st h ht => ?_
          split
          · trivial
          · split
            next => trivial
            next a b u e =>
              have hu : u.Canon := ExcCanon.of_eq (f := (·.2.2)) e ht.restoreTable
              exact hu
        clear_value r
        split
        · exact hv.complete
        · split
          next => exact State.Canon.complete hv
          next tables objs u =>
            have hu : u.Canon := hr
            extract_lets r
            have hr : ExcCanon (·.2) r := by
              refine collect_canon hu fun t st h ht => ?_
              split
              · trivial
              · split
                next => trivial
                next a u e =>
                  have hu : u.Canon := ExcCanon.of_eq (f := (·.2)) e ht.restoreAdapter
                  split
                  · exact hu
                  · trivial
            clear_value r
            split
            next => exact State.Canon.complete hv
            next adapters u =>
              have hu : u.Canon := hr
              extract_lets found want skipped r
              have hr : ExcCanon (·.2) r := by
                refine collect_canon hu fun t st e ht => ?_
                split
                next => trivial
                next a b u e =>
                  have hu : u.Canon := ExcCanon.of_eq (f := (·.2.2)) e ht.restoreSession
                  exact hu
              clear_value r
              split
              next => exact State.Canon.complete hv
              next sess more u =>
                have hu : u.Canon := hr
                exact State.Canon.restoreLook (State.Canon.modJob (State.Canon.foldl hu fun _ _ ht => ht.wr))

theorem State.Canon.flashFree {base count : Nat} (h : s.Canon) : (s.flashFree base count).Canon := h

theorem execCkptFree_canon {job well : Nat} {d : Desc} (h : s.Canon) : (execCkptFree job well d s).Canon := by
  unfold execCkptFree
  refine h.takeUp fun c t ht => Res.Canon.ite ht.complete ?_
  split
  · exact State.Canon.complete ht
  · split
    · exact ht.complete
    · refine Res.Canon.ite ht.complete ?_
      split
      next => exact ht.complete
      next man u e =>
        have hu : u.Canon := ExcCanon.of_eq (f := (·.2)) e ht.readManifest
        extract_lets here free
        have hfree : ∀ t q a n, t.Canon → (free t q a n).Canon := fun t q a n ht => ht.ite (State.Canon.ite ht.t3Give ht.flashFree)
        refine State.Canon.complete (State.Canon.foldl (State.Canon.foldl (hfree _ _ _ _ hu) ?_) ?_)
        · intro t e ht
          split
          · exact hfree _ _ _ _ ht
          · exact ht
        · intro t e ht
          split
          · exact hfree _ _ _ _ ht
          · exact ht

end

/-! ## The ends of engine commands, and flash events (R335, R383 to R396) -/

section
variable {s : State}

theorem State.Canon.trimsDurable (h : s.Canon) : s.trimsDurable.Canon :=
  h.foldl (fun _ _ ht => State.Canon.settle ht)

theorem execTrimJournalWrite_canon (h : s.Canon) : (execTrimJournalWrite s).Canon :=
  h.ifUp (State.Canon.trimsDurable h)

theorem State.Canon.dieFail {ch die : Nat} (h : s.Canon) : (s.dieFail ch die).Canon :=
  h.ite h

theorem execDieFail_canon {ch die : Nat} (h : s.Canon) : (execDieFail ch die s).Canon :=
  h.ifUp h.dieFail

theorem execPowerFailWarning_canon {us : Nat} (h : s.Canon) : (execPowerFailWarning us s).Canon := by
  unfold execPowerFailWarning
  dsimp only
  split
  · exact h
  · exact State.Canon.trimsDurable h

theorem execPowerFailClear_canon (h : s.Canon) : (execPowerFailClear s).Canon := by
  unfold execPowerFailClear
  dsimp only
  split
  · exact h
  · exact State.Canon.updated (State.Canon.foldl h (fun _ _ ht => State.Canon.moveFails ht))

theorem State.Canon.workEnded {cls inst : Nat} {x : EngCmd} {fail : Bool} {remote : List (Nat × List Byte)} (h : s.Canon) :
    (s.workEnded cls inst x fail remote).Canon := by
  unfold State.workEnded
  dsimp only
  split
  · split
    · exact State.Canon.ite (State.Canon.countReg (State.Canon.countReg (State.Canon.draw h))) h
    · exact State.Canon.enqueue (State.Canon.ite (State.Canon.countReg (State.Canon.countReg (State.Canon.draw h))) h)
  · exact h.moveSliceEnded
  · exact h.pumpEnded
  · exact h.searchEnded
  · exact h.bagEnded
  · exact h.applyEnded
  · exact h.collJoined
  · exact h
  · exact h
  · exact h
  · exact h
  · exact h.egress.ite h

theorem execStripeClose_canon {stream die : Nat} (h : s.Canon) : (execStripeClose stream die s).Canon := by
  unfold execStripeClose
  refine h.ifUp ?_
  split
  · exact h
  · split
    · exact h.stripeClosed.looks
    · exact h

theorem execStripePadTimer_canon {stream die : Nat} (h : s.Canon) : (execStripePadTimer stream die s).Canon := by
  unfold execStripePadTimer
  refine h.ifUp ?_
  split
  · exact h
  · split
    · exact h.stripeClosed.looks
    · exact h

theorem execEngineCommandEnd_canon {cls inst cyc : Nat} {fail : Bool} {remote : List (Nat × List Byte)} (h : s.Canon) :
    (execEngineCommandEnd cls inst cyc fail remote s).Canon := by
  unfold execEngineCommandEnd
  refine h.ifReady ?_
  split
  next => exact h
  next x t e =>
    have ht : t.Canon := OptCanon.of_eq (f := (·.2)) e h.ended
    exact ht.workEnded.dispatch.looks

end

end Sys2Proof.Machine
end

section
/-!
SUPPORT. The host interface, security, resets, power and the error unit keep the byte memories canonical.
-/
namespace Sys2Proof.Machine

open Sys2Proof

/-! ## The host window and held accesses (R227, R228, R495) -/

section
variable {s : State}

theorem State.Canon.badAccess {fn : Nat} (h : s.Canon) : (s.badAccess fn).Canon := h

theorem State.Canon.windowRead {fn a len : Nat} (h : s.Canon) : (s.windowRead fn a len).2.2.Canon :=
  List.foldlRecOn (motive := fun r : List Byte × Bool × State => r.2.2.Canon) _ _ h fun _ hr _ _ => State.Canon.ite_snd_snd hr hr

theorem State.Canon.windowWrite {fn : Nat} {ps : List (Nat × Nat)} {bs : List Byte} {bad : Bool} (h : s.Canon) :
    ExcCanon (·.2) (State.windowWrite fn ps bs bad s) := by
  induction ps generalizing s bs bad with
  | nil => exact h
  | cons p ps ih =>
    unfold State.windowWrite
    dsimp only
    split
    · exact ih h
    · split
      · trivial
      · refine ih ?_
        split
        · exact State.Canon.spoil (State.Canon.wrHbm h)
        · exact State.Canon.wrHbm h

theorem State.Canon.answerRead {fn a n : Nat} (h : s.Canon) : (s.answerRead fn a n).Canon := by
  unfold State.answerRead
  dsimp only
  exact State.Canon.updated (State.Canon.ite h.windowRead.badAccess h.windowRead)

theorem Seq.heldWrites_wf {q : Seq} {k : Nat} {m : List Host.Cell} (h : Memory.wf (some 0) m = true) :
    Memory.wf (some 0) (q.heldWrites k m) = true :=
  List.foldlRecOn (motive := fun m => Memory.wf (some 0) m = true) _ _ h fun _ hm _ _ => Memory.write_wf hm

/-- Copies that land differ from those under way in no store. -/
theorem State.Canon.copyReads {q : Seq} (h : s.Canon) : (s.copyReads q).Canon := by
  refine ⟨h.hbm, h.host, fun e he => ?_, h.groups⟩
  obtain ⟨x, hx, rfl⟩ := List.mem_map.mp he
  exact h.cores x hx

theorem State.Canon.segmentOver {n : Nat} (h : s.Canon) : (s.segmentOver n).Canon := by
  unfold State.segmentOver
  extract_lets q t open_ base due u w
  have hu : u.Canon := by
    refine State.Canon.foldl h fun t r ht => ?_
    have hv : ({ t with hbm := q.heldWrites r.2.2.2 base } : State).Canon := ht.withHbm (Seq.heldWrites_wf h.hbm)
    have hu := (hv.answerRead (fn := r.1) (a := r.2.1) (n := r.2.2.1)).withHbm h.hbm
    exact hu
  have hw : w.Canon := State.Canon.copyReads hu
  exact hw.withHbm (Seq.heldWrites_wf hw.hbm)

theorem execHostWindowAccess_canon {fn off len : Nat} {write : Option (List Byte)} (h : s.Canon) :
    (execHostWindowAccess fn off len write s).Canon := by
  unfold execHostWindowAccess
  refine h.ifUp ?_
  extract_lets -lift size n count
  split
  · split
    · split
      next => trivial
      next bad t e =>
        have ht : t.Canon := ExcCanon.of_eq (f := (·.2)) e h.windowWrite
        exact ht.badAccess.ite ht
    · split
      · exact h.answerRead
      · exact State.Canon.updated h.countHeld
  · split
    · split
      · exact h.badAccess
      · exact h
    · exact h

theorem execSegmentEnd_canon {n : Nat} (h : s.Canon) : (execSegmentEnd n s).Canon := by
  unfold execSegmentEnd
  refine h.ifReady ?_
  dsimp only
  split
  · exact h
  · exact h.segmentOver.setSeq

end

/-! ## Firmware and keys (R423 to R441) -/

section
variable {s : State}

theorem State.Canon.breakImage (h : s.Canon) : s.breakImage.Canon := by
  unfold State.breakImage
  dsimp only
  split <;> exact h

theorem execFwUpdate_canon {job well : Nat} {d : Desc} (h : s.Canon) : (execFwUpdate job well d s).Canon := by
  unfold execFwUpdate
  refine h.takeUp (fun _ _ ht => ?_)
  dsimp only
  split
  · exact ht.complete
  · split
    · exact ht.complete
    · split
      · exact ht.complete
      · split
        · exact ht.complete
        · split
          · exact State.Canon.complete ht
          · split
            · split
              · exact ht
              · exact ht.complete
            · split
              · exact ht
              · exact ht.complete

theorem execCommit_canon (h : s.Canon) : (execCommit s).Canon := by
  unfold execCommit
  dsimp only
  split <;> exact h

theorem execRecWrite_canon {v : W64} {chunk : List Byte} {spiError : Bool} (h : s.Canon) : (execRecWrite v chunk spiError s).Canon := by
  unfold execRecWrite
  dsimp only
  split
  · exact h
  · split
    · trivial
    · split <;> exact h

theorem execAttest_canon {job well : Nat} {d : Desc} (h : s.Canon) : (execAttest job well d s).Canon := by
  unfold execAttest
  refine h.takeUp (fun _ _ ht => ?_)
  dsimp only
  split
  · exact ht.complete
  · split
    · exact ht.complete
    · split
      · exact State.Canon.complete ht
      · exact State.Canon.complete (State.Canon.modJob (State.Canon.wr ht))

theorem execInstallKeys_canon {job well : Nat} {d : Desc} (h : s.Canon) : (execInstallKeys job well d s).Canon := by
  unfold execInstallKeys
  refine h.takeUp (fun _ _ ht => ?_)
  dsimp only
  split
  · exact ht.complete
  · split
    · exact ht.complete
    · repeat' split
      all_goals exact State.Canon.complete ht

theorem execJtagInstruction_canon {ir : Nat} {trace : Bool} (h : s.Canon) : (execJtagInstruction ir trace s).Canon := by
  unfold execJtagInstruction
  dsimp only
  repeat' split
  all_goals exact h

end

/-! ## The end of a job's work (R509, R461) -/

section
variable {s : State}

theorem State.Canon.fin {code : Option Nat} {c : DescCtx} (h : s.Canon) : (s.fin code c).Canon := by
  unfold State.fin
  split
  · exact h
  · exact h.complete

theorem State.Canon.fin? {code : Option Nat} {c : Option DescCtx} (h : s.Canon) : (s.fin? code c).Canon := by
  unfold State.fin?
  split
  · exact h
  · exact h.fin

theorem State.Canon.undoMove {i : Nat} {code : Option Nat} (h : s.Canon) : (s.undoMove i code).Canon := by
  unfold State.undoMove
  dsimp only
  split
  · exact h
  · refine State.Canon.settle (State.Canon.fin? (State.Canon.modAux ?_))
    split
    · exact State.Canon.setSess (State.Canon.ite h (State.Canon.freeDest h))
    · exact State.Canon.ite h (State.Canon.freeDest h)

theorem State.Canon.endCkpts {mine : Nat → Bool} {code : Option Nat} (h : s.Canon) : (s.endCkpts mine code).Canon := by
  unfold State.endCkpts
  refine h.foldl (fun _ _ ht => ?_)
  dsimp only
  split
  · exact ht
  · refine State.Canon.foldl (State.Canon.modJob ?_) (fun _ _ hu => State.Canon.fin
      (State.Canon.foldl (hu.foldl (fun _ _ hv => hv.flashFree)) (fun _ _ hw => hw.foldl (fun _ _ hx => hx.areaFree))))
    split
    · exact ht
    · refine State.Canon.fin ?_
      split
      · exact ht.ckptDrop.modJob
      · exact ht.ckptDrop.modJob.ckptStat

theorem State.Canon.endProgs {mine : Nat → Bool} {code : Option Nat} (h : s.Canon) : (s.endProgs mine code).Canon := by
  unfold State.endProgs
  refine h.foldl (fun _ _ ht => ?_)
  dsimp only
  split
  · exact ht
  · exact State.Canon.fin (State.Canon.updated (ht.foldl (fun _ _ hu => State.Canon.ite
      (hu.setJobCore (fun _ => Core.Canon.updated hu.jobCore.rollback)) hu)))

theorem State.Canon.endObjects {mine : Nat → Bool} {code : Option Nat} (h : s.Canon) : (s.endObjects mine code).Canon := by
  unfold State.endObjects
  refine State.Canon.foldl (State.Canon.foldl (h.foldl (fun _ _ ht => ht.searchOver.fin.ite ht)) (fun _ _ hu => hu.lookupFree.fin.ite hu))
    (fun _ _ hv => ?_)
  dsimp only
  split
  · exact hv
  · exact State.Canon.foldl (hv.foldl (fun _ _ hw => hw.setTable.trimTable.reapTable.foldl (fun _ _ hx => hx.fin)))
      (fun _ _ hy => hy.setIndex.reapIndex.foldl (fun _ _ hz => hz.fin))

theorem State.Canon.endReqs {mine : Nat → Bool} {code : Option Nat} {lost : List Nat} (h : s.Canon) : (s.endReqs mine code lost).Canon := by
  refine State.Canon.foldl h fun t e ht => ?_
  extract_lets r
  split
  · exact ht
  next a _ =>
    split
    · exact ht
    · extract_lets id
      split
      · exact ht.dropReq
      · extract_lets status u
        have hp (b : ReqAux) : ((t.putChunk e.1 b [] true status).getD t).Canon := by
          cases hq : t.putChunk e.1 b [] true status with
          | none => exact ht
          | some v => exact OptCanon.of_eq (f := fun t => t) hq ht.putChunk
        have hu : u.Canon := ht.ite (hp _)
        exact hu.dropReq.complete

theorem State.Canon.endWork {mine : Nat → Bool} {code : Option Nat} {lost : List Nat} (h : s.Canon) : (s.endWork mine code lost).Canon := by
  unfold State.endWork
  dsimp only
  split
  · exact State.Canon.updated (State.Canon.foldl (State.Canon.endObjects
      (State.Canon.endProgs (State.Canon.foldl (State.Canon.foldl (State.Canon.endReqs (h.endCkpts.foldl (fun _ _ ht => State.Canon.fin ht)))
        (fun _ _ hu => hu.undoMove.ite hu)) (fun _ _ hv => hv.ite hv.endSession)))) (fun _ _ hw => State.Canon.ite (State.Canon.fin? hw) hw))
  · split
    · exact State.Canon.updated (State.Canon.fin (State.Canon.breakImage
        (State.Canon.foldl (State.Canon.endObjects (State.Canon.endProgs
          (State.Canon.foldl (State.Canon.foldl (State.Canon.endReqs (h.endCkpts.foldl (fun _ _ hx => State.Canon.fin hx)))
            (fun _ _ hy => hy.undoMove.ite hy)) (fun _ _ hz => hz.ite hz.endSession)))) (fun _ _ ha => State.Canon.ite (State.Canon.fin? ha) ha))))
    · exact State.Canon.updated (State.Canon.foldl (State.Canon.endObjects
        (State.Canon.endProgs (State.Canon.foldl (State.Canon.foldl (State.Canon.endReqs (h.endCkpts.foldl (fun _ _ hb => State.Canon.fin hb)))
          (fun _ _ hc => hc.undoMove.ite hc)) (fun _ _ hd => hd.ite hd.endSession)))) (fun _ _ hf => State.Canon.ite (State.Canon.fin? hf) hf))

end

/-! ## Resets (R457 to R468) -/

section
variable {s : State}

theorem State.Canon.flashClose (h : s.Canon) : s.flashClose.Canon :=
  h.ite (State.Canon.trimsDurable h)

theorem State.Canon.dumpCut (h : s.Canon) : s.dumpCut.Canon :=
  h.writeDump.ite h

theorem State.Canon.acceptDeep {close : Bool} (h : s.Canon) : (s.acceptDeep close).Canon :=
  State.Canon.updated (State.Canon.breakImage (h.flashClose.ite h))

theorem State.Canon.accept {lvl : Nat} {bits : W64} {close pin : Bool} (h : s.Canon) : (s.accept lvl bits close pin).Canon :=
  State.Canon.updated (h.dumpCut.ite h.dumpCut.acceptDeep)

theorem State.Canon.raise {src : Nat} (h : s.Canon) : (s.raise src).Canon := by
  unfold State.raise
  dsimp only
  split
  · exact h
  · split
    · exact State.Canon.ite (State.Canon.updated h.acceptDeep) h
    · exact h.accept.ite (State.Canon.ite h h)

theorem State.Canon.drainT0 {all : Bool} (h : s.Canon) : (s.drainT0 all).Canon := by
  refine State.Canon.foldl h fun t e ht => ?_
  dsimp only
  split
  · exact ht
  · split
    · exact ht
    · exact State.Canon.modSess (State.Canon.relocate (s := t.draw.2) ht)

theorem execCoreResetAccept_canon (h : s.Canon) : (execCoreResetAccept s).Canon := by
  unfold execCoreResetAccept
  dsimp only
  split
  · exact h
  · split
    · exact h
    · exact h.drainT0.accept

theorem State.Canon.refuseInbound (h : s.Canon) : s.refuseInbound.Canon :=
  h.foldl (fun _ _ ht => ht.refuseXfer.ite ht)

theorem State.Canon.rebuildSessions (h : s.Canon) : s.rebuildSessions.Canon :=
  State.Canon.updated (h.foldl (fun _ _ ht => ht.flashFree.ite ht))

theorem State.Canon.bootFirmware (h : s.Canon) : s.bootFirmware.Canon :=
  State.Canon.ite h h

theorem State.Canon.rstReq {fn : Nat} {v : W64} {src : Nat} (h : s.Canon) : (s.rstReq fn v src).Canon := by
  unfold State.rstReq
  split
  · exact h
  · split
    · trivial
    · exact h.raise

theorem execResetReqCore_canon {fn : Nat} {v : W64} (h : s.Canon) : (execResetReqCore fn v s).Canon :=
  h.rstReq

theorem execResetReqSystem_canon {fn : Nat} {v : W64} (h : s.Canon) : (execResetReqSystem fn v s).Canon :=
  h.rstReq

theorem execFuseBurn_canon {v : W64} (h : s.Canon) : (execFuseBurn v s).Canon := by
  unfold execFuseBurn
  dsimp only
  split
  · exact h
  · split
    · trivial
    · split <;> exact h

theorem execBlockOffline_canon {kind index : Nat} {on : Bool} (h : s.Canon) : (execBlockOffline kind index on s).Canon := by
  unfold execBlockOffline
  dsimp only
  split
  · exact h
  · split
    · exact h
    · split
      · exact State.Canon.ite (State.Canon.dispatch h) h
      · split
        · exact h
        · split
          · exact h
          · split
            · exact h
            · exact State.Canon.dispatch h

theorem State.Canon.clearSeq {n : Nat} (h : s.Canon) : (s.clearSeq n).Canon := State.Canon.setSeq h.segmentOver

theorem State.Canon.coreReset (h : s.Canon) : s.coreReset.Canon := by
  unfold State.coreReset
  extract_lets lost t u v w x
  have hu : u.Canon := State.Canon.foldl (s := t) h fun _ _ ht => ht.clearSeq
  have hw : w.Canon := State.Canon.foldl (hu.endWork (mine := fun _ => true)) fun _ _ ht => ht.ite ht.sessEvent.endSession
  have hx : x.Canon := hw.refuseInbound
  refine ⟨hx.hbm, hx.host, by simp, fun e he => ?_⟩
  obtain ⟨g, -, rfl⟩ := List.mem_map.mp he
  simp [Group.Canon]

/-- A reset state has no bytes but the host's. -/
theorem State.Canon.blank {lvl : Nat} (h : s.Canon) : (s.blank lvl).Canon := ⟨rfl, h.host, by simp [State.blank], by simp [State.blank]⟩

theorem State.Canon.keepDump {t : State} (h : s.Canon) (ht : t.Canon) : (s.keepDump t).Canon :=
  State.Canon.ite (State.Canon.setReg (ht.withHbm (Memory.filter_wf h.hbm))) (ht.withHbm (Memory.filter_wf h.hbm))

theorem State.Canon.bringUp {lvl : Nat} (h : s.Canon) : (s.bringUp lvl).Canon := by
  unfold State.bringUp
  dsimp -zeta only [State.draw_eq]
  extract_lets -lift a sec t r u v fabric w
  have ht : t.Canon := State.Canon.bootFirmware h
  have hr : r.Canon := ht.setReg
  have hu : u.Canon := ht.ite hr.countReg.rebuildSessions
  have hv : v.Canon := State.Canon.ite (State.Canon.foldl hu fun _ _ ht => ht) hu
  have hw : w.Canon := hv.ite hv
  exact State.Canon.assignIdents hw.announce

theorem State.Canon.deepReset {lvl : Nat} (h : s.Canon) : (s.deepReset lvl).Canon := by
  unfold State.deepReset
  dsimp -zeta only [State.draw_eq]
  extract_lets t u sec v
  have hu : u.Canon := State.Canon.ite (h.keepDump h.blank) h.blank
  have hv : v.Canon := hu
  split
  · exact hv.bringUp
  · exact hv

theorem execResetRelease_canon (h : s.Canon) : (execResetRelease s).Canon := by
  unfold execResetRelease
  dsimp only
  split
  · exact h
  · split
    · exact h
    · split
      · exact h.coreReset
      · exact h.deepReset

theorem execBlockReset_canon {kind index : Nat} (h : s.Canon) : (execBlockReset kind index s).Canon := by
  unfold execBlockReset
  split
  · exact h
  · split
    · exact h
    · split
      · exact h.groupOff
      · split
        · exact h.clearSeq
        · split
          · exact h.placeLane
          · exact h

theorem execFinish_canon (h : s.Canon) : (execFinish s).Canon := by
  unfold execFinish
  refine Res.Canon.ite h ?_
  extract_lets e
  clear_value e
  exact Res.Canon.ite (State.Canon.accept (State.Canon.updated h)) (State.Canon.updated h)

end

/-! ## Power states (R443 to R456) -/

section
variable {s : State}

theorem execPowerApply_canon (h : s.Canon) : (execPowerApply s).Canon := by
  unfold execPowerApply
  dsimp only
  split <;> exact h

theorem execPcieLinkRetrain_canon {gen width : Nat} (h : s.Canon) : (execPcieLinkRetrain gen width s).Canon := by
  unfold execPcieLinkRetrain
  dsimp only
  split <;> exact h

theorem execClkLocalReadLow_canon (h : s.Canon) : (execClkLocalReadLow s).Canon := by
  unfold execClkLocalReadLow
  dsimp only
  split <;> exact h

theorem State.Canon.sideband {bs : List Byte} (h : s.Canon) : (s.sideband bs).Canon := by
  unfold State.sideband
  split <;> exact h

theorem execGetIdent_canon (h : s.Canon) : (execGetIdent s).Canon :=
  h.sideband

theorem execGetTelemetry_canon {sensors : List Nat} (h : s.Canon) : (execGetTelemetry sensors s).Canon :=
  h.sideband

theorem execSetCap_canon {watts : Nat} (h : s.Canon) : (execSetCap watts s).Canon := by
  unfold execSetCap
  dsimp only
  split <;> exact h

theorem execGetCause_canon (h : s.Canon) : (execGetCause s).Canon :=
  h.sideband

theorem execMctpControlMessage_canon {msg : List Byte} (h : s.Canon) : (execMctpControlMessage msg s).Canon :=
  h.sideband

theorem State.Canon.toStandby (h : s.Canon) : s.toStandby.Canon :=
  State.Canon.updated h.breakImage.blank

theorem State.Canon.enterStandby (h : s.Canon) : s.enterStandby.Canon :=
  h.ite h.flashClose.toStandby

theorem execPwrStandbyEnter_canon (h : s.Canon) : (execPwrStandbyEnter s).Canon :=
  h.enterStandby.ite h

theorem execStandby_canon (h : s.Canon) : (execStandby s).Canon :=
  h.enterStandby

theorem State.Canon.trip (h : s.Canon) : s.trip.Canon :=
  h.ite (State.Canon.updated h.toStandby)

theorem execThermalTrip_canon (h : s.Canon) : (execThermalTrip s).Canon :=
  h.trip

theorem State.Canon.leaveStandby (h : s.Canon) : s.leaveStandby.Canon :=
  State.Canon.accept h

theorem execWake_canon {sensors : List Nat} (h : s.Canon) : (execWake sensors s).Canon := by
  unfold execWake
  split
  · exact h
  · exact h.leaveStandby

theorem State.Canon.toOff (h : s.Canon) : s.toOff.Canon :=
  State.Canon.updated h.breakImage.blank

theorem execPowerLoss_canon (h : s.Canon) : (execPowerLoss s).Canon :=
  h.ite h.toOff

theorem execOverVoltage_canon (h : s.Canon) : (execOverVoltage s).Canon :=
  h.ite h.toOff

theorem execResetInFall_canon (h : s.Canon) : (execResetInFall s).Canon := by
  unfold execResetInFall
  dsimp only
  split
  · exact h
  · split
    · exact State.Canon.ite h (State.Canon.leaveStandby h)
    · exact State.Canon.raise h

theorem execOsc25mLoss_canon {present : Bool} (h : s.Canon) : (execOsc25mLoss present s).Canon := by
  unfold execOsc25mLoss
  dsimp only
  split
  · exact h
  · split
    · exact h
    · split
      · exact State.Canon.updated (State.Canon.ite (State.Canon.acceptDeep h) h)
      · exact State.Canon.accept h

theorem execPowerEval_canon {watts millivolts10 milliamps10 tC0 tC1 tH tHbm : Nat} (h : s.Canon) :
    (execPowerEval watts millivolts10 milliamps10 tC0 tC1 tH tHbm s).Canon := by
  unfold execPowerEval
  refine Res.Canon.ite h ?_
  extract_lets -lift input temps power p
  refine Res.Canon.ite (State.Canon.trip h.updated) (Res.Canon.ite h.updated ?_)
  exact State.Canon.updated h

theorem execResetInRise_canon (h : s.Canon) : (execResetInRise s).Canon := h

end

/-! ## Errors (R469 to R483) -/

section
variable {s : State}

theorem State.Canon.takeOut {k : UnitKind} {u : Nat} (h : s.Canon) : (s.takeOut k u).Canon := by
  unfold State.takeOut
  dsimp only
  split
  · exact h
  · split
    · exact h
    · exact State.Canon.foldl h (fun _ _ ht => ht.relocateAll)
    · exact State.Canon.assignIdents (State.Canon.portDown h)
    · exact State.Canon.dieFail h

theorem State.Canon.threshold (h : s.Canon) : s.threshold.Canon :=
  h.foldl (fun _ _ ht => ht.takeOut.ite ht)

theorem State.Canon.endBound {j kind h : Nat} (hs : s.Canon) : (s.endBound j kind h).Canon :=
  State.Canon.foldl (hs.foldl (fun _ _ ht => ht.searchOver.complete.ite ht)) (fun _ _ hu => hu.lookupFree.complete.ite hu)

theorem State.Canon.ownerAct {o : Owner} (h : s.Canon) : (s.ownerAct o).Canon := by
  unfold State.ownerAct
  dsimp only
  split
  · exact h.foldl (fun _ _ ht => ht.discardEnd)
  · exact h.ite (State.Canon.moveFails (State.Canon.foldl h (fun _ _ hu => hu.endReq)))
  · split
    · exact h
    · exact State.Canon.ite (State.Canon.endSession h) (State.Canon.foldl h (fun _ _ hv => hv.endReq))
  · exact State.Canon.foldl h (fun _ _ hw => hw.discardEnd)
  · exact State.Canon.foldl h (fun _ _ hx => hx.discardEnd)
  · exact State.Canon.event (State.Canon.endBound (State.Canon.foldl h (fun _ _ hy => hy.discardEnd)))
  · exact State.Canon.event (State.Canon.foldl (h.foldl (fun _ _ hz => hz.discardEnd)) (fun _ _ ha => ha.stopProg.endProg.ite ha))
  · exact h.stopProg.endProg
  · exact h.searchEnded
  · exact h
  · exact h
  · exact h

theorem execErrWellTailWrite_canon {fn : Nat} {v : W32} (h : s.Canon) : (execErrWellTailWrite fn v s).Canon := by
  unfold execErrWellTailWrite
  dsimp only
  repeat' split
  all_goals exact h

theorem execOverflowClear_canon {fn : Nat} (h : s.Canon) : (execOverflowClear fn s).Canon := by
  unfold execOverflowClear
  dsimp only
  repeat' split
  all_goals exact h

theorem execRelease_canon (h : s.Canon) : (execRelease s).Canon := by
  unfold execRelease
  dsimp only
  split <;> exact h

theorem execUnitOut_canon {kind : UnitKind} {unit : Nat} (h : s.Canon) : (execUnitOut kind unit s).Canon := by
  unfold execUnitOut
  dsimp only
  split
  · exact h
  · split
    · exact h
    · exact h.takeOut

theorem execUnitReturn_canon {kind : UnitKind} {unit : Nat} (h : s.Canon) : (execUnitReturn kind unit s).Canon := by
  unfold execUnitReturn
  dsimp only
  repeat' split
  all_goals exact h

theorem State.Canon.fatalError {r : ErrRec} (h : s.Canon) : (s.fatalError r).Canon := by
  unfold State.fatalError
  dsimp only
  split
  · exact h.raise
  · split
    · exact h.writeDump.raise
    · split
      · exact State.Canon.raise (State.Canon.updated (State.Canon.flashClose h))
      · exact State.Canon.updated (State.Canon.flashClose h)

theorem execDumpComplete_canon {fwOk : Bool} (h : s.Canon) : (execDumpComplete fwOk s).Canon := by
  unfold execDumpComplete
  split
  · exact h
  · exact h.writeDump.raise

theorem execDumpAbandon_canon (h : s.Canon) : (execDumpAbandon s).Canon := by
  unfold execDumpAbandon
  split
  · exact h
  · exact h.writeDump.raise

theorem State.Canon.errDone (h : s.Canon) : s.errDone.Canon := h

theorem State.Canon.handleErr {e : ErrInfo} {time cls : Nat} {esc queued : Bool} (h : s.Canon) : (s.handleErr e time cls esc queued).Canon := by
  unfold State.handleErr
  split
  next owner t eq =>
    have ht : t.Canon := by
      refine State.Canon.of_eq (f := (·.2)) eq ?_
      split
      · exact State.Canon.ite_snd h h
      · exact h
    dsimp -zeta only
    extract_lets hit ids models heard r u x errs v w y z
    have hu : u.Canon := State.Canon.ite ht.logErr.errSignal ht.logErr
    have hv : v.Canon := hu.updated
    have hw : w.Canon := hv.noteCorrected.threshold.ite hv.ownerAct
    have hy : y.Canon := hw.takeOut.ite hw
    have hz : z.Canon := by
      refine State.Canon.ite ?_ hy
      split
      · exact hy.takeOut
      · exact hy
    exact State.Canon.errDone (hz.fatalError.ite hz)

theorem State.Canon.testLeaves {kind : UnitKind} {unit : Nat} (h : s.Canon) : (s.testLeaves kind unit).Canon := by
  unfold State.testLeaves
  split
  · exact h.groupOff
  · exact h.withHbm (Memory.filter_wf h.hbm)
  · exact h

theorem State.Canon.nextErr (h : s.Canon) : s.nextErr.Canon := by
  unfold State.nextErr
  dsimp only
  split
  · exact State.Canon.handleErr (State.Canon.updated h.errDone.threshold)
  · exact h.errDone.threshold

theorem execErrorQueued_canon (h : s.Canon) : (execErrorQueued s).Canon :=
  h.nextErr

theorem execErrorDetected_canon {e : ErrInfo} (h : s.Canon) : (execErrorDetected e s).Canon := by
  unfold execErrorDetected
  dsimp only
  split
  · exact h
  · split
    · exact h.mergeErr.noteCorrected.threshold
    · split
      · exact State.Canon.handleErr (h.errDone.foldl (fun _ _ ht => ht.nextErr))
      · split
        · exact State.Canon.handleErr (h.errDone.foldl (fun _ _ hu => hu.nextErr))
        · split
          · exact State.Canon.handleErr (h.errDone.foldl (fun _ _ hv => hv.nextErr))
          · exact State.Canon.updated (h.errDone.foldl (fun _ _ hw => hw.nextErr))

theorem execSelfTestDone_canon {kind : UnitKind} {unit : Nat} {pass : Bool} (h : s.Canon) : (execSelfTestDone kind unit pass s).Canon := by
  unfold execSelfTestDone
  dsimp only
  split
  · split
    · split
      · split
        · exact State.Canon.setPort (State.Canon.updated h.testLeaves)
        · exact State.Canon.assignIdents (State.Canon.announce (State.Canon.setPort (State.Canon.updated h.testLeaves)))
      · exact State.Canon.updated h.testLeaves
      · exact State.Canon.updated h.testLeaves
    · split
      · exact State.Canon.portDown (State.Canon.logErr (State.Canon.updated h.testLeaves))
      · exact State.Canon.logErr (State.Canon.updated h.testLeaves)
  · exact h

end

/-! ## Wells, functions and registers (R490 to R513) -/

section
variable {s : State}

theorem execBadKind_canon {job well : Nat} {d : Desc} (h : s.Canon) : (execBadKind job well d s).Canon :=
  h.takeUp (fun _ _ ht => ht.complete)

theorem execDoorbell_canon {job well : Nat} {tail : W32} {unreadable : Bool} (h : s.Canon) : (execDoorbell job well tail unreadable s).Canon := by
  unfold execDoorbell
  refine h.ifUp ?_
  dsimp only
  split
  · exact h
  · split
    · exact State.Canon.spoilIf h
    · refine State.Canon.post ?_
      split
      · exact State.Canon.modJob (State.Canon.spoilIf h)
      · exact State.Canon.dmaFailed (State.Canon.modJob (State.Canon.spoilIf h))

theorem State.Canon.wellProceeds {j w : Nat} (h : s.Canon) : (s.wellProceeds j w).Canon :=
  h.drain.retryEnds

theorem State.Canon.cwCfg {j w : Nat} {v : W64} (h : s.Canon) : (s.cwCfg j w v).Canon := by
  unfold State.cwCfg
  dsimp only
  split
  · exact h.ite (State.Canon.ite h h)
  · exact State.Canon.ite h (State.Canon.ite (State.Canon.wellProceeds h) h)

theorem State.Canon.swCfg {j w : Nat} {v : W64} (h : s.Canon) : (s.swCfg j w v).Canon :=
  State.Canon.ite (h.ite h) (State.Canon.ite h (State.Canon.ite h h))

theorem execWellCfgWrite_canon {job well : Nat} {completion : Bool} {v : W64} (h : s.Canon) : (execWellCfgWrite job well completion v s).Canon := by
  unfold execWellCfgWrite
  refine h.ifUp ?_
  split
  · split
    · trivial
    · exact h.cwCfg
  · split
    · trivial
    · exact h.swCfg

theorem execCwHeadWrite_canon {job well : Nat} {v : W32} (h : s.Canon) : (execCwHeadWrite job well v s).Canon := by
  unfold execCwHeadWrite
  refine h.ifUp ?_
  dsimp only
  split
  · exact h
  · exact State.Canon.wellProceeds h

theorem execCoalesceTimer_canon {job well : Nat} (h : s.Canon) : (execCoalesceTimer job well s).Canon := by
  unfold execCoalesceTimer
  refine h.ifUp ?_
  dsimp only
  split <;> exact h

theorem execHciVerGo_canon {fn : Nat} {v : W64} (h : s.Canon) : (execHciVerGo fn v s).Canon := by
  unfold execHciVerGo
  refine h.ifUp ?_
  dsimp only
  split
  · trivial
  · repeat' split
    all_goals exact h

theorem State.Canon.pageWrite {j o : Nat} {w : RegWrite} (h : s.Canon) : (s.pageWrite j o w).Canon := by
  unfold State.pageWrite
  dsimp only
  split
  · split
    · split <;> exact h
    · exact execWellCfgWrite_canon h
    · exact execDoorbell_canon h
    · exact h
    · exact h
  · split
    · split
      · split <;> exact h
      · exact execWellCfgWrite_canon h
      · exact execCwHeadWrite_canon h
      · exact h
      · exact h
    · split
      · exact execTokRingConsWrite_canon h
      · exact h

theorem State.Canon.jobCtlWrite {j : Nat} {w : RegWrite} (h : s.Canon) : (s.jobCtlWrite j w).Canon := by
  unfold State.jobCtlWrite
  split
  · exact execCreate_canon h
  · exact execDestroy_canon h
  · exact execRecompose_canon h
  · exact h.ite h
  · exact h

theorem State.Canon.ckpWrite {o : Nat} {w : RegWrite} (h : s.Canon) : (s.ckpWrite o w).Canon := by
  unfold State.ckpWrite
  dsimp only
  split
  · split
    · exact execResume_canon h
    · exact h
  · exact h

theorem State.Canon.vfeWrite {fn o : Nat} {w : RegWrite} (h : s.Canon) : (s.vfeWrite fn o w).Canon := by
  unfold State.vfeWrite
  dsimp only
  split
  · exact execErrWellTailWrite_canon h
  · exact h
  · split
    · exact execOverflowClear_canon h
    · exact h
  · exact h

theorem checked_canon {r : RegView} {off size : Nat} {v : W64} {f : RegWrite → Res} (hf : ∀ (a : RegWrite), (f a).Canon) :
    (checked r off size v f).Canon := by
  unfold checked
  dsimp only
  split
  · trivial
  · exact hf _

theorem execCompletionWriteFail_canon {job well : Nat} (h : s.Canon) : (execCompletionWriteFail job well s).Canon := by
  unfold execCompletionWriteFail
  refine h.ifUp (Res.Canon.ite h ?_)
  exact h.withMemories h.hbm (Memory.filter_wf h.host)

theorem State.Canon.flr {fn : Nat} (h : s.Canon) : (s.flr fn).Canon := by
  unfold State.flr
  extract_lets mine each t clear u
  have he {f : Job → Job} {t : State} (ht : t.Canon) : (each f t).Canon := ht
  have ht : t.Canon := he (State.Canon.endWork (he h))
  have hu : u.Canon := State.Canon.ite ht.updated ht.modFunc
  exact hu.startProgs

theorem State.Canon.setPlain {off : Nat} {x : W64} (h : s.Canon) : (s.setPlain off x).Canon := h

theorem State.Canon.areaHost {n off size : Nat} {v : W64} (h : s.Canon) : (s.areaHost n off size v).Canon := by
  unfold State.areaHost
  split
  · exact h
  · split
    next => trivial
    next t e =>
      have ht : t.Canon := OptCanon.of_eq (f := fun t => t) e h.areaWrite
      exact ht

theorem execFlr_canon {fn : Nat} (h : s.Canon) : (execFlr fn s).Canon :=
  h.ifUp h.flr

theorem execD3hotEntry_canon {fn : Nat} (h : s.Canon) : (execD3hotEntry fn s).Canon :=
  h.ifUp h.flr

theorem State.Canon.hciWrite {fn o : Nat} {w : RegWrite} (h : s.Canon) : (s.hciWrite fn o w).Canon := by
  unfold State.hciWrite
  split
  · exact execHciVerGo_canon h
  · exact h
  · exact h
  · split
    · exact execResetReqSystem_canon h
    · split
      · exact execResetReqCore_canon h
      · exact h
  · exact h

theorem State.Canon.rstWrite {o : Nat} {w : RegWrite} (h : s.Canon) : (s.rstWrite o w).Canon := by
  unfold State.rstWrite
  dsimp only
  split
  · exact h
  · exact execFuseBurn_canon h
  · split
    · exact h
    · refine Res.Canon.andThen (execBlockOffline_canon h) (fun _ ht => ?_)
      split
      · exact execBlockReset_canon ht
      · exact ht
  · exact h
  · exact h

theorem State.Canon.pwrWrite {o : Nat} {w : RegWrite} (h : s.Canon) : (s.pwrWrite o w).Canon := by
  unfold State.pwrWrite
  dsimp only
  split
  · exact h.setPlain
  · exact h
  · split
    · exact execPwrStandbyEnter_canon h
    · exact h
  · split
    · exact execPwrGroupCtlWrite_canon h
    · exact h.setGroup (fun _ => h.group)
    · exact h

theorem State.Canon.errWrite {o : Nat} {w : RegWrite} (h : s.Canon) : (s.errWrite o w).Canon := by
  unfold State.errWrite
  dsimp only
  split
  · exact execErrWellTailWrite_canon h
  · split
    · exact execOverflowClear_canon h
    · exact h
  · exact h.setPlain
  · exact h.setPlain
  · split
    · exact execRelease_canon h
    · exact h
  · exact h
  · refine Res.Canon.andThen ?_ (fun _ ht => ?_)
    · split
      · exact execUnitOut_canon h
      · exact h
    · split
      · exact execUnitReturn_canon ht
      · exact ht
  · exact h
  · exact h

theorem State.Canon.secWrite {o : Nat} {w : RegWrite} (h : s.Canon) : (s.secWrite o w).Canon := by
  unfold State.secWrite
  dsimp only
  split
  · split
    · exact execCommit_canon h
    · exact h
  · split
    · exact h
    · split
      · refine Res.Canon.andThen ?_ (fun _ ht => ?_)
        · split
          · exact execRecWrite_canon h
          · exact h
        · split
          · exact execFinish_canon ht
          · exact ht
      · exact h

theorem State.Canon.requestWrite {j off : Nat} {v : W64} (h : s.Canon) : (s.requestWrite j off v).Canon := by
  unfold State.requestWrite
  split
  · exact h
  · exact h.setPlain

theorem State.Canon.schWrite {o : Nat} {w : RegWrite} (h : s.Canon) : (s.schWrite o w).Canon := by
  unfold State.schWrite
  dsimp only
  split
  · exact h.setPlain
  · split
    · exact execSnap_canon h
    · split
      · split
        · exact h.jobCtlWrite
        · exact h
        · split
          · exact h.requestWrite
          · exact h
      · split
        · exact h.requestWrite
        · split
          · exact h.setPlain
          · split
            · exact h
            · split
              · exact execShaperCfgWrite_canon h
              · exact execShaperCfgWrite_canon h
              · exact execShaperCfgWrite_canon h
              · exact h

theorem State.Canon.sesWrite {fn o : Nat} {w : RegWrite} (h : s.Canon) : (s.sesWrite fn o w).Canon := by
  unfold State.sesWrite
  extract_lets b t
  have ht : t.Canon := h.setReg
  refine Res.Canon.ite (Res.Canon.ite (execSesCacheFlush_canon h) h) (Res.Canon.ite (execSesPeek_canon h) ?_)
  exact Res.Canon.ite (Res.Canon.ite (execSesRebuiltDrop_canon ht) ht) (Res.Canon.ite h.setPlain h)

theorem State.Canon.pmpWrite {o : Nat} {w : RegWrite} (h : s.Canon) : (s.pmpWrite o w).Canon := by
  unfold State.pmpWrite
  dsimp only
  split
  · split
    · exact h.setPlain
    · trivial
  · split
    · exact h.setPlain
    · split
      · exact h.setPlain
      · exact h

theorem State.Canon.tokWrite {o : Nat} {w : RegWrite} (h : s.Canon) : (s.tokWrite o w).Canon := by
  unfold State.tokWrite
  split
  · exact h.setPlain
  · split
    · exact execPrivSlotWrite_canon h
    · exact execTokRingConsWrite_canon h
    · exact h

theorem State.Canon.ftlWrite {o : Nat} {w : RegWrite} (h : s.Canon) : (s.ftlWrite o w).Canon := by
  unfold State.ftlWrite
  dsimp only
  split
  · exact h
  · exact execFtlSplitWrite_canon h
  · exact h.setPlain
  · exact h

theorem State.Canon.nlmWrite {o : Nat} {w : RegWrite} (h : s.Canon) : (s.nlmWrite o w).Canon := by
  unfold State.nlmWrite
  dsimp only
  split
  · exact h
  · exact h.setPlain
  · split
    · exact execPortCtlWrite_canon h
    · exact execJobTagWrite_canon h
    · exact h

theorem State.Canon.bar0Write {fn o : Nat} {w : RegWrite} (h : s.Canon) : (s.bar0Write fn o w).Canon := by
  unfold State.bar0Write
  refine Res.Canon.ite ?_ ?_
  · exact h.hciWrite
  refine Res.Canon.ite ?_ ?_
  · generalize o - 0x10000 = p
    exact h.rstWrite
  refine Res.Canon.ite ?_ ?_
  · generalize o - 0x20000 = p
    exact h.pwrWrite
  refine Res.Canon.ite ?_ ?_
  · generalize o - 0x30000 = p
    exact h.errWrite
  refine Res.Canon.ite ?_ ?_
  · generalize o - 0x40000 = p
    exact h.secWrite
  refine Res.Canon.ite ?_ ?_
  · exact h.pageWrite
  refine Res.Canon.ite ?_ ?_
  · generalize o - 0x200000 = p
    exact h.schWrite
  refine Res.Canon.ite ?_ ?_
  · generalize o - 0x300000 = p
    exact h.sesWrite
  refine Res.Canon.ite ?_ ?_
  · generalize o - 0x400000 = p
    exact h.pmpWrite
  refine Res.Canon.ite ?_ ?_
  · generalize o - 0x500000 = p
    exact h.tokWrite
  refine Res.Canon.ite (Res.Canon.ite h.setPlain h) ?_
  refine Res.Canon.ite ?_ ?_
  · generalize o - 0x800000 = p
    exact h.ftlWrite
  refine Res.Canon.ite ?_ ?_
  · generalize o - 0x900000 = p
    exact h.nlmWrite
  · generalize o - 0xA00000 = p
    exact h.ckpWrite

theorem State.Canon.recoveryWrite {off size : Nat} {v : W64} (h : s.Canon) : (s.recoveryWrite off size v).Canon := by
  unfold State.recoveryWrite
  dsimp only
  split
  · exact h
  · split
    · exact h
    · split
      · exact h
      · refine checked_canon (fun _ => ?_)
        split
        · exact h.secWrite
        · exact h

theorem execRegisterWrite_canon {fn off size : Nat} {v : W64} (h : s.Canon) : (execRegisterWrite fn off size v s).Canon := by
  unfold execRegisterWrite
  split
  · split
    · exact h.recoveryWrite
    · exact h
  · refine h.ifUp ?_
    split
    · split
      · exact h
      · split
        · exact h.badAccess
        · split
          · split
            · exact h
            · trivial
          · split
            · exact h.areaHost
            · split
              · exact h
              · exact h.badAccess
              · split
                · exact h.badAccess
                · exact checked_canon (fun _ => h.vfeWrite)
              · split
                · exact h.badAccess
                · exact checked_canon (fun _ => h.bar0Write)
    · split
      · exact h
      · split
        · exact h.badAccess
        · split
          · split
            · exact h
            · trivial
          · split
            · exact h.areaHost
            · split
              · exact h
              · exact h.badAccess
              · split
                · exact h.badAccess
                · exact checked_canon (fun _ => h.vfeWrite)
              · split
                · exact h.badAccess
                · exact checked_canon (fun _ => h.bar0Write)

end

end Sys2Proof.Machine
end

section
/-!
PROOF. Every step keeps every memory in canonical form (02_grains_and_tiers, R528): obligation MemoryStaysCanonical.
-/
namespace Sys2Proof.Machine

open Sys2Proof

section
variable {s : State}

theorem exec_canon (h : s.Canon) : ∀ i, Res.Canon (exec i s)
  | .openSession .. => execOpenSession_canon h
  | .submitTurn .. => execSubmitTurn_canon h
  | .toolReturn .. => execToolReturn_canon h
  | .park .. => execPark_canon h
  | .close .. => execClose_canon h
  | .endRequest .. => execEndRequest_canon h
  | .migrate .. => execMigrate_canon h
  | .placeQuery .. => execPlaceQuery_canon h
  | .registerT3 .. => execRegisterT3_canon h
  | .runProgram .. => execRunProgram_canon h
  | .loadModel .. => execLoadModel_canon h
  | .unloadModel .. => execUnloadModel_canon h
  | .loadAdapter .. => execLoadAdapter_canon h
  | .loadVocab .. => execLoadVocab_canon h
  | .loadGrammar .. => execLoadGrammar_canon h
  | .setOutput .. => execSetOutput_canon h
  | .loadIndex .. => execLoadIndex_canon h
  | .loadFilter .. => execLoadFilter_canon h
  | .tombstone .. => execTombstone_canon h
  | .indexWrite .. => execIndexWrite_canon h
  | .indexWriteApply .. => execIndexWriteApply_canon h
  | .search .. => execSearch_canon h
  | .loadTable .. => execLoadTable_canon h
  | .tableSwap .. => execTableSwap_canon h
  | .embedLookup .. => execEmbedLookup_canon h
  | .tableUpdate .. => execTableUpdate_canon h
  | .tableStep .. => execTableStep_canon h
  | .migrateRows .. => execMigrateRows_canon h
  | .embedDocs .. => execEmbedDocs_canon h
  | .setGroup .. => execSetGroup_canon h
  | .splitTurn .. => execSplitTurn_canon h
  | .checkpoint .. => execCheckpoint_canon h
  | .preemptNotice .. => execPreemptNotice_canon h
  | .restore .. => execRestore_canon h
  | .ckptFree .. => execCkptFree_canon h
  | .attest .. => execAttest_canon h
  | .installKeys .. => execInstallKeys_canon h
  | .fwUpdate .. => execFwUpdate_canon h
  | .badKind .. => execBadKind_canon h
  | .doorbell .. => execDoorbell_canon h
  | .wellCfgWrite .. => execWellCfgWrite_canon h
  | .cwHeadWrite .. => execCwHeadWrite_canon h
  | .completionWriteFail .. => execCompletionWriteFail_canon h
  | .coalesceTimer .. => execCoalesceTimer_canon h
  | .tokRingConsWrite .. => execTokRingConsWrite_canon h
  | .chunkWriteFail .. => execChunkWriteFail_canon h
  | .hciVerGo .. => execHciVerGo_canon h
  | .resetReqCore .. => execResetReqCore_canon h
  | .resetReqSystem .. => execResetReqSystem_canon h
  | .flr .. => execFlr_canon h
  | .d3hotEntry .. => execD3hotEntry_canon h
  | .hostWindowAccess .. => execHostWindowAccess_canon h
  | .registerWrite .. => execRegisterWrite_canon h
  | .stepBoundary .. => execStepBoundary_canon h
  | .sessionExpiry .. => execSessionExpiry_canon h
  | .gracePeriodEnd .. => execGracePeriodEnd_canon h
  | .idleDemotion .. => execIdleDemotion_canon h
  | .t1PressureDemotion .. => execT1PressureDemotion_canon h
  | .grainLand .. => execGrainLand_canon h
  | .tierLate .. => execTierLate_canon h
  | .tierError .. => execTierError_canon h
  | .moveComplete .. => execMoveComplete_canon h
  | .moveAbandon .. => execMoveAbandon_canon h
  | .moveFailed .. => execMoveFailed_canon h
  | .pumpTakeUp .. => execPumpTakeUp_canon h
  | .pumpDescriptorDone .. => execPumpDescriptorDone_canon h
  | .engineCommandEnd .. => execEngineCommandEnd_canon h
  | .shaperToken .. => execShaperToken_canon h
  | .histSample .. => execHistSample_canon h
  | .contextSwitch .. => execContextSwitch_canon h
  | .nop .. => execNop_canon h
  | .add .. => execAdd_canon h
  | .sub .. => execSub_canon h
  | .mul .. => execMul_canon h
  | .mulh .. => execMulh_canon h
  | .and_ .. => execAnd_canon h
  | .or_ .. => execOr_canon h
  | .xor_ .. => execXor_canon h
  | .shl .. => execShl_canon h
  | .shr .. => execShr_canon h
  | .sra .. => execSra_canon h
  | .min .. => execMin_canon h
  | .max .. => execMax_canon h
  | .minu .. => execMinu_canon h
  | .maxu .. => execMaxu_canon h
  | .cmpeq .. => execCmpeq_canon h
  | .cmpne .. => execCmpne_canon h
  | .cmplt .. => execCmplt_canon h
  | .cmpltu .. => execCmpltu_canon h
  | .cmple .. => execCmple_canon h
  | .cmpleu .. => execCmpleu_canon h
  | .pand .. => execPand_canon h
  | .por .. => execPor_canon h
  | .pxor .. => execPxor_canon h
  | .pandn .. => execPandn_canon h
  | .addi .. => execAddi_canon h
  | .andi .. => execAndi_canon h
  | .ori .. => execOri_canon h
  | .xori .. => execXori_canon h
  | .shli .. => execShli_canon h
  | .shri .. => execShri_canon h
  | .srai .. => execSrai_canon h
  | .li .. => execLi_canon h
  | .cmpeqi .. => execCmpeqi_canon h
  | .cmplti .. => execCmplti_canon h
  | .cmpltui .. => execCmpltui_canon h
  | .vadd .. => execVadd_canon h
  | .vsub .. => execVsub_canon h
  | .vmul .. => execVmul_canon h
  | .vfma .. => execVfma_canon h
  | .vmin .. => execVmin_canon h
  | .vmax .. => execVmax_canon h
  | .vand .. => execVand_canon h
  | .vor .. => execVor_canon h
  | .vxor .. => execVxor_canon h
  | .vshl .. => execVshl_canon h
  | .vshr .. => execVshr_canon h
  | .vsra .. => execVsra_canon h
  | .vcmpeq .. => execVcmpeq_canon h
  | .vcmplt .. => execVcmplt_canon h
  | .vcmple .. => execVcmple_canon h
  | .vsel .. => execVsel_canon h
  | .vbcs .. => execVbcs_canon h
  | .vidx .. => execVidx_canon h
  | .vext .. => execVext_canon h
  | .vins .. => execVins_canon h
  | .vredadd .. => execVredadd_canon h
  | .vredmax .. => execVredmax_canon h
  | .vredmin .. => execVredmin_canon h
  | .vredaddx .. => execVredaddx_canon h
  | .vlog2 .. => execVlog2_canon h
  | .vexp2 .. => execVexp2_canon h
  | .vlog2c .. => execVlog2c_canon h
  | .vcvtc .. => execVcvtc_canon h
  | .vcvtw .. => execVcvtw_canon h
  | .vcvtf .. => execVcvtf_canon h
  | .vcvtif .. => execVcvtif_canon h
  | .vcvtfi .. => execVcvtfi_canon h
  | .vrqf .. => execVrqf_canon h
  | .vrqw .. => execVrqw_canon h
  | .smxx .. => execSmxx_canon h
  | .smxe .. => execSmxe_canon h
  | .smxc .. => execSmxc_canon h
  | .smxl .. => execSmxl_canon h
  | .smxcl .. => execSmxcl_canon h
  | .mout .. => execMout_canon h
  | .mrow .. => execMrow_canon h
  | .mclr .. => execMclr_canon h
  | .mrdw .. => execMrdw_canon h
  | .mrdr .. => execMrdr_canon h
  | .mrq .. => execMrq_canon h
  | .mrfill .. => execMrfill_canon h
  | .mradd .. => execMradd_canon h
  | .ldw .. => execLdw_canon h
  | .stw .. => execStw_canon h
  | .vld .. => execVld_canon h
  | .vst .. => execVst_canon h
  | .rwr .. => execRwr_canon h
  | .rwrv .. => execRwrv_canon h
  | .hld .. => execHld_canon h
  | .hst .. => execHst_canon h
  | .send .. => execSend_canon h
  | .put .. => execPut_canon h
  | .fenceL .. => execFenceL_canon h
  | .fenceM .. => execFenceM_canon h
  | .seminc .. => execSeminc_canon h
  | .semwait .. => execSemwait_canon h
  | .bar .. => execBar_canon h
  | .br .. => execBr_canon h
  | .call .. => execCall_canon h
  | .jr .. => execJr_canon h
  | .loop .. => execLoop_canon h
  | .mfsr .. => execMfsr_canon h
  | .mtsr .. => execMtsr_canon h
  | .halt .. => execHalt_canon h
  | .programTimeout .. => execProgramTimeout_canon h
  | .remoteWriteLand .. => execRemoteWriteLand_canon h
  | .hbmCopyDone .. => execHbmCopyDone_canon h
  | .sendLand .. => execSendLand_canon h
  | .groupAutoRetain .. => execGroupAutoRetain_canon h
  | .pwrGroupCtlWrite .. => execPwrGroupCtlWrite_canon h
  | .seqGo .. => execSeqGo_canon h
  | .seqAbort .. => execSeqAbort_canon h
  | .microHalt .. => execMicroHalt_canon h
  | .microNop .. => execMicroNop_canon h
  | .segend .. => execSegend_canon h
  | .rop .. => execRop_canon h
  | .maj .. => execMaj_canon h
  | .microFill .. => execMicroFill_canon h
  | .popc .. => execPopc_canon h
  | .microIdx .. => execMicroIdx_canon h
  | .microLoop .. => execMicroLoop_canon h
  | .segmentEnd .. => execSegmentEnd_canon h
  | .refreshDue .. => execRefreshDue_canon h
  | .hbmSelfRefresh .. => execHbmSelfRefresh_canon h
  | .sesCacheFlush .. => execSesCacheFlush_canon h
  | .sesPeek .. => execSesPeek_canon h
  | .sesRebuiltDrop .. => execSesRebuiltDrop_canon h
  | .create .. => execCreate_canon h
  | .destroy .. => execDestroy_canon h
  | .recompose .. => execRecompose_canon h
  | .recomposeCommit .. => execRecomposeCommit_canon h
  | .shaperCfgWrite .. => execShaperCfgWrite_canon h
  | .snap .. => execSnap_canon h
  | .privSlotWrite .. => execPrivSlotWrite_canon h
  | .jobTagWrite .. => execJobTagWrite_canon h
  | .portCtlWrite .. => execPortCtlWrite_canon h
  | .ftlSplitWrite .. => execFtlSplitWrite_canon h
  | .resume .. => execResume_canon h
  | .errWellTailWrite .. => execErrWellTailWrite_canon h
  | .overflowClear .. => execOverflowClear_canon h
  | .release .. => execRelease_canon h
  | .unitOut .. => execUnitOut_canon h
  | .unitReturn .. => execUnitReturn_canon h
  | .selfTestDone .. => execSelfTestDone_canon h
  | .fuseBurn .. => execFuseBurn_canon h
  | .blockOffline .. => execBlockOffline_canon h
  | .blockReset .. => execBlockReset_canon h
  | .pwrStandbyEnter .. => execPwrStandbyEnter_canon h
  | .clkLocalReadLow .. => execClkLocalReadLow_canon h
  | .commit .. => execCommit_canon h
  | .recWrite .. => execRecWrite_canon h
  | .finish .. => execFinish_canon h
  | .powerEval .. => execPowerEval_canon h
  | .thermalTrip .. => execThermalTrip_canon h
  | .powerApply .. => execPowerApply_canon h
  | .powerLoss .. => execPowerLoss_canon h
  | .overVoltage .. => execOverVoltage_canon h
  | .resetInFall .. => execResetInFall_canon h
  | .resetInRise .. => execResetInRise_canon h
  | .powerFailWarning .. => execPowerFailWarning_canon h
  | .powerFailClear .. => execPowerFailClear_canon h
  | .coreResetAccept .. => execCoreResetAccept_canon h
  | .resetRelease .. => execResetRelease_canon h
  | .standby .. => execStandby_canon h
  | .wake .. => execWake_canon h
  | .getIdent .. => execGetIdent_canon h
  | .getTelemetry .. => execGetTelemetry_canon h
  | .setCap .. => execSetCap_canon h
  | .getCause .. => execGetCause_canon h
  | .errorDetected .. => execErrorDetected_canon h
  | .errorQueued .. => execErrorQueued_canon h
  | .dumpComplete .. => execDumpComplete_canon h
  | .dumpAbandon .. => execDumpAbandon_canon h
  | .linkUp .. => execLinkUp_canon h
  | .linkDown .. => execLinkDown_canon h
  | .probe .. => execProbe_canon h
  | .topologyRecord .. => execTopologyRecord_canon h
  | .identifierAssignment .. => execIdentifierAssignment_canon h
  | .acknowledgement .. => execAcknowledgement_canon h
  | .retransmitTimer .. => execRetransmitTimer_canon h
  | .unreachable .. => execUnreachable_canon h
  | .handoffOut .. => execHandoffOut_canon h
  | .ready .. => execReady_canon h
  | .refused .. => execRefused_canon h
  | .handoffGrain .. => execHandoffGrain_canon h
  | .handoffIn .. => execHandoffIn_canon h
  | .relinquished .. => execRelinquished_canon h
  | .query .. => execQuery_canon h
  | .mine .. => execMine_canon h
  | .notMine .. => execNotMine_canon h
  | .reclaimed .. => execReclaimed_canon h
  | .abort .. => execAbort_canon h
  | .peerFree .. => execPeerFree_canon h
  | .orphanTimer .. => execOrphanTimer_canon h
  | .phaseTimer .. => execPhaseTimer_canon h
  | .peerExtentExpiry .. => execPeerExtentExpiry_canon h
  | .collectivePacket .. => execCollectivePacket_canon h
  | .collectiveTimeout .. => execCollectiveTimeout_canon h
  | .gatherRequest .. => execGatherRequest_canon h
  | .updateItem .. => execUpdateItem_canon h
  | .stepMark .. => execStepMark_canon h
  | .stepBudgetTimer .. => execStepBudgetTimer_canon h
  | .rowCopyDone .. => execRowCopyDone_canon h
  | .v1Write .. => trivial
  | .ckptEntries .. => execCkptEntries_canon h
  | .commitNotice .. => execCommitNotice_canon h
  | .abortNotice .. => execAbortNotice_canon h
  | .ckptBudget .. => execCkptBudget_canon h
  | .stripeClose .. => execStripeClose_canon h
  | .stripePadTimer .. => execStripePadTimer_canon h
  | .trimJournalWrite .. => execTrimJournalWrite_canon h
  | .garbageCollection .. => execGarbageCollection_canon h
  | .readRefresh .. => execReadRefresh_canon h
  | .eraseFail .. => execEraseFail_canon h
  | .pageProgramFail .. => execPageProgramFail_canon h
  | .dieFail .. => execDieFail_canon h
  | .osc25mLoss .. => execOsc25mLoss_canon h
  | .pcieLinkRetrain .. => execPcieLinkRetrain_canon h
  | .jtagInstruction .. => execJtagInstruction_canon h
  | .mctpControlMessage .. => execMctpControlMessage_canon h
  | .packetForward .. => execPacketForward_canon h
  | .creditGrant .. => execCreditGrant_canon h
  | .nack .. => execNack_canon h
  | .peerTierGrains .. => execPeerTierGrains_canon h
  | .commitNoticeTimeout .. => execCommitNoticeTimeout_canon h

theorem State.Canon.fwWritten {c : DescCtx} {im : List Byte} (h : s.Canon) : (s.fwWritten c im).Canon := State.Canon.complete h

theorem State.Canon.tick (h : s.Canon) : s.tick.Canon := by
  unfold State.tick
  refine State.Canon.ite h ?_
  dsimp only
  split
  · exact h
  · exact State.Canon.ite (State.Canon.fwWritten h) h

theorem step_canon (h : s.Canon) : Res.Canon (step s) := by
  unfold step
  split
  · exact h.tick
  · exact exec_canon h.updated _

/-- Settles O5: every command leaves the byte memories as they are, or writes runs to them, empties them, or keeps a part of them. -/
theorem memoryStaysCanonical : Obligations.MemoryStaysCanonical := by
  intro s t hs e
  have ht := step_canon (State.memWf_iff.mp hs)
  rw [e] at ht
  exact State.memWf_iff.mpr ht

end

end Sys2Proof.Machine
end

section
/-!
SUPPORT. What records, frees and the ends of moves leave of the sessions and of their parts.
-/
namespace Sys2Proof.Machine

open Sys2Proof

/-- While the device is READY, what a command does has its effect. -/
theorem State.ifReady_ready {s : State} (h : s.power.ready = true) (r : Res) : s.ifReady r = r := if_pos h

/-! ## Operations that leave the sessions alone -/

/-- Two states with the same sessions and the same parts of them. -/
structure State.SameSessions (s t : State) : Prop where
  sess : t.sessions = s.sessions
  aux : t.sessAux = s.sessAux

section
variable {s t u : State}

theorem State.SameSessions.refl (s : State) : s.SameSessions s := ⟨rfl, rfl⟩

theorem State.SameSessions.trans (h : s.SameSessions t) (g : t.SameSessions u) : s.SameSessions u :=
  ⟨g.sess.trans h.sess, g.aux.trans h.aux⟩

theorem State.SameSessions.sess_eq (h : s.SameSessions t) (k : Nat) : t.sess k = s.sess k := by simp only [State.sess, h.sess]

theorem State.SameSessions.aux_eq (h : s.SameSessions t) (k : Nat) : t.aux k = s.aux k := by simp only [State.aux, h.aux]

theorem State.SameSessions.foldl {α : Type} (f : State → α → State) (hf : ∀ (s : State) (a : α), s.SameSessions (f s a)) (l : List α)
    (s : State) : s.SameSessions (l.foldl f s) :=
  List.foldlRecOn (motive := fun t => s.SameSessions t) l f (.refl s) fun t ht a _ => ht.trans (hf t a)

end

section
variable (s : State)

theorem State.record_same (c : DescCtx) (status : Nat) (final : Bool) (result req session : Nat) :
    s.SameSessions (s.record c status final result req session) := by
  obtain ⟨js, fs, q, m, r, h, e, -⟩ := s.post_only c.job c.cw _
  rw [State.record, e]
  exact ⟨rfl, rfl⟩

theorem State.complete_same (c : DescCtx) (status result req session : Nat) : s.SameSessions (s.complete c status result req session) :=
  s.record_same c status true result req session

theorem State.completeAny_same (c : Option DescCtx) (status result req session : Nat) :
    s.SameSessions (s.complete? c status result req session) := by
  cases c with
  | none => exact .refl s
  | some c => exact s.complete_same c status result req session

theorem State.sessEvent_same (i status result : Nat) : s.SameSessions (s.sessEvent i status result) := by
  unfold State.sessEvent
  split
  · exact .refl s
  · obtain ⟨js, fs, q, m, r, h, e, -⟩ := s.post_only (s.sess i).job (s.sess i).eventWell _
    rw [State.event, e]
    exact ⟨rfl, rfl⟩

theorem State.extentFree_same (j : Nat) (root : W64) (count : Nat) : s.SameSessions (s.extentFree j root count) := by
  obtain ⟨f, js, h⟩ := s.extentFree_only j root count
  rw [h]
  exact ⟨rfl, rfl⟩

theorem State.peerRelease_same (i j : Nat) (a : W64) : s.SameSessions (s.peerRelease i j a) := by
  unfold State.peerRelease
  dsimp only
  obtain ⟨q, h, f, r, e⟩ := State.send_only { s with fabric := { s.fabric with
    peerFrees := s.fabric.peerFrees ++ [({ addr := a, session := i, job := j, sent := s.now } : PeerFree)] } } j 1 Msg.peerFree (gNode a) 0 a [] _
  rw [e]
  exact ⟨rfl, rfl⟩

theorem State.freeDest_same (i : Nat) (m : Move) : s.SameSessions (s.freeDest i m) := by
  unfold State.freeDest
  dsimp only
  split
  · exact s.extentFree_same _ _ _
  · split
    · exact s.peerRelease_same _ _ _
    · exact .refl s

theorem State.dropMoveWork_same (i : Nat) : s.SameSessions (s.dropMoveWork i) := ⟨rfl, rfl⟩

theorem State.countEvict_same (positions grains : Nat) : s.SameSessions (s.countEvict positions grains) := ⟨rfl, rfl⟩

theorem State.wr_same (hbm : Bool) (a : Nat) (bs : List Byte) : s.SameSessions (s.wr hbm a bs) := by
  obtain ⟨q, m, r, h, e, -⟩ := s.wr_only hbm a bs
  rw [e]
  exact ⟨rfl, rfl⟩

theorem State.writeT3_same (j n g : Nat) (gs : List (List Byte)) : s.SameSessions (s.writeT3 j n g gs) := by
  unfold State.writeT3
  split
  · exact .refl s
  · refine .foldl _ (fun s e => ?_) _ s
    split
    · split
      rename_i key nonce u hu
      have hsame : s.SameSessions u := by
        split at hu
        · cases hu; exact ⟨rfl, rfl⟩
        · cases hu; exact ⟨rfl, rfl⟩
      exact hsame.trans (u.wr_same _ _ _)
    · exact s.wr_same _ _ _

theorem State.writeParked_same (i : Nat) : s.SameSessions (s.writeParked i) := by
  unfold State.writeParked
  dsimp only
  split
  · exact s.writeT3_same _ _ _ _
  · exact .refl s

theorem State.pumpStatus_aux_same (i status count : Nat) : ∃ p, (s.pumpStatus i status count).aux i = { s.aux i with pumpStat := p } :=
  ⟨_, by simp [State.pumpStatus, State.draw_eq]; rfl⟩

theorem State.pumpStatus_aux_other (i status count : Nat) {k : Nat} (h : k ≠ i) : (s.pumpStatus i status count).aux k = s.aux k := by
  simp [State.pumpStatus, State.draw_eq, h]

end

/-! ## Taking up an operation on a session (R12) -/

@[simp] theorem State.opened_move (s : State) (i k : Nat) : ((s.opened i).aux k).move = (s.aux k).move := by
  obtain ⟨b, h⟩ := (s.opened_same i).aux k
  rw [h]

theorem State.sesAccess_eq {s : State} {i : Nat} {b : Bool} (h : (s.sesAccess i).2 = b) : s.sesAccess i = (s.opened i, b) := by
  rw [← h]
  rfl

theorem State.sesOp_intact {s : State} {i : Nat} {f : State → State} (h : (s.sesAccess i).2 = false) : s.sesOp i f = f (s.opened i) := by
  simp only [State.sesOp, State.sesAccess_eq h]
  rfl

/-! ## Moves to T1 that wait for demotions (R72) -/

/-- No move waits for demotions. -/
def State.NoneWaits (s : State) : Prop := ∀ k m, (s.aux k).move = some m → m.needT1 = 0

section
variable {s t : State}

theorem State.NoneWaits.of_moves (h : s.NoneWaits) (e : ∀ k, (t.aux k).move = (s.aux k).move) : t.NoneWaits :=
  fun k m hm => h k m (e k ▸ hm)

theorem State.NoneWaits.same (h : s.NoneWaits) (e : s.SameSessions t) : t.NoneWaits :=
  h.of_moves fun k => by rw [e.aux_eq]

theorem State.NoneWaits.opened (h : s.NoneWaits) (i : Nat) : (s.opened i).NoneWaits := h.of_moves (s.opened_move i)

/-- The end of a move leaves none that waits where none waited. -/
theorem State.NoneWaits.ended {i : Nat} (h : s.NoneWaits) (hi : (t.aux i).move = none) (ho : ∀ k, k ≠ i → t.aux k = s.aux k) : t.NoneWaits := by
  intro k m hm
  by_cases hk : k = i
  · subst hk
    rw [hi] at hm
    cases hm
  · exact h k m (ho k hk ▸ hm)

theorem State.retryUp_of_noneWaits (h : s.NoneWaits) (j : Nat) : s.retryUp j = s := by
  refine List.foldlRecOn (motive := fun t => t = s) _ _ rfl fun t ht e _ => ?_
  subst ht
  dsimp only
  split
  · rfl
  · rename_i m hm
    rw [if_pos (.inl (h _ _ hm))]

end

/-! ## The ends of moves (R59, R78, R79) -/

/-- Every session but `i` stands in `t` as it did in `s`, with its parts. -/
structure State.OthersStand (s t : State) (i : Nat) : Prop where
  sess : ∀ k, k ≠ i → t.sess k = s.sess k
  aux : ∀ k, k ≠ i → t.aux k = s.aux k

section
variable {s t u : State} {i : Nat}

theorem State.SameSessions.others (h : s.SameSessions t) : s.OthersStand t i := ⟨fun k _ => h.sess_eq k, fun k _ => h.aux_eq k⟩

theorem State.OthersStand.trans (h : s.OthersStand t i) (g : t.OthersStand u i) : s.OthersStand u i :=
  ⟨fun k hk => (g.sess k hk).trans (h.sess k hk), fun k hk => (g.aux k hk).trans (h.aux k hk)⟩

theorem State.setSess_others (s : State) (i : Nat) (x : Session) : s.OthersStand (s.setSess i x) i :=
  ⟨fun k hk => by simp [hk], fun _ _ => rfl⟩

theorem State.modAux_others (s : State) (i : Nat) (f : SessAux → SessAux) : s.OthersStand (s.modAux i f) i :=
  ⟨fun _ _ => rfl, fun k hk => by simp [hk]⟩

theorem State.pumpStatus_others (s : State) (i status count : Nat) : s.OthersStand (s.pumpStatus i status count) i :=
  ⟨fun _ _ => rfl, fun _ hk => s.pumpStatus_aux_other i status count hk⟩

end

/-- A move of session `i` has failed: the session is back where it came from, as it was, and damaged where the failure says so. -/
structure State.MoveFailed (s t : State) (i : Nat) (m : Move) (damaged : Bool) : Prop where
  state : (t.sess i).state = m.src
  root : (t.sess i).root = (s.sess i).root
  len : (t.sess i).len = (s.sess i).len
  move : (t.aux i).move = none
  damaged : (t.aux i).damaged = ((s.aux i).damaged || damaged)
  others : s.OthersStand t i

theorem State.moveFails_ends {s : State} {i : Nat} {m : Move} (code : Nat) (damaged : Bool) (hm : (s.aux i).move = some m)
    (hst : (s.sess i).state = .moving) (hab : m.abandoned = false) (hk : m.kind ≠ .handoff) (hw : s.NoneWaits) :
    s.MoveFailed (s.moveFails i code damaged) i m damaged := by
  have hgo : ¬ ((s.sess i).state ≠ .moving ∨ m.abandoned = true ∨ m.kind = .handoff) := by simp [hst, hab, hk]
  unfold State.moveFails
  rw [hm]
  dsimp -zeta only
  rw [if_neg hgo]
  extract_lets freed back failed told
  have hfreed : s.SameSessions freed := (s.dropMoveWork_same i).trans (State.freeDest_same _ i m)
  have htold : failed.SameSessions told := by
    unfold told
    split
    · exact failed.completeAny_same _ _ _ _ _
    · exact failed.sessEvent_same _ _ _
    · exact (failed.completeAny_same _ _ _ _ _).trans (State.sessEvent_same _ _ _ _)
  obtain ⟨p, hp⟩ := State.pumpStatus_aux_same (back.modAux i fun a => { a with move := none, damaged := a.damaged || damaged }) i
    (if damaged = true then 1 else 3) m.grains.length
  have haux : told.aux i = { s.aux i with move := none, damaged := (s.aux i).damaged || damaged, pumpStat := p } := by
    rw [htold.aux_eq, hp]
    simp [back, hfreed.aux_eq]
  have hothers : s.OthersStand told i :=
    hfreed.others.trans <| (freed.setSess_others i _).trans <| (back.modAux_others i _).trans <|
      (State.pumpStatus_others _ i _ _).trans htold.others
  rw [State.retryUp_of_noneWaits (hw.ended (by rw [haux]) hothers.aux)]
  have hsess : told.sess i = back.sess i := htold.sess_eq i
  exact ⟨by simp [hsess, back], by simp [hsess, back], by simp [hsess, back], by rw [haux], by rw [haux], hothers⟩

/-- A move of session `i` has ended: the session stands at its destination, PARKED after a move down and idle after one up. -/
structure State.MoveEnded (s t : State) (i : Nat) (m : Move) : Prop where
  root : (t.sess i).root = m.dest
  grains : (t.sess i).grains = m.grains
  retained : (t.sess i).retained = m.retained
  move : (t.aux i).move = none
  down : 2 ≤ m.tier → (t.sess i).state = .parked
  up : m.tier ≤ 1 → m.kind ≠ .cancel → (t.sess i).state = if (s.sess i).toolp then .toolWait else .open
  others : s.OthersStand t i

theorem State.moveEnds_ends {s : State} {i : Nat} {m : Move} (hw : s.NoneWaits) : s.MoveEnded (s.moveEnds i m) i m := by
  unfold State.moveEnds
  extract_lets x old count dropped freed released counted up y moved ended written told
  have hcounted : s.SameSessions counted := by
    have hfreed : s.SameSessions freed := by
      unfold freed
      split
      · exact (s.dropMoveWork_same i).trans (dropped.extentFree_same _ _ _)
      · exact s.dropMoveWork_same i
    have hreleased : s.SameSessions released := by
      unfold released
      split
      · exact hfreed.trans (freed.peerRelease_same _ _ _)
      · exact hfreed
    exact hreleased.trans (released.countEvict_same _ _)
  have htold : ended.SameSessions told := by
    have hwritten : ended.SameSessions written := (ended.completeAny_same _ _ _ _ _).trans (State.writeParked_same _ i)
    unfold told
    split
    · exact hwritten.trans (written.sessEvent_same _ _ _)
    · exact hwritten
  have hmove : (told.aux i).move = none := by
    rw [htold.aux_eq]
    simp [ended]
  have hothers : s.OthersStand told i :=
    hcounted.others.trans <| (counted.setSess_others i y).trans <| (moved.modAux_others i _).trans htold.others
  rw [State.retryUp_of_noneWaits (hw.ended hmove hothers.aux)]
  have hsess : told.sess i = y := by
    rw [htold.sess_eq]
    simp [ended, moved]
  refine ⟨by rw [hsess], by rw [hsess], by rw [hsess], hmove, fun h => ?_, fun h hk => ?_, hothers⟩
  · rw [hsess]
    exact if_neg (by simp only [up]; omega)
  · rw [hsess]
    simp [y, up, h, hk, x]

/-- An abandoned move is forgotten at its grain boundary. -/
theorem State.dropAbandoned_ends {s : State} {i : Nat} {m : Move} (hm : (s.aux i).move = some m) (hab : m.abandoned = true) :
    (s.dropAbandoned i).sess i = s.sess i ∧ ((s.dropAbandoned i).aux i).move = none ∧ s.OthersStand (s.dropAbandoned i) i := by
  unfold State.dropAbandoned
  rw [hm]
  dsimp -zeta only
  rw [if_neg (by simp [hab])]
  extract_lets freed dropped
  have hfreed : s.SameSessions freed := (s.dropMoveWork_same i).trans (State.freeDest_same _ i m)
  have hdone := dropped.completeAny_same m.ctx Code.moveAbandoned 0 0 i
  obtain ⟨p, hp⟩ := State.pumpStatus_aux_same (freed.modAux i fun a => { a with move := none }) i 4 m.grains.length
  refine ⟨?_, ?_, hfreed.others.trans <| (freed.modAux_others i _).trans <| (State.pumpStatus_others _ i _ _).trans hdone.others⟩
  · rw [hdone.sess_eq]
    exact hfreed.sess_eq i
  · rw [hdone.aux_eq, hp]
    simp

/-! ## The end of a session (R35, R13) -/

/-- A session in ENDING stays so, or is FREE. -/
theorem State.settle_ends {s : State} {i : Nat} (h : (s.sess i).state = .ending) :
    (((s.settle i).sess i).state = .ending ∨ ((s.settle i).sess i).state = .free) ∧ ∀ k, k ≠ i → (s.settle i).sess k = s.sess k := by
  by_cases hdone : (s.aux i).waitTrim = false ∧ (s.aux i).waitPeer = false ∧ (s.aux i).move = none
  · obtain ⟨ht, hp, hm⟩ := hdone
    rw [State.settle_done h ht hp hm]
    have hsame := State.SameSessions.foldl (fun s c => s.complete c Code.ok 0 0 i) (fun s c => s.complete_same c _ _ _ _) (s.aux i).closing
      ((s.opened i).without i)
    exact ⟨.inr (by simp [hsame.sess_eq]), fun k hk => by simp [hsame.sess_eq, hk]⟩
  · have hstay : s.settle i = s := by
      unfold State.settle
      dsimp only
      exact if_neg fun ⟨_, ht, hp, hm⟩ => hdone ⟨ht, hp, Option.isNone_iff_eq_none.mp hm⟩
    rw [hstay]
    exact ⟨.inl h, fun _ _ => rfl⟩

theorem State.settle_idle {s : State} {i : Nat} (h : (s.sess i).state ≠ .ending) : s.settle i = s := by
  unfold State.settle
  exact if_neg fun hgo => h hgo.1

theorem State.endSession_ends (s : State) (i : Nat) :
    (((s.endSession i).sess i).state = .ending ∨ ((s.endSession i).sess i).state = .free) ∧
      ∀ k, k ≠ i → (s.endSession i).sess k = s.sess k := by
  unfold State.endSession
  extract_lets x a count freed peers released ended waiting
  have hsame : s.SameSessions released :=
    (s.extentFree_same _ _ _).trans (.foldl _ (fun s p => s.peerRelease_same _ _ _) peers freed)
  have hst : (waiting.sess i).state = .ending := by simp [waiting, ended]
  obtain ⟨hown, hothers⟩ := State.settle_ends hst
  exact ⟨hown, fun k hk => by rw [hothers k hk]; simp [waiting, ended, hk, hsame.sess_eq]⟩

end Sys2Proof.Machine
end

section
/-!
PROOF. Grace periods, demotions, the ends of moves and expiry (02_grains_and_tiers, R59, R67 to R71, R78, R79; 01_sessions, R12, R13, R25):
obligation MovesStartAndEnd.
-/
namespace Sys2Proof.Machine

open Sys2Proof

theorem exec_eq_gracePeriodEnd (i : Nat) (s : State) : exec (.gracePeriodEnd i) s = execGracePeriodEnd i s := rfl
theorem exec_eq_idleDemotion (i : Nat) (s : State) : exec (.idleDemotion i) s = execIdleDemotion i s := rfl
theorem exec_eq_t1PressureDemotion (j : Nat) (s : State) : exec (.t1PressureDemotion j) s = execT1PressureDemotion j s := rfl
theorem exec_eq_moveComplete (i : Nat) (s : State) : exec (.moveComplete i) s = execMoveComplete i s := rfl
theorem exec_eq_moveAbandon (i : Nat) (s : State) : exec (.moveAbandon i) s = execMoveAbandon i s := rfl
theorem exec_eq_moveFailed (i code : Nat) (damaged : Bool) (s : State) : exec (.moveFailed i code damaged) s = execMoveFailed i code damaged s := rfl
theorem exec_eq_sessionExpiry (i : Nat) (s : State) : exec (.sessionExpiry i) s = execSessionExpiry i s := rfl

/-! ## Grace periods and demotion (R67 to R71) -/

theorem State.enqueueMove_grace (s : State) (i count : Nat) : ((s.enqueueMove i count).aux i).grace = (s.aux i).grace := by
  obtain ⟨f, p, h, b, r, e⟩ := s.enqueueMove_only i count
  have haux : (s.enqueueMove i count).aux i = (s.modAux i (fun a => { a with pumpStat := (0, 0) })).aux i := by rw [e]; rfl
  rw [haux]
  simp

/-- The start of a move takes a pending grace period back. -/
theorem State.startPark_grace {s t : State} {i tier place ttl : Nat} {kind : MoveKind} {evict : Bool} {ctx : Option DescCtx}
    (h : s.startPark i kind tier place ttl evict ctx = (.ok (), t)) : (t.aux i).grace = none := by
  revert h
  unfold State.startPark
  dsimp only
  generalize (if evict = true then State.groupScores _ _ _ _ else _) = scored
  generalize (if evict = true then evictKeep _ _ _ _ _ else _) = keep
  split
  · intro h
    cases h
  · intro h
    cases h
    rw [State.enqueueMove_grace]
    split
    · simp [State.flashWrite, State.aux, State.setAux]
    · split
      · simp
      · simp

/-- A session that finds its place starts the demotion that its job's policy names. -/
theorem State.demote_moves {s : State} {i : Nat} (hm : (s.aux i).move = none) (hbad : (s.sesAccess i).2 = false)
    (hok : let p := (s.opened i).reg (Reg.jobPolicy (s.sess i).job)
      ((s.opened i).startPark i .demote (fld p 48 3) (if fld p 48 3 = 3 then fld p 52 8 else 0) ((s.opened i).ttlPark (s.sess i).job 0)
        true none).1.isOk = true) :
    (s.opened i).Moving (s.demote i) i .demote (fld ((s.opened i).reg (Reg.jobPolicy (s.sess i).job)) 48 3) none (s.sess i).state := by
  obtain ⟨t, ht, hmoving⟩ := State.startPark_moves (by simpa using hm) hok
  rw [State.demote, State.sesOp_intact hbad]
  simp only [State.opened_sess, ht] at hmoving ⊢
  exact hmoving

theorem State.demoteDown_one {s : State} {i j : Nat} {x : Session} (hc : s.sessions.filter (fun e => e.2.job == j && s.demotable e.1) = [(i, x)])
    (hp : s.pressed j = true) : s.demoteDown j = s.demote i := by
  simp only [State.demoteDown, hc, sortBy, insertBy, List.foldr_cons, List.foldr_nil, List.foldl_cons, List.foldl_nil, if_pos hp]

theorem exec_gracePeriodEnd_moves {s : State} {i : Nat} {g : GracePark} (hr : s.power.ready = true) (hg : (s.aux i).grace = some g)
    (hdue : g.due ≤ s.now) (hst : (s.sess i).state = .open ∨ (s.sess i).state = .toolWait) (hexp : s.expired i = false)
    (hbad : (s.sesAccess i).2 = false) (hm : (s.aux i).move = none)
    (hok : (((s.opened i).modAux i (fun a => { a with grace := none })).startPark i .demote g.tier g.region g.ttl g.evict none).1.isOk = true) :
    ∃ (t : State) (m : Move), exec (.gracePeriodEnd i) s = .next t ∧ (t.sess i).state = .moving ∧ (t.aux i).move = some m ∧ m.kind = .demote ∧
      m.tier = g.tier ∧ (t.aux i).grace = none ∧ (∀ k, k ≠ i → t.sess k = s.sess k) := by
  obtain ⟨t, ht, hmoving⟩ := State.startPark_moves (by simpa using hm) hok
  obtain ⟨m, hmove, hkind, htier, -, -⟩ := hmoving.move
  refine ⟨t, m, ?_, hmoving.state, hmove, hkind, htier, State.startPark_grace ht, fun k hk => ?_⟩
  · have hgo : ¬ (s.now < g.due ∨ ((s.sess i).state ≠ .open ∧ (s.sess i).state ≠ .toolWait) ∨ s.expired i = true) := by
      rintro (h | h | h)
      · omega
      · exact not_busy hst h
      · simp [hexp] at h
    rw [exec_eq_gracePeriodEnd, execGracePeriodEnd, State.ifReady_ready hr]
    simp only [hg, if_neg hgo, State.sesOp_intact hbad, ht]
  · simpa using hmoving.others k hk

section
variable {s : State} {i : Nat} (hr : s.power.ready = true) (hm : (s.aux i).move = none) (hbad : (s.sesAccess i).2 = false)
  (hok : let p := (s.opened i).reg (Reg.jobPolicy (s.sess i).job)
    ((s.opened i).startPark i .demote (fld p 48 3) (if fld p 48 3 = 3 then fld p 52 8 else 0) ((s.opened i).ttlPark (s.sess i).job 0)
      true none).1.isOk = true)
include hr hm hbad hok

theorem exec_idleDemotion_moves (hd : s.demotable i = true) (hidle : fld (s.reg (Reg.jobPolicy (s.sess i).job)) 32 16 ≠ 0)
    (hlong : fld (s.reg (Reg.jobPolicy (s.sess i).job)) 32 16 * 1000000 < (s.now % 2 ^ 48 + 2 ^ 48 - (s.sess i).lastActive) % 2 ^ 48) :
    ∃ (t : State) (m : Move), exec (.idleDemotion i) s = .next t ∧ (t.sess i).state = .moving ∧ (t.aux i).move = some m ∧ m.kind = .demote ∧
      m.tier = fld ((s.opened i).reg (Reg.jobPolicy (s.sess i).job)) 48 3 := by
  have hmoving := State.demote_moves hm hbad hok
  obtain ⟨m, hmove, hkind, htier, -, -⟩ := hmoving.move
  refine ⟨_, m, ?_, hmoving.state, hmove, hkind, htier⟩
  rw [exec_eq_idleDemotion, execIdleDemotion, State.ifReady_ready hr]
  exact if_pos ⟨hd, hidle, hlong⟩

theorem exec_t1PressureDemotion_moves
    (hc : s.sessions.filter (fun e => e.2.job == (s.sess i).job && s.demotable e.1) = [(i, s.sess i)])
    (hused : 15 * s.t1Limit (s.sess i).job ≤ 16 * s.t1Used (s.sess i).job)
    (hstays : 7 * s.t1Limit (s.sess i).job < 8 * (s.t1Used (s.sess i).job - s.leaving (s.sess i).job)) :
    ∃ (t : State) (m : Move), exec (.t1PressureDemotion (s.sess i).job) s = .next t ∧ (t.sess i).state = .moving ∧ (t.aux i).move = some m ∧
      m.kind = .demote := by
  have hmoving := State.demote_moves hm hbad hok
  obtain ⟨m, hmove, hkind, -, -, -⟩ := hmoving.move
  refine ⟨_, m, ?_, hmoving.state, hmove, hkind⟩
  rw [exec_eq_t1PressureDemotion, execT1PressureDemotion, State.ifReady_ready hr, if_pos (.inl hused)]
  rw [State.demoteDown_one hc (by simp [State.pressed, hstays])]

end

/-! ## The ends of moves (R59, R62, R78, R79) -/

/-- What MOVE_COMPLETE does once every grain of the move is written and the engine has taken the session up: what the pumps find of an extent in
T3 decides. -/
def State.moveWritten (s : State) (i : Nat) (m : Move) : State :=
  match (if m.src = .parked ∧ gTier (s.sess i).root = 3 then s.extentT3 i else .inl .ok) with
  | .inr _ => s.moveFails i Code.tierError false
  | .inl .damaged => (s.countChecks 2 0).moveFails i Code.tierError true
  | .inl _ =>
    if m.src = .parked ∧ 2 ≤ gTier (s.sess i).root then
      let again := Config.freeNat s.freeCtr % (m.grains.length + 1)
      ((s.drawnTo (s.freeCtr + 1)).countChecks again again).moveEnds i m
    else s.moveEnds i m

theorem State.moveWritten_good {s : State} {i : Nat} {m : Move} (hw : s.NoneWaits)
    (hgood : m.src = .parked → gTier (s.sess i).root = 3 → s.extentT3 i = .inl .ok) : s.MoveEnded (s.moveWritten i m) i m := by
  have hfound : (if m.src = .parked ∧ gTier (s.sess i).root = 3 then s.extentT3 i else .inl .ok) = .inl .ok := by
    split
    · rename_i h
      exact hgood h.1 h.2
    · rfl
  unfold State.moveWritten
  rw [hfound]
  dsimp only
  split
  · obtain ⟨root, grains, retained, move, down, up, others⟩ := State.moveEnds_ends (i := i) (m := m)
      (s := (s.drawnTo (s.freeCtr + 1)).countChecks _ _) hw
    exact ⟨root, grains, retained, move, down, up, others.sess, others.aux⟩
  · exact State.moveEnds_ends hw

theorem State.moveWritten_damaged {s : State} {i : Nat} {m : Move} (hsrc : m.src = .parked) (ht3 : gTier (s.sess i).root = 3)
    (hfound : s.extentT3 i = .inl .damaged) : s.moveWritten i m = (s.countChecks 2 0).moveFails i Code.tierError true := by
  simp only [State.moveWritten, if_pos (And.intro hsrc ht3), hfound]

section
variable {s : State} {i : Nat} {m : Move} (hr : s.power.ready = true) (hm : (s.aux i).move = some m) (hst : (s.sess i).state = .moving)
  (hw : s.NoneWaits)
include hr hm hst hw

section
variable (hab : m.abandoned = false) (hd : (s.aux i).damaged = false) (hbad : (s.sesAccess i).2 = false) (hk : m.kind ≠ .handoff)
  (hpump : s.moveWaits i = false) (hmeta : m.tier = 2 → (mget s.ftl.objects (gAddr m.dest)).any (·.complete) = true)
include hab hd hbad hk hpump hmeta

theorem exec_moveComplete_written : exec (.moveComplete i) s = .next ((s.opened i).moveWritten i m) := by
  have hgo : ¬ ((s.sess i).state ≠ .moving ∨ m.abandoned = true ∨ m.kind = .handoff ∨ m.needT1 ≠ 0 ∨ s.moveWaits i = true) := by
    simp [hst, hab, hk, hw i m hm, hpump]
  rw [exec_eq_moveComplete, execMoveComplete, State.ifReady_ready hr]
  extract_lets x a
  rw [show a.move = some m from hm]
  dsimp -zeta only
  extract_lets written
  have hwritten : written = true := by
    unfold written
    by_cases ht : m.tier = 2
    · cases ho : mget s.ftl.objects (gAddr m.dest) with
      | none => exact absurd ht (by simpa [ho] using hmeta)
      | some o => simpa [ho, ht] using hmeta ht
    · simp [ht]
  have hsound : ¬ a.damaged = true := by simp [a, hd]
  have hroot : x = (s.opened i).sess i := (s.opened_sess i i).symm
  rw [if_neg hgo, if_neg hsound, if_neg (by simp [hwritten]), State.sesOp_intact hbad, hroot]
  rfl

theorem exec_moveComplete_ends
    (hgood : m.src = .parked → gTier (s.sess i).root = 3 → (s.opened i).extentT3 i = .inl .ok) :
    ∃ t : State, exec (.moveComplete i) s = .next t ∧ (s.opened i).MoveEnded t i m := by
  rw [exec_moveComplete_written hr hm hst hw hab hd hbad hk hpump hmeta]
  exact ⟨_, rfl, State.moveWritten_good (hw.opened i) (by simpa using hgood)⟩

theorem exec_moveComplete_damaged
    (hsrc : m.src = .parked) (ht3 : gTier (s.sess i).root = 3) (hfound : (s.opened i).extentT3 i = .inl .damaged) :
    ∃ t : State, exec (.moveComplete i) s = .next t ∧ (t.sess i).state = .parked ∧ (t.sess i).root = (s.sess i).root ∧
      (t.aux i).damaged = true := by
  rw [exec_moveComplete_written hr hm hst hw hab hd hbad hk hpump hmeta]
  rw [State.moveWritten_damaged hsrc (by simpa using ht3) hfound]
  have hfailed := State.moveFails_ends (s := (s.opened i).countChecks 2 0) Code.tierError true ((s.opened_move i i).trans hm)
    ((congrArg (·.state) (s.opened_sess i i)).trans hst) hab hk (hw.opened i)
  exact ⟨_, rfl, hfailed.state.trans hsrc, hfailed.root.trans (congrArg (·.root) (s.opened_sess i i)), hfailed.damaged.trans (Bool.or_true _)⟩

end

theorem exec_moveAbandon_ends (hab : m.abandoned = true) :
    ∃ t : State, exec (.moveAbandon i) s = .next t ∧ (t.aux i).move = none ∧ (∀ k, k ≠ i → t.sess k = s.sess k) := by
  obtain ⟨hown, hmove, hothers⟩ := State.dropAbandoned_ends hm hab
  refine ⟨s.dropAbandoned i, ?_, hmove, hothers.sess⟩
  rw [exec_eq_moveAbandon, execMoveAbandon, State.ifReady_ready hr, State.retryUp_of_noneWaits (hw.ended hmove hothers.aux),
    State.settle_idle (by rw [hown, hst]; decide)]

theorem exec_moveFailed_ends (code : Nat) (damaged : Bool) (hab : m.abandoned = false) (hk : m.kind ≠ .handoff) :
    ∃ t : State, exec (.moveFailed i code damaged) s = .next t ∧ s.MoveFailed t i m damaged := by
  rw [exec_eq_moveFailed, execMoveFailed, State.ifReady_ready hr]
  refine ⟨_, rfl, ?_⟩
  split
  · obtain ⟨state, root, len, move, dam, others⟩ := State.moveFails_ends (s := s.countChecks 2 0) code damaged hm hst hab hk hw
    exact ⟨state, root, len, move, dam, others.sess, others.aux⟩
  · exact State.moveFails_ends code damaged hm hst hab hk hw

end

/-! ## Expiry (R25, R12, R13) -/

theorem State.expired_used {s : State} {i : Nat} (h : s.expired i = true) : (s.sess i).state ≠ .free := by
  intro hfree
  simp [State.expired, hfree] at h

theorem exec_sessionExpiry_ends {s : State} {i : Nat} (hr : s.power.ready = true) (hexp : s.expired i = true)
    (hbad : (s.sesAccess i).2 = false) :
    ∃ t : State, exec (.sessionExpiry i) s = .next t ∧ ((t.sess i).state = .ending ∨ (t.sess i).state = .free) ∧
      (∀ k, k ≠ i → t.sess k = s.sess k) := by
  have hsame := (s.opened i).sessEvent_same i Code.sessionExpired 0
  obtain ⟨hown, hothers⟩ := State.endSession_ends ((s.opened i).sessEvent i Code.sessionExpired) i
  have hexp' : (s.opened i).expired i = true := by simpa [State.expired] using hexp
  refine ⟨_, ?_, hown, fun k hk => by rw [hothers k hk, hsame.sess_eq, State.opened_sess]⟩
  rw [exec_eq_sessionExpiry, execSessionExpiry, State.ifReady_ready hr, if_neg (State.expired_used hexp)]
  simp only [State.sesAccess_eq hbad, hexp', Bool.false_eq_true, if_false, Bool.not_true]

theorem exec_sessionExpiry_corrupt {s : State} {i : Nat} (hr : s.power.ready = true) (hst : (s.sess i).state ≠ .free)
    (hbad : (s.sesAccess i).2 = true) : exec (.sessionExpiry i) s = .next ((s.opened i).entryCorrupt i) := by
  rw [exec_eq_sessionExpiry, execSessionExpiry, State.ifReady_ready hr, if_neg hst]
  simp only [State.sesAccess_eq hbad, if_true]

/-- Settles O35: a demotion that finds its place starts (`State.startPark_moves`); a move ends at its destination (`State.moveEnds_ends`), back where
it came from (`State.moveFails_ends`), or is forgotten (`State.dropAbandoned_ends`), and with no move that waits for T1 nothing else starts. -/
theorem movesStartAndEnd : Obligations.MovesStartAndEnd := by
  intro s i hr
  refine ⟨fun g hg hdue hst hexp hbad hm hok => exec_gracePeriodEnd_moves hr hg hdue hst hexp hbad hm hok, ?_, ?_,
    exec_sessionExpiry_ends hr, exec_sessionExpiry_corrupt hr⟩
  · intro p idle place hd hm hbad hok
    exact ⟨exec_idleDemotion_moves hr hm hbad hok hd, exec_t1PressureDemotion_moves hr hm hbad hok⟩
  · intro m hm hst hw
    refine ⟨fun hab hd hbad hk hpump hmeta hgood => ?_, exec_moveComplete_damaged hr hm hst hw, exec_moveAbandon_ends hr hm hst hw,
      fun code damaged hab hk => ?_⟩
    · obtain ⟨t, ht, hended⟩ := exec_moveComplete_ends hr hm hst hw hab hd hbad hk hpump hmeta hgood
      exact ⟨t, ht, hended.root, hended.grains, hended.retained, hended.move, hended.down, by simpa using hended.up,
        by simpa using hended.others.sess⟩
    · obtain ⟨t, ht, hfailed⟩ := exec_moveFailed_ends hr hm hst hw code damaged hab hk
      exact ⟨t, ht, hfailed.state, hfailed.move, hfailed.damaged, hfailed.root, hfailed.len, hfailed.others.sess⟩

end Sys2Proof.Machine
end

section
/-!
PROOF. Revival of a request and its output ring (02_grains_and_tiers, R49, R62, R75 to R77; 10_text_path, R289, R291, R292; 19_host_interface,
R504): obligation RevivalAndOutput.
-/
namespace Sys2Proof.Machine

open Sys2Proof

theorem exec_eq_grainLand (r : Nat) (res : Landing) (s : State) : exec (.grainLand r res) s = execGrainLand r res s := rfl
theorem exec_eq_tierLate (r : Nat) (s : State) : exec (.tierLate r) s = execTierLate r s := rfl
theorem exec_eq_tierError (r : Nat) (damaged : Bool) (s : State) : exec (.tierError r damaged) s = execTierError r damaged s := rfl
theorem exec_eq_chunkWriteFail (r : Nat) (s : State) : exec (.chunkWriteFail r) s = execChunkWriteFail r s := rfl
theorem exec_eq_tokRingConsWrite (j w : Nat) (v : W64) (s : State) : exec (.tokRingConsWrite j w v) s = execTokRingConsWrite j w v s := rfl

/-! ## Grains of a revival land (R75) -/

/-- A revival whose reads are issued has its places. -/
theorem State.placeRevival_placed {s : State} {r : Nat} {a : ReqAux} {g : SGrain} {rest : List SGrain} (ha : s.raux? r = some a)
    (hrev : a.revive = g :: rest) : s.placeRevival r = s := by
  have hplaced : a.placed = true := by simp [ReqAux.placed, hrev]
  unfold State.placeRevival
  simp only [ha, hplaced, true_or, if_true]

/-- The working list keeps every grain that is no MAP grain. -/
theorem State.mem_withMaps {s : State} {j pairs level epoch tier : Nat} {gs : List SGrain} {g : SGrain} (h : g ∈ gs) (hk : g.kind ≠ 2) :
    g ∈ (s.withMaps j pairs level epoch tier gs).1 :=
  List.mem_append_left _ (List.mem_filter.mpr ⟨h, by simp [hk]⟩)

/-- In `t`, grain `g` of the revival of request `r` has landed and entered the working list, and no session or request entry has changed since
`s`. -/
structure State.Landed (s t : State) (r : Nat) (a : ReqAux) (g : SGrain) (rest : List SGrain) : Prop where
  raux : ∃ b, t.raux? r = some b ∧ b.landed = a.landed + 1 ∧ b.revive = rest ∧ g ∈ b.work
  reqs : t.reqs = s.reqs
  sessions : t.sessions = s.sessions

theorem State.enterGrain_lands (s : State) {r : Nat} {a : ReqAux} {g : SGrain} {rest : List SGrain} (hrev : a.revive = g :: rest)
    (hk : g.kind ≠ 2) : s.Landed (s.enterGrain r a none) r a g rest := by
  unfold State.enterGrain
  extract_lets q x pairs
  rw [hrev]
  dsimp -zeta only
  extract_lets g' carry counted entered
  have hentered : s.Landed entered r a g rest := by
    have hmem : g ∈ (counted.withMaps q.job pairs x.level x.ownerEpoch 1 (a.work ++ [g'])).1 := State.mem_withMaps (by simp [g']) hk
    obtain ⟨n, hn⟩ := counted.withMaps_only q.job pairs x.level x.ownerEpoch 1 (a.work ++ [g'])
    have hraux : (counted.drawnTo n).raux? r = some { a with revive := rest, carry := carry, landed := a.landed + 1 } := by
      simp [counted, State.drawnTo, State.raux?, State.setRaux]
    unfold entered
    rw [hn, State.modRaux_some _ _ _ _ hraux]
    exact ⟨⟨_, by simp; rfl, rfl, rfl, hmem⟩, rfl, rfl⟩
  clear_value entered
  split
  · exact hentered
  · exact ⟨hentered.raux, hentered.reqs, hentered.sessions⟩

theorem State.rebuildPage_same (s : State) (lgn : Nat) : (s.rebuildPage lgn).reqs = s.reqs ∧ (s.rebuildPage lgn).sessions = s.sessions := by
  unfold State.rebuildPage
  split
  · exact ⟨rfl, rfl⟩
  · exact ⟨rfl, rfl⟩

/-- What GRAIN_LAND does once the pumps have taken up the reads of request `r`: what a read of T3 finds decides, else `res`. -/
def State.landRead (s : State) (r : Nat) (a : ReqAux) (res : Landing) : Res :=
  let i := (s.req r).session
  let root := (s.sess i).root
  let got := if gTier root = 3 then s.readT3 i a.landed else none
  if gTier root = 3 ∧ got.isNone then .next (s.endReq r Code.tierError false)
  else
    let res := if got.any (fun g => !g.2) then Landing.damaged else res
    let s := if gTier root = 2 ∧ res ≠ .ok then s.rebuildPage (gAddr root + a.landed) else s
    match res with
    | .ok => .next (s.enterGrain r a (got.map (·.1)))
    | .secondOk => .next ((s.countChecks 1 1).enterGrain r a (got.map (·.1)))
    | .damaged => .next ((s.countChecks 2 0).endReq r Code.stateLost false)

section
variable {s : State} {r : Nat} {a : ReqAux}

theorem State.landRead_lands {g : SGrain} {rest : List SGrain} {res : Landing} (ht : gTier (s.sess (s.req r).session).root ≠ 3)
    (hrev : a.revive = g :: rest) (hk : g.kind ≠ 2) (hres : res ∈ [Landing.ok, .secondOk]) :
    ∃ t, s.landRead r a res = .next t ∧ s.Landed t r a g rest := by
  have hrebuilt (u : State) (hreqs : u.reqs = s.reqs) (hsess : u.sessions = s.sessions) : s.Landed (u.enterGrain r a none) r a g rest := by
    obtain ⟨raux, reqs, sessions⟩ := u.enterGrain_lands hrev hk
    exact ⟨raux, reqs.trans hreqs, sessions.trans hsess⟩
  unfold State.landRead
  simp only [ht, false_and, if_false, Option.any_none, Bool.false_eq_true, Option.map_none]
  rcases List.mem_pair.mp hres with rfl | rfl
  · exact ⟨_, rfl, by simpa using hrebuilt s rfl rfl⟩
  · refine ⟨_, rfl, hrebuilt _ ?_ ?_⟩
    · split
      · exact (s.rebuildPage_same _).1
      · rfl
    · split
      · exact (s.rebuildPage_same _).2
      · rfl

theorem State.landRead_damaged (ht3 : gTier (s.sess (s.req r).session).root ≠ 3) (ht2 : gTier (s.sess (s.req r).session).root ≠ 2) :
    s.landRead r a .damaged = .next ((s.countChecks 2 0).endReq r Code.stateLost false) := by
  simp only [State.landRead, ht3, ht2, false_and, if_false, Option.any_none, Bool.false_eq_true]

/-- R62: a grain of T3 whose bytes fail a check. -/
theorem State.landRead_changed {bs : List Byte} {res : Landing} (ht : gTier (s.sess (s.req r).session).root = 3)
    (hgot : s.readT3 (s.req r).session a.landed = some (bs, false)) :
    s.landRead r a res = .next ((s.countChecks 2 0).endReq r Code.stateLost false) := by
  simp [State.landRead, ht, hgot]

theorem State.landRead_unread {res : Landing} (ht : gTier (s.sess (s.req r).session).root = 3)
    (hgot : s.readT3 (s.req r).session a.landed = none) : s.landRead r a res = .next (s.endReq r Code.tierError false) := by
  simp [State.landRead, ht, hgot]

end

section
variable {s : State} {r : Nat} {a : ReqAux} (hr : s.power.ready = true) (ha : s.raux? r = some a) (hend : a.ended = none)
include hr ha hend

section
variable {g : SGrain} {rest : List SGrain} (hl : a.landed < a.extent) (hrev : a.revive = g :: rest)
  (hpump : s.moveWaits (s.req r).session = false)
include hl hrev hpump

theorem exec_grainLand_read (res : Landing) : exec (.grainLand r res) s = s.landRead r a res := by
  rw [exec_eq_grainLand, execGrainLand, State.ifReady_ready hr]
  simp only [ha, State.placeRevival_placed ha hrev, hend, hrev, hpump, Nat.not_le.mpr hl, Option.isSome_none, List.isEmpty_cons,
    Bool.false_eq_true, or_self, if_false]
  rfl

end

/-! ## Revivals that end late or on a failed read (R71, R76, R77) -/

theorem exec_tierLate_ends (hwaits : a.landed < a.extent ∨ a.needT1 ≠ 0) (hlate : a.budget < s.now) :
    exec (.tierLate r) s = .next (s.endReq r Code.tierLate false) := by
  rw [exec_eq_tierLate, execTierLate, State.ifReady_ready hr]
  simp only [ha]
  exact if_pos ⟨hwaits, hlate, by rw [hend]; rfl⟩

theorem exec_tierError_ends (hl : a.landed < a.extent) :
    exec (.tierError r false) s = .next (s.endReq r Code.tierError false) ∧
      exec (.tierError r true) s = .next ((s.countChecks 2 0).endReq r Code.stateLost false) := by
  have hgo : ¬ (a.extent ≤ a.landed ∨ a.ended.isSome = true) := by
    rw [hend]
    simpa using hl
  constructor
  · rw [exec_eq_tierError, execTierError, State.ifReady_ready hr]
    simp [ha, hgo]
  · rw [exec_eq_tierError, execTierError, State.ifReady_ready hr]
    simp [ha, hgo]

end

/-! ## Chunks and ring space (R289, R291, R292) -/

theorem exec_chunkWriteFail_ends {s : State} {r : Nat} {a : ReqAux} (hr : s.power.ready = true) (ha : s.raux? r = some a) :
    ∃ (u : State) (v : ReqAux), exec (.chunkWriteFail r) s = .next (u.discardEnd r Code.hostDmaError) ∧ u.raux? r = some v ∧ v.chunkFailed = true ∧
      (u.func (s.job (s.req r).job).func).dmaFail = (s.func (s.job (s.req r).job).func).dmaFail + 1 ∧ u.sessions = s.sessions ∧
      u.reqs = s.reqs := by
  rw [exec_eq_chunkWriteFail, execChunkWriteFail, State.ifReady_ready hr]
  simp only [ha]
  refine ⟨_, _, rfl, by rw [State.raux?_setRaux, if_pos rfl], rfl, ?_, rfl, rfl⟩
  simp [State.dmaFailed, State.func, State.modFunc, mgetD_mmod]

/-- A write of a ring's consumed offset is stored within the ring, and what waits for room goes on; R6 follows an offset beyond the producer. -/
theorem exec_tokRingConsWrite_stores {s : State} {j w : Nat} {v : W64} {g : OutRing} (hr : s.regsUp = true) (hres : fld v 30 34 = 0)
    (hg : ((s.job j).compWell w).ring = some g) :
    exec (.tokRingConsWrite j w v) s = Res.spoilIf
      (.next ((s.modJob j (fun x => x.setComp w { x.compWell w with ring := some { g with cons := fld v 0 30 % 2 ^ g.log2 } })).retryEnds j w))
      (decide (2 ^ g.log2 ≤ fld v 0 30) ||
        decide ((g.prod + 2 ^ g.log2 - g.cons) % 2 ^ g.log2 < (fld v 0 30 + 2 ^ g.log2 - g.cons) % 2 ^ g.log2)) j := by
  rw [exec_eq_tokRingConsWrite, execTokRingConsWrite, State.ifUp, if_pos hr, if_neg (by simp [hres]), hg]

/-- Settles O36: a revival whose reads are issued goes by what they find (`State.landRead`), its grain enters the working list
(`State.enterGrain_lands`), and each failure ends the request with its own code; a write of the consumed offset is stored, then spoils the job
where it passes the producer. -/
theorem revivalAndOutput : Obligations.RevivalAndOutput := by
  intro s
  refine ⟨fun r a hr ha hend => ⟨fun g rest hl hrev hk hpump => ?_, exec_tierLate_ends hr ha hend, exec_tierError_ends hr ha hend⟩,
    fun r a hr ha => exec_chunkWriteFail_ends hr ha, fun j w v g hr hres hg => ?_⟩
  · have hread := exec_grainLand_read hr ha hend hl hrev hpump
    refine ⟨fun ht res hres => ?_, fun ht3 ht2 => ?_, fun bs res ht hgot => ?_, fun res ht hgot => ?_⟩
    · obtain ⟨t, hnext, ⟨b, hb, hlanded, hrevive, hwork⟩, hreqs, hsess⟩ := State.landRead_lands ht hrev hk hres
      exact ⟨t, b, (hread res).trans hnext, hb, hlanded, hrevive, hwork, hreqs, hsess⟩
    · exact (hread _).trans (State.landRead_damaged ht3 ht2)
    · exact (hread res).trans (State.landRead_changed ht hgot)
    · exact (hread res).trans (State.landRead_unread ht hgot)
  · have hstores := exec_tokRingConsWrite_stores hr hres hg
    refine ⟨fun hlt hle => ?_, fun hbeyond => ?_⟩
    · rw [hstores, decide_eq_false (Nat.not_le.mpr hlt), decide_eq_false (Nat.not_lt.mpr hle)]
      rfl
    · rw [hstores, show (_ || _) = true from by simpa using hbeyond]
      rfl

end Sys2Proof.Machine
end

section
/-!
PROOF. Where a bed goes on past a word, and the words that stop their program (05_fletegus_programming, R137 to R139, R155, R157;
06_fletegus_encodings, R162, R165, R182, R184): obligations BedGoesOn and ProgramFaults.
-/
namespace Sys2Proof.Machine

open Sys2Proof

/-! ## Past a word (R138, R139, R155) -/

theorem State.setCore_setCore (s : State) (c : Nat) (k k' : Core) : (s.setCore c k).setCore c k' = s.setCore c k' := by
  simp only [State.setCore, mput_mput]

theorem State.startWord_prog (s : State) (c : Nat) : (s.startWord c).prog = (s.core c).prog := by
  unfold State.startWord
  dsimp only
  split <;> rfl

/-- A running core's program is one of the device's, has started and is not being stopped (R147, R157). -/
theorem State.running_some {s : State} {c : Nat} {p : Prog} (h : s.running c = some p) :
    mget s.progs (s.core c).prog = some p ∧ p.stopping = none := by
  unfold State.running at h
  dsimp only at h
  split at h
  · cases h
  · rename_i q hq
    split at h
    · rename_i hc
      cases h
      simp only [Bool.and_eq_true] at hc
      obtain ⟨⟨⟨⟨⟨⟨-, hstop⟩, -⟩, -⟩, -⟩, -⟩, -⟩ := hc
      exact ⟨hq, Option.isNone_iff_eq_none.1 hstop⟩
    · cases h

/-- The program of a core at a word, with the moment of its first bed. -/
theorem State.atWord_prog {s : State} {c : Nat} {p : Prog} (h : s.running c = some p) :
    ∃ q, mget (s.atWord c p).progs (s.core c).prog = some q ∧ q.stopping = none := by
  obtain ⟨hp, hstop⟩ := State.running_some h
  simp only [State.atWord, State.setCore_progs, State.firstBed, State.startWord_prog]
  split
  · exact ⟨p, hp, hstop⟩
  · exact ⟨{ p with startAt := some s.now }, by rw [mget_mput, if_pos rfl], hstop⟩

/-- A program that is not being stopped does not end. -/
theorem State.endProg_live {s : State} {n : Nat} {p : Prog} (hp : mget s.progs n = some p) (hstop : p.stopping = none) : s.endProg n = s := by
  simp only [State.endProg, hp, hstop]

/-- A bed that has nothing left to do beside registers issues: only its core moves on (R138, R182). -/
theorem State.issueBed_quiet {s : State} {e : Env} {k : Core} (h : k.late = []) :
    (s.setCore e.core k).issueBed e = s.setCore e.core { k with
      pc := k.target.getD k.nextBed % 2 ^ 20, bedPos := 0, bedSlots := [], bedWrites := [], target := none, beds := (k.beds + 1) % 2 ^ 64 } := by
  simp only [State.issueBed, State.core_setCore, if_pos, h, List.foldl_nil, List.any_nil, Bool.false_and, Bool.false_eq_true, if_false,
    State.setCore_setCore]

/-- Settles O19: the word's core is written over the one its operands were read from (`State.setCore_setCore`), a bed with no late effect changes no
other part of the state (`State.issueBed_quiet`), and its program, which is not being stopped, does not end. -/
theorem bedGoesOn : Obligations.BedGoesOn := by
  intro s c h p k hrun hprog
  obtain ⟨q, hq, hlive⟩ := State.atWord_prog hrun
  have hat (k' : Core) : (s.atWord c p).setCore c k' = (s.firstBed k.prog p).setCore c k' := by
    rw [State.atWord, State.setCore_setCore, State.startWord_prog, hprog]
  refine ⟨fun hend => ?_, fun hend hlate => ?_⟩
  · simp only [State.wordDone, State.advance, hend, Bool.false_eq_true, if_false]
    exact hat _
  · simp only [State.wordDone, State.advance, hend, if_true]
    rw [State.issueBed_quiet hlate, State.endProg_live (by rw [hprog]; exact hq) hlive]
    refine (hat _).trans ?_
    cases k.target <;> simp [State.firstBed, Core.nextBed]

/-! ## Words that stop their program (R157) -/

section
variable {s : State} {i : Instr} {c slot : Nat} {h : Head} {writes : List Nat} {p : Prog} {legal : Prog → Bool} {body : Env → Core → Word}

/-- A word outside the code range stops its program. -/
theorem State.word_outside (hrun : s.running c = some p) (hout : p.covers (s.startWord c).wordAt = false) :
    s.word i c h slot writes legal body = .next ((s.atWord c p).wordFault c [(.address, (s.startWord c).wordAt)]) := by
  simp [State.word, hrun, hout, State.atWord]

/-- A word that its bed may not take stops its program. -/
theorem State.word_unfit (hrun : s.running c = some p) (hin : p.covers (s.startWord c).wordAt = true)
    (hw : encodeFletegus i = some (s.fetched c p)) (hfit : (s.startWord c).admits h slot writes = false) :
    s.word i c h slot writes legal body = .next ((s.atWord c p).wordFault c [(.bed, (s.startWord c).pc)]) := by
  simp [State.word, State.joinBed, hrun, hin, hw, hfit, State.atWord]

/-- A word of the code range that is no instruction and takes effect stops its program. -/
theorem State.word_wild (hrun : s.running c = some p) (hin : p.covers (s.startWord c).wordAt = true)
    (hw : encodeFletegus i ≠ some (s.fetched c p)) (hnone : decodeFletegus c (s.fetched c p) = none)
    (hfit : (s.startWord c).admits (decHead (s.fetched c p)) (wildSlot (s.fetched c p) (s.startWord c).bedPos) [] = true)
    (htakes : (s.startWord c).takes (decHead (s.fetched c p)) = true) :
    s.word i c h slot writes legal body = .next ((s.atWord c p).wordFault c [(.illegal, (s.startWord c).pc)]) := by
  simp [State.word, State.joinBed, hrun, hin, hw, hnone, hfit, htakes, State.atWord]

end

/-- A branch to an address of the code range that is not a multiple of 8 faults with ALIGN alone (R184). -/
theorem branchTo_misaligned {e : Env} {k : Core} {t : Nat} (ht : t % 8 ≠ 0) (hin : e.prog.covers t = true) :
    branchTo e k t = .fault [(.align, t)] := by
  have hrange : e.prog.codeBase ≤ t ∧ t < e.prog.codeBase + e.prog.code.length := by simpa [Prog.covers] using hin
  simp [branchTo, ht, hrange]

/-- An effect that leaves the programs leaves them when it is repeated. -/
theorem State.foldl_progs {α : Type} {f : State → α → State} (hf : ∀ t x, (f t x).progs = t.progs) (l : List α) (s : State) :
    (l.foldl f s).progs = s.progs := by
  induction l generalizing s with
  | nil => rfl
  | cons x l ih => rw [List.foldl_cons, ih, hf]

theorem State.setJobCore_progs (s : State) (j c : Nat) (k : Core) : (s.setJobCore j c k).progs = s.progs := by
  unfold State.setJobCore
  dsimp only
  split <;> rfl

theorem State.claimGroup_progs (s : State) (g j : Nat) : (s.claimGroup g j).progs = s.progs := rfl

/-- Starting a program changes its own entry only. -/
theorem State.startProg_progs (s : State) (n : Nat) (p : Prog) : (s.startProg n p).progs = mput s.progs n { p with started := true } := by
  simp only [State.startProg]
  rw [State.foldl_progs (fun t g => by split <;> rfl), State.foldl_progs (fun t l => State.setJobCore_progs ..),
    State.foldl_progs (fun t g => State.claimGroup_progs ..)]

theorem ne_of_mget_none {α : Type} {m : Map α} {i : Nat} (h : mget m i = none) : ∀ e ∈ m, i ≠ e.1 := by
  induction m with
  | nil => simp
  | cons e m ih =>
    rw [mget_cons] at h
    split at h
    · cases h
    · rename_i hne
      exact List.forall_mem_cons.2 ⟨Ne.symm hne, ih h⟩

/-- Starting the programs that wait gives no program to a number that has none. -/
theorem State.startProgs_none {s : State} {n : Nat} (h : mget s.progs n = none) : mget s.startProgs.progs n = none := by
  unfold State.startProgs
  refine List.foldlRecOn s.progs _ (motive := fun t : State => mget t.progs n = none) h fun t ht e he => ?_
  dsimp only
  split
  · exact ht
  · rw [State.startProg_progs, mget_mput, if_neg (ne_of_mget_none h e he), ht]

/-- A program that is stopped keeps the code it will end with (R157). -/
theorem State.stopProg_stopping {s : State} {n status : Nat} {record : List Byte} {p : Prog} (hp : mget s.progs n = some p)
    (hlive : p.stopping = none) : mget (s.stopProg n status record).progs n = some { p with stopping := some (status, record) } := by
  simp [State.stopProg, hp, hlive]

/-- A program that is being stopped waits for what it issued, or is gone (R149, R157). -/
theorem State.endProg_waits_or_gone {s : State} {n : Nat} {p : Prog} {x : Nat × List Byte} (hp : mget s.progs n = some p)
    (hx : p.stopping = some x) : s.endProg n = s ∨ mget (s.endProg n).progs n = none := by
  simp only [State.endProg, hp, hx]
  split
  · exact .inl rfl
  · right
    obtain ⟨js, fs, q, m, r, h, he, -, -⟩ := State.complete_only _ _ _ _ _ _
    rw [he]
    exact State.startProgs_none (by rw [mget_mdel, if_pos rfl])

/-- The program of a word with one fault is being stopped with PROGRAM_FAULT, or has ended (R157). -/
theorem State.wordFault_stops {s : State} {c : Nat} {x : Cause × Nat} {p : Prog} (hp : mget s.progs (s.core c).prog = some p)
    (hlive : p.stopping = none) :
    mget (s.wordFault c [x]).progs (s.core c).prog = none ∨
      ∃ record, mget (s.wordFault c [x]).progs (s.core c).prog = some { p with stopping := some (Code.programFault, record) } := by
  set record := faultRecord (s.core c) (s.core c).bedPos x.1 x.2
  have hstop := State.stopProg_stopping (status := Code.programFault) (record := record) hp hlive
  have hword : s.wordFault c [x] = (s.stopProg (s.core c).prog Code.programFault record).endProg (s.core c).prog := rfl
  rw [hword]
  obtain hwaits | hgone := State.endProg_waits_or_gone hstop rfl
  · exact .inr ⟨record, by rw [hwaits, hstop]⟩
  · exact .inl hgone

/-- Settles O21: each fault of a word is one branch of the operation behind every word (`State.word_outside`, `State.word_unfit`,
`State.word_illegal`, `State.word_wild`), and a word that faults stops its program (`State.wordFault_stops`). -/
theorem programFaults : Obligations.ProgramFaults := by
  intro c h f b s p hrun
  refine ⟨fun hout => State.word_outside hrun hout, fun hin hw hfit => State.word_unfit hrun hin hw hfit,
    fun hi hplain => State.word_illegal hi hplain, fun hi hrsv hrc ht hin => ?_,
    fun hin hw => ⟨fun hnone hfit htakes => State.word_wild hrun hin hw hnone hfit htakes, fun hsome => ?_⟩, fun cause a => ?_⟩
  · exact State.word_fault hi (by simp [hrsv, hrc]) (branchTo_misaligned ht hin)
  · exact State.word_other hrun hin hw (Option.ne_none_iff_isSome.1 hsome)
  · obtain ⟨q, hq, hlive⟩ := State.atWord_prog hrun
    have hcore : ((s.atWord c p).core c).prog = (s.core c).prog := by
      rw [State.atWord, State.core_setCore, if_pos rfl, State.startWord_prog]
    rw [← hcore] at hq ⊢
    obtain hgone | ⟨record, hstopped⟩ := State.wordFault_stops (x := (cause, a)) hq hlive
    · exact .inl (by rw [hgone]; rfl)
    · exact .inr (by rw [hstopped]; rfl)

end Sys2Proof.Machine
end

section
/-!
PROOF. Vector words that compare, select and move lanes (06_fletegus_encodings, Table 6.9; 04_cores, R112; 05_fletegus_programming, R130, R143):
obligation VectorMoves.
-/
namespace Sys2Proof.Machine

open Sys2Proof

/-! ## Lanes and mask bits of a register written from a list -/

/-- The digits of a number written in base `2 ^ w`, lowest first. -/
theorem testBit_foldr_digits {α : Type} {w : Nat} {g : α → Nat} (hg : ∀ x, g x < 2 ^ w) (xs : List α) {i j : Nat} (hj : j < w) :
    (xs.foldr (fun x a => g x + 2 ^ w * a) 0).testBit (w * i + j) = (xs[i]?.map (fun x => (g x).testBit j)).getD false := by
  induction xs generalizing i with
  | nil => simp
  | cons x xs ih =>
    rw [List.foldr_cons, Nat.add_comm (g x), Nat.testBit_two_pow_mul_add _ (hg x)]
    cases i with
    | zero => simp [hj]
    | succ i =>
      have hle : w ≤ w * (i + 1) + j := by rw [Nat.mul_succ]; omega
      have hsub : w * (i + 1) + j - w = w * i + j := by rw [Nat.mul_succ]; omega
      rw [if_neg (Nat.not_lt.2 hle), hsub, ih, List.getElem?_cons_succ]

/-- A vector register written lane by lane reads back. -/
theorem lane_ofLanes {g : Nat → W32} {i : Nat} (hi : i < 64) : lane (ofLanes ((List.range 64).map g)) i = g i := by
  have hdigits : (fun (x : W32) (a : Nat) => x.toNat + a <<< 32) = fun x a => x.toNat + 2 ^ 32 * a := by
    funext x a
    rw [Nat.shiftLeft_eq, Nat.mul_comm]
  refine BitVec.eq_of_getLsbD_eq fun j hj => ?_
  have hbit : 32 * i + j < 2048 := by omega
  rw [lane, ofLanes, hdigits, BitVec.getLsbD_extractLsb', BitVec.getLsbD_ofNat, testBit_foldr_digits (fun x => x.isLt) _ hj]
  simp [hi, hj, hbit, BitVec.testBit_toNat]

/-- A predicate register written bit by bit reads back. -/
theorem getLsbD_ofBits {g : Nat → Bool × Nat} {i : Nat} (hi : i < 64) :
    (BitVec.ofNat 64 (((List.range 64).map g).foldr (fun r a => b2n r.1 + 2 * a) 0)).getLsbD i = (g i).1 := by
  have hbits := testBit_foldr_digits (w := 1) (g := fun r : Bool × Nat => b2n r.1) (fun r => by cases r.1 <;> decide)
    ((List.range 64).map g) (i := i) Nat.one_pos
  rw [Nat.one_mul, Nat.add_zero, Nat.pow_one] at hbits
  rw [BitVec.getLsbD_ofNat, hbits]
  cases hb : (g i).1 <;> simp [hi, hb, b2n]

/-! ## Flags -/

theorem CoreRegs.raise_zero (r : CoreRegs) : r.raise 0 = r := by simp [CoreRegs.raise]

/-- Results without flags raise none. -/
theorem foldl_flags_zero {α : Type} (g : Nat → α) (l : List Nat) : (l.map (fun i => (g i, 0))).foldl (fun a r => a ||| r.2) 0 = 0 := by
  induction l with
  | nil => rfl
  | cons i l ih => rw [List.map_cons, List.foldl_cons, Nat.or_zero, ih]

theorem ite_pair_zero {α : Type} (b : Prop) [Decidable b] (x y : α) : (if b then (x, 0) else (y, 0)) = (if b then x else y, 0) := by
  split <;> rfl

/-! ## Masked writes without flags (R143) -/

theorem mapLanes_quiet (mask : W64) (rd : BitVec 5) (g : Nat → W32) (o n : CoreRegs) :
    mapLanes mask rd (fun i => (g i, 0)) o n =
      n.setV rd (ofLanes ((List.range 64).map (fun i => if mask.getLsbD i then g i else lane (o.vreg rd) i))) := by
  simp only [mapLanes, ite_pair_zero, foldl_flags_zero, CoreRegs.raise_zero, List.map_map]
  rfl

theorem mapBits_quiet (mask : W64) (rd : Nat) (g : Nat → Bool) (o n : CoreRegs) :
    ∃ v : W64, mapBits mask rd (fun i => (g i, 0)) o n = n.setP rd v ∧
      ∀ i < 64, v.getLsbD i = if mask.getLsbD i then g i else (o.preg rd).getLsbD i := by
  simp only [mapBits, ite_pair_zero, foldl_flags_zero, CoreRegs.raise_zero]
  exact ⟨_, rfl, fun i hi => getLsbD_ofBits hi⟩

/-- A write to p0 is discarded (R130). -/
theorem CoreRegs.setP_of_lt {r : CoreRegs} {rd : BitVec 5} {v : W64} (h : rd.toNat < 8) :
    r.setP rd.toNat v = if rd = 0 then r else { r with p := mput r.p rd.toNat v } := by
  have hz : rd.toNat = 0 ↔ rd = 0 := by rw [← BitVec.toNat_inj]; rfl
  simp only [CoreRegs.setP, Nat.mod_eq_of_lt h, hz]

/-- A lane of type H16 is its low half (R112). -/
theorem typedLane_eq (ty : BitVec 2) (x : W32) : typedLane ty.toNat x = if ty = 2 then BitVec.ofNat 32 (x.toNat % 65536) else x := by
  have hty : ty.toNat = 2 ↔ ty = 2 := by rw [← BitVec.toNat_inj]; rfl
  simp only [typedLane, laneBits, hty]
  split
  · rfl
  · exact BitVec.ofNat_toNat ..

/-! ## What the words leave -/

section
variable {s : State} {i : Instr} {c : Nat} {h : Head} {f : FmtR} {p : Prog} {legal : Prog → Bool}

/-- A word that writes the masked lanes of vd, without flags, writes nothing else. -/
theorem State.word_lanes {g : CoreRegs → Nat → W32} (hl : legal p = true) (hi : s.Issues i c h Slot.vector [wV f.rd] p) :
    let k := s.wordCore c Slot.vector [wV f.rd]
    ∃ v : BitVec 2048, s.word i c h Slot.vector [wV f.rd] legal (regsOnly fun o n =>
          mapLanes (o.preg f.mask.toNat) f.rd (fun i => (g o i, 0)) o n) =
        .next (s.wordDone c h p { k with regs := { k.regs with v := mput k.regs.v f.rd.toNat v } }) ∧
      ∀ i < 64, lane v i = if (k.snap.preg f.mask.toNat).getLsbD i then g k.snap i else lane (k.snap.vreg f.rd) i := by
  refine ⟨_, State.word_done hi hl ?_, fun i hi => lane_ofLanes hi⟩
  rw [regsOnly, mapLanes_quiet]
  rfl

/-- A compare of type I32 writes the masked bits of p[RD] and nothing else (R130). -/
theorem vecCmp_int {fi : W32 → W32 → Bool} {ff : Fmt → Nat → Nat → Bool × Nat} (hty : f.ty = 0) (hrd : f.rd.toNat < 8)
    (hl : vecLegal f [0] false true = true) (hi : s.Issues i c h Slot.vector [wP f.rd.toNat] p) :
    let k := s.wordCore c Slot.vector [wP f.rd.toNat]
    ∃ v : W64, vecCmp i fi ff c h f s = .next (s.wordDone c h p { k with regs := if f.rd = 0 then k.regs else
          { k.regs with p := mput k.regs.p f.rd.toNat v } }) ∧
      ∀ i < 64, v.getLsbD i = if (k.snap.preg f.mask.toNat).getLsbD i then fi (lane (k.snap.vreg f.ra) i) (lane (k.snap.vreg f.rb) i)
        else (k.snap.preg f.rd.toNat).getLsbD i := by
  intro k
  obtain ⟨v, hv, hbits⟩ := mapBits_quiet (k.snap.preg f.mask.toNat) f.rd.toNat
    (fun i => fi (lane (k.snap.vreg f.ra) i) (lane (k.snap.vreg f.rb) i)) k.snap k.regs
  refine ⟨v, State.word_done hi ?_ ?_, hbits⟩
  · simp_all [vecLegal, isP]
  · rw [← CoreRegs.setP_of_lt hrd, ← hv]
    simp [regsOnly, hty, k]

end

/-- Settles O23: the compares are `vecCmp_int`; VSEL, VBCS and VIDX write masked lanes (`State.word_lanes`), VINS a whole register whose lanes read
back (`lane_ofLanes`), each lane in its type (`typedLane_eq`). -/
theorem vectorMoves : Obligations.VectorMoves := by
  intro c h f s p
  simp only [← typedLane_eq]
  refine ⟨fun hty hrd hl e he hi => ?_, fun hl e he hp hi => ?_, fun hl hi => State.word_done hi hl rfl, fun hl hi => ?_⟩
  · simp only [List.mem_cons, List.not_mem_nil, or_false] at he
    obtain rfl | rfl | rfl := he <;> exact vecCmp_int hty hrd hl hi
  · simp only [List.mem_cons, List.not_mem_nil, or_false] at he
    obtain rfl | rfl | rfl := he
    · exact State.word_lanes (by simpa [hl, isP] using hp) hi
    · exact State.word_lanes hl hi
    · exact State.word_lanes hl hi
  · exact ⟨_, State.word_done hi hl rfl, fun i hi => lane_ofLanes hi⟩

end Sys2Proof.Machine
end

section
/-!
PROOF. Remote writes that land (04_cores, R116; 05_fletegus_programming, R133; 12_jobs_slices_sharing, R328, R339): a statement about every state
that fails, obligation Programs.
-/
namespace Sys2Proof.Machine

open Sys2Proof

/-! ## A remote write to a slot that is not its job's -/

/-- Jobs 0 and 1 share groups 0 and 1, each with its own half of the slots of every store. Group 0 has the turn of job 0 and group 1 that of job 1;
core 0 has one byte on its way to the first of job 1's slots in core 8, of group 1. -/
def State.foreignWrite : State :=
  { power := { ready := true }
    jobs := [(0, { active := true, slice := { groups := 3, slots := 0x000000FFFFFF } }),
      (1, { active := true, slice := { groups := 3, slots := 0xFFFFFF000000 } })]
    cores := [(0, { flight := [.write 8 0x60000 [1]] })]
    groups := [(0, { state := 0, job := 0 }), (1, { state := 0, job := 1 })] }

/-- The state past the byte's landing. -/
def State.foreignWritten : State := (State.foreignWrite.setCore 0 {}).storeAt 0 8 0x60000 [1]

theorem exec_foreignWrite : exec (.remoteWriteLand 0 8) State.foreignWrite = .next State.foreignWritten := rfl

/-- Core 8 as job 0 has it takes only the slots of job 0 along (R339): the byte is not read back. -/
theorem State.foreignWritten_store :
    (State.foreignWritten.jobCore 0 8).store ≠ Memory.write (some 0) (State.foreignWrite.jobCore 0 8).store 0x60000 [1] := by
  decide

/-- Refutes O39: the clause that a remote write leaves its bytes in the core as the sender's job has it lacks the hypothesis that they lie in slots of
that job, as R328 has them. In `State.foreignWrite` they do not, and another job holds the core. -/
theorem not_programs : ¬ Obligations.Programs := by
  intro hall
  obtain ⟨-, -, hremote, -⟩ := hall State.foreignWrite
  obtain ⟨hwrite, -⟩ := hremote 0 0x60000 8 0 0 [1] [] rfl
  obtain ⟨-, hlands⟩ := hwrite rfl
  exact State.foreignWritten_store (hlands State.foreignWritten exec_foreignWrite)

end Sys2Proof.Machine
end

section
/-!
SUPPORT. What the operations of a bank sequencer leave (08_bank_logic, R215, R218, R223 to R232): its contexts and its segment, a stop with its
notification, and the bytes of rows.
-/
namespace Sys2Proof.Machine

open Sys2Proof

/-! ## The contexts of a sequencer and its segment -/

section
variable (q : Seq) (dev d : Bool) (x : SeqCtx)

@[simp] theorem Seq.ctx_setCtx : (q.setCtx dev x).ctx dev = x := by cases dev <;> rfl
@[simp] theorem Seq.setCtx_running : (q.setCtx dev x).running = q.running := by cases dev <;> rfl
@[simp] theorem Seq.setCtx_winJob : (q.setCtx dev x).winJob = q.winJob := by cases dev <;> rfl

/-- The end of a segment leaves both contexts as they are. -/
@[simp] theorem Seq.endSegment_ctx : (q.endSegment dev).ctx d = q.ctx d := by
  unfold Seq.endSegment
  split <;> rfl

end

/-- Ending the segment that runs makes a boundary due (R226). -/
theorem Seq.endSegment_running {q : Seq} {dev : Bool} (h : q.running = some dev) :
    q.endSegment dev = { q with running := none, boundary := true, segs := q.segs + 1 } :=
  if_pos h

theorem Seq.endSegment_stops {q : Seq} {dev : Bool} (h : q.running = some dev) :
    (q.endSegment dev).running = none ∧ (q.endSegment dev).boundary = true := by
  rw [Seq.endSegment_running h]
  exact ⟨rfl, rfl⟩

/-- Which context has the next segment, when none runs and no boundary is due (R218). -/
theorem Seq.startSegment_running {q : Seq} (hrun : q.running = none) (hbound : q.boundary = false) :
    q.startSegment.running = if q.user.busy && q.dev.busy then some (!q.lastDev) else if q.user.busy then some false
      else if q.dev.busy then some true else none := by
  unfold Seq.startSegment
  cases q.user.busy <;> cases q.dev.busy <;> simp [hrun, hbound]

/-- What the start of a segment can change: which context runs, and the time spent. -/
theorem Seq.startSegment_only (q : Seq) : ∃ r d t, q.startSegment = { q with running := r, lastDev := d, segNs := t } := by
  unfold Seq.startSegment
  dsimp only
  split
  · exact ⟨_, _, _, rfl⟩
  · split <;> exact ⟨_, _, _, rfl⟩

@[simp] theorem Seq.startSegment_user (q : Seq) : q.startSegment.user = q.user := by
  obtain ⟨r, d, ns, h⟩ := q.startSegment_only
  rw [h]

/-- The start of a segment leaves what the boundary before it left (R227). -/
theorem Seq.startSegment_boundary (q : Seq) :
    q.startSegment.boundary = q.boundary ∧ q.startSegment.held = q.held ∧ q.startSegment.postponed = q.postponed := by
  obtain ⟨r, d, ns, h⟩ := q.startSegment_only
  rw [h]
  exact ⟨rfl, rfl, rfl⟩

/-! ## What an update of a sequencer leaves -/

theorem State.setSeq_setSeq (s : State) (i : Nat) (x y : Seq) : (s.setSeq i x).setSeq i y = s.setSeq i y := by
  simp only [State.setSeq, mput_mput]

@[simp] theorem State.setSeq_offline (s : State) (n : Nat) (q : Seq) (kind i : Nat) : (s.setSeq n q).offline kind i = s.offline kind i := rfl

@[simp] theorem State.setSeq_jobCore (s : State) (i : Nat) (y : Seq) (j c : Nat) : (s.setSeq i y).jobCore j c = s.jobCore j c := rfl

/-- The job whose core a context reaches does not change with the context. -/
theorem State.setSeq_ctxJob (s : State) (i : Nat) (y q : Seq) (x : SeqCtx) (dev d : Bool) (c : Nat) :
    (s.setSeq i y).ctxJob (q.setCtx dev x) d c = s.ctxJob q d c := by
  simp [State.ctxJob]

theorem State.ifUp_up {s : State} (h : s.regsUp = true) (r : Res) : s.ifUp r = r := if_pos h

/-! ## Stops and their notification (R231, R232) -/

/-- What an update of a core as a job has it can change, when it is made. -/
theorem State.setJobCoreIf_only (s : State) (made : Bool) (j c : Nat) (k : Core) :
    ∃ cs gs, (if made then s.setJobCore j c k else s) = { s with cores := cs, groups := gs } := by
  unfold State.setJobCore
  dsimp only
  split
  · split
    · exact ⟨_, s.groups, rfl⟩
    · exact ⟨_, _, rfl⟩
  · exact ⟨s.cores, s.groups, rfl⟩

/-- What the end notification can change: a semaphore of a core as its job has it, and a function's signals. -/
theorem State.seqNotify_only (s : State) (q : Seq) (dev : Bool) (x : SeqCtx) :
    ∃ cs gs fs, s.seqNotify q dev x = { s with cores := cs, groups := gs, funcs := fs } := by
  unfold State.seqNotify
  obtain ⟨cs, gs, h⟩ := s.setJobCoreIf_only _ _ _ _
  dsimp only
  rw [h]
  split
  · exact ⟨cs, gs, _, rfl⟩
  · exact ⟨cs, gs, s.funcs, rfl⟩

/-- A context that ends is no longer busy, and the segment it ran ends with it. -/
theorem State.seqEnd_seq (s : State) (n : Nat) (dev : Bool) (f : SeqCtx → SeqCtx) :
    (s.seqEnd n dev f).seq n = ((s.seq n).setCtx dev { f ((s.seq n).ctx dev) with busy := false }).endSegment dev := by
  unfold State.seqEnd
  obtain ⟨cs, gs, fs, h⟩ := State.seqNotify_only _ _ _ _
  dsimp only
  rw [h]
  refine (State.seq_setSeq _ n n _).trans ((if_pos rfl).trans ?_)
  simp only [Seq.endSegment, Seq.setCtx_running]
  cases dev <;> rfl

theorem State.seqEnd_hbm (s : State) (n : Nat) (dev : Bool) (f : SeqCtx → SeqCtx) : (s.seqEnd n dev f).hbm = s.hbm := by
  unfold State.seqEnd
  obtain ⟨cs, gs, fs, h⟩ := State.seqNotify_only _ _ _ _
  dsimp only
  rw [h]
  rfl

/-! ## The next address (R223) -/

theorem State.seqNext_lt {s : State} {n : Nat} {dev : Bool} (cost : Nat) (h : ((s.seq n).ctx dev).pc < 255) :
    s.seqNext n dev cost =
      s.setSeq n (({ s.seq n with segNs := (s.seq n).segNs + cost } : Seq).setCtx dev { (s.seq n).ctx dev with pc := ((s.seq n).ctx dev).pc + 1 }) :=
  if_neg (Nat.ne_of_lt h)

/-- A context changed at its microword goes on to the next address. -/
theorem State.seqNext_setCtx {s : State} {n : Nat} {dev : Bool} {x : SeqCtx} (cost : Nat) (hpc : x.pc < 255) :
    (s.setSeq n ((s.seq n).setCtx dev x)).seqNext n dev cost =
      s.setSeq n (({ s.seq n with segNs := (s.seq n).segNs + cost } : Seq).setCtx dev { x with pc := x.pc + 1 }) := by
  rw [State.seqNext_lt cost (by simpa using hpc), State.setSeq_setSeq, State.seq_setSeq, if_pos rfl, Seq.ctx_setCtx]
  cases dev <;> rfl

/-! ## Rows -/

/-- Grains that lie over a run leave its length. -/
theorem overlay_length (a : Nat) (bs : List Byte) (p : Nat × List Byte) : (overlay a bs p).length = bs.length := by
  unfold overlay
  dsimp only
  split
  · simp only [List.length_append, List.length_take, List.length_drop]
    omega
  · rfl

theorem State.hbmRead_length (s : State) (a n : Nat) : (s.hbmRead a n).length = n := by
  unfold State.hbmRead
  refine List.foldlRecOn _ _ (motive := fun bs : List Byte => bs.length = n) (by simp [Memory.read]) fun bs h p _ => ?_
  rw [overlay_length, h]

/-- A row has 1,024 bytes (R213). -/
@[simp] theorem State.row_length (s : State) (a : Nat) : (s.row a).length = 1024 := s.hbmRead_length a 1024

theorem rowOp_length (fn : Nat) (inv : Bool) (a b : List Byte) : (rowOp fn inv a b).length = min a.length b.length := by
  simp [rowOp]

/-- A byte of a row operation (R214). -/
theorem rowOp_byte {fn : Nat} {a b : List Byte} {k : Nat} (inv : Bool) (hfn : fn < 4) (ha : k < a.length) (hb : k < b.length) :
    (rowOp fn inv a b)[k]? = some (
      let u := a.getD k 0
      let v := b.getD k 0
      let r := [u &&& v, u ||| v, u ^^^ v, u].getD fn 0
      if inv then ~~~r else r) := by
  have hk : k < (rowOp fn inv a b).length := by rw [rowOp_length]; omega
  rw [List.getElem?_eq_getElem hk]
  simp only [rowOp, List.getElem_map, List.getElem_zip, List.getD_eq_getElem _ _ ha, List.getD_eq_getElem _ _ hb]
  interval_cases fn <;> rfl

/-- A byte of the bytewise majority of three rows. -/
theorem majority_byte {a b c : List Byte} {k : Nat} (ha : k < a.length) (hb : k < b.length) (hc : k < c.length) :
    ((a.zip (b.zip c)).map (fun p => (p.1 &&& p.2.1) ||| (p.1 &&& p.2.2) ||| (p.2.1 &&& p.2.2)))[k]? = some (
      let u := a.getD k 0
      let v := b.getD k 0
      let z := c.getD k 0
      (u &&& v) ||| (u &&& z) ||| (v &&& z)) := by
  have hk : k < (a.zip (b.zip c)).length := by simp; omega
  rw [List.getElem?_map, List.getElem?_eq_getElem hk]
  simp only [List.getElem_zip, Option.map_some, List.getD_eq_getElem _ _ ha, List.getD_eq_getElem _ _ hb, List.getD_eq_getElem _ _ hc]

/-- A byte of a string repeated `m` times. -/
theorem flatten_replicate_byte {bs : List Byte} {m k : Nat} (hk : k < m * bs.length) :
    (List.replicate m bs).flatten[k]? = bs[k % bs.length]? := by
  induction m generalizing k with
  | zero => omega
  | succ m ih =>
    rw [List.replicate_succ, List.flatten_cons]
    by_cases hlt : k < bs.length
    · rw [List.getElem?_append_left hlt, Nat.mod_eq_of_lt hlt]
    · rw [List.getElem?_append_right (by omega), ih (by rw [Nat.succ_mul] at hk; omega), ← Nat.mod_eq_sub_mod (by omega)]

end Sys2Proof.Machine
end

section
/-!
PROOF. The microwords of a bank sequencer (08_bank_logic, R214, R215, R223 to R226, R230, R232, Table 8.9): obligation Microwords.
-/
namespace Sys2Proof.Machine

open Sys2Proof

theorem exec_eq_microHalt (n : Nat) (dev : Bool) (s : State) : exec (.microHalt n dev) s = execMicroHalt n dev s := rfl
theorem exec_eq_microNop (n : Nat) (dev : Bool) (s : State) : exec (.microNop n dev) s = execMicroNop n dev s := rfl
theorem exec_eq_segend (n : Nat) (dev : Bool) (s : State) : exec (.segend n dev) s = execSegend n dev s := rfl
theorem exec_eq_rop (n : Nat) (dev : Bool) (ecc : RowEcc) (s : State) : exec (.rop n dev ecc) s = execRop n dev ecc s := rfl
theorem exec_eq_maj (n : Nat) (dev : Bool) (ecc : RowEcc) (s : State) : exec (.maj n dev ecc) s = execMaj n dev ecc s := rfl
theorem exec_eq_microFill (n : Nat) (dev : Bool) (s : State) : exec (.microFill n dev) s = execMicroFill n dev s := rfl
theorem exec_eq_popc (n : Nat) (dev : Bool) (ecc : RowEcc) (s : State) : exec (.popc n dev ecc) s = execPopc n dev ecc s := rfl
theorem exec_eq_microIdx (n : Nat) (dev : Bool) (s : State) : exec (.microIdx n dev) s = execMicroIdx n dev s := rfl
theorem exec_eq_microLoop (n : Nat) (dev : Bool) (s : State) : exec (.microLoop n dev) s = execMicroLoop n dev s := rfl

/-- A microword that its context stands at, and its segment has time for, has its own effect. -/
theorem State.Microruns.micro {s : State} {n : Nat} {dev : Bool} {m : Micro} {w : W32} (h : s.Microruns n dev m w)
    (body : W32 → SeqCtx → State → State) : s.micro n dev m body = .next (body w ((s.seq n).ctx dev) s) := by
  unfold State.micro
  rw [if_neg (by simp [h.runs, h.busy, h.up]), h.word]
  dsimp only
  rw [h.row]
  simp [Nat.not_lt.2 h.fits]

section
variable {s : State} {n : Nat} {dev : Bool} {w : W32}

/-! ## HALT, NOP and SEGEND -/

theorem microHalt_ends (h : s.Microruns n dev .halt w) : ∃ t : State, exec (.microHalt n dev) s = .next t ∧ ((t.seq n).ctx dev).done = true ∧
    ((t.seq n).ctx dev).busy = false ∧ (t.seq n).running = none ∧ (t.seq n).boundary = true ∧ t.hbm = s.hbm := by
  rw [exec_eq_microHalt, execMicroHalt, h.micro]
  refine ⟨_, rfl, ?_⟩
  rw [State.seqEnd_seq, Seq.endSegment_ctx, Seq.ctx_setCtx]
  obtain ⟨hnone, hbound⟩ := Seq.endSegment_stops (((s.seq n).setCtx_running dev _).trans h.runs)
  exact ⟨rfl, rfl, hnone, hbound, s.seqEnd_hbm n dev _⟩

theorem microNop_next (h : s.Microruns n dev .nop w) : exec (.microNop n dev) s = .next (s.seqNext n dev 2) := by
  rw [exec_eq_microNop, execMicroNop, h.micro]

/-- The state past a microword that ends its segment and leaves its context as `x`. -/
def State.segmentEnded (s : State) (n : Nat) (dev : Bool) (cost : Nat) (x : SeqCtx) : State :=
  s.setSeq n ((({ s.seq n with segNs := (s.seq n).segNs + cost } : Seq).setCtx dev x).endSegment dev)

theorem State.segmentEnded_stops (cost : Nat) (x : SeqCtx) (h : (s.seq n).running = some dev) :
    ((s.segmentEnded n dev cost x).seq n).ctx dev = x ∧ ((s.segmentEnded n dev cost x).seq n).running = none ∧
      ((s.segmentEnded n dev cost x).seq n).boundary = true ∧ (s.segmentEnded n dev cost x).hbm = s.hbm := by
  rw [State.segmentEnded, State.seq_setSeq, if_pos rfl, Seq.endSegment_ctx]
  obtain ⟨hnone, hbound⟩ := Seq.endSegment_stops ((Seq.setCtx_running { s.seq n with segNs := (s.seq n).segNs + cost } dev x).trans h)
  exact ⟨Seq.ctx_setCtx .., hnone, hbound, rfl⟩

theorem exec_segend (h : s.Microruns n dev .segend w) (hpc : ((s.seq n).ctx dev).pc < 255) :
    exec (.segend n dev) s = .next (s.segmentEnded n dev 2 { (s.seq n).ctx dev with pc := ((s.seq n).ctx dev).pc + 1 }) := by
  rw [exec_eq_segend, execSegend, h.micro, State.seqNext_lt 2 hpc]
  dsimp only
  rw [State.setSeq_setSeq, State.seq_setSeq, if_pos rfl, State.segmentEnded]

theorem segend_ends (h : s.Microruns n dev .segend w) (hpc : ((s.seq n).ctx dev).pc < 255) :
    ∃ t : State, exec (.segend n dev) s = .next t ∧ ((t.seq n).ctx dev).pc = ((s.seq n).ctx dev).pc + 1 ∧
      (t.seq n).running = none ∧ (t.seq n).boundary = true ∧ ((t.seq n).ctx dev).busy = true ∧ t.hbm = s.hbm := by
  obtain ⟨hctx, hnone, hbound, hhbm⟩ := State.segmentEnded_stops 2 { (s.seq n).ctx dev with pc := ((s.seq n).ctx dev).pc + 1 } h.runs
  refine ⟨_, exec_segend h hpc, ?_⟩
  rw [hctx]
  exact ⟨rfl, hnone, hbound, h.busy, hhbm⟩

/-! ## LOOP and IDX -/

/-- A loop whose index register comes to 0 goes on, another goes back, and each ends the segment (R226). -/
theorem exec_microLoop (h : s.Microruns n dev .loop w) (hpc : ((s.seq n).ctx dev).pc < 255) :
    exec (.microLoop n dev) s = .next (
      let x := (s.seq n).ctx dev
      let v := mgetD x.idx (fld w 22 3) 0 - 1
      s.segmentEnded n dev 2 { x with idx := mput x.idx (fld w 22 3) v, pc := if v = 0 then x.pc + 1 else fld w 0 8 }) := by
  rw [exec_eq_microLoop, execMicroLoop, h.micro]
  dsimp only
  generalize mgetD ((s.seq n).ctx dev).idx (fld w 22 3) 0 - 1 = v
  by_cases hv : v = 0
  · simp only [if_pos hv]
    rw [State.seqNext_setCtx 2 (by exact hpc), State.setSeq_setSeq, State.seq_setSeq, if_pos rfl]
    rfl
  · simp only [if_neg hv]
    rw [State.setSeq_setSeq, State.seq_setSeq, if_pos rfl, State.segmentEnded]
    cases dev <;> rfl

theorem microLoop_ends (h : s.Microruns n dev .loop w) (hpc : ((s.seq n).ctx dev).pc < 255) :
    ∃ t : State, exec (.microLoop n dev) s = .next t ∧
      mgetD ((t.seq n).ctx dev).idx (fld w 22 3) 0 = mgetD ((s.seq n).ctx dev).idx (fld w 22 3) 0 - 1 ∧
      ((t.seq n).ctx dev).pc = (if mgetD ((s.seq n).ctx dev).idx (fld w 22 3) 0 - 1 = 0 then ((s.seq n).ctx dev).pc + 1 else fld w 0 8) ∧
      (t.seq n).running = none ∧ (t.seq n).boundary = true ∧ t.hbm = s.hbm := by
  obtain ⟨hctx, hnone, hbound, hhbm⟩ := State.segmentEnded_stops 2 _ h.runs
  refine ⟨_, exec_microLoop h hpc, ?_⟩
  rw [hctx]
  exact ⟨by rw [mgetD_mput, if_pos rfl], rfl, hnone, hbound, hhbm⟩

/-- SET, MOV and LDL by the operation that the word names (R225). -/
theorem microIdx_sets (h : s.Microruns n dev .idx w) :
    let x := (s.seq n).ctx dev
    let imm := BitVec.ofNat 16 (fld w 0 16)
    let src := mgetD x.idx (fld w 20 3) 0 + imm
    let set (v : BitVec 16) : State := (s.setSeq n ((s.seq n).setCtx dev { x with idx := mput x.idx (fld w 23 3) v })).seqNext n dev 2
    (fld w 26 2 = 0 → exec (.microIdx n dev) s = .next (set imm)) ∧
    (fld w 26 2 = 1 → exec (.microIdx n dev) s = .next (set src)) ∧
    (fld w 26 2 = 2 → src.toNat ≤ 127 → exec (.microIdx n dev) s = .next (set (mgetD x.list src.toNat 0))) ∧
    (fld w 26 2 = 2 → 127 < src.toNat → exec (.microIdx n dev) s = .next (s.seqFault n dev SeqCause.list)) := by
  intro x imm src set
  rw [exec_eq_microIdx, execMicroIdx, h.micro]
  dsimp only
  refine ⟨fun hset => ?_, fun hmov => ?_, fun hldl hin => ?_, fun hldl hout => ?_⟩
  · rw [hset]
    rfl
  · rw [hmov]
    rfl
  · rw [hldl]
    exact congrArg _ (if_neg (Nat.not_lt.2 hin))
  · rw [hldl]
    exact congrArg _ (if_pos hout)

/-! ## Words that read rows (R214, R215, R230) -/

/-- The operands that ROP names: its destination, and one source to copy or two to combine (R214). -/
def Seq.ropOperands (q : Seq) (n : Nat) (dev : Bool) (w : W32) : List RowOp :=
  let b := q.bank dev w
  [q.operand n dev b (fld w 18 7), q.operand n dev b (fld w 11 7)] ++ (if fld w 26 2 = 3 then [] else [q.operand n dev b (fld w 4 7)])

/-- ROP on the rows that its operands name, after what the edge ECC finds (R230). -/
theorem exec_rop (h : s.Microruns n dev .rop w) {as : List Nat}
    (hrows : rowAddrs ((s.seq n).ropOperands n dev w) = .ok as) (ecc : RowEcc) :
    exec (.rop n dev ecc) s = .next (s.withEcc n dev ecc (as.getD 1 0) fun s =>
      (s.setRows (s.seq n).winJob (as.take 1) (rowOp (fld w 26 2) (bit w 25) (s.row (as.getD 1 0))
        (if fld w 26 2 = 3 then s.row (as.getD 1 0) else s.row (as.getD 2 0)))).seqNext n dev (microCost w .rop)) := by
  rw [exec_eq_rop, execRop, h.micro]
  simp only [Seq.ropOperands, beq_iff_eq] at hrows ⊢
  rw [hrows]
  cases ecc <;> rfl

theorem rop_rows (h : s.Microruns n dev .rop w) (d a e : Nat)
    (hrows : rowAddrs ((s.seq n).ropOperands n dev w) = .ok (if fld w 26 2 = 3 then [d, a] else [d, a, e])) :
    (∃ bs : List Byte, exec (.rop n dev .clean) s = .next ((s.setRows (s.seq n).winJob [d] bs).seqNext n dev (microCost w .rop)) ∧ bs.length = 1024 ∧
      ∀ k < 1024, bs[k]? = some (
        let u := (s.row a).getD k 0
        let v := (s.row e).getD k 0
        let r := [u &&& v, u ||| v, u ^^^ v, u].getD (fld w 26 2) 0
        if bit w 25 then ~~~r else r)) ∧
    exec (.rop n dev .correctable) s = .next ((s.setSeq n ((s.seq n).endSegment dev)).edgeCorrected a) ∧
    exec (.rop n dev .uncorrectable) s = .next (s.seqFault n dev SeqCause.data) := by
  have hexec := exec_rop h hrows
  by_cases hcopy : fld w 26 2 = 3
  · simp only [if_pos hcopy] at hexec
    refine ⟨⟨_, hexec .clean, by simp [rowOp_length], fun k hk => ?_⟩, hexec .correctable, hexec .uncorrectable⟩
    rw [rowOp_byte _ (by omega) (by simpa using hk) (by simpa using hk), hcopy]
    rfl
  · simp only [if_neg hcopy] at hexec
    refine ⟨⟨_, hexec .clean, by simp [rowOp_length], fun k hk => ?_⟩, hexec .correctable, hexec .uncorrectable⟩
    exact rowOp_byte _ (Nat.mod_lt _ (by omega)) (by simpa using hk) (by simpa using hk)

theorem maj_rows (h : s.Microruns n dev .maj w) (a e f : Nat)
    (hrows : let q := s.seq n
      rowAddrs ([18, 11, 4].map (fun lo => (q.operand n dev (q.bank dev w) (fld w lo 7)).onlyTemp)) = .ok [a, e, f]) :
    ∃ bs : List Byte, exec (.maj n dev .clean) s = .next ((s.setRows (s.seq n).winJob [a, e, f] bs).seqNext n dev 40) ∧ bs.length = 1024 ∧
      ∀ k < 1024, bs[k]? = some (
        let u := (s.row a).getD k 0
        let v := (s.row e).getD k 0
        let z := (s.row f).getD k 0
        (u &&& v) ||| (u &&& z) ||| (v &&& z)) := by
  rw [exec_eq_maj, execMaj, h.micro]
  dsimp only at hrows ⊢
  rw [hrows]
  refine ⟨_, rfl, by simp, fun k hk => ?_⟩
  exact majority_byte (by simpa using hk) (by simpa using hk) (by simpa using hk)

theorem microFill_row (h : s.Microruns n dev .fill w) (a : Nat)
    (hrows : let q := s.seq n
      rowAddrs [(q.operand n dev (q.bank dev w) (fld w 18 7)).onlyTemp] = .ok [a]) :
    ∃ bs : List Byte, exec (.microFill n dev) s = .next ((s.setRows (s.seq n).winJob [a] bs).seqNext n dev 20) ∧ bs.length = 1024 ∧
      ∀ k < 1024, bs[k]? = (
        let x := (s.seq n).ctx dev
        leBytes 16 (mgetD x.pats (if bit w 13 then fld (mgetD x.idx (fld w 10 3) 0) 0 4 else fld w 14 4) 0).toNat)[k % 16]? := by
  rw [exec_eq_microFill, execMicroFill, h.micro]
  dsimp only at hrows ⊢
  rw [hrows]
  refine ⟨_, rfl, by simp, fun k hk => ?_⟩
  rw [flatten_replicate_byte (by simpa using hk), leBytes_length]

/-- A readout of the user context that no core takes goes to SEQ_OUT (R220, R232). -/
theorem popc_out (h : s.Microruns n dev .popc w) (a : Nat)
    (hrows : let q := s.seq n
      rowAddrs [q.operand n dev (q.bank dev w) (fld w 11 7)] = .ok [a])
    (hout : bit ((s.seq n).ctx dev).dest 0 = true) (huser : dev = false) :
    let q := s.seq n
    let x := q.ctx dev
    exec (.popc n dev .clean) s = .next ((s.setSeq n (({ q with out := mput q.out (x.readouts % 4) (edgeCount (s.row a)) } : Seq).setCtx false
      { x with readouts := x.readouts + 1 })).seqNext n dev 25) := by
  intro q x
  rw [exec_eq_popc, execPopc, h.micro]
  subst huser
  simp only [hrows, State.withEcc, hout, Bool.not_true, Bool.not_false, Bool.false_and, Bool.and_true, Bool.false_eq_true, if_false, if_true]
  rfl

/-- A readout to a core lands in the core's store as its job has it (R216, R232). -/
theorem popc_core (h : s.Microruns n dev .popc w) (a : Nat)
    (hrows : let q := s.seq n
      rowAddrs [q.operand n dev (q.bank dev w) (fld w 11 7)] = .ok [a])
    (hcore : bit ((s.seq n).ctx dev).dest 0 = false)
    (hfits : 64 * fld ((s.seq n).ctx dev).dest 16 14 + 64 * ((s.seq n).ctx dev).readouts + 64 ≤ 0xC0000) :
    let q := s.seq n
    let x := q.ctx dev
    let j := s.ctxJob q dev (fld x.dest 4 12)
    let k := s.jobCore j (fld x.dest 4 12)
    exec (.popc n dev .clean) s = .next (((s.setSeq n (q.setCtx dev { x with readouts := x.readouts + 1 })).setJobCore j (fld x.dest 4 12)
      { k with store := Memory.write (some 0) k.store (64 * fld x.dest 16 14 + 64 * x.readouts) (edgeCount (s.row a)) }).seqNext n dev 25) := by
  intro q x j k
  rw [exec_eq_popc, execPopc, h.micro]
  simp only [hrows, State.withEcc, hcore, Nat.not_lt.2 hfits, decide_false, Bool.and_false, Bool.false_and, Bool.false_eq_true, if_false, State.setSeq_ctxJob,
    State.setSeq_jobCore]
  rfl

end

/-- Settles O41: a microword that runs has its own effect (`State.Microruns.micro`); the words that end a segment leave
`State.segmentEnded`, and the bytes of rows are `rowOp_byte`, `majority_byte` and `flatten_replicate_byte`. -/
theorem microwords : Obligations.Microwords := by
  intro s n dev w q x b put
  refine ⟨fun c hpc => State.seqNext_lt c hpc, microHalt_ends, microNop_next, segend_ends, rop_rows, maj_rows, microFill_row,
    fun h a hrows => ⟨popc_out h a hrows, popc_core h a hrows⟩, microIdx_sets, fun h => microLoop_ends h⟩

end Sys2Proof.Machine
end

section
/-!
PROOF. Starting and stopping a bank sequencer, its boundaries and refreshes (08_bank_logic, R218 to R221, R227, R228, R231; 17_power_clocks_reset,
R449): obligation BankSequencers; the memories of the reset state: obligation ResetMemoryCanonical.
-/
namespace Sys2Proof.Machine

open Sys2Proof

theorem exec_eq_seqGo (n : Nat) (v : W64) (s : State) : exec (.seqGo n v) s = execSeqGo n v s := rfl
theorem exec_eq_seqAbort (n : Nat) (s : State) : exec (.seqAbort n) s = execSeqAbort n s := rfl
theorem exec_eq_segmentEnd (n : Nat) (s : State) : exec (.segmentEnd n) s = execSegmentEnd n s := rfl
theorem exec_eq_refreshDue (n : Nat) (s : State) : exec (.refreshDue n) s = execRefreshDue n s := rfl
theorem exec_eq_hbmSelfRefresh (pc : Nat) (s : State) : exec (.hbmSelfRefresh pc) s = execHbmSelfRefresh pc s := rfl

/-! ## Reading a run that was written -/

theorem at_patch_written {bs : List Byte} {off : Nat} (v : List Byte) (h : off ≤ bs.length) : at_ (patch bs off v) off v.length = leNat v := by
  have hright := at_append_right (bs.take off) (v ++ bs.drop (off + v.length)) 0 v.length
  rw [List.length_take, Nat.min_eq_left h, Nat.add_zero, at_append_left] at hright
  rw [patch, List.append_assoc, hright]

theorem sub_patch_above {bs v : List Byte} {off k : Nat} (n : Nat) (h : off ≤ bs.length) (hk : off + v.length ≤ k) :
    sub (patch bs off v) k n = sub bs k n := by
  have hdrop : (patch bs off v).drop k = bs.drop k := by
    have hlen : (bs.take off ++ v).length = off + v.length := by simp [h]
    rw [patch, List.drop_append, List.drop_eq_nil_of_le (hlen.trans_le hk), hlen, List.nil_append, List.drop_drop, Nat.add_sub_cancel' hk]
  rw [sub, sub, hdrop]

/-- Number `k` of a run of numbers of `w` bytes each. -/
theorem at_run (w : Nat) (l : List Nat) (rest : List Byte) {k : Nat} (h : k < l.length) :
    at_ (l.flatMap (leBytes w) ++ rest) (w * k) w = l[k] % 256 ^ w := by
  induction l generalizing k with
  | nil => cases h
  | cons v l ih =>
    have hlen := leBytes_length w v
    rw [List.flatMap_cons, List.append_assoc]
    cases k with
    | zero =>
      have hleft := at_append_left (leBytes w v) (l.flatMap (leBytes w) ++ rest)
      rw [hlen, leNat_leBytes_mod] at hleft
      exact hleft
    | succ k =>
      have hright := at_append_right (leBytes w v) (l.flatMap (leBytes w) ++ rest) (w * k) w
      rw [hlen, ih (by simpa using h)] at hright
      rw [Nat.mul_succ, Nat.add_comm, hright]
      rfl

/-! ## The command register area (R219 to R221) -/

/-- The area begins with its registers, of 8 B each (Table 8.2). -/
theorem Seq.image_registers (q : Seq) : ∃ rest, q.image =
    [0x00010000, q.ctl.toNat, q.stat, q.user.dest.toNat, q.user.noteReg.toNat, q.win.toNat].flatMap (leBytes 8) ++ rest := by
  simp only [Seq.image, List.flatMap_cons, List.flatMap_nil, List.append_assoc, List.nil_append]
  exact ⟨_, rfl⟩

/-- What a write of SEQ_CTL leaves of the area's other registers. -/
theorem Seq.image_ctl (q : Seq) (v : W64) :
    BitVec.ofNat 64 (at_ (patch q.image 8 (leBytes 8 v.toNat)) 8 8) = v ∧
      BitVec.ofNat 64 (at_ (patch q.image 8 (leBytes 8 v.toNat)) 0x18 8) = q.user.dest ∧
      BitVec.ofNat 64 (at_ (patch q.image 8 (leBytes 8 v.toNat)) 0x20 8) = q.user.noteReg ∧
      BitVec.ofNat 64 (at_ (patch q.image 8 (leBytes 8 v.toNat)) 0x28 8) = q.win := by
  obtain ⟨rest, himage⟩ := q.image_registers
  have hlen : 8 ≤ q.image.length := by
    rw [himage]
    simp only [List.flatMap_cons, List.length_append, leBytes_length]
    omega
  have hctl := at_patch_written (leBytes 8 v.toNat) hlen
  rw [leBytes_length, leNat_leBytes_mod] at hctl
  have hkeep (k : Nat) (hk : k < 6) (h2 : 2 ≤ k) : at_ (patch q.image 8 (leBytes 8 v.toNat)) (8 * k) 8 =
      [0x00010000, q.ctl.toNat, q.stat, q.user.dest.toNat, q.user.noteReg.toNat, q.win.toNat][k] % 256 ^ 8 := by
    rw [at_, sub_patch_above 8 hlen (by rw [leBytes_length]; omega), ← at_, himage, at_run 8 _ _ (by simpa using hk)]
  have hword (x : W64) : BitVec.ofNat 64 (x.toNat % 256 ^ 8) = x := by
    rw [Nat.mod_eq_of_lt (x.isLt.trans_le (by norm_num)), BitVec.ofNat_toNat, BitVec.setWidth_eq]
  exact ⟨hctl ▸ hword v, hkeep 3 (by omega) (by omega) ▸ hword _, hkeep 4 (by omega) (by omega) ▸ hword _,
    hkeep 5 (by omega) (by omega) ▸ hword _⟩

theorem sub_zeros (n off m : Nat) : sub (zeros n) off m = zeros m := by
  rw [sub, zeros, List.drop_replicate, List.take_replicate, List.length_replicate, zeros, List.replicate_append_replicate, zeros]
  congr 1
  omega

theorem leNat_zeros (n : Nat) : leNat (zeros n) = 0 := by
  induction n with
  | zero => rfl
  | succ n ih => rw [zeros, List.replicate_succ, leNat, ← zeros, ih]; rfl

/-- A write of SEQ_CTL alone has 0 above it. -/
theorem sub_ctl_above (v : W64) {k : Nat} (m : Nat) (hk : 16 ≤ k) : sub (patch (zeros 1024) 8 (leBytes 8 v.toNat)) k m = zeros m := by
  rw [sub_patch_above m (by rw [zeros, List.length_replicate]; omega) (by rw [leBytes_length]; exact hk), sub_zeros]

theorem at_ctl_above (v : W64) {k : Nat} (m : Nat) (hk : 16 ≤ k) : at_ (patch (zeros 1024) 8 (leBytes 8 v.toNat)) k m = 0 := by
  rw [at_, sub_ctl_above v m hk, leNat_zeros]

theorem onlyFields_zero {n : Nat} (fs : List (Nat × Nat)) : onlyFields (0#n) fs = true := by
  simp [onlyFields]

theorem zeroRun_ctl_above (v : W64) {k : Nat} (m : Nat) (hk : 16 ≤ k) : zeroRun (patch (zeros 1024) 8 (leBytes 8 v.toNat)) k m = true := by
  rw [zeroRun, sub_ctl_above v m hk]
  simp [zeros]

/-- A write of SEQ_CTL meets no other register of the area: it sets START and PAGE, and its GO takes effect or is refused (R220). -/
theorem State.areaWrite_ctl {s : State} {n : Nat} {v : W64} (hfields : onlyFields v [(0, 14)] = true) (hgo : bit v 8 = true) (habort : bit v 9 = false) :
    s.areaWrite n 8 (leBytes 8 v.toNat) = some (
      let q := s.seq n
      if q.user.busy then s.setSeq n { q with busyGo := true, busyWr := true }
      else (s.setSeq n { q with ctl := BitVec.ofNat 64 (fld v 0 8 + fld v 10 4 <<< 10) }).seqStart n) := by
  obtain ⟨hctl, hdest, hnote, hwin⟩ := (s.seq n).image_ctl v
  unfold State.areaWrite
  have hmiss (o k : Nat) (ho : 16 ≤ o) : decide (o + k < 8 + 8) = false := decide_eq_false (by omega)
  simp only [hctl, hdest, hnote, hwin, leBytes_length, hfields, hgo, habort, at_ctl_above v _ (show 16 ≤ 0x10 by omega),
    at_ctl_above v _ (show 16 ≤ 0x28 by omega), at_ctl_above v _ (show 16 ≤ 0x38 by omega), zeroRun_ctl_above v _ (show 16 ≤ 0xC0 by omega),
    onlyFields_zero, hmiss 0x40 _ (by omega), hmiss 0x80 _ (by omega), hmiss 0x100 _ (by omega), hmiss 0x200 _ (by omega), apply_ite some]
  simp

/-! ## GO and ABORT (R218, R220, R231) -/

/-- A GO that starts its context (R220): it is busy at START, and its segment starts when none runs. -/
theorem State.seqStart_go {s : State} {n : Nat} {q : Seq} (hidle : q.user.busy = false) (hup : s.offline 6 n = false) (howned : q.owned = true)
    (hdest : bit q.user.dest 0 = true) (hnote : bit q.user.noteReg 0 = false) :
    (s.setSeq n q).seqStart n =
      s.setSeq n ({ q with user := { q.user with busy := true, pc := fld q.ctl 0 8, readouts := 0 } } : Seq).startSegment := by
  simp [State.seqStart, hidle, hup, howned, hdest, hnote, State.setSeq_setSeq]

/-- START and PAGE as a write of SEQ_CTL leaves them: START reads back. -/
theorem fld_start (v : W64) : fld (BitVec.ofNat 64 (fld v 0 8 + fld v 10 4 <<< 10)) 0 8 = fld v 0 8 := by
  simp only [fld, BitVec.toNat_ofNat, Nat.shiftLeft_eq, Nat.shiftRight_zero]
  omega

theorem exec_seqGo {s : State} {n : Nat} {v : W64} (hr : s.regsUp = true) (hopen : s.areaClosed n = false)
    (hfields : onlyFields v [(0, 14)] = true) (hgo : bit v 8 = true) (habort : bit v 9 = false) :
    exec (.seqGo n v) s = .next (
      let q := s.seq n
      if q.user.busy then s.setSeq n { q with busyGo := true, busyWr := true }
      else (s.setSeq n { q with ctl := BitVec.ofNat 64 (fld v 0 8 + fld v 10 4 <<< 10) }).seqStart n) := by
  rw [exec_eq_seqGo, execSeqGo, State.ifUp_up hr, if_neg (by simp [hopen]), State.areaWrite_ctl hfields hgo habort]

theorem seqGo_starts {s : State} {n : Nat} {v : W64} (hr : s.regsUp = true) (hopen : s.areaClosed n = false)
    (hfields : onlyFields v [(0, 14)] = true) (hgo : bit v 8 = true) (habort : bit v 9 = false) (hidle : (s.seq n).user.busy = false)
    (howned : (s.seq n).owned = true) (hup : s.offline 6 n = false) (hdest : bit (s.seq n).user.dest 0 = true)
    (hnote : bit (s.seq n).user.noteReg 0 = false) :
    ∃ t : State, exec (.seqGo n v) s = .next t ∧ (t.seq n).user.busy = true ∧ (t.seq n).user.pc = fld v 0 8 ∧ (t.seq n).user.readouts = 0 ∧
      ((s.seq n).running = none → (s.seq n).boundary = false → (s.seq n).dev.busy = false → (t.seq n).running = some false) ∧ t.hbm = s.hbm := by
  have hstart := State.seqStart_go (q := { s.seq n with ctl := BitVec.ofNat 64 (fld v 0 8 + fld v 10 4 <<< 10) }) hidle hup howned hdest hnote
  rw [exec_seqGo hr hopen hfields hgo habort]
  refine ⟨_, congrArg _ ((if_neg (by simp [hidle])).trans hstart), ?_⟩
  rw [State.seq_setSeq, if_pos rfl, Seq.startSegment_user]
  refine ⟨rfl, fld_start v, rfl, fun hrun hbound hdev => ?_, rfl⟩
  rw [Seq.startSegment_running (by exact hrun) (by exact hbound)]
  simp [hdev]

theorem seqAbort_stops {s : State} {n : Nat} (hr : s.regsUp = true) (hopen : s.areaClosed n = false) (hbusy : (s.seq n).user.busy = true) :
    ∃ t : State, exec (.seqAbort n) s = .next t ∧ (t.seq n).user.busy = false ∧ (t.seq n).user.aborted = true ∧
      (t.seq n).user.stopPc = (s.seq n).user.pc ∧
      ((s.seq n).running = some false → (t.seq n).running = none ∧ (t.seq n).boundary = true) ∧ t.hbm = s.hbm := by
  refine ⟨s.seqEnd n false (fun x => { x with aborted := true, stopPc := x.pc }), ?_, ?_⟩
  · rw [exec_eq_seqAbort, execSeqAbort, State.ifUp_up hr, if_neg (by simp [hopen, hbusy])]
  · rw [State.seqEnd_seq]
    have huser (q : Seq) (x : SeqCtx) : ((q.setCtx false x).endSegment false).user = x :=
      ((q.setCtx false x).endSegment_ctx false false).trans (Seq.ctx_setCtx ..)
    rw [huser]
    exact ⟨rfl, rfl, rfl, fun hrun => Seq.endSegment_stops ((Seq.setCtx_running ..).trans hrun), s.seqEnd_hbm n false _⟩

/-! ## Boundaries and refreshes (R227, R228) -/

/-- At a boundary at which no read of the window waits, the held writes take effect in their order (R228). -/
theorem State.segmentOver_writes {s : State} {n : Nat} (hwin : s.winHeld = []) :
    ((s.segmentOver n).seq n = { s.seq n with boundary := false, running := none, postponed := 0, held := [] }) ∧
      (s.segmentOver n).hbm = (s.seq n).held.foldl (fun m e => Memory.write (some 0) m e.1 e.2) s.hbm := by
  constructor
  · simp [State.segmentOver, hwin, State.copyReads, State.seq, State.setSeq]
  · simp [State.segmentOver, hwin, State.copyReads, Seq.heldWrites]

theorem segmentEnd_writes {s : State} {n : Nat} (hr : s.power.ready = true) (hbound : (s.seq n).boundary = true) (hwin : s.winHeld = []) :
    ∃ t : State, exec (.segmentEnd n) s = .next t ∧ t.hbm = (s.seq n).held.foldl (fun m e => Memory.write (some 0) m e.1 e.2) s.hbm ∧
      (t.seq n).boundary = false ∧ (t.seq n).held = [] ∧ (t.seq n).postponed = 0 ∧
      (t.seq n).running = if (s.seq n).user.busy && (s.seq n).dev.busy then some (!(s.seq n).lastDev) else if (s.seq n).user.busy then some false
        else if (s.seq n).dev.busy then some true else none := by
  obtain ⟨hseq, hhbm⟩ := State.segmentOver_writes (n := n) hwin
  refine ⟨(s.segmentOver n).setSeq n ((s.segmentOver n).seq n).startSegment, ?_, hhbm, ?_⟩
  · rw [exec_eq_segmentEnd, execSegmentEnd, State.ifReady_ready hr, if_neg (by simp [hbound])]
  · rw [State.seq_setSeq, if_pos rfl, hseq]
    obtain ⟨hover, hheld, hpost⟩ := Seq.startSegment_boundary { s.seq n with boundary := false, running := none, postponed := 0, held := [] }
    exact ⟨hover, hheld, hpost, Seq.startSegment_running rfl rfl⟩

theorem refreshDue_postpones {s : State} {n : Nat} (hr : s.power.ready = true) (hrun : (s.seq n).running.isSome = true)
    (hfew : (s.seq n).postponed < 4) :
    ∃ t : State, exec (.refreshDue n) s = .next t ∧ (t.seq n).postponed = (s.seq n).postponed + 1 ∧ (t.seq n).running = (s.seq n).running ∧
      t.hbm = s.hbm := by
  have hsome : ¬ ((s.seq n).running.isNone || decide (4 ≤ (s.seq n).postponed)) = true := by
    simp [Option.isSome_iff_ne_none.1 hrun, hfew]
  rw [exec_eq_refreshDue, execRefreshDue, State.ifReady_ready hr]
  dsimp only
  rw [if_neg hsome]
  refine ⟨_, rfl, ?_⟩
  rw [State.seq_setSeq, if_pos rfl]
  exact ⟨rfl, rfl, rfl⟩

theorem hbmSelfRefresh_enters {s : State} {pc : Nat} (hr : s.power.ready = true) (hnot : pc ∉ s.refreshing) :
    exec (.hbmSelfRefresh pc) s = .next { s with refreshing := pc :: s.refreshing } := by
  rw [exec_eq_hbmSelfRefresh, execHbmSelfRefresh, State.ifReady_ready hr, if_neg (by simpa using hnot)]

/-- Settles O42: GO is a write of SEQ_CTL (`State.areaWrite_ctl`), ABORT ends the context (`State.seqEnd_seq`), and a boundary runs the held
writes and gives out the next segment (`State.segmentOver_writes`, `Seq.startSegment_running`). -/
theorem bankSequencers : Obligations.BankSequencers := by
  intro s n q
  refine ⟨fun v hr hopen hfields hgo habort => ⟨fun hbusy => ?_, seqGo_starts hr hopen hfields hgo habort⟩, seqAbort_stops, fun hr hbound hwin => ?_,
    refreshDue_postpones, fun pc => hbmSelfRefresh_enters⟩
  · rw [exec_seqGo hr hopen hfields hgo habort]
    exact congrArg _ (if_pos hbusy)
  · obtain ⟨t, hexec, hhbm, hover, hheld, hpost, hnext⟩ := segmentEnd_writes hr hbound hwin
    exact ⟨t, hexec, hhbm, hover, hheld, hpost, fun _ => hnext⟩

/-! ## The reset state -/

/-- Settles O4: after power application HBM and host memory are canonical (`Memory.reset_wf`), and no core and no group has an entry. -/
theorem resetMemoryCanonical : Obligations.ResetMemoryCanonical :=
  State.memWf_iff.2 ⟨Memory.reset_wf.1, Memory.reset_wf.2, List.forall_mem_nil _, List.forall_mem_nil _⟩

end Sys2Proof.Machine
end

section
/-!
SUPPORT. What loading and removing objects uses of the state: handles of models, the objects of a job, the privileged slots.
-/
namespace Sys2Proof.Machine

open Sys2Proof

/-! ## What the commands of loaded objects run -/

section
variable (s : State) (job well : Nat) (d : Desc)

theorem exec_eq_loadModel : exec (.loadModel job well d) s = execLoadModel job well d s := rfl
theorem exec_eq_unloadModel : exec (.unloadModel job well d) s = execUnloadModel job well d s := rfl
theorem exec_eq_loadAdapter : exec (.loadAdapter job well d) s = execLoadAdapter job well d s := rfl
theorem exec_eq_loadVocab : exec (.loadVocab job well d) s = execLoadVocab job well d s := rfl
theorem exec_eq_loadGrammar : exec (.loadGrammar job well d) s = execLoadGrammar job well d s := rfl

end

/-! ## Changed collections -/

@[simp] theorem mget_mchange {α : Type} (m : Map α) (i : Nat) (f : α → α) (j : Nat) :
    mget (mchange m i f) j = if j = i then (mget m i).map f else mget m j := by
  unfold mchange
  cases h : mget m i with
  | none =>
    dsimp only
    split
    next hj => rw [hj, h]; rfl
    next => rfl
  | some x => simp

/-- A collection whose values are changed one by one, keys kept. -/
theorem mget_map_values {α : Type} (m : Map α) (f : α → α) (j : Nat) : mget (m.map (fun e => (e.1, f e.2))) j = (mget m j).map f := by
  induction m with
  | nil => rfl
  | cons e m ih =>
    rw [List.map_cons, mget_cons, ih, mget_cons]
    split <;> rfl

/-! ## Taking up a descriptor leaves models and objects (R501, R502) -/

section
variable (s : State) (j w : Nat)

@[simp] theorem State.takenUp_models : (s.takenUp j w).models = s.models := rfl
@[simp] theorem State.takenUp_func (k : Nat) : (s.takenUp j w).func k = s.func k := rfl
@[simp] theorem State.takenUp_modelOf (k h : Nat) : (s.takenUp j w).modelOf k h = s.modelOf k h := rfl
@[simp] theorem State.takenUp_modelAlien (k h : Nat) : (s.takenUp j w).modelAlien k h = s.modelAlien k h := rfl
@[simp] theorem State.takenUp_job_func : ((s.takenUp j w).job j).func = (s.job j).func := by rw [State.takenUp_job]; rfl
@[simp] theorem State.takenUp_slice : ((s.takenUp j w).job j).slice = (s.job j).slice := by rw [State.takenUp_job]; rfl
@[simp] theorem State.takenUp_adapters : ((s.takenUp j w).job j).adapters = (s.job j).adapters := by rw [State.takenUp_job]; rfl
@[simp] theorem State.takenUp_vocabs : ((s.takenUp j w).job j).vocabs = (s.job j).vocabs := by rw [State.takenUp_job]; rfl
@[simp] theorem State.takenUp_grammars : ((s.takenUp j w).job j).grammars = (s.job j).grammars := by rw [State.takenUp_job]; rfl

end

/-! ## Free values leave models and room (log entry 4) -/

section
variable (s : State) (n : Nat)

@[simp] theorem State.drawnTo_models : (s.drawnTo n).models = s.models := rfl
@[simp] theorem State.drawnTo_members (j : Nat) : (s.drawnTo n).members j = s.members j := rfl
@[simp] theorem State.drawnTo_hotRoom (j : Nat) : (s.drawnTo n).hotRoom j = s.hotRoom j := rfl
@[simp] theorem State.drawnTo_objectRoom (j k : Nat) : (s.drawnTo n).objectRoom j k = s.objectRoom j k := rfl

end

/-! ## The handles of models (R255) -/

/-- The handle the device gives a model: the first one free from a place that the free value `n` picks (log entry 4). -/
def State.freeHandle (s : State) (n : Nat) : Option Nat :=
  ((List.range 255).map (fun i => (Config.freeNat n + i) % 255 + 1)).find? (fun i => (mget s.models i).isNone)

/-- The search passes every handle, so it finds a free one where there is one. -/
theorem State.freeHandle_exists {s : State} (n : Nat) (h : ∃ i, 1 ≤ i ∧ i ≤ 255 ∧ mget s.models i = none) :
    ∃ k, s.freeHandle n = some k ∧ 1 ≤ k ∧ k ≤ 255 ∧ mget s.models k = none := by
  obtain ⟨i, h1, h255, hnone⟩ := h
  have hmem : i ∈ (List.range 255).map (fun i => (Config.freeNat n + i) % 255 + 1) :=
    List.mem_map.2 ⟨(i + 254 - Config.freeNat n % 255) % 255, List.mem_range.2 (Nat.mod_lt _ (by decide)), by omega⟩
  have hfound : (s.freeHandle n).isSome = true := List.find?_isSome.2 ⟨i, hmem, by simp [hnone]⟩
  obtain ⟨k, hk⟩ := Option.isSome_iff_exists.1 hfound
  obtain ⟨a, -, hrange⟩ := List.mem_map.1 (List.mem_of_find?_eq_some hk)
  exact ⟨k, hk, by omega, by omega, by simpa using List.find?_some hk⟩

/-- The handle a LOAD_MODEL that names `h` gives a new model: `h`, or the device's choice for 0. -/
theorem State.loadHandle_exists {s : State} {h : Nat} (n : Nat) (hle : h ≤ 255)
    (hfree : if h = 0 then ∃ i, 1 ≤ i ∧ i ≤ 255 ∧ mget s.models i = none else mget s.models h = none) :
    ∃ k, (if h = 0 then s.freeHandle n else some h) = some k ∧ 1 ≤ k ∧ k ≤ 255 ∧ (h ≠ 0 → k = h) ∧ mget s.models k = none := by
  by_cases h0 : h = 0
  · rw [if_pos h0] at hfree
    obtain ⟨k, hk, h1, h255, hnone⟩ := State.freeHandle_exists n hfree
    exact ⟨k, by rw [if_pos h0, hk], h1, h255, absurd h0, hnone⟩
  · rw [if_neg h0] at hfree
    exact ⟨h, if_neg h0, by omega, hle, fun _ => rfl, hfree⟩

/-! ## The objects of a job -/

/-- The object a job has under a handle; one never loaded has no version. -/
def State.adapterAt (s : State) (job h : Nat) : Adapter := mgetD (s.job job).adapters h { current := none, last := 0, versions := [] }
def State.vocabAt (s : State) (job m : Nat) : ByteObj := mgetD (s.job job).vocabs m { current := none, last := 0, versions := [] }
def State.grammarAt (s : State) (job h : Nat) : ByteObj := mgetD (s.job job).grammars h { current := none, last := 0, versions := [] }

/-- The state with an object of a job put under its handle. -/
def State.putAdapter (s : State) (job h : Nat) (o : Adapter) : State := s.modJob job (fun x => { x with adapters := mput x.adapters h o })
def State.putVocab (s : State) (job m : Nat) (o : ByteObj) : State := s.modJob job (fun x => { x with vocabs := mput x.vocabs m o })
def State.putGrammar (s : State) (job h : Nat) (o : ByteObj) : State := s.modJob job (fun x => { x with grammars := mput x.grammars h o })

section
variable (s : State) (job h : Nat)

@[simp] theorem State.putAdapter_adapter (o : Adapter) : mget ((s.putAdapter job h o).job job).adapters h = some o := by simp [State.putAdapter]
@[simp] theorem State.putVocab_vocab (o : ByteObj) : mget ((s.putVocab job h o).job job).vocabs h = some o := by simp [State.putVocab]
@[simp] theorem State.putGrammar_grammar (o : ByteObj) : mget ((s.putGrammar job h o).job job).grammars h = some o := by simp [State.putGrammar]

end

/-! ## The privileged slots (R273, R274) -/

/-- Placing a lane's slots again changes the slots only. -/
theorem State.placeLane_only (s : State) (lane : Nat) : ∃ p, s.placeLane lane = { s with privSlots := p } := by
  refine List.foldlRecOn (motive := fun e : Nat × State => ∃ p, e.2 = { s with privSlots := p }) _ _ ⟨s.privSlots, rfl⟩ fun e he k _ => ?_
  obtain ⟨p, hp⟩ := he
  dsimp only
  rw [hp]
  split
  · exact ⟨_, rfl⟩
  · split <;> exact ⟨_, rfl⟩

theorem State.refillSlots_only (s : State) (j m : Nat) : ∃ p, s.refillSlots j m = { s with privSlots := p } := by
  refine List.foldlRecOn (motive := fun t : State => ∃ p, t = { s with privSlots := p }) _ _ ⟨s.privSlots, rfl⟩ fun t ht lane _ => ?_
  obtain ⟨p, rfl⟩ := ht
  dsimp only
  split
  · obtain ⟨q, hq⟩ := State.placeLane_only { s with privSlots := p } lane
    exact ⟨q, hq⟩
  · exact ⟨p, rfl⟩

section
variable (s : State) (j m : Nat)

@[simp] theorem State.refillSlots_sessions : (s.refillSlots j m).sessions = s.sessions := by obtain ⟨p, h⟩ := s.refillSlots_only j m; rw [h]
@[simp] theorem State.refillSlots_models : (s.refillSlots j m).models = s.models := by obtain ⟨p, h⟩ := s.refillSlots_only j m; rw [h]
@[simp] theorem State.refillSlots_job (k : Nat) : (s.refillSlots j m).job k = s.job k := by obtain ⟨p, h⟩ := s.refillSlots_only j m; rw [h]; rfl

theorem State.putVocab_refilled (o : ByteObj) : mget (((s.putVocab j m o).refillSlots j m).job j).vocabs m = some o := by simp

end

end Sys2Proof.Machine
end

section
/-!
PROOF. Models, adapters, vocabularies and grammars as they are loaded and removed (09_decode_and_residency, R255 to R264; 10_text_path, R274,
R277): obligation LoadedObjects.
-/
namespace Sys2Proof.Machine

open Sys2Proof

/-! ## LOAD_MODEL (R255 to R260, R475) -/

/-- The model that a LOAD_MODEL makes of its descriptor and its image. -/
def State.newModel (s : State) (job : Nat) (d : Desc) (im : List Byte) : Model :=
  { job := job, encoder := at_ im 5 1 == 1, layers := at_ im 6 2, kvh := at_ im 8 1, qpk := at_ im 9 1, specHeads := at_ im 10 1
    width := 128 * at_ im 12 2, ffn := 128 * at_ im 14 2, vocab := at_ im 16 4, scale := BitVec.ofNat 32 (at_ im 20 4)
    eos := ((List.range 4).map (fun k => at_ im (24 + 4 * k) 4)).filter (· != 0xFFFFFFFF)
    pooling := (((modelSects im).find? (fun x => x.1 == 7)).map (fun x => at_ im x.2.2.2 1)).getD 0, digest := sha256 im
    len := grainsOf im.length, swap := bit d 264 || (s.func (s.job job).func).verIndex == 0, pinned := bit d 265
    costW := if dfld d 34 0 16 = 0 then 256 else dfld d 34 0 16, resident := false, lastStep := s.now, damaged := false, repairs := 0 }

/-- The state in which a LOAD_MODEL decides: taken up, with the free value drawn that picks a handle. -/
def State.loadStart (s : State) (job well : Nat) : State := (s.takenUp job well).drawnTo ((s.takenUp job well).freeCtr + 1)

/-- The state with model `m` loaded under handle `k`. -/
def State.withModel (s : State) (k : Nat) (m : Model) : State := { s with models := mput s.models k m, serving := mdel s.serving k }

theorem State.withModel_same (s : State) (k : Nat) (m : Model) : mget (s.withModel k m).models k = some m := by simp [State.withModel]
theorem State.withModel_other {s : State} {k i : Nat} {m : Model} (h : i ≠ k) : mget (s.withModel k m).models i = mget s.models i := by
  simp [State.withModel, h]

/-- The state with the model under handle `k` repaired (R475). -/
def State.repaired (s : State) (k : Nat) : State :=
  { s with models := mchange s.models k (fun m => { m with damaged := false, repairs := m.repairs + 1 }) }

/-- A pinned model takes part in the weight space and its share fits beside those of the models already pinned (R260). -/
def State.pinFits (s : State) (job : Nat) (d : Desc) (im : List Byte) : Bool :=
  !(bit d 264 || (s.func (s.job job).func).verIndex == 0) &&
    decide (((s.members job).filter (·.pinned)).foldl (fun t m => t + m.share) 0 +
      cdiv (grainsOf im.length) (max 1 (64 * popcnt (s.job job).slice.serve)) ≤ s.hotRoom job)

section
variable {s : State} {job well : Nat} {d : Desc} {im : List Byte} (hs : s.Serves kLoadModel job well d)
  (himage : (s.takenUp job well).loadImage job d 16 (dfld d 24 0 64) (bit d 266) (dfld d 36 0 32) = .ok im)
  (hform : modelFormOk im = true) (hshape : modelShapeOk im = true)
include hs himage hform hshape

/-- A LOAD_MODEL of a well-formed image that passes the checks of room and pinning, under a handle that is free. -/
theorem exec_loadModel_new
    (hfree : if dfld d 32 0 8 = 0 then ∃ i, 1 ≤ i ∧ i ≤ 255 ∧ mget s.models i = none else mget s.models (dfld d 32 0 8) = none)
    (hroom : (s.takenUp job well).objectRoom job (grainsOf im.length) = true)
    (hpin : bit d 265 = true → (s.takenUp job well).pinFits job d im = true) :
    ∃ k, 1 ≤ k ∧ k ≤ 255 ∧ (dfld d 32 0 8 ≠ 0 → k = dfld d 32 0 8) ∧ mget s.models k = none ∧
      exec (.loadModel job well d) s = .next (((s.loadStart job well).withModel k (s.newModel job d im)).complete (descCtx kLoadModel job well d) Code.ok k) := by
  have hle : dfld d 32 0 8 ≤ 255 := Nat.lt_succ_iff.1 (Nat.mod_lt _ (by decide))
  obtain ⟨k, hk, h1, h255, heq, hnone⟩ := State.loadHandle_exists (s.takenUp job well).freeCtr hle hfree
  refine ⟨k, h1, h255, heq, hnone, ?_⟩
  have hkey : dfld d 32 0 8 = 0 ∨ mget s.models (dfld d 32 0 8) = none := or_iff_not_imp_left.2 fun h0 => heq h0 ▸ hnone
  have hbusy : (dfld d 32 0 8 == 0 || (mget s.models (dfld d 32 0 8)).isNone) = true := by simpa using hkey
  have hsame : (dfld d 32 0 8 != 0 && (mget s.models (dfld d 32 0 8)).any (fun m => m.job == job && m.damaged && m.digest == sha256 im)) = false := by
    rcases hkey with h | h <;> simp [h]
  have hpin' : (!bit d 265 || (s.takenUp job well).pinFits job d im) = true := by
    cases h : bit d 265 with
    | false => rfl
    | true => simp [hpin h]
  simp only [State.pinFits, State.takenUp_func, State.takenUp_job_func, State.takenUp_slice] at hpin'
  unfold State.freeHandle at hk
  simp only [exec_eq_loadModel, execLoadModel, State.takeUp_serves hs, himage, State.draw_eq, State.drawnTo_models, State.takenUp_models,
    State.drawnTo_members, State.drawnTo_hotRoom, State.drawnTo_objectRoom, State.drawnTo_job, State.takenUp_slice, State.takenUp_func, State.takenUp_job_func,
    hform, hshape, hsame, hbusy, hroom, hpin', hk, Bool.or_false, Bool.false_or, Option.isSome_some, firstFail_pass, firstFail_nil, Bool.false_eq_true, if_false]
  rfl

/-- A LOAD_MODEL of the image of a damaged model under the model's own handle (R475). -/
theorem exec_loadModel_repairs {m : Model} (h0 : dfld d 32 0 8 ≠ 0) (hm : mget s.models (dfld d 32 0 8) = some m) (hjob : m.job = job)
    (hdam : m.damaged = true) (hdig : m.digest = sha256 im) :
    exec (.loadModel job well d) s =
      .next (((s.loadStart job well).repaired (dfld d 32 0 8)).complete (descCtx kLoadModel job well d) Code.ok (dfld d 32 0 8)) := by
  have hsame : (dfld d 32 0 8 != 0 && (mget s.models (dfld d 32 0 8)).any (fun m => m.job == job && m.damaged && m.digest == sha256 im)) = true := by
    simp [h0, hm, hjob, hdam, hdig]
  simp only [exec_eq_loadModel, execLoadModel, State.takeUp_serves hs, himage, State.draw_eq, State.drawnTo_models, State.takenUp_models,
    hform, hshape, hsame, Bool.or_true, Bool.true_or, if_neg h0, Option.isSome_some, firstFail_pass, firstFail_nil, if_true]
  rfl

end

/-! ## UNLOAD_MODEL (R256) -/

/-- An adapter object without its versions for model `h`. -/
def Adapter.unbind (o : Adapter) (h : Nat) : Adapter :=
  let vs := o.versions.filter (fun v => v.model != h)
  { o with versions := vs, current := o.current.filter (fun v => vs.any (fun y => y.ver == v)) }

/-- The state with the model under `h` and the adapter versions of the job that are bound to it forgotten. -/
def State.forgetModel (s : State) (job h : Nat) : State :=
  { s.modJob job (fun x => { x with adapters := x.adapters.map (fun e => (e.1, e.2.unbind h)) }) with
    models := mdel s.models h, serving := mdel s.serving h }

theorem exec_unloadModel {s : State} {job well : Nat} {d : Desc} (hs : s.Serves kUnloadModel job well d)
    (hm : (s.modelOf job (dfld d 16 0 8)).isSome = true)
    (hidle : s.sessions.any (fun e => e.2.state != .free && e.2.job == job && !(s.aux e.1).unbound && e.2.model == dfld d 16 0 8) = false) :
    exec (.unloadModel job well d) s =
      .next (((s.takenUp job well).forgetModel job (dfld d 16 0 8)).complete (descCtx kUnloadModel job well d) Code.ok) := by
  have hnone : ¬ (s.modelOf job (dfld d 16 0 8)).isNone = true := by simpa using Option.isSome_iff_ne_none.1 hm
  simp only [exec_eq_unloadModel, execUnloadModel, State.takeUp_serves hs, State.takenUp_modelOf, State.takenUp_sessions, State.takenUp_aux, if_neg hnone,
    hidle, Bool.false_eq_true, if_false]
  rfl

/-- No version bound to the model is left. -/
theorem State.forgetModel_unbound {s : State} {job h k : Nat} {o : Adapter} (ho : mget ((s.forgetModel job h).job job).adapters k = some o) :
    o.versions.all (fun v => v.model != h) = true := by
  have hjob : ((s.forgetModel job h).job job).adapters = (s.job job).adapters.map (fun e => (e.1, e.2.unbind h)) :=
    congrArg Job.adapters ((s.job_setJob job job _).trans (if_pos rfl))
  rw [hjob, mget_map_values _ (Adapter.unbind · h), Option.map_eq_some_iff] at ho
  obtain ⟨p, -, rfl⟩ := ho
  exact List.all_eq_true.2 fun v hv => (List.mem_filter.1 hv).2

/-! ## LOAD_ADAPTER (R262 to R264) -/

section
variable {s : State} {job well : Nat} {d : Desc} (hs : s.Serves kLoadAdapter job well d)
include hs

theorem exec_loadAdapter_remove (hremove : bit d 248 = true) (hown : s.modelAlien job (dfld d 30 0 8) = false)
    (hcur : (s.adapterAt job (dfld d 28 0 16)).current.isSome = true) :
    exec (.loadAdapter job well d) s =
      .next (((s.takenUp job well).putAdapter job (dfld d 28 0 16)
        { s.adapterAt job (dfld d 28 0 16) with current := none, versions := (s.adapterAt job (dfld d 28 0 16)).inUse }).complete
          (descCtx kLoadAdapter job well d) Code.ok) := by
  have hnone : ¬ (s.adapterAt job (dfld d 28 0 16)).current.isNone = true := by simpa using Option.isSome_iff_ne_none.1 hcur
  unfold State.adapterAt at hnone ⊢
  simp only [exec_eq_loadAdapter, execLoadAdapter, State.takeUp_serves hs, State.takenUp_adapters, State.takenUp_modelAlien, hremove, if_true, hown,
    Bool.false_eq_true, if_false, if_neg hnone]
  rfl

/-- The version that a LOAD_ADAPTER makes of its descriptor and its image, under number `v`. -/
def State.newAdapterVer (s : State) (d : Desc) (v : Nat) (im : List Byte) : AdapterVer :=
  { ver := v, model := dfld d 30 0 8, rank := at_ im 5 1, targets := at_ im 6 2, scale := BitVec.ofNat 32 (at_ im 8 4), image := im, users := 0
    damaged := false, resident := false, lastStep := s.now }

/-- An adapter object with `x` as its new current version; versions in use stay. -/
def Adapter.load (o : Adapter) (x : AdapterVer) : Adapter := { current := some x.ver, last := x.ver, versions := o.inUse ++ [x] }

theorem exec_loadAdapter_new {m : Model} {im : List Byte} (hload : bit d 248 = false) (hm : s.modelOf job (dfld d 30 0 8) = some m)
    (hwhole : m.damaged = false)
    (himage : (s.takenUp job well).loadImage job d 16 (dfld d 24 0 32) (bit d 249) (dfld d 32 0 32) = .ok im) (hh : dfld d 28 0 16 ≠ 0xFFFF)
    (hok : adapterOk im m = true) (huse : (s.adapterAt job (dfld d 28 0 16)).inUse.length < 4)
    (hroom : (s.takenUp job well).roomAfter job (s.adapterAt job (dfld d 28 0 16)).goes (grainsOf im.length) = true) :
    let o := s.adapterAt job (dfld d 28 0 16)
    let v := o.last % 0xFFFF + 1
    exec (.loadAdapter job well d) s =
      .next (((s.takenUp job well).putAdapter job (dfld d 28 0 16) (o.load (s.newAdapterVer d v im))).complete (descCtx kLoadAdapter job well d) Code.ok v) := by
  have hbad : (dfld d 28 0 16 != 0xFFFF && adapterOk im m) = true := by simp [hh, hok]
  unfold State.adapterAt at huse hroom ⊢
  simp only [exec_eq_loadAdapter, execLoadAdapter, State.takeUp_serves hs, State.takenUp_adapters, State.takenUp_modelOf, hload, Bool.false_eq_true, if_false,
    hm, hwhole, himage, hbad, huse, hroom, decide_true, firstFail_pass, firstFail_nil]
  rfl

end

/-! ## LOAD_VOCAB (R269, R274) -/

section
variable {s : State} {job well : Nat} {d : Desc} (hs : s.Serves kLoadVocab job well d)
include hs

theorem exec_loadVocab_remove (hremove : bit d 248 = true) (hown : s.modelAlien job (dfld d 30 0 8) = false)
    (hcur : (s.vocabAt job (dfld d 30 0 8)).current.isSome = true) :
    exec (.loadVocab job well d) s =
      .next ((((s.takenUp job well).putVocab job (dfld d 30 0 8) (s.vocabAt job (dfld d 30 0 8)).withdraw).refillSlots job (dfld d 30 0 8)).complete
        (descCtx kLoadVocab job well d) Code.ok) := by
  have hnone : ¬ (s.vocabAt job (dfld d 30 0 8)).current.isNone = true := by simpa using Option.isSome_iff_ne_none.1 hcur
  unfold State.vocabAt at hnone ⊢
  simp only [exec_eq_loadVocab, execLoadVocab, State.takeUp_serves hs, State.takenUp_vocabs, State.takenUp_modelAlien, hremove, if_true, hown,
    Bool.false_eq_true, if_false, if_neg hnone]
  rfl

theorem exec_loadVocab_new {m : Model} {im : List Byte} (hload : bit d 248 = false) (hm : s.modelOf job (dfld d 30 0 8) = some m)
    (haddr : (s.takenUp job well).addrOk job d 16 (dfld d 24 0 32) = true) (himage : (s.takenUp job well).fetch d 16 (dfld d 24 0 32) = some im)
    (hok : vocabOk im (dfld d 24 0 32) m.vocab = true) (huse : (s.vocabAt job (dfld d 30 0 8)).inUse < 2)
    (hroom : (s.takenUp job well).roomAfter job (s.vocabAt job (dfld d 30 0 8)).goes (grainsOf (dfld d 24 0 32)) = true) :
    exec (.loadVocab job well d) s =
      .next ((((s.takenUp job well).putVocab job (dfld d 30 0 8) ((s.vocabAt job (dfld d 30 0 8)).load (dfld d 30 0 8) im 0)).refillSlots job
        (dfld d 30 0 8)).complete (descCtx kLoadVocab job well d) Code.ok) := by
  unfold State.vocabAt at huse hroom ⊢
  simp only [exec_eq_loadVocab, execLoadVocab, State.takeUp_serves hs, State.takenUp_vocabs, State.takenUp_modelOf, hload, Bool.false_eq_true, if_false,
    hm, haddr, Bool.not_true, himage, hok, huse, hroom, decide_true, firstFail_pass, firstFail_nil]
  rfl

end

/-! ## LOAD_GRAMMAR (R274, R277) -/

/-- Class bitmaps that go when a new version replaces the current one (R281). -/
def ByteObj.classesGoing (o : ByteObj) : Nat := (o.versions.filter (fun y => y.users == 0)).foldl (fun n v => n + v.classes) 0

section
variable {s : State} {job well : Nat} {d : Desc} (hs : s.Serves kLoadGrammar job well d) (h0 : dfld d 28 0 16 ≠ 0) (hh : dfld d 28 0 16 ≠ 0xFFFF)
include hs h0 hh

theorem exec_loadGrammar_remove (hremove : bit d 248 = true) (hown : s.modelAlien job (dfld d 30 0 8) = false)
    (hcur : (s.grammarAt job (dfld d 28 0 16)).current.isSome = true) :
    exec (.loadGrammar job well d) s =
      .next (((s.takenUp job well).putGrammar job (dfld d 28 0 16) (s.grammarAt job (dfld d 28 0 16)).withdraw).complete
        (descCtx kLoadGrammar job well d) Code.ok) := by
  have hnone : ¬ (s.grammarAt job (dfld d 28 0 16)).current.isNone = true := by simpa using Option.isSome_iff_ne_none.1 hcur
  unfold State.grammarAt at hnone ⊢
  simp only [exec_eq_loadGrammar, execLoadGrammar, State.takeUp_serves hs, State.takenUp_grammars, State.takenUp_modelAlien, if_neg (not_or.2 ⟨h0, hh⟩),
    hremove, if_true, hown, Bool.false_eq_true, if_false, if_neg hnone]
  rfl

theorem exec_loadGrammar_new {m : Model} {im : List Byte} (hload : bit d 248 = false) (hm : s.modelOf job (dfld d 30 0 8) = some m)
    (haddr : (s.takenUp job well).addrOk job d 16 (dfld d 24 0 32) = true) (himage : (s.takenUp job well).fetch d 16 (dfld d 24 0 32) = some im)
    (hok : grammarCheck im (dfld d 24 0 32) m.vocab
      ((s.takenUp job well).roomAfter job (s.grammarAt job (dfld d 28 0 16)).goes (grainsOf (dfld d 24 0 32)) &&
        decide ((s.takenUp job well).sieveClasses - (s.grammarAt job (dfld d 28 0 16)).classesGoing + grammarClasses im ≤ sieveArea)) = none)
    (huse : (s.grammarAt job (dfld d 28 0 16)).inUse < 2) :
    exec (.loadGrammar job well d) s =
      .next (((s.takenUp job well).putGrammar job (dfld d 28 0 16)
        ((s.grammarAt job (dfld d 28 0 16)).load (dfld d 30 0 8) im (grammarClasses im))).complete (descCtx kLoadGrammar job well d) Code.ok) := by
  unfold State.grammarAt ByteObj.classesGoing at hok
  unfold State.grammarAt at huse ⊢
  simp only [exec_eq_loadGrammar, execLoadGrammar, State.takeUp_serves hs, State.takenUp_grammars, State.takenUp_modelOf, if_neg (not_or.2 ⟨h0, hh⟩), hload,
    Bool.false_eq_true, if_false, hm, haddr, Bool.not_true, himage, hok, if_neg (Nat.not_le.2 huse)]
  rfl

end

/-- Settles O44: each record's state is named (`exec_loadModel_new`, `exec_unloadModel`, `exec_loadAdapter_new`, …), and what it holds is read
off it. -/
theorem loadedObjects : Obligations.LoadedObjects := by
  intro s job well d s0
  refine ⟨fun hs im himage hform hshape => ⟨fun hfree hroom hpin => ?_, fun m h0 hm hjob hdam hdig => ?_⟩, fun hs hm hidle => ?_,
    fun hs => ⟨fun hremove hown hcur => ?_, fun m im hload hm hwhole himage hh hok huse hroom => ?_⟩,
    fun hs => ⟨fun hremove hown hcur => ?_, fun m im hload hm haddr himage hok huse hroom => ?_⟩,
    fun hs => ⟨fun hremove h0 hh hown hcur => ?_, fun m im hload h0 hh hm haddr himage hok huse => ?_⟩⟩
  · obtain ⟨k, h1, h255, heq, hnone, hexec⟩ := exec_loadModel_new hs himage hform hshape hfree hroom
      (fun h => by simpa [s0, State.pinFits] using hpin h)
    exact ⟨_, k, _, hexec, h1, h255, heq, hnone, State.withModel_same .., rfl, rfl, rfl, rfl, rfl, rfl, rfl, rfl, rfl, rfl, rfl, rfl,
      fun i => State.withModel_other, rfl, rfl⟩
  · exact ⟨_, exec_loadModel_repairs hs himage hform hshape h0 hm hjob hdam hdig, by simp [State.repaired, State.loadStart, hm], rfl⟩
  · exact ⟨_, exec_unloadModel hs hm hidle, by simp [State.forgetModel], by simp [State.forgetModel], by simp +contextual [State.forgetModel],
      fun k o => State.forgetModel_unbound, rfl⟩
  · exact ⟨_, exec_loadAdapter_remove hs hremove hown hcur, State.putAdapter_adapter .., rfl, rfl⟩
  · exact ⟨_, _, exec_loadAdapter_new hs hload hm hwhole himage hh hok huse hroom, State.putAdapter_adapter .., rfl, rfl, rfl, rfl, rfl, rfl, rfl, rfl⟩
  · exact ⟨_, exec_loadVocab_remove hs hremove hown hcur, State.putVocab_refilled .., State.refillSlots_sessions ..⟩
  · exact ⟨_, exec_loadVocab_new hs hload hm haddr himage hok huse hroom, State.putVocab_refilled .., State.refillSlots_sessions .., State.refillSlots_models ..⟩
  · exact ⟨_, exec_loadGrammar_remove hs h0 hh hremove hown hcur, State.putGrammar_grammar .., rfl⟩
  · exact ⟨_, exec_loadGrammar_new hs h0 hh hload hm haddr himage hok huse, State.putGrammar_grammar .., rfl, rfl⟩

end Sys2Proof.Machine
end

section
/-!
PROOF. What a walk keeps (11_retrieval, R299, R300): obligation SearchOrder.
-/
namespace Sys2Proof.Machine

open Sys2Proof

/-- The order of a walk's queue: ascending distance, then ascending node number (R299). -/
def Walk.le (a b : Int × Nat × Bool) : Prop := a.1 < b.1 ∨ (a.1 = b.1 ∧ a.2.1 ≤ b.2.1)

theorem Walk.le_total (a b : Int × Nat × Bool) : Walk.le a b ∨ Walk.le b a := by unfold Walk.le; omega

theorem Walk.le_trans {a b c : Int × Nat × Bool} (h : Walk.le a b) (g : Walk.le b c) : Walk.le a c := by unfold Walk.le at *; omega

/-- What R299 says of a queue: it is in order, holds at most `bound` entries, and none of them is tombstoned at epoch `e`. -/
structure QueueKept (im : List Byte) (e bound : Nat) (queue : List (Int × Nat × Bool)) : Prop where
  ordered : queue.Pairwise Walk.le
  short : queue.length ≤ bound
  alive : ∀ x ∈ queue, ixTomb im e x.2.1 = false

/-! ## Inserting and cutting -/

theorem insertBy_perm {α : Type} (le : α → α → Bool) (x : α) (l : List α) : (insertBy le x l).Perm (x :: l) := by
  induction l with
  | nil => exact .refl _
  | cons y l ih =>
    rw [insertBy]
    split
    · exact .refl _
    · exact (ih.cons y).trans (.swap x y l)

theorem insertBy_pairwise {α : Type} {r : α → α → Prop} {le : α → α → Bool} (hle : ∀ a b, le a b = true ↔ r a b)
    (total : ∀ a b, r a b ∨ r b a) (trans : ∀ {a b c}, r a b → r b c → r a c) (x : α) {l : List α} (h : l.Pairwise r) :
    (insertBy le x l).Pairwise r := by
  induction l with
  | nil => exact List.pairwise_singleton r x
  | cons y l ih =>
    obtain ⟨hy, hl⟩ := List.pairwise_cons.1 h
    rw [insertBy]
    split
    next hxy =>
      have hxy := (hle x y).1 hxy
      exact List.pairwise_cons.2 ⟨List.forall_mem_cons.2 ⟨hxy, fun z hz => trans hxy (hy z hz)⟩, h⟩
    next hxy =>
      have hyx : r y x := (total x y).resolve_left fun h => hxy ((hle x y).2 h)
      exact List.pairwise_cons.2 ⟨fun z hz => ((insertBy_perm le x l).mem_iff.1 hz |> List.mem_cons.1).elim (· ▸ hyx) (hy z), ih hl⟩

section
variable {im q : List Byte} {e b l n : Nat} {w : Walk}

theorem QueueKept.insert (h : QueueKept im e b w.queue) (hn : ixTomb im e n = false) : QueueKept im e (b + 1) (w.insert im q n).queue where
  ordered := insertBy_pairwise (by simp [Walk.le]) Walk.le_total Walk.le_trans _ h.ordered
  short := ((insertBy_perm _ _ w.queue).length_eq.trans List.length_cons).le.trans (Nat.succ_le_succ h.short)
  alive x hx := by
    rcases List.mem_cons.1 ((insertBy_perm _ _ w.queue).mem_iff.1 hx) with rfl | hx
    · exact hn
    · exact h.alive x hx

theorem QueueKept.cut (h : QueueKept im e (b + 1) w.queue) (hl : l ≤ b) : QueueKept im e b (w.cut l).queue := by
  unfold Walk.cut
  split
  · exact ⟨h.ordered.sublist (List.dropLast_sublist _), by rw [List.length_dropLast]; exact Nat.sub_le_of_le_add h.short,
      fun x hx => h.alive x (List.mem_of_mem_dropLast hx)⟩
  · exact ⟨h.ordered, by omega, h.alive⟩

theorem QueueKept.mono {b' : Nat} {queue : List (Int × Nat × Bool)} (h : QueueKept im e b queue) (hb : b ≤ b') : QueueKept im e b' queue :=
  ⟨h.ordered, h.short.trans hb, h.alive⟩

/-- Marking a node expanded changes neither distances nor node numbers. -/
theorem QueueKept.mark {queue : List (Int × Nat × Bool)} (h : QueueKept im e b queue) (n : Nat) :
    QueueKept im e b (queue.map (fun x => if x.2.1 = n then (x.1, n, true) else x)) := by
  have hmark : ∀ x : Int × Nat × Bool, (if x.2.1 = n then (x.1, n, true) else x).1 = x.1 ∧ (if x.2.1 = n then (x.1, n, true) else x).2.1 = x.2.1 := by
    intro x
    split
    next hx => exact ⟨rfl, hx.symm⟩
    next => exact ⟨rfl, rfl⟩
  refine ⟨List.pairwise_map.2 (h.ordered.imp fun {x y} hxy => ?_), by rw [List.length_map]; exact h.short, fun x hx => ?_⟩
  · simpa only [Walk.le, (hmark x).1, (hmark x).2, (hmark y).1, (hmark y).2] using hxy
  · obtain ⟨y, hy, rfl⟩ := List.mem_map.1 hx
    rw [(hmark y).2]
    exact h.alive y hy

/-! ## The edges of a node, the expansions, the entry points -/

theorem Walk.cut_insert_expanded : ((w.insert im q n).cut l).expanded = w.expanded := by
  unfold Walk.cut
  split <;> rfl

/-- The edges of an expanded node are visited within the bound, and none of them is expanded. -/
theorem Walk.edges_kept (hl : l ≤ b) (ns : List Nat) (h : QueueKept im e b w.queue) :
    QueueKept im e b (Walk.edges im q e l ns w).queue ∧ (Walk.edges im q e l ns w).expanded = w.expanded := by
  induction ns generalizing w with
  | nil => exact ⟨h, rfl⟩
  | cons n ns ih =>
    rw [Walk.edges]
    split
    · exact ih h
    · split
      · exact ⟨h, rfl⟩
      · dsimp only
        split
        · exact ih (w := { w with visited := n :: w.visited }) h
        next hn =>
          have hn : ixTomb im e n = false := by simpa using hn
          obtain ⟨hq, hx⟩ := ih (QueueKept.cut (QueueKept.insert (q := q) (w := { w with visited := n :: w.visited }) h hn) hl)
          exact ⟨hq, hx.trans Walk.cut_insert_expanded⟩

theorem Walk.run_kept {most : Nat} (hl : l ≤ b) (fuel : Nat) (h : QueueKept im e b w.queue) (hw : most ≠ 0 → w.expanded ≤ most) :
    QueueKept im e b (Walk.run im q e l most fuel w).queue ∧ (most ≠ 0 → (Walk.run im q e l most fuel w).expanded ≤ most) := by
  induction fuel generalizing w with
  | zero => exact ⟨h, hw⟩
  | succ fuel ih =>
    rw [Walk.run]
    split
    · exact ⟨h, hw⟩
    next n _ _ =>
      split
      · exact ⟨h, hw⟩
      next hgo =>
        dsimp only
        obtain ⟨hq, hx⟩ := Walk.edges_kept (q := q)
          (w := { w with expanded := w.expanded + 1, queue := w.queue.map (fun x => if x.2.1 = n then (x.1, n, true) else x) }) hl
          ((List.range (at_ im (ixAt im n + 4) 1)).map (fun k => at_ im (ixAt im n + 16 + 4 * k) 4)) (h.mark n)
        refine ih hq fun h0 => ?_
        have hne : w.expanded ≠ most := fun heq => hgo (.inr ⟨heq, h0⟩)
        have hle := hw h0
        rw [hx]
        dsimp only
        omega

/-- Entry point `k` of the index comes into a walk. -/
def Walk.enter (im q : List Byte) (e : Nat) (w : Walk) (k : Nat) : Walk :=
  let n := at_ im (32 + 4 * k) 4
  if w.visited.contains n then w
  else
    let w := { w with visited := n :: w.visited }
    if ixTomb im e n then w else w.insert im q n

theorem walk_eq (im q : List Byte) (e l most : Nat) :
    walk im q e l most = Walk.run im q e l most 65537 ((List.range (at_ im 9 1)).foldl (Walk.enter im q e) {}) := rfl

/-- Each entry point adds one entry at most and expands nothing. -/
theorem Walk.enter_kept (k : Nat) (h : QueueKept im e b w.queue) :
    QueueKept im e (b + 1) (w.enter im q e k).queue ∧ (w.enter im q e k).expanded = w.expanded := by
  have hmore := h.mono (Nat.le_succ b)
  unfold Walk.enter
  dsimp only
  split
  · exact ⟨hmore, rfl⟩
  · split
    · exact ⟨hmore, rfl⟩
    next hn => exact ⟨QueueKept.insert (w := { w with visited := _ :: w.visited }) h (by simpa using hn), rfl⟩

theorem Walk.entered_kept (im q : List Byte) (e m : Nat) :
    QueueKept im e m ((List.range m).foldl (Walk.enter im q e) {}).queue ∧ ((List.range m).foldl (Walk.enter im q e) {}).expanded = 0 := by
  induction m with
  | zero => exact ⟨⟨.nil, Nat.le_refl 0, fun x hx => nomatch hx⟩, rfl⟩
  | succ m ih =>
    rw [List.range_succ, List.foldl_append]
    exact ⟨(Walk.enter_kept m ih.1).1, (Walk.enter_kept m ih.1).2.trans ih.2⟩

end

/-- Settles O46: the entry points leave the queue within their number, and every expansion keeps it within that number or L. -/
theorem searchOrder : Obligations.SearchOrder := by
  intro im q e l most
  obtain ⟨hq, hx⟩ := Walk.entered_kept im q e (at_ im 9 1)
  obtain ⟨hrun, hmost⟩ := Walk.run_kept (q := q) (l := l) (most := most) (le_max_left l _) 65537 (hq.mono (le_max_right l _))
    (fun _ => hx.le.trans (Nat.zero_le most))
  rw [walk_eq]
  exact ⟨hrun.ordered, hrun.short, hrun.alive, hmost⟩

end Sys2Proof.Machine
end

section
/-!
SUPPORT. What the device's shared operations leave of indexes, filters and tables, and what is left of an object when the versions that nothing
uses any more have been freed (11_retrieval, R296, R310, R318).
-/
namespace Sys2Proof.Machine

open Sys2Proof

/-! ## What the commands of retrieval run -/

section
variable (s : State) (job well : Nat) (d : Desc)

theorem exec_eq_loadIndex : exec (.loadIndex job well d) s = execLoadIndex job well d s := rfl
theorem exec_eq_loadFilter : exec (.loadFilter job well d) s = execLoadFilter job well d s := rfl
theorem exec_eq_tombstone : exec (.tombstone job well d) s = execTombstone job well d s := rfl
theorem exec_eq_indexWrite : exec (.indexWrite job well d) s = execIndexWrite job well d s := rfl
theorem exec_eq_search : exec (.search job well d) s = execSearch job well d s := rfl
theorem exec_eq_indexWriteApply (i : Nat) : exec (.indexWriteApply job i) s = execIndexWriteApply job i s := rfl
theorem exec_eq_loadTable : exec (.loadTable job well d) s = execLoadTable job well d s := rfl
theorem exec_eq_tableSwap : exec (.tableSwap job well d) s = execTableSwap job well d s := rfl
theorem exec_eq_embedLookup : exec (.embedLookup job well d) s = execEmbedLookup job well d s := rfl
theorem exec_eq_tableUpdate : exec (.tableUpdate job well d) s = execTableUpdate job well d s := rfl
theorem exec_eq_tableStep : exec (.tableStep job well d) s = execTableStep job well d s := rfl
theorem exec_eq_migrateRows : exec (.migrateRows job well d) s = execMigrateRows job well d s := rfl
theorem exec_eq_embedDocs : exec (.embedDocs job well d) s = execEmbedDocs job well d s := rfl

end

/-! ## Checks that the commands share -/

/-- A confidential job's results go to HBM (R439). -/
theorem bnot_or_of_imp {c b : Bool} (h : c = true → b = true) : (!c || b) = true := by
  cases c with
  | false => rfl
  | true => exact h rfl

/-- A step is not stale when every step named is before it (R314, R316). -/
theorem any_le_of_all_lt {o : Option Nat} {n : Nat} (h : o.all (fun a => decide (a < n)) = true) : o.any (fun a => decide (n ≤ a)) = false := by
  cases o with
  | none => rfl
  | some a => simpa using h

/-! ## Operations that leave the objects of retrieval alone -/

/-- Two states with the same sessions, and with the same indexes, filters and tables of every job. -/
structure State.SameObjects (s t : State) : Prop where
  sess : t.sessions = s.sessions
  indexes : ∀ k, (t.job k).indexes = (s.job k).indexes
  filters : ∀ k, (t.job k).filters = (s.job k).filters
  tables : ∀ k, (t.job k).tables = (s.job k).tables

section
variable {s t u : State}

theorem State.SameObjects.refl (s : State) : s.SameObjects s := ⟨rfl, fun _ => rfl, fun _ => rfl, fun _ => rfl⟩

theorem State.SameObjects.trans (h : s.SameObjects t) (g : t.SameObjects u) : s.SameObjects u :=
  ⟨g.sess.trans h.sess, fun k => (g.indexes k).trans (h.indexes k), fun k => (g.filters k).trans (h.filters k),
    fun k => (g.tables k).trans (h.tables k)⟩

theorem State.SameObjects.of_jobs (hs : t.sessions = s.sessions) (hj : t.jobs = s.jobs) : s.SameObjects t := by
  have h (k : Nat) : t.job k = s.job k := by simp only [State.job, hj]
  exact ⟨hs, fun k => by rw [h], fun k => by rw [h], fun k => by rw [h]⟩

/-- An update of one job that leaves the job's objects. -/
theorem State.SameObjects.of_put {j : Nat} {x : Job} (hs : t.sessions = s.sessions) (hj : t.jobs = mput s.jobs j x)
    (hi : x.indexes = (s.job j).indexes) (hf : x.filters = (s.job j).filters) (ht : x.tables = (s.job j).tables) : s.SameObjects t := by
  have h (k : Nat) : t.job k = if k = j then x else s.job k := by simp only [State.job, hj, mgetD_mput]
  refine ⟨hs, fun k => ?_, fun k => ?_, fun k => ?_⟩ <;> (rw [h]; split <;> simp_all)

theorem State.SameObjects.foldl {α : Type} {f : State → α → State} (hf : ∀ (s : State) (a : α), s.SameObjects (f s a)) (l : List α) (s : State) :
    s.SameObjects (l.foldl f s) :=
  List.foldlRecOn (motive := fun t => s.SameObjects t) l f (.refl s) fun t ht a _ => ht.trans (hf t a)

theorem State.SameObjects.index_eq (h : s.SameObjects t) (j i : Nat) : t.index j i = s.index j i := by simp only [State.index, h.indexes]
theorem State.SameObjects.filter_eq (h : s.SameObjects t) (j i : Nat) : t.filter j i = s.filter j i := by simp only [State.filter, h.filters]
theorem State.SameObjects.table_eq (h : s.SameObjects t) (j i : Nat) : t.table j i = s.table j i := by simp only [State.table, h.tables]

end

section
variable (s : State)

theorem State.takenUp_objects (j w : Nat) : s.SameObjects (s.takenUp j w) :=
  .of_put rfl rfl rfl rfl rfl

@[simp] theorem State.takenUp_index (j w i h : Nat) : (s.takenUp j w).index i h = s.index i h := (s.takenUp_objects j w).index_eq i h
@[simp] theorem State.takenUp_filter (j w i h : Nat) : (s.takenUp j w).filter i h = s.filter i h := (s.takenUp_objects j w).filter_eq i h
@[simp] theorem State.takenUp_table (j w i h : Nat) : (s.takenUp j w).table i h = s.table i h := (s.takenUp_objects j w).table_eq i h
@[simp] theorem State.takenUp_node (j w : Nat) : (s.takenUp j w).node = s.node := rfl

theorem State.wr_objects (hbm : Bool) (a : Nat) (bs : List Byte) : s.SameObjects (s.wr hbm a bs) := by
  obtain ⟨q, m, r, h, e, -⟩ := s.wr_only hbm a bs
  rw [e]
  exact .of_jobs rfl rfl

theorem State.coalesce_objects (j w : Nat) : s.SameObjects (s.coalesce j w) := by
  unfold State.coalesce
  dsimp only
  split
  · exact .of_put rfl rfl rfl rfl rfl
  · exact .refl s

theorem State.drain_objects (n j w : Nat) : s.SameObjects (State.drain n s j w) := by
  induction n generalizing s with
  | zero => exact .refl s
  | succ n ih =>
    rw [State.drain]
    dsimp only
    split
    · exact .refl s
    · split
      · refine .trans ?_ ((State.coalesce_objects _ j w).trans (ih _))
        refine (s.wr_objects _ _ _).trans (.of_put rfl rfl ?_ ?_ ?_) <;> (split <;> rfl)
      · exact .refl s

theorem State.complete_objects (c : DescCtx) (status result req session : Nat) : s.SameObjects (s.complete c status result req session) := by
  refine .trans ?_ (State.drain_objects _ _ _ _)
  exact .of_put rfl rfl rfl rfl rfl

theorem State.enqueue_objects (c : Nat) (x : EngCmd) : s.SameObjects (s.enqueue c x) := by
  obtain ⟨p, h, e⟩ := s.enqueue_only c x
  rw [e]
  exact .of_jobs rfl rfl

theorem State.flashFree_objects (a n : Nat) : s.SameObjects (s.flashFree a n) := .of_jobs rfl rfl

theorem State.areaFree_objects (j : Nat) (a : Nat × Nat × Nat × Nat) : s.SameObjects (s.areaFree j a) := by
  unfold State.areaFree
  split
  · exact s.flashFree_objects _ _
  · exact .of_put rfl rfl rfl rfl rfl

theorem State.areaFree_hbm (j : Nat) (a : Nat × Nat × Nat × Nat) : (s.areaFree j a).hbm = s.hbm := by
  unfold State.areaFree
  split <;> rfl

theorem State.rowWrite_objects (j : Nat) (v : TableVer) (tier region offset : Nat) (bytes : List Byte) :
    s.SameObjects (s.rowWrite j v tier region offset bytes) := by
  unfold State.rowWrite
  split
  · exact .refl s
  · split
    · split
      · split
        · exact .refl s
        · exact s.wr_objects _ _ _
      · exact .refl s
    · exact .of_jobs rfl rfl

end

theorem State.generalPlace_objects {s u : State} {j n a : Nat} {bs : List Byte} (h : s.generalPlace j n bs = some (a, u)) : s.SameObjects u := by
  unfold State.generalPlace at h
  split at h
  · cases h
  · obtain ⟨x, -, hx⟩ := Option.map_eq_some_iff.1 h
    cases hx
    exact .of_jobs rfl rfl

theorem State.areaTake_objects {s u : State} {j tier region n : Nat} {bs : List Byte} {a : Nat × Nat × Nat × Nat}
    (h : s.areaTake j tier region n bs = .ok (a, u)) : s.SameObjects u := by
  unfold State.areaTake at h
  split at h
  · split at h
    · cases h
    next e =>
      cases h
      exact State.generalPlace_objects e
  · split at h
    · cases h
    · dsimp only at h
      split at h
      · cases h
      · cases h
        split
        · exact .of_put rfl rfl rfl rfl rfl
        · refine .trans ?_ (State.wr_objects _ _ _ _)
          exact .of_put rfl rfl rfl rfl rfl

/-! ## Objects put under their handles -/

section
variable (s : State) (j h : Nat)

@[simp] theorem State.setIndex_index (o : Index) : (s.setIndex j h o).index j h = some o := by simp [State.setIndex, State.index]
@[simp] theorem State.setFilter_filter (o : Filter) : (s.setFilter j h o).filter j h = some o := by simp [State.setFilter, State.filter]
@[simp] theorem State.setTable_table (o : Table) : (s.setTable j h o).table j h = some o := by simp [State.setTable, State.table]

/-- Of two tables put under one handle the later one stands. -/
theorem State.setTable_setTable (o p : Table) : (s.setTable j h o).setTable j h p = s.setTable j h p := by
  simp [State.setTable, State.setJob, State.job, mput_mput]

end

/-! ## Freeing the versions that nothing uses (R296, R310) -/

section
variable {s : State} {j h : Nat}

theorem State.reapIndex_index {o : Index} (ho : s.index j h = some o) :
    (s.reapIndex j h).index j h = some { o with versions := o.versions.filter (fun v => o.current == some v.ver || v.busy) } := by
  unfold State.reapIndex
  rw [ho]
  exact State.setIndex_index ..

theorem State.reapIndex_sessions : (s.reapIndex j h).sessions = s.sessions := by
  unfold State.reapIndex
  split
  · rfl
  · refine (State.SameObjects.foldl (fun t v => ?_) _ s).sess
    split
    · exact .refl t
    · exact t.flashFree_objects _ _

/-- The current version of an index stays. -/
theorem State.reapIndex_keeps {o : Index} {v : IndexVer} (ho : s.index j h = some o) (hv : v ∈ o.versions) (hc : o.current = some v.ver) :
    ∃ p, (s.reapIndex j h).index j h = some p ∧ p.current = o.current ∧ v ∈ p.versions :=
  ⟨_, State.reapIndex_index ho, rfl, List.mem_filter.2 ⟨hv, by simp [hc]⟩⟩

theorem State.reapFilter_filter {o : Filter} (ho : s.filter j h = some o) :
    (s.reapFilter j h).filter j h = some { o with versions := o.versions.filter (fun v => o.current == some v.ver || v.users != 0) } := by
  unfold State.reapFilter
  rw [ho]
  exact State.setFilter_filter ..

/-- The current version of a filter stays. -/
theorem State.reapFilter_keeps {o : Filter} {v : FilterVer} (ho : s.filter j h = some o) (hv : v ∈ o.versions) (hc : o.current = some v.ver) :
    ∃ p, (s.reapFilter j h).filter j h = some p ∧ p.index = o.index ∧ p.current = o.current ∧ v ∈ p.versions :=
  ⟨_, State.reapFilter_filter ho, rfl, rfl, List.mem_filter.2 ⟨hv, by simp [hc]⟩⟩

end

/-! ## Tables: freeing old copies, versions and runs of grains (R310, R317, R318) -/

/-- A version without the old copies that no lookup of the state may still read, and without the last runs that no row then holds. -/
def State.trimmed (s : State) (j h : Nat) (v : TableVer) : TableVer :=
  let w : TableVer := { v with olds := v.olds.filter (fun x =>
    s.lookups.any (fun e => decide (e.1 < x.2.2.2) && e.2.ctx.job == j && e.2.table == h && e.2.ver == v.ver)) }
  { w with areas := (w.spare w.areas.length).2 }

/-- Does a version of a table stay: it waits for TABLE_SWAP, it is current, or it is in use? -/
def Table.stays (o : Table) (v : TableVer) : Bool := v.fresh || o.current == some v.ver || o.busy v

section
variable {s : State} {j h : Nat} {o : Table}

@[simp] theorem State.trimmed_ver (s : State) (j h : Nat) (v : TableVer) : (s.trimmed j h v).ver = v.ver := rfl

theorem State.trimTable_eq (ho : s.table j h = some o) :
    ∃ l : List (Nat × Nat × Nat × Nat), s.trimTable j h =
      l.foldl (fun s a => s.areaFree j a) (s.setTable j h { o with versions := o.versions.map (s.trimmed j h) }) := by
  unfold State.trimTable
  rw [ho]
  dsimp only
  rw [List.map_map]
  exact ⟨_, rfl⟩

theorem State.foldl_areaFree_objects (l : List (Nat × Nat × Nat × Nat)) (s : State) : s.SameObjects (l.foldl (fun s a => s.areaFree j a) s) :=
  .foldl (fun s a => s.areaFree_objects j a) l s

theorem State.foldl_areaFree_hbm (l : List (Nat × Nat × Nat × Nat)) (s : State) : (l.foldl (fun s a => s.areaFree j a) s).hbm = s.hbm :=
  List.foldlRecOn (motive := fun t : State => t.hbm = s.hbm) l _ rfl fun t ht a _ => (t.areaFree_hbm j a).trans ht

theorem State.trimTable_table (ho : s.table j h = some o) :
    (s.trimTable j h).table j h = some { o with versions := o.versions.map (s.trimmed j h) } := by
  obtain ⟨l, hl⟩ := State.trimTable_eq ho
  rw [hl, (State.foldl_areaFree_objects l _).table_eq, State.setTable_table]

/-- What is left of a table once what nothing uses has been freed. -/
theorem State.reapTable_table (ho : s.table j h = some o) :
    (s.reapTable j h).table j h = some { o with versions := (o.versions.map (s.trimmed j h)).filter o.stays } := by
  unfold State.reapTable
  dsimp only
  rw [State.trimTable_table ho]
  exact State.setTable_table ..

/-- A version that stays keeps its rows. -/
theorem State.reapTable_keeps {v : TableVer} (ho : s.table j h = some o) (hv : v ∈ o.versions) (hc : o.current = some v.ver) :
    ∃ p x, (s.reapTable j h).table j h = some p ∧ p.migEpoch = o.migEpoch ∧ x ∈ p.versions ∧ x.ver = v.ver ∧ x.rowMap = v.rowMap :=
  ⟨_, _, State.reapTable_table ho, rfl, List.mem_filter.2 ⟨List.mem_map_of_mem hv, by simp [Table.stays, hc]⟩, rfl, rfl⟩

theorem State.reapTable_same : (s.reapTable j h).sessions = s.sessions ∧ (s.reapTable j h).hbm = s.hbm := by
  have htrim : (s.trimTable j h).sessions = s.sessions ∧ (s.trimTable j h).hbm = s.hbm := by
    cases ho : s.table j h with
    | none =>
      unfold State.trimTable
      rw [ho]
      exact ⟨rfl, rfl⟩
    | some o =>
      obtain ⟨l, hl⟩ := State.trimTable_eq ho
      rw [hl]
      exact ⟨(State.foldl_areaFree_objects l _).sess, State.foldl_areaFree_hbm l _⟩
  unfold State.reapTable
  dsimp only
  split
  · exact htrim
  next o _ =>
    refine List.foldlRecOn (motive := fun t : State => t.sessions = s.sessions ∧ t.hbm = s.hbm) _ _ htrim fun t ht v _ => ?_
    exact ⟨(State.foldl_areaFree_objects v.areas t).sess.trans ht.1, (State.foldl_areaFree_hbm v.areas t).trans ht.2⟩

end

end Sys2Proof.Machine
end

section
/-!
PROOF. Indexes, filters and searches (11_retrieval, R296, R301 to R304): obligation Indexes.
-/
namespace Sys2Proof.Machine

open Sys2Proof

/-! ## LOAD_INDEX (R296) -/

/-- The index that a job has under a handle; one never loaded has no version. -/
def State.indexAt (s : State) (job h : Nat) : Index := (s.index job h).getD { current := none, last := 0, versions := [] }

/-- The version that a LOAD_INDEX makes of its image: the next number, epoch 1, `hot` nodes in HBM and the others in the grains `cold`. -/
def Index.newVer (o : Index) (im : List Byte) (hot : Nat) (cold : Option (Nat × Nat)) : IndexVer :=
  { ver := o.last % 0xFFFF + 1, image := indexLoaded im, hot := hot, epoch := 1, users := 0, damaged := false, cold := cold }

/-- The index with a new version, which is current. -/
def Index.load (o : Index) (v : IndexVer) : Index := { current := some v.ver, last := v.ver, versions := o.versions ++ [v] }

section
variable {s : State} {job well : Nat} {d : Desc} (hs : s.Serves kLoadIndex job well d)
include hs

theorem exec_loadIndex_remove (hremove : bit d 384 = true) (hcur : (s.indexAt job (dfld d 16 0 16)).current.isSome = true) :
    exec (.loadIndex job well d) s =
      .next ((((s.takenUp job well).setIndex job (dfld d 16 0 16) { s.indexAt job (dfld d 16 0 16) with current := none }).reapIndex job
        (dfld d 16 0 16)).complete (descCtx kLoadIndex job well d) Code.ok) := by
  have hnone : ¬ (s.indexAt job (dfld d 16 0 16)).current.isNone = true := by simpa using Option.isSome_iff_ne_none.1 hcur
  unfold State.indexAt at hnone ⊢
  simp only [exec_eq_loadIndex, execLoadIndex, State.takeUp_serves hs, State.takenUp_index, hremove, if_true, if_neg hnone]

/-- The grains of the nodes that are not hot are placed first, which leaves every object as it is. -/
theorem exec_loadIndex_new {im : List Byte} {hot : Nat} (hload : bit d 384 = false)
    (himage : (s.takenUp job well).loadImage job d 24 (dfld d 32 0 64) false 0 = .ok im)
    (hh : 1 ≤ dfld d 16 0 16 ∧ dfld d 16 0 16 ≤ 0xFFFE) (hok : indexOk im (dfld d 32 0 64) = true)
    (hbusy : ((s.indexAt job (dfld d 16 0 16)).versions.filter (·.busy)).length < 2) (hhot : hot = min (dfld d 40 0 33) (ixNodes im))
    (hroom : (s.takenUp job well).roomAfter job
      (((s.indexAt job (dfld d 16 0 16)).versions.filter (fun v => !v.busy)).foldl (fun n v => n + v.grains) 0)
      (grainsOf (64 + hot * ixRec im)) = true)
    (hplace : grainsOf ((ixNodes im - hot) * ixRec im) = 0 ∨
      ((s.takenUp job well).generalPlace job (grainsOf ((ixNodes im - hot) * ixRec im)) (im.drop (ixAt im hot))).isSome = true) :
    ∃ u cold, s.SameObjects u ∧ exec (.loadIndex job well d) s =
      .next (((u.setIndex job (dfld d 16 0 16) ((s.indexAt job (dfld d 16 0 16)).load
        ((s.indexAt job (dfld d 16 0 16)).newVer im hot cold))).reapIndex job (dfld d 16 0 16)).complete (descCtx kLoadIndex job well d) Code.ok) := by
  subst hhot
  have hup := s.takenUp_objects job well
  unfold State.indexAt at hbusy hroom ⊢
  simp only [exec_eq_loadIndex, execLoadIndex, State.takeUp_serves hs, State.takenUp_index, hload, Bool.false_eq_true, if_false, himage, hh, hok, hbusy,
    hroom, and_self, decide_true, Bool.and_self, firstFail_pass, firstFail_nil]
  by_cases hcold : grainsOf ((ixNodes im - min (dfld d 40 0 33) (ixNodes im)) * ixRec im) = 0
  · simp only [if_pos hcold]
    exact ⟨_, _, hup, rfl⟩
  · obtain ⟨⟨a, u⟩, hu⟩ := Option.isSome_iff_exists.1 (hplace.resolve_left hcold)
    simp only [if_neg hcold, hu, Option.map_some]
    exact ⟨u, _, hup.trans (State.generalPlace_objects hu), rfl⟩

end

/-! ## LOAD_FILTER (R296, R303) -/

/-- The filter that a job has under a handle; one never loaded is of the index that the descriptor names. -/
def State.filterAt (s : State) (job f ix : Nat) : Filter := (s.filter job f).getD { index := ix, current := none, last := 0, versions := [] }

section
variable {s : State} {job well : Nat} {d : Desc} (hs : s.Serves kLoadFilter job well d)
include hs

theorem exec_loadFilter_remove (hremove : bit d 384 = true) (hcur : (s.filterAt job (dfld d 18 0 16) (dfld d 16 0 16)).current.isSome = true) :
    exec (.loadFilter job well d) s =
      .next ((((s.takenUp job well).setFilter job (dfld d 18 0 16)
        { s.filterAt job (dfld d 18 0 16) (dfld d 16 0 16) with current := none }).reapFilter job (dfld d 18 0 16)).complete
          (descCtx kLoadFilter job well d) Code.ok) := by
  have hnone : ¬ (s.filterAt job (dfld d 18 0 16) (dfld d 16 0 16)).current.isNone = true := by simpa using Option.isSome_iff_ne_none.1 hcur
  unfold State.filterAt at hnone ⊢
  simp only [exec_eq_loadFilter, execLoadFilter, State.takeUp_serves hs, State.takenUp_filter, hremove, if_true, if_neg hnone]

theorem exec_loadFilter_new {v : IndexVer} {im : List Byte} {o : Filter} (ho : o = s.filterAt job (dfld d 18 0 16) (dfld d 16 0 16))
    (hload : bit d 384 = false)
    (hv : (s.index job (dfld d 16 0 16)).bind Index.cur = some v)
    (himage : (s.takenUp job well).loadImage job d 24 (dfld d 32 0 64) false 0 = .ok im) (hh : 1 ≤ dfld d 18 0 16 ∧ dfld d 18 0 16 ≤ 0xFFFE)
    (hlen : dfld d 32 0 64 = cdiv (ixNodes v.image) 8) (hbusy : (o.versions.filter (fun v => v.users != 0)).length < 2)
    (hroom : (s.takenUp job well).roomAfter job ((o.versions.filter (fun v => v.users == 0)).foldl (fun n v => n + v.grains) 0)
      (grainsOf (dfld d 32 0 64)) = true) :
    ∃ (u : State) (x : FilterVer), x.ver = o.last % 0xFFFF + 1 ∧ x.bits = im ∧ x.users = 0 ∧ exec (.loadFilter job well d) s =
      .next (((u.setFilter job (dfld d 18 0 16) { index := dfld d 16 0 16, current := some x.ver, last := x.ver, versions := o.versions ++ [x] }).reapFilter
        job (dfld d 18 0 16)).complete (descCtx kLoadFilter job well d) Code.ok) := by
  subst ho
  unfold State.filterAt at hbusy hroom ⊢
  simp only [exec_eq_loadFilter, execLoadFilter, State.takeUp_serves hs, State.takenUp_filter, State.takenUp_index, hload, Bool.false_eq_true, if_false, hv,
    himage, hh, beq_iff_eq.2 hlen, hbusy, hroom, and_self, decide_true, Bool.and_self, firstFail_pass, firstFail_nil]
  exact ⟨_, { ver := _, bits := im, users := 0, damaged := false, bank := _ }, rfl, rfl, rfl, rfl⟩

end

/-! ## TOMBSTONE and INDEX_WRITE (R301, R302) -/

/-- Record `id` is marked as deleted at an epoch, unless it already is. -/
def tombRecord (im : List Byte) (id epoch : Nat) : List Byte :=
  if id < ixNodes im ∧ at_ im (ixAt im id) 4 = 0 then patch im (ixAt im id) (leBytes 4 epoch) else im

/-- A version with the `n` records that the list `bs` names marked as deleted at its next epoch. -/
def IndexVer.tombed (v : IndexVer) (bs : List Byte) (n : Nat) : IndexVer :=
  { v with image := (List.range n).foldl (fun im k => tombRecord im (at_ bs (4 * k) 4) (v.epoch + 1)) v.image, epoch := v.epoch + 1 }

section
variable {s : State} {job well : Nat} {d : Desc} {o : Index} {v : IndexVer} {bs : List Byte}
  (hix : s.index job (dfld d 16 0 16) = some o) (hcur : o.cur = some v) (hdam : v.damaged = false)
include hix hcur hdam

theorem exec_tombstone (hs : s.Serves kTombstone job well d) (hepoch : v.epoch ≠ 0xFFFFFFFF)
    (haddr : (s.takenUp job well).addrOk job d 24 (4 * dfld d 20 0 32) = true)
    (hf : (s.takenUp job well).fetch d 24 (4 * dfld d 20 0 32) = some bs) :
    exec (.tombstone job well d) s = .next (((s.takenUp job well).setIndex job (dfld d 16 0 16) (o.setVer (v.tombed bs (dfld d 20 0 32)))).complete
      (descCtx kTombstone job well d) Code.ok) := by
  simp only [exec_eq_tombstone, execTombstone, State.takeUp_serves hs, State.takenUp_index, hix, hcur, hdam, Bool.false_eq_true, if_false, if_neg hepoch,
    haddr, Bool.not_true, hf, IndexVer.tombed, tombRecord]

theorem exec_indexWrite (hs : s.Serves kIndexWrite job well d)
    (haddr : (s.takenUp job well).addrOk job d 24 ((64 + ixRec v.image) * dfld d 20 0 32) = true)
    (hf : (s.takenUp job well).fetch d 24 ((64 + ixRec v.image) * dfld d 20 0 32) = some bs)
    (hzero : ∀ k < dfld d 20 0 32, zeroRun bs ((64 + ixRec v.image) * k + 4) 60 = true) {items : List (Nat × List Byte)}
    (hitems : items = (List.range (dfld d 20 0 32)).map (fun k =>
      (at_ bs ((64 + ixRec v.image) * k) 4, sub bs ((64 + ixRec v.image) * k + 64) (ixRec v.image))))
    (hok : items.all (fun x => decide (x.1 < ixNodes v.image) && recOk v.image x.2) = true) :
    exec (.indexWrite job well d) s = .next ((s.takenUp job well).setIndex job (dfld d 16 0 16)
      (o.setVer { v with writes := v.writes ++ [(descCtx kIndexWrite job well d, items)] })) := by
  subst hitems
  have hzeros : (List.range (dfld d 20 0 32)).all (fun k => zeroRun bs ((64 + ixRec v.image) * k + 4) 60) = true :=
    List.all_eq_true.2 fun k hk => hzero k (List.mem_range.1 hk)
  simp only [exec_eq_indexWrite, execIndexWrite, State.takeUp_serves hs, State.takenUp_index, hix, hcur, hdam, Bool.false_eq_true, if_false, haddr,
    Bool.not_true, hf, hzeros, hok, Bool.and_self]

end

/-! ## SEARCH (R303, R304) -/

/-- What a SEARCH without filters is bound to: the current version, its epoch, and the INDEX_WRITEs that hold it back. -/
def IndexVer.search (v : IndexVer) (job well : Nat) (d : Desc) (q : List Byte) : Search :=
  { ctx := descCtx kSearch job well d, index := dfld d 16 0 16, ver := v.ver, epoch := v.epoch, k := dfld d 18 0 11, l := dfld d 20 0 11
    ops := dfld d 22 0 6, filters := [], expandMax := dfld d 32 0 32, query := q, resAddr := daddr d 48, resHbm := dhbm d 48, held := v.writes.length }

/-- The state with one search more that uses a version of an index; one that is held back does not use it yet. -/
def State.addSearch (s : State) (job h : Nat) (o : Index) (v : IndexVer) (x : Search) : State :=
  let s := if v.writes.length ≠ 0 then s else s.setIndex job h (o.setVer { v with users := v.users + 1 })
  { s with searches := mput s.searches s.nextWork x, nextWork := s.nextWork + 1 }

section
variable (s : State) (job h : Nat) (o : Index) (v : IndexVer) (x : Search)

theorem State.addSearch_searches : mget (s.addSearch job h o v x).searches s.nextWork = some x := by
  unfold State.addSearch
  split <;> simp [State.setIndex]

theorem State.addSearch_sessions : (s.addSearch job h o v x).sessions = s.sessions := by
  unfold State.addSearch
  split <;> rfl

end

theorem exec_search {s : State} {job well : Nat} {d : Desc} {o : Index} {v : IndexVer} {q : List Byte} (hs : s.Serves kSearch job well d)
    (hix : s.index job (dfld d 16 0 16) = some o) (hcur : o.cur = some v) (hdam : v.damaged = false) (hfn : dfld d 23 0 3 = 0)
    (hk : 1 ≤ dfld d 18 0 11) (hkl : dfld d 18 0 11 ≤ dfld d 20 0 11) (hl : dfld d 20 0 11 ≤ 1024)
    (hops : ∀ i < 3, dfld d 22 0 6 / 4 ^ i % 4 ≠ 3) (hrsv : fld d 384 6 = 0) (hconf : (s.job job).conf = true → dhbm d 40 = true ∧ dhbm d 48 = true)
    (hq : (s.takenUp job well).addrOk job d 40 (ixDim v.image + ixDim v.image / 32) = true)
    (hres : (s.takenUp job well).addrOk job d 48 (16 + 16 * dfld d 18 0 11) = true)
    (hf : (s.takenUp job well).fetch d 40 (ixDim v.image + ixDim v.image / 32) = some q) :
    exec (.search job well d) s =
      .next (((s.takenUp job well).addSearch job (dfld d 16 0 16) o v (v.search job well d q)).feedWalkers job) := by
  have hop : (List.range 3).all (fun i => dfld d 22 0 6 / 4 ^ i % 4 != 3) = true :=
    List.all_eq_true.2 fun i hi => bne_iff_ne.2 (hops i (List.mem_range.1 hi))
  have hconf' : (!(s.job job).conf || (dhbm d 40 && dhbm d 48)) = true := bnot_or_of_imp fun h => Bool.and_eq_true_iff.2 (hconf h)
  simp only [exec_eq_search, execSearch, State.takeUp_serves hs, State.takenUp_index, hix, hcur, hdam, hfn, Nat.min_zero, List.range_zero,
    List.map_nil, List.length_nil, List.filterMap_nil, State.takenUp_conf, hconf', hk, hkl, hl, hkl.trans hl, hop, beq_iff_eq.2 hrsv, and_self, decide_true,
    Nat.zero_le, Bool.and_self, Bool.not_false, beq_self_eq_true, List.all_nil, hq, hres, firstFail_pass, firstFail_nil, hf,
    List.foldl_nil, List.isEmpty_nil, if_true, State.addSearch, IndexVer.search]

/-! ## INDEX_WRITE_APPLY (R302) -/

theorem Index.mem_setVer {o : Index} {v w : IndexVer} (hv : v ∈ o.versions) (hw : w.ver = v.ver) : w ∈ (o.setVer w).versions :=
  List.mem_map.2 ⟨v, hv, if_pos hw.symm⟩

/-- A version once its oldest INDEX_WRITE has written its records; `users` of the searches it held are released. -/
def IndexVer.written (v : IndexVer) (items : List (Nat × List Byte)) (rest : List (DescCtx × List (Nat × List Byte))) (users : Nat) : IndexVer :=
  { v with image := items.foldl (fun im y => patch im (ixAt im y.1) y.2) v.image, writes := rest, users := users }

/-- The searches of an index version that INDEX_WRITEs hold back. -/
def State.heldBack (s : State) (job i ver : Nat) : List (Nat × Search) :=
  s.searches.filter (fun e => e.2.held != 0 && e.2.ctx.job == job && e.2.index == i && e.2.ver == ver)

/-- One INDEX_WRITE less holds each of these searches back. -/
def State.releaseHeld (s : State) (es : List (Nat × Search)) : State :=
  es.foldl (fun s e => { s with searches := mput s.searches e.1 { e.2 with held := e.2.held - 1 } }) s

theorem State.releaseHeld_objects (s : State) (es : List (Nat × Search)) : s.SameObjects (s.releaseHeld es) := by
  refine State.SameObjects.foldl (fun t e => ?_) es s
  exact .of_jobs rfl rfl

/-- The state once the oldest INDEX_WRITE of a version has written its records. -/
def State.indexWritten (s : State) (job i : Nat) (o : Index) (v : IndexVer) (items : List (Nat × List Byte))
    (rest : List (DescCtx × List (Nat × List Byte))) : State :=
  let es := s.heldBack job i v.ver
  (s.setIndex job i (o.setVer (v.written items rest (es.filter (fun e => e.2.held == 1)).length))).releaseHeld es

theorem exec_indexWriteApply {s : State} {job i : Nat} {o : Index} {v : IndexVer} {c : DescCtx} {items : List (Nat × List Byte)}
    {rest : List (DescCtx × List (Nat × List Byte))} (hready : s.power.ready = true) (hix : s.index job i = some o)
    (hfind : o.versions.find? (fun v => !v.writes.isEmpty && v.users == 0) = some v) (hw : v.writes = (c, items) :: rest) :
    exec (.indexWriteApply job i) s =
      .next ((((s.indexWritten job i o v items rest).reapIndex job i).complete c Code.ok).feedWalkers job) := by
  simp only [exec_eq_indexWriteApply, execIndexWriteApply, State.ifReady_ready hready, hix, hfind]
  rw [hw]
  rfl

theorem State.indexWritten_index (s : State) (job i : Nat) (o : Index) (v : IndexVer) (items : List (Nat × List Byte))
    (rest : List (DescCtx × List (Nat × List Byte))) : (s.indexWritten job i o v items rest).index job i =
      some (o.setVer (v.written items rest ((s.heldBack job i v.ver).filter (fun e => e.2.held == 1)).length)) :=
  ((State.releaseHeld_objects _ _).index_eq job i).trans (State.setIndex_index ..)

/-- Settles O45: what each command makes of the index or filter is named (`exec_loadIndex_new`, `exec_tombstone`, `exec_search`, …), and the
versions that nothing uses are then freed, which the current version outlives (`State.reapIndex_keeps`). -/
theorem indexes : Obligations.Indexes := by
  intro s job well d s0 h
  have hsess : s0.sessions = s.sessions := rfl
  refine ⟨fun hs => ⟨fun hremove hcur => ?_, fun im hload himage h1 h2 hok hbusy hroom hplace => ?_⟩,
    fun hs => ⟨fun hremove hcur => ?_, fun v im hload hv himage h1 h2 hlen hbusy hroom => ?_⟩,
    fun o v hix hcur hdam => ⟨fun bs hs hepoch haddr hf => ?_, fun bs hs haddr hf hzero hok => ?_,
      fun q hs hfn hk hkl hl hops hrsv hconf hq hres hf => ?_⟩,
    fun i o v c items rest hready hix hfind hw hcur => ?_⟩
  · exact ⟨_, _, exec_loadIndex_remove hs hremove hcur, State.reapIndex_index (State.setIndex_index ..), rfl, State.reapIndex_sessions⟩
  · obtain ⟨u, cold, hsame, hexec⟩ := exec_loadIndex_new hs hload himage ⟨h1, h2⟩ hok hbusy rfl hroom hplace
    obtain ⟨p, hp, hpcur, hpmem⟩ := State.reapIndex_keeps (u.setIndex_index job h
      ((s.indexAt job h).load ((s.indexAt job h).newVer im (min (dfld d 40 0 33) (ixNodes im)) cold))) (List.mem_append_right _ (List.mem_singleton_self _)) rfl
    exact ⟨_, p, _, hexec, hp, hpcur, hpmem, rfl, rfl, rfl, rfl, rfl, State.reapIndex_sessions.trans hsame.sess⟩
  · exact ⟨_, _, exec_loadFilter_remove hs hremove hcur, State.reapFilter_filter (State.setFilter_filter ..), rfl⟩
  · obtain ⟨u, x, hver, hbits, husers, hexec⟩ := exec_loadFilter_new hs rfl hload hv himage ⟨h1, h2⟩ hlen hbusy hroom
    obtain ⟨p, hp, hpix, hpcur, hpmem⟩ :=
      State.reapFilter_keeps (u.setFilter_filter job (dfld d 18 0 16)
        { index := h, current := some x.ver, last := x.ver, versions := (s.filterAt job (dfld d 18 0 16) h).versions ++ [x] })
      (List.mem_append_right _ (List.mem_singleton_self x)) rfl
    exact ⟨_, p, x, hexec, hp, hpix, hpcur.trans (congrArg some hver), hpmem, hver, hbits, husers⟩
  · refine ⟨_, exec_tombstone hix hcur hdam hs hepoch haddr hf, rfl, rfl, rfl, fun hn => ?_⟩
    simp only [IndexVer.tombed, hn]
    rfl
  · exact exec_indexWrite hix hcur hdam hs haddr hf hzero rfl hok
  · exact ⟨_, _, exec_search hs hix hcur hdam hfn hk hkl hl hops hrsv hconf hq hres hf, State.addSearch_searches .., rfl, rfl, rfl, rfl, rfl, rfl,
      rfl, rfl, rfl, rfl, State.addSearch_sessions ..⟩
  · obtain ⟨p, hp, -, hpmem⟩ := State.reapIndex_keeps (s.indexWritten_index job i o v items rest)
      (Index.mem_setVer (w := v.written items rest _) (List.mem_of_find?_eq_some hfind) rfl) hcur
    exact ⟨_, p, _, exec_indexWriteApply hready hix hfind hw, hp, hpmem, rfl, rfl, rfl, rfl⟩

end Sys2Proof.Machine
end

section
/-!
SUPPORT. Training steps and migrating rows: what looking at a waiting TABLE_STEP, buffering items and looking at the waiting MIGRATE_ROWS do
(11_retrieval, R314 to R318).
-/
namespace Sys2Proof.Machine

open Sys2Proof

theorem Table.mem_setVer {o : Table} {v w : TableVer} (hv : v ∈ o.versions) (hw : w.ver = v.ver) : w ∈ (o.setVer w).versions :=
  List.mem_map.2 ⟨v, hv, if_pos hw.symm⟩

/-! ## Looking at a waiting TABLE_STEP (R315, R316) -/

/-- The command of a gather unit that applies the step a table waits for. -/
def applyCmd (j h : Nat) : EngCmd := { job := j, share := 0, req := 0, since := 0, cost := 0, work := .apply j h }

/-- A table whose waiting step has been discarded. -/
def Table.discarded (o : Table) (step : Nat) : Table :=
  { o with items := o.items.filter (fun i => decide (step < i.step)), marks := o.marks.filter (fun m => decide (step < m.2))
           failed := o.failed.filter (fun f => decide (step < f)), doneStep := some step, stepWait := none }

section
variable {s : State} {j h : Nat} {o : Table} {v : TableVer} {c : DescCtx} {step due : Nat} (ho : s.table j h = some o)
include ho

theorem State.stepLook_idle (hw : o.stepWait = none) : s.stepLook j h = s := by
  simp only [State.stepLook, ho, hw]

section
variable (hw : o.stepWait = some (c, step, some due)) (hcur : o.cur = some v)
include hw hcur

theorem State.stepLook_complete (hf : o.failed.contains step = false) (hall : v.nodes.all (fun n => o.marks.contains (n, step)) = true) :
    s.stepLook j h = (s.setTable j h { o with stepWait := some (c, step, none) }).enqueue Cls.gather (applyCmd j h) := by
  simp only [State.stepLook, ho, hw, hcur, Option.map_some, Option.getD_some, hf, hall, Bool.false_eq_true, if_false, if_true]
  rfl

theorem State.stepLook_waits (hf : o.failed.contains step = false) (hall : v.nodes.all (fun n => o.marks.contains (n, step)) = false)
    (hdue : s.now < due) : s.stepLook j h = s := by
  simp only [State.stepLook, ho, hw, hcur, Option.map_some, Option.getD_some, hf, hall, Bool.false_eq_true, if_false, if_neg (Nat.not_le.2 hdue)]

/-- A step that still misses marks when its time is over is discarded, whether or not it has failed before. -/
theorem State.stepLook_late (hall : v.nodes.all (fun n => o.marks.contains (n, step)) = false) (hdue : due ≤ s.now) :
    s.stepLook j h = (((s.setTable j h (o.discarded step)).reapTable j h).countReg Reg.embUpd 32 32 1).complete c Code.stepIncomplete := by
  have hover : s.stepLook j h = s.stepOver j h step o false := by
    simp only [State.stepLook, ho, hw, hcur, Option.map_some, Option.getD_some, hall, Bool.false_eq_true, if_false, if_pos hdue, ite_self]
  rw [hover]
  simp only [State.stepOver, hw, Option.map_some, Bool.false_eq_true, if_false, State.complete?]
  rfl

end

/-! ## Buffering items (R314) -/

theorem State.bufferItems_fits {items : List UpdItem}
    (hfit : (s.job j).updBytes + items.foldl (fun n i => n + 8 + 4 * i.grad.length) 0 ≤ s.updCap j o step * 2 ^ 20) :
    s.bufferItems j h step items =
      (s.setTable j h { o with items := o.items ++ items.map (fun (i : UpdItem) => { i with cap := s.updCap j o step }) }, true) := by
  simp only [State.bufferItems, ho, if_neg (Nat.not_lt.2 hfit)]

/-! ## Looking at the waiting MIGRATE_ROWS (R317, R318) -/

/-- Looking at the waiting MIGRATE_ROWS leaves the current version with its rows. -/
theorem State.migLook_keeps (hv : v ∈ o.versions) (hc : o.current = some v.ver) :
    ∃ p x, (s.migLook j h).table j h = some p ∧ p.migEpoch = o.migEpoch ∧ x ∈ p.versions ∧ x.ver = v.ver ∧ x.rowMap = v.rowMap := by
  unfold State.migLook
  rw [ho]
  refine State.reapTable_keeps (o := { o with migWait := o.migWait.filter (fun w => !w.2.2.1.isEmpty) }) ?_ hv hc
  exact ((State.SameObjects.foldl (fun t w => t.complete_objects _ _ _ _ _) _ _).table_eq j h).trans (State.setTable_table ..)

end

theorem State.migLook_sessions (s : State) (j h : Nat) : (s.migLook j h).sessions = s.sessions := by
  unfold State.migLook
  split
  · rfl
  · exact State.reapTable_same.1.trans (State.SameObjects.foldl (fun t w => t.complete_objects _ _ _ _ _) _ _).sess

theorem State.countReg_objects (s : State) (i lo w n : Nat) : s.SameObjects (s.countReg i lo w n) := .of_jobs (by simp) (by simp)

end Sys2Proof.Machine
end

section
/-!
PROOF. Table packets, the step's timer and the ends of row copies (11_retrieval, R313 to R318; 13_nolmus_fabric, R358): obligation TableTraffic.
-/
namespace Sys2Proof.Machine

open Sys2Proof

/-! ## Packets (R313 to R315, R358) -/

section
variable (s : State) (node : Nat) (tag : W32) (h : Nat)

theorem exec_eq_gatherRequest (row : Nat) : exec (.gatherRequest node tag h row) s = execGatherRequest node tag h row s := rfl
theorem exec_eq_updateItem (step row : Nat) (lr : W32) (grad : List W32) :
    exec (.updateItem node tag h step row lr grad) s = execUpdateItem node tag h step row lr grad s := rfl
theorem exec_eq_stepMark (step : Nat) : exec (.stepMark node tag h step) s = execStepMark node tag h step s := rfl
theorem exec_eq_stepBudgetTimer (j step : Nat) : exec (.stepBudgetTimer j h step) s = execStepBudgetTimer j h step s := rfl
theorem exec_eq_rowCopyDone (j row : Nat) (ok : Bool) : exec (.rowCopyDone j h row ok) s = execRowCopyDone j h row ok s := rfl

end

section
variable {s : State} {node : Nat} {tag : W32} {j h : Nat} {o : Table} {v : TableVer} (hready : s.power.ready = true)
include hready

section
variable (htag : s.jobOfTag tag = some j) (ho : s.table j h = some o)
include htag ho

theorem exec_gatherRequest {row : Nat} {e : TableRow} (hcur : o.cur = some v) (hown : v.owner row = s.node) (hrow : row < v.rows) (hdam : v.damaged = false)
    (he : mget v.rowMap (v.local_ row) = some e) :
    exec (.gatherRequest node tag h row) s = .next (s.send j 6 Msg.response node h (tableArg h) (leBytes 8 row ++ e.bytes)).1 := by
  simp only [exec_eq_gatherRequest, execGatherRequest, State.ifReady_ready hready, htag, ho, Option.bind_some, hcur, hown, hdam, Nat.not_le.2 hrow, he,
    ne_eq, not_true_eq_false, Bool.false_eq_true, or_self, if_false]

theorem exec_updateItem {step row : Nat} {lr : W32} {grad : List W32} (hcur : o.cur = some v) (hown : v.owner row = s.node) (hrow : row < v.rows)
    (hlen : grad.length = v.dim) (hnew : o.applied.all (fun a => decide (a < step)) = true)
    (hfit : (s.job j).updBytes + 8 + 4 * grad.length ≤ s.updCap j o step * 2 ^ 20) :
    exec (.updateItem node tag h step row lr grad) s = .next (s.setTable j h { o with items := o.items ++
      [{ node := node, step := step, row := v.local_ row, lr := lr, grad := grad, ver := v.ver, cap := s.updCap j o step }] }) := by
  simp only [exec_eq_updateItem, execUpdateItem, State.ifReady_ready hready, htag, ho, hcur, hown, hlen, any_le_of_all_lt hnew, Nat.not_le.2 hrow, ne_eq,
    not_true_eq_false, Bool.false_eq_true, or_self, if_false]
  rw [State.bufferItems_fits ho (by simpa [Nat.add_assoc] using hfit)]
  rfl

/-- A table with the mark of a device for a step. -/
def Table.mark (o : Table) (node step : Nat) : Table := { o with marks := (node, step) :: o.marks }

/-- A mark that is new joins the marks, and the step that waits is looked at. -/
theorem exec_stepMark {step : Nat} (hmark : o.marks.contains (node, step) = false) (hdone : o.doneStep.all (fun n => decide (n < step)) = true) :
    exec (.stepMark node tag h step) s = .next ((s.setTable j h (o.mark node step)).stepLook j h) := by
  simp only [exec_eq_stepMark, execStepMark, State.ifReady_ready hready, htag, ho, hmark, any_le_of_all_lt hdone, Bool.false_eq_true, or_self,
    if_false, Table.mark]

end

/-! ## The step's timer (R316) -/

theorem exec_stepBudgetTimer {c : DescCtx} {step due : Nat} (ho : s.table j h = some o) (hcur : o.cur = some v)
    (hw : o.stepWait = some (c, step, some due)) (hdue : due ≤ s.now) (hall : v.nodes.all (fun n => o.marks.contains (n, step)) = false) :
    exec (.stepBudgetTimer j h step) s =
      .next ((((s.setTable j h (o.discarded step)).reapTable j h).countReg Reg.embUpd 32 32 1).complete c Code.stepIncomplete) := by
  simp only [exec_eq_stepBudgetTimer, execStepBudgetTimer, State.ifReady_ready hready, ho, hw, if_true, State.stepLook_late ho hw hcur hall hdue]

/-! ## The end of a row's copy (R317, R318) -/

/-- A row once its copy has ended: at the place held for it, or, when the copy failed, where it was. -/
def TableRow.copied (e : TableRow) (tier region : Nat) (ok : Bool) : TableRow :=
  if ok then { tier := tier, region := region, offset := e.dest, bytes := e.bytes } else { e with migrating := none, dest := 0, log := 0 }

/-- A version with an entry of its row map written, and with other old copies. -/
def TableVer.withRow (v : TableVer) (row : Nat) (e : TableRow) (olds : List (Nat × Nat × Nat × Nat)) : TableVer :=
  { v with rowMap := mput v.rowMap row e, olds := olds }

/-- The table once a row's copy has ended: `w` is the version with the row. -/
def Table.copyEnded (o : Table) (w : TableVer) (row : Nat) (ok : Bool) : Table :=
  { (o.setVer w).rowDone w.ver row false (!ok) with migEpoch := if ok then o.migEpoch + 1 else o.migEpoch }

/-- The row's new place is written when the copy succeeds, and the row map is then changed at once. -/
theorem exec_rowCopyDone {row tier region lim : Nat} {e : TableRow} (ok : Bool) (ho : s.table j h = some o)
    (hfind : o.versions.find? (fun v => (mget v.rowMap row).any (fun e => e.migrating.isSome)) = some v) (he : mget v.rowMap row = some e)
    (hm : e.migrating = some (tier, region, lim)) :
    ∃ u olds, s.SameObjects u ∧ exec (.rowCopyDone j h row ok) s =
      .next ((u.setTable j h (o.copyEnded (v.withRow row (e.copied tier region ok) olds) row ok)).migLook j h) := by
  simp only [exec_eq_rowCopyDone, execRowCopyDone, State.ifReady_ready hready, ho, hfind, he, hm]
  refine ⟨if ok then s.rowWrite j v tier region e.dest e.bytes else s, if ok then _ else _, ?_, rfl⟩
  split
  · exact s.rowWrite_objects ..
  · exact .refl s

/-- The current version then stands with the row as its copy left it. -/
theorem rowCopyDone_row {row tier region lim : Nat} {e : TableRow} (ok : Bool) (ho : s.table j h = some o)
    (hfind : o.versions.find? (fun v => (mget v.rowMap row).any (fun e => e.migrating.isSome)) = some v) (he : mget v.rowMap row = some e)
    (hm : e.migrating = some (tier, region, lim)) (hc : o.current = some v.ver) :
    ∃ t p x, exec (.rowCopyDone j h row ok) s = .next t ∧ t.table j h = some p ∧ p.migEpoch = (if ok then o.migEpoch + 1 else o.migEpoch) ∧
      x ∈ p.versions ∧ x.ver = v.ver ∧ x.rowMap = mput v.rowMap row (e.copied tier region ok) ∧ t.sessions = s.sessions := by
  obtain ⟨u, olds, hsame, hexec⟩ := exec_rowCopyDone hready ok ho hfind he hm
  have hmem : v.withRow row (e.copied tier region ok) olds ∈ (o.setVer (v.withRow row (e.copied tier region ok) olds)).versions :=
    Table.mem_setVer (List.mem_of_find?_eq_some hfind) rfl
  obtain ⟨p, x, hp, hepoch, hx, hver, hrows⟩ := State.migLook_keeps
    (u.setTable_table j h (o.copyEnded (v.withRow row (e.copied tier region ok) olds) row ok)) hmem hc
  exact ⟨_, p, x, hexec, hp, hepoch, hx, hver, hrows, (State.migLook_sessions ..).trans hsame.sess⟩

end

/-- Settles O48: each packet's and timer's state is named (`exec_gatherRequest`, `exec_stepMark`, `exec_stepBudgetTimer`, …), and freeing what
nothing uses leaves the current version with its rows (`State.migLook_keeps`). -/
theorem tableTraffic : Obligations.TableTraffic := by
  intro s hready
  refine ⟨fun node tag h step row lr grad htag => ?_, fun node tag j h o v htag ho hcur => ⟨fun row e hown hrow hdam he => ?_,
    fun step row lr grad hown hrow hlen hnew hfit => ?_, fun step hmark hdone => ⟨fun hw => ?_, fun c due hw hf hall => ?_⟩⟩,
    fun j h step due o v c ho hcur hw hdue hall => ?_, fun j h row tier region lim o v e ho hfind he hm _ hc _ => ⟨?_, ?_⟩⟩
  · simp only [exec_eq_gatherRequest, execGatherRequest, exec_eq_updateItem, execUpdateItem, exec_eq_stepMark, execStepMark,
      State.ifReady_ready hready, htag, and_self]
  · exact exec_gatherRequest hready htag ho hcur hown hrow hdam he
  · exact exec_updateItem hready htag ho hcur hown hrow hlen hnew hfit
  · rw [exec_stepMark hready htag ho hmark hdone, State.stepLook_idle (s.setTable_table j h (o.mark node step)) hw]
    rfl
  · rw [exec_stepMark hready htag ho hmark hdone, State.stepLook_complete (s.setTable_table j h (o.mark node step)) hw hcur hf hall,
      State.setTable_setTable]
    rfl
  · have hcount := State.countReg_objects ((s.setTable j h (o.discarded step)).reapTable j h) Reg.embUpd 32 32 1
    have hreap := State.reapTable_table (s.setTable_table j h (o.discarded step))
    exact ⟨_, _, exec_stepBudgetTimer hready ho hcur hw hdue hall, (hcount.table_eq j h).trans hreap, rfl, rfl, rfl, rfl, rfl,
      hcount.sess.trans State.reapTable_same.1, by simp [State.reapTable_same.2, State.setTable]⟩
  · obtain ⟨t, p, x, hexec, hp, hepoch, hx, hver, hrows, hsess⟩ := rowCopyDone_row hready true ho hfind he hm hc
    exact ⟨t, p, x, e.copied tier region true, hexec, hp, hepoch, hx, hver, by simp [hrows], rfl, rfl, rfl, rfl,
      fun r hr => by simp [hrows, hr], hsess⟩
  · obtain ⟨t, p, x, hexec, hp, hepoch, hx, hver, hrows, hsess⟩ := rowCopyDone_row hready false ho hfind he hm hc
    exact ⟨t, p, x, e.copied tier region false, hexec, hp, hepoch, hx, hver, by simp [hrows], rfl, rfl, rfl, rfl, rfl, hsess⟩

end Sys2Proof.Machine
end

section
/-!
PROOF. Embedding tables: loading, swapping, lookups, updates and steps (11_retrieval, R308 to R316).
-/
namespace Sys2Proof.Machine

open Sys2Proof

/-! ## LOAD_TABLE (R308 to R310) -/

/-- A collection into which entries are put one after another holds, under a key that one of them has, one of the entries put there. -/
theorem mget_foldl_mput {α : Type} {p : α → Prop} {k : Nat} {l : List (Nat × α)} {m : Map α}
    (hk : (∃ x, mget m k = some x ∧ p x) ∨ k ∈ l.map (·.1)) (hp : ∀ x, (k, x) ∈ l → p x) :
    ∃ x, mget (l.foldl (fun m e => mput m e.1 e.2) m) k = some x ∧ p x := by
  induction l generalizing m with
  | nil => exact hk.resolve_right List.not_mem_nil
  | cons e l ih =>
    refine ih ?_ fun x hx => hp x (List.mem_cons_of_mem e hx)
    by_cases he : k = e.1
    · exact .inl ⟨e.2, by simp [he], hp e.2 (he ▸ List.mem_cons_self)⟩
    · rcases hk with ⟨x, hx, hpx⟩ | hk
      · exact .inl ⟨x, by simpa [he] using hx, hpx⟩
      · exact .inr ((List.mem_cons.1 hk).resolve_left he)

/-- The local rows that an image holds. -/
def localCount (im : List Byte) : Nat := (im.length - 256) / max 1 (rowLen (tbDim im))

/-- The local rows that are not hot. -/
def tailRows (im : List Byte) (hots : List Nat) : List Nat := (List.range (localCount im)).filter (fun r => !hots.contains r)

/-- The entry of the row map for a row of an image, from the row's number and its offset. -/
def imageRow (im : List Byte) (region tier : Nat) (e : Nat × Nat) : Nat × TableRow :=
  (e.1, { tier := tier, region := if tier = 3 then region else 0, offset := e.2, bytes := sub im (256 + e.1 * rowLen (tbDim im)) (rowLen (tbDim im)) })

/-- The row map of a fresh table: the hot rows in T1, the others in `tier`. -/
def imageRows (im : List Byte) (hots : List Nat) (tier region : Nat) : Map TableRow :=
  (hots.zipIdx.map (imageRow im region 1) ++ (tailRows im hots).zipIdx.map (imageRow im region tier)).foldl (fun m e => mput m e.1 e.2) []

section
variable (im : List Byte) (region tier : Nat) (l : List Nat)

theorem imageRow_keys : (l.zipIdx.map (imageRow im region tier)).map (·.1) = l := by
  rw [List.map_map]
  exact List.zipIdx_map_fst 0 l

theorem imageRow_of_mem {r : Nat} {x : TableRow} (h : (r, x) ∈ l.zipIdx.map (imageRow im region tier)) :
    r ∈ l ∧ x.tier = tier ∧ x.bytes = sub im (256 + r * rowLen (tbDim im)) (rowLen (tbDim im)) := by
  obtain ⟨e, he, hx⟩ := List.mem_map.1 h
  cases hx
  exact ⟨List.fst_mem_of_mem_zipIdx he, rfl, rfl⟩

end

/-- Every local row is in the map of a fresh table, with its bytes, in T1 where the list of hot rows names it. -/
theorem imageRows_row (im : List Byte) {hots : List Nat} (tier region : Nat) {r : Nat} (hr : r < localCount im) :
    ∃ e, mget (imageRows im hots tier region) r = some e ∧ e.bytes = sub im (256 + r * rowLen (tbDim im)) (rowLen (tbDim im)) ∧
      e.tier = if r ∈ hots then 1 else tier := by
  refine mget_foldl_mput (.inr ?_) fun x hx => ?_
  · rw [List.map_append, imageRow_keys, imageRow_keys]
    by_cases hhot : r ∈ hots
    · exact List.mem_append_left _ hhot
    · exact List.mem_append_right _ (List.mem_filter.2 ⟨List.mem_range.2 hr, by simpa using hhot⟩)
  · rcases List.mem_append.1 hx with hx | hx
    · obtain ⟨hhot, htier, hbytes⟩ := imageRow_of_mem im region 1 hots hx
      exact ⟨hbytes, by rw [htier, if_pos hhot]⟩
    · obtain ⟨htail, htier, hbytes⟩ := imageRow_of_mem im region tier _ hx
      have hcold : r ∉ hots := by simpa using (List.mem_filter.1 htail).2
      exact ⟨hbytes, by rw [htier, if_neg hcold]⟩

/-- The table that a job has under a handle; one never loaded has no version. -/
def State.tableAt (s : State) (job h : Nat) : Table := (s.table job h).getD emptyTable

/-- The version that a LOAD_TABLE makes of its image; it waits for TABLE_SWAP. -/
def Table.newVer (o : Table) (im : List Byte) (rowMap : Map TableRow) (areas : List (Nat × Nat × Nat × Nat)) : TableVer :=
  { ver := o.last % 0xFFFF + 1, dim := tbDim im, rows := tbRows im, expCap := sext 8 (at_ im 16 1), nodes := tbNodes im, rowMap := rowMap, users := 0
    damaged := false, areas := areas }

/-- The table with a new version. -/
def Table.load (o : Table) (v : TableVer) : Table := { o with last := v.ver, versions := o.versions ++ [v] }

/-- The rows that are not hot are placed first, which leaves every object as it is. -/
theorem exec_loadTable {s : State} {job well : Nat} {d : Desc} (hs : s.Serves kLoadTable job well d) {im hotBytes : List Byte} {hots : List Nat}
    (himage : (s.takenUp job well).loadImage job d 24 (dfld d 32 0 64) false 0 = .ok im)
    (haddr : (s.takenUp job well).addrOk job d 48 (8 * dfld d 40 0 32) = true)
    (hf : (s.takenUp job well).fetch d 48 (8 * dfld d 40 0 32) = some hotBytes)
    (hhots : hots = (List.range (dfld d 40 0 32)).map (fun k => at_ hotBytes (8 * k) 8))
    (hh : 1 ≤ dfld d 16 0 16 ∧ dfld d 16 0 16 ≤ 0xFFFE) (hok : tableOk im (dfld d 32 0 64) s.node = true) (hlocal : ∀ r ∈ hots, r < localCount im)
    (hnodup : hots.Nodup) (htier : 2 ≤ dfld d 56 0 2) (hbusy : (s.tableAt job (dfld d 16 0 16)).versions.length < 2)
    (hroom : (s.takenUp job well).roomAfter job 0 (grainsOf (dfld d 40 0 32 * rowLen (tbDim im)) + grainsOf (8 * localCount im)) = true)
    (hplace : grainsOf ((tailRows im hots).length * rowLen (tbDim im)) = 0 ∨
      ∃ a u, (s.takenUp job well).areaTake job (dfld d 56 0 2) (dfld d 57 0 8) (grainsOf ((tailRows im hots).length * rowLen (tbDim im)))
        ((tailRows im hots).flatMap (fun r => sub im (256 + r * rowLen (tbDim im)) (rowLen (tbDim im)))) = .ok (a, u)) :
    ∃ u areas, s.SameObjects u ∧ exec (.loadTable job well d) s =
      .next ((u.setTable job (dfld d 16 0 16) ((s.tableAt job (dfld d 16 0 16)).load ((s.tableAt job (dfld d 16 0 16)).newVer im
        (imageRows im hots (dfld d 56 0 2) (dfld d 57 0 8)) areas))).complete (descCtx kLoadTable job well d) Code.ok
          ((s.tableAt job (dfld d 16 0 16)).last % 0xFFFF + 1)) := by
  subst hhots
  have hup := s.takenUp_objects job well
  have hlocals := List.all_eq_true.2 fun r hr => decide_eq_true (hlocal r hr)
  unfold localCount at hlocals hroom
  unfold tailRows localCount at hplace
  unfold State.tableAt at hbusy ⊢
  simp only [exec_eq_loadTable, execLoadTable, State.takeUp_serves hs, State.takenUp_table, State.takenUp_node, himage, haddr, Bool.not_true,
    Bool.false_eq_true, if_false, hf, hh, hok, hlocals, hnodup, htier, hbusy, hroom, and_self, decide_true, Bool.and_self, firstFail_pass, firstFail_nil]
  split
  next e he =>
    split at he
    · cases he
    next hcold =>
      obtain ⟨a, u, hu⟩ := hplace.resolve_left hcold
      rw [hu] at he
      cases he
  next areas u hp =>
    refine ⟨u, areas, ?_, rfl⟩
    split at hp
    · cases hp
      exact hup
    next hcold =>
      obtain ⟨a, w, hw⟩ := hplace.resolve_left hcold
      rw [hw] at hp
      cases hp
      exact hup.trans (State.areaTake_objects hw)

/-! ## TABLE_SWAP (R310) -/

/-- The table once TABLE_SWAP has made a version current. -/
def Table.swapped (o : Table) (y : TableVer) (v : Nat) : Table := { o.setVer { y with fresh := false } with current := some v }

theorem exec_tableSwap {s : State} {job well : Nat} {d : Desc} (hs : s.Serves kTableSwap job well d) {o : Table} {y : TableVer}
    (ho : s.table job (dfld d 16 0 16) = some o) (hy : o.versions.find? (fun y => y.ver == dfld d 18 0 16) = some y) :
    exec (.tableSwap job well d) s =
      .next ((((s.takenUp job well).setTable job (dfld d 16 0 16) (o.swapped y (dfld d 18 0 16))).reapTable job (dfld d 16 0 16)).complete
        (descCtx kTableSwap job well d) Code.ok) := by
  simp only [exec_eq_tableSwap, execTableSwap, State.takeUp_serves hs, State.takenUp_table, ho, hy]
  rfl

/-- What is left of a swapped table is the version swapped in, versions that wait, and versions in use. -/
theorem Table.swapped_stays {o : Table} {y w : TableVer} {v : Nat} (h : (o.swapped y v).stays w = true) : w.ver = v ∨ w.fresh = true ∨ o.busy w = true := by
  rw [Table.stays, Bool.or_eq_true, Bool.or_eq_true] at h
  rcases h with (h | h) | h
  · exact .inr (.inl h)
  · exact .inl (Option.some.inj (beq_iff_eq.1 h)).symm
  · exact .inr (.inr h)

/-! ## Sending and queueing (R313 to R315) -/

/-- Two states that differ in what is sent and queued only: engine pools, shapers, the fabric, and registers. -/
def State.SameButTraffic (s t : State) : Prop := ∃ p h f r, t = { s with pools := p, shapers := h, fabric := f, regs := r }

section
variable {s t u : State}

theorem State.SameButTraffic.refl (s : State) : s.SameButTraffic s := ⟨_, _, _, _, rfl⟩

theorem State.SameButTraffic.trans (h : s.SameButTraffic t) (g : t.SameButTraffic u) : s.SameButTraffic u := by
  obtain ⟨_, _, _, _, rfl⟩ := h
  obtain ⟨_, _, _, _, rfl⟩ := g
  exact ⟨_, _, _, _, rfl⟩

theorem State.SameButTraffic.foldl {α : Type} {f : State → α → State} (hf : ∀ (s : State) (a : α), s.SameButTraffic (f s a)) (l : List α)
    (s : State) : s.SameButTraffic (l.foldl f s) :=
  List.foldlRecOn (motive := fun t => s.SameButTraffic t) l f (.refl s) fun t ht a _ => ht.trans (hf t a)

theorem State.SameButTraffic.objects (h : s.SameButTraffic t) : s.SameObjects t := by
  obtain ⟨_, _, _, _, rfl⟩ := h
  exact .of_jobs rfl rfl

theorem State.SameButTraffic.table_eq (h : s.SameButTraffic t) (j i : Nat) : t.table j i = s.table j i := h.objects.table_eq j i
theorem State.SameButTraffic.lookups_eq (h : s.SameButTraffic t) : t.lookups = s.lookups := by obtain ⟨_, _, _, _, rfl⟩ := h; rfl
theorem State.SameButTraffic.hbm_eq (h : s.SameButTraffic t) : t.hbm = s.hbm := by obtain ⟨_, _, _, _, rfl⟩ := h; rfl
theorem State.SameButTraffic.now_eq (h : s.SameButTraffic t) : t.now = s.now := by obtain ⟨_, _, _, _, rfl⟩ := h; rfl

end

theorem State.send_traffic (s : State) (j vc type dst flow : Nat) (arg : W64) (data : List Byte) (share : Nat) :
    s.SameButTraffic (s.send j vc type dst flow arg data share).1 := s.send_only j vc type dst flow arg data share

theorem State.enqueue_traffic (s : State) (c : Nat) (x : EngCmd) : s.SameButTraffic (s.enqueue c x) := by
  obtain ⟨p, h, e⟩ := s.enqueue_only c x
  exact ⟨p, h, s.fabric, s.regs, e⟩

theorem State.pick_node (s : State) (c i : Nat) : (s.pick c i).node = s.node := by
  obtain ⟨p, h, e⟩ := s.pick_only c i
  rw [e]
  rfl

theorem State.enqueue_node (s : State) (c : Nat) (x : EngCmd) : (s.enqueue c x).node = s.node := by
  obtain ⟨p, h, e⟩ := s.enqueue_only c x
  rw [e]
  rfl

/-- Packets that leave a port do not change what number the device has. -/
theorem State.egress_node (n : Nat) (s : State) (l : Nat) : (State.egress n s l).node = s.node := by
  induction n generalizing s with
  | zero => rfl
  | succ n ih =>
    rw [State.egress]
    dsimp only
    split
    next p _ => exact ih (s.leave l p)
    · split
      · rfl
      · split
        · split
          next p _ => exact s.pick_node Cls.nlm l
          · exact s.pick_node Cls.nlm l
        · rfl

theorem State.place_node (s : State) (p : Packet) (job : Option Nat) (share : Nat) : (s.place p job share).node = s.node := by
  unfold State.place
  dsimp only
  split
  · rfl
  · rw [State.egress_node]
    split
    · rfl
    · exact State.enqueue_node ..

@[simp] theorem State.send_node (s : State) (j vc type dst flow : Nat) (arg : W64) (data : List Byte) (share : Nat) :
    (s.send j vc type dst flow arg data share).1.node = s.node := by
  unfold State.send
  dsimp only
  split
  · rfl
  · rw [State.place_node]
    unfold State.node
    dsimp only
    split <;> rfl

theorem State.bindTable_ok {s : State} {j h : Nat} {o : Table} {v : TableVer} (hb : s.bindTable j h = .ok (o, v)) :
    s.table j h = some o ∧ o.cur = some v := by
  unfold State.bindTable at hb
  split at hb
  · cases hb
  next ho =>
    split at hb
    · cases hb
    next hcur =>
      split at hb
      · cases hb
      · cases hb
        exact ⟨ho, hcur⟩

/-- The current version of a table is one of its versions, under the number that is current. -/
theorem Table.cur_mem {o : Table} {v : TableVer} (h : o.cur = some v) : v ∈ o.versions ∧ o.current = some v.ver := by
  obtain ⟨k, hk, hfind⟩ := Option.bind_eq_some_iff.1 h
  have hver : v.ver = k := by simpa using List.find?_some hfind
  exact ⟨List.mem_of_find?_eq_some hfind, hver ▸ hk⟩

/-! ## EMBED_LOOKUP (R311, R313) -/

/-- What a lookup is bound to: a version, and the indices, weights and bag offsets it has read. -/
def TableVer.lookup (v : TableVer) (job well : Nat) (d : Desc) (idx off : List Nat) (weights : List Byte) : Lookup :=
  { ctx := descCtx kEmbedLookup job well d, table := dfld d 16 0 16, ver := v.ver, idx := idx, off := off, weights := weights, fmt := dfld d 20 0 1
    q := dfld d 20 1 5, outAddr := daddr d 48, outHbm := dhbm d 48, left := dfld d 18 0 16, failed := false }

/-- The state with one lookup more, which uses a version of its table. -/
def State.addLookup (s : State) (job h : Nat) (o : Table) (v : TableVer) (x : Lookup) : State :=
  ({ s with lookups := mput s.lookups s.nextWork x, nextWork := s.nextWork + 1 } : State).setTable job h (o.setVer { v with users := v.users + 1 })

theorem State.addLookup_lookups (s : State) (job h : Nat) (o : Table) (v : TableVer) (x : Lookup) :
    mget (s.addLookup job h o v x).lookups s.nextWork = some x := by simp [State.addLookup, State.setTable]

/-- The lookup's bags are queued for gather units, and the rows of other devices asked for. -/
theorem exec_embedLookup {s : State} {job well : Nat} {d : Desc} {o : Table} {v : TableVer} {off idx : List Nat} {n : Nat} {ob ib wb : List Byte}
    (hs : s.Serves kEmbedLookup job well d) (hb : (s.takenUp job well).bindTable job (dfld d 16 0 16) = .ok (o, v))
    (hnb : dfld d 18 0 16 ≠ 0) (hq : dfld d 20 1 5 ≤ 16) (halign : daddr d 48 % 64 = 0)
    (hoa : (s.takenUp job well).addrOk job d 32 (4 * (dfld d 18 0 16 + 1)) = true)
    (hra : (s.takenUp job well).addrOk job d 48 (dfld d 18 0 16 * bagStride v.dim (dfld d 20 0 1)) = true)
    (hconf : (s.job job).conf = true → dhbm d 48 = true) (hof : (s.takenUp job well).fetch d 32 (4 * (dfld d 18 0 16 + 1)) = some ob)
    (hoff : off = (List.range (dfld d 18 0 16 + 1)).map (fun b => at_ ob (4 * b) 4)) (hn : n = off.getD (dfld d 18 0 16) 0)
    (hrise : ∀ b < dfld d 18 0 16, off.getD b 0 ≤ off.getD (b + 1) 0 ∧ off.getD (b + 1) 0 - off.getD b 0 ≤ 65536)
    (hia : (s.takenUp job well).addrOk job d 24 (8 * n) = true) (hwa : (s.takenUp job well).addrOk job d 40 (n + cdiv n 32) = true)
    (hif : (s.takenUp job well).fetch d 24 (8 * n) = some ib) (hwf : (s.takenUp job well).fetch d 40 (n + cdiv n 32) = some wb)
    (hidx : idx = (List.range n).map (fun i => at_ ib (8 * i) 8)) (hrows : ∀ r ∈ idx, r < v.rows) :
    ∃ t, ((s.takenUp job well).addLookup job (dfld d 16 0 16) o v (v.lookup job well d idx off wb)).SameButTraffic t ∧
      exec (.embedLookup job well d) s = .next t := by
  subst hn hoff hidx
  have hrise' := List.all_eq_true.2 fun b hb => Bool.and_eq_true_iff.2 ⟨decide_eq_true (hrise b (List.mem_range.1 hb)).1,
    decide_eq_true (hrise b (List.mem_range.1 hb)).2⟩
  have hrows' := List.all_eq_true.2 fun r hr => decide_eq_true (hrows r hr)
  simp only [exec_eq_embedLookup, execEmbedLookup, State.takeUp_serves hs, hb, State.takenUp_conf, bne_iff_ne.2 hnb, hq, beq_iff_eq.2 halign, hoa, hra,
    bnot_or_of_imp hconf, hof, hrise', hia, hwa, hif, hwf, hrows', decide_true, Bool.and_self, Bool.not_true, Bool.false_eq_true,
    if_false, firstFail_pass, firstFail_nil]
  refine ⟨_, ?_, rfl⟩
  refine .trans ?_ (.foldl (fun t b => ?_) _ _)
  · refine .foldl (fun t r => ?_) _ _
    exact t.send_traffic ..
  · exact t.enqueue_traffic ..

/-! ## TABLE_UPDATE (R314) -/

/-- The items of a list of updates: each item's row and the place of its bytes. -/
def updateKeys (v : TableVer) (bs : List Byte) (n : Nat) : List (Nat × Nat) :=
  (List.range n).map (fun k => (at_ bs ((8 + 4 * v.dim) * k) 8, (8 + 4 * v.dim) * k))

/-- The item that a device buffers for one of its own rows. -/
def TableVer.item (v : TableVer) (node step cap : Nat) (lr : W32) (bs : List Byte) (k : Nat × Nat) : UpdItem :=
  { node := node, step := step, row := v.local_ k.1, lr := lr
    grad := (List.range v.dim).map (fun i => BitVec.ofNat 32 (at_ bs (k.2 + 8 + 4 * i) 4)), ver := v.ver, cap := cap }

/-- The items of a list of updates whose rows the device owns, in order. -/
def State.ownItems (s : State) (v : TableVer) (step cap : Nat) (lr : W32) (bs : List Byte) (n : Nat) : List UpdItem :=
  ((updateKeys v bs n).filter (fun k => v.owner k.1 == s.node)).map (v.item s.node step cap lr bs)

/-- The table with more items buffered. -/
def Table.buffered (o : Table) (items : List UpdItem) : Table := { o with items := o.items ++ items }

theorem foldl_itemBytes (l : List UpdItem) {dim m : Nat} (h : ∀ i ∈ l, i.grad.length = dim) :
    l.foldl (fun n i => n + 8 + 4 * i.grad.length) m = m + l.length * (8 + 4 * dim) := by
  induction l generalizing m with
  | nil => simp
  | cons i l ih =>
    rw [List.foldl_cons, ih fun i hi => h i (List.mem_cons_of_mem _ hi), h i List.mem_cons_self, List.length_cons, Nat.add_one_mul l.length]
    omega

/-- The device's own items take no more of UPD_BUF than the whole list would. -/
theorem State.ownItems_bytes (s : State) (v : TableVer) (step cap : Nat) (lr : W32) (bs : List Byte) (n : Nat) :
    (s.ownItems v step cap lr bs n).foldl (fun n i => n + 8 + 4 * i.grad.length) 0 ≤ n * (8 + 4 * v.dim) := by
  have hdim : ∀ i ∈ s.ownItems v step cap lr bs n, i.grad.length = v.dim := by
    intro i hi
    obtain ⟨k, -, rfl⟩ := List.mem_map.1 hi
    simp [TableVer.item]
  have hlen : (s.ownItems v step cap lr bs n).length ≤ n := by
    rw [State.ownItems, List.length_map]
    exact (List.length_filter_le _ _).trans (by simp [updateKeys])
  rw [foldl_itemBytes _ hdim, Nat.zero_add]
  exact Nat.mul_le_mul_right _ hlen

theorem exec_tableUpdate {s : State} {job well : Nat} {d : Desc} {o : Table} {v : TableVer} {bs : List Byte} {step n : Nat}
    (hs : s.Serves kTableUpdate job well d) (hb : (s.takenUp job well).bindTable job (dfld d 16 0 16) = .ok (o, v))
    (hstep : step = dfld d 20 0 32) (hn : n = dfld d 40 0 32) (hnew : o.applied.all (fun a => decide (a < step)) = true)
    (haddr : (s.takenUp job well).addrOk job d 24 ((8 + 4 * v.dim) * n) = true)
    (hf : (s.takenUp job well).fetch d 24 ((8 + 4 * v.dim) * n) = some bs) (hrows : ∀ k < n, at_ bs ((8 + 4 * v.dim) * k) 8 < v.rows)
    (hfit : (s.job job).updBytes + n * (8 + 4 * v.dim) ≤ (s.takenUp job well).updCap job o step * 2 ^ 20) :
    ∃ t, ((s.takenUp job well).setTable job (dfld d 16 0 16) (o.buffered
        (s.ownItems v step ((s.takenUp job well).updCap job o step) (BitVec.ofNat 32 (dfld d 44 0 32)) bs n))).SameButTraffic t ∧
      exec (.tableUpdate job well d) s = .next (t.complete (descCtx kTableUpdate job well d) Code.ok) := by
  subst hstep hn
  obtain ⟨ho, -⟩ := State.bindTable_ok hb
  have hall : (updateKeys v bs (dfld d 40 0 32)).all (fun k => decide (k.1 < v.rows)) = true := by
    simpa [updateKeys] using hrows
  have hbytes : ((s.takenUp job well).job job).updBytes = (s.job job).updBytes := by
    simp only [Job.updBytes, (s.takenUp_objects job well).tables]
  have hbuf := State.bufferItems_fits (step := dfld d 20 0 32)
    (items := s.ownItems v (dfld d 20 0 32) 0 (BitVec.ofNat 32 (dfld d 44 0 32)) bs (dfld d 40 0 32)) ho
    (by rw [hbytes]; exact (Nat.add_le_add_left (s.ownItems_bytes v _ _ _ _ _) _).trans hfit)
  unfold updateKeys at hall
  unfold State.ownItems updateKeys TableVer.item at hbuf
  unfold Table.buffered State.ownItems updateKeys TableVer.item
  simp only [exec_eq_tableUpdate, execTableUpdate, State.takeUp_serves hs, hb, any_le_of_all_lt hnew, haddr, hf, hall, State.takenUp_node, hbuf, Bool.not_true,
    Bool.false_eq_true, if_false, List.map_map]
  refine ⟨_, ?_, rfl⟩
  refine .foldl (fun t k => ?_) _ _
  exact t.send_traffic ..

/-! ## TABLE_STEP (R315, R316) -/

/-- The table with the device's own mark for a step, which then waits until `due`. -/
def Table.stepping (o : Table) (c : DescCtx) (node step due : Nat) : Table :=
  { o with stepWait := some (c, step, some due), marks := (node, step) :: o.marks }

theorem exec_tableStep {s : State} {job well : Nat} {d : Desc} {o : Table} {v : TableVer} (hs : s.Serves kTableStep job well d)
    (hb : (s.takenUp job well).bindTable job (dfld d 16 0 16) = .ok (o, v))
    (hgroup : v.nodes.length ≤ 1 ∨ (s.job job).fabGroups.any (fun g => g.2.failed && v.nodes.all (fun n => g.2.nodes.contains n)) = false)
    (hwait : o.stepWait = none) (hnext : ∀ k, o.doneStep = some k → dfld d 20 0 32 = k + 1) :
    ∃ t, (s.takenUp job well).SameButTraffic t ∧ exec (.tableStep job well d) s = .next ((t.setTable job (dfld d 16 0 16)
      (o.stepping (descCtx kTableStep job well d) s.node (dfld d 20 0 32) (s.now + dfld d 44 0 32))).stepLook job (dfld d 16 0 16)) := by
  have hfab : ((s.takenUp job well).job job).fabGroups = (s.job job).fabGroups := by rw [State.takenUp_job]; rfl
  have hok : ¬ (2 ≤ v.nodes.length ∧ (s.job job).fabGroups.any (fun g => g.2.failed && v.nodes.all (fun n => g.2.nodes.contains n)) = true) := by
    rintro ⟨hlen, hfail⟩
    rcases hgroup with h | h
    · omega
    · rw [h] at hfail; cases hfail
  have hnext' : o.doneStep.any (fun n => dfld d 20 0 32 != n + 1) = false := by
    cases hd : o.doneStep with
    | none => rfl
    | some k => simpa using hnext k hd
  simp only [exec_eq_tableStep, execTableStep, State.takeUp_serves hs, hb, hfab, State.takenUp_node, if_neg hok, hwait, hnext',
    Option.isSome_none, Bool.false_eq_true, or_self, if_false]
  generalize hsent : (v.nodes.filter (· != s.node)).foldl _ (s.takenUp job well) = t
  have htraffic : (s.takenUp job well).SameButTraffic t := by
    rw [← hsent]
    refine .foldl (fun t n => ?_) _ _
    exact t.send_traffic ..
  have hnode : t.node = s.node := by
    rw [← hsent]
    exact List.foldlRecOn (motive := fun t : State => t.node = s.node) _ _ rfl fun t ht n _ => (t.send_node ..).trans ht
  refine ⟨t, htraffic, ?_⟩
  rw [hnode, htraffic.now_eq]
  rfl

end Sys2Proof.Machine
end

section
/-!
PROOF. Migrating rows, document embedding, and obligation Tables (11_retrieval, R308 to R320).
-/
namespace Sys2Proof.Machine

open Sys2Proof

/-! ## Rows that start to migrate (R317) -/

/-- Where a row lies, and its bytes. -/
def TableRow.place (e : TableRow) : Nat × Nat × Nat × List Byte := (e.tier, e.region, e.offset, e.bytes)

/-- A version with a row set migrating into a tier and region, under the MIG_LOG in force. -/
def TableVer.startRow (tier region lim : Nat) (v : TableVer) (r : Nat) : TableVer :=
  { v with rowMap := mchange v.rowMap r (fun e => { e with migrating := some (tier, region, lim), dest := v.freeOffset tier region, log := 0 }) }

/-- Is a row of a version migrating? -/
def TableVer.migrates (v : TableVer) (r : Nat) : Bool := (mget v.rowMap r).any (·.migrating.isSome)

section
variable (tier region lim : Nat) (v : TableVer) (l : List Nat)

theorem TableVer.startRow_other {r k : Nat} (h : k ≠ r) : mget (v.startRow tier region lim r).rowMap k = mget v.rowMap k := by
  simp [TableVer.startRow, h]

theorem TableVer.startRow_place (r k : Nat) :
    (mget (v.startRow tier region lim r).rowMap k).map TableRow.place = (mget v.rowMap k).map TableRow.place := by
  by_cases h : k = r
  · subst h
    simp only [TableVer.startRow, mget_mchange, if_true, Option.map_map]
    rfl
  · rw [v.startRow_other tier region lim h]

theorem TableVer.startRow_migrates (r k : Nat) (h : v.migrates k = true ∨ k = r ∧ (mget v.rowMap k).isSome = true) :
    (v.startRow tier region lim r).migrates k = true := by
  unfold TableVer.migrates at h ⊢
  by_cases hk : k = r
  · have hsome : (mget v.rowMap k).isSome = true := h.elim Option.isSome_of_any And.right
    obtain ⟨e, he⟩ := Option.isSome_iff_exists.1 hsome
    subst hk
    simp [TableVer.startRow, he]
  · rw [v.startRow_other tier region lim hk]
    exact h.resolve_right fun h => hk h.1

theorem TableVer.startRows_other {k : Nat} (h : k ∉ l) : mget (l.foldl (TableVer.startRow tier region lim) v).rowMap k = mget v.rowMap k := by
  induction l generalizing v with
  | nil => rfl
  | cons r l ih =>
    obtain ⟨hr, hl⟩ := not_or.1 (mt List.mem_cons.2 h)
    exact (ih _ hl).trans (v.startRow_other tier region lim hr)

theorem TableVer.startRows_place (k : Nat) :
    (mget (l.foldl (TableVer.startRow tier region lim) v).rowMap k).map TableRow.place = (mget v.rowMap k).map TableRow.place := by
  induction l generalizing v with
  | nil => rfl
  | cons r l ih => exact (ih _).trans (v.startRow_place tier region lim r k)

theorem TableVer.startRows_migrates {k : Nat} (h : v.migrates k = true ∨ k ∈ l ∧ (mget v.rowMap k).isSome = true) :
    (l.foldl (TableVer.startRow tier region lim) v).migrates k = true := by
  induction l generalizing v with
  | nil => exact h.resolve_right fun h => nomatch h.1
  | cons r l ih =>
    refine ih _ ?_
    by_cases hk : k = r
    · exact .inl (v.startRow_migrates tier region lim r k (h.imp_right fun h => ⟨hk, h.2⟩))
    · have hsome : (mget (v.startRow tier region lim r).rowMap k).isSome = (mget v.rowMap k).isSome := by rw [v.startRow_other tier region lim hk]
      exact h.imp (fun h => v.startRow_migrates tier region lim r k (.inl h))
        (fun h => ⟨(List.mem_cons.1 h.1).resolve_left hk, hsome.trans h.2⟩)

/-- A row that starts to migrate stays where it is. -/
theorem TableVer.startRows_row {k : Nat} {e : TableRow} (hk : k ∈ l) (he : mget v.rowMap k = some e) :
    ∃ x, mget (l.foldl (TableVer.startRow tier region lim) v).rowMap k = some x ∧ x.migrating.isSome = true ∧ x.place = e.place := by
  have hmig := v.startRows_migrates tier region lim l (k := k) (.inr ⟨hk, by simp [he]⟩)
  have hplace := v.startRows_place tier region lim l k
  obtain ⟨x, hx⟩ := Option.isSome_iff_exists.1 (Option.isSome_of_any hmig)
  unfold TableVer.migrates at hmig
  rw [hx] at hmig hplace
  exact ⟨x, hx, hmig, by simpa [he] using hplace⟩

end

/-! ## The HBM that the migration takes (R529) -/

theorem length_filter_mput {α : Type} (p : Nat × α → Bool) (m : Map α) (k : Nat) (x : α) :
    ((mput m k x).filter p).length ≤ (m.filter p).length + 1 := by
  induction m with
  | nil => exact List.length_filter_le p [(k, x)]
  | cons e m ih =>
    obtain ⟨i, y⟩ := e
    have hcons (y : Nat × α) (l : List (Nat × α)) : ((y :: l).filter p).length = (if p y then 1 else 0) + (l.filter p).length := by
      rw [List.filter_cons]
      split
      · rw [List.length_cons, Nat.add_comm]
      · rw [Nat.zero_add]
    rw [mput]
    split
    · simp only [hcons]; split <;> split <;> omega
    · split
      · simp only [hcons]; split <;> omega
      · simp only [hcons] at ih ⊢; omega

theorem length_filter_mchange {α : Type} (p : Nat × α → Bool) (m : Map α) (k : Nat) (f : α → α) :
    ((mchange m k f).filter p).length ≤ (m.filter p).length + 1 := by
  unfold mchange
  split
  · exact Nat.le_succ _
  · exact length_filter_mput ..

theorem length_mchange {α : Type} (m : Map α) (k : Nat) (f : α → α) : (mchange m k f).length ≤ m.length + 1 := by
  simpa using length_filter_mchange (fun _ => true) m k f

/-- A row counts once more at most where it lies, and once where it goes to. -/
theorem TableVer.startRow_rowsIn (tier region lim : Nat) (v : TableVer) (r t g : Nat) :
    (v.startRow tier region lim r).rowsIn t g ≤ v.rowsIn t g + 2 := by
  have hlie := length_filter_mchange (fun e => e.2.tier == t && e.2.region == g) v.rowMap r
    (fun e => { e with migrating := some (tier, region, lim), dest := v.freeOffset tier region, log := 0 })
  have hgo := length_filter_mchange (fun e => e.2.migrating.any (fun m => m.1 == t && m.2.1 == g)) v.rowMap r
    (fun e => { e with migrating := some (tier, region, lim), dest := v.freeOffset tier region, log := 0 })
  unfold TableVer.rowsIn TableVer.startRow
  dsimp only
  omega

theorem TableVer.startRows_size (tier region lim : Nat) (v : TableVer) (l : List Nat) (t g : Nat) :
    (l.foldl (TableVer.startRow tier region lim) v).rowsIn t g ≤ v.rowsIn t g + 2 * l.length ∧
      (l.foldl (TableVer.startRow tier region lim) v).rowMap.length ≤ v.rowMap.length + l.length ∧
      (l.foldl (TableVer.startRow tier region lim) v).dim = v.dim ∧ (l.foldl (TableVer.startRow tier region lim) v).ver = v.ver := by
  induction l generalizing v with
  | nil => exact ⟨Nat.le_refl _, Nat.le_refl _, rfl, rfl⟩
  | cons r l ih =>
    obtain ⟨hrows, hlen, hdim, hver⟩ := ih (v.startRow tier region lim r)
    have hrow := v.startRow_rowsIn tier region lim r t g
    have hmap : (v.startRow tier region lim r).rowMap.length ≤ v.rowMap.length + 1 := length_mchange ..
    simp only [List.foldl_cons, List.length_cons]
    exact ⟨by omega, by omega, hdim, hver⟩

theorem grainsOf_add (a b : Nat) : grainsOf (a + b) ≤ grainsOf a + grainsOf b := by
  unfold grainsOf cdiv
  omega

theorem grainsOf_mono {a b : Nat} (h : a ≤ b) : grainsOf a ≤ grainsOf b := by
  unfold grainsOf cdiv
  omega

/-- Rows that start to migrate, each with an entry of its own, take no more than another row map and a second place for each row would. -/
theorem TableVer.startRows_grains (tier region lim : Nat) {v : TableVer} {l : List Nat} (hl : l.length ≤ v.rowMap.length) :
    (l.foldl (TableVer.startRow tier region lim) v).grains ≤
      v.grains + (grainsOf ((2 * v.rowMap.length + v.olds.length) * rowLen v.dim) + grainsOf (8 * v.rowMap.length)) := by
  obtain ⟨hrows, hlen, hdim, -⟩ := v.startRows_size tier region lim l 1 0
  have hplaces : (l.foldl (TableVer.startRow tier region lim) v).rowsIn 1 0 * rowLen v.dim ≤
      v.rowsIn 1 0 * rowLen v.dim + (2 * v.rowMap.length + v.olds.length) * rowLen v.dim := by
    rw [← Nat.add_mul]
    exact Nat.mul_le_mul_right _ (by omega)
  have hplaces' := (grainsOf_mono hplaces).trans (grainsOf_add _ _)
  have hmap := (grainsOf_mono (show 8 * (l.foldl (TableVer.startRow tier region lim) v).rowMap.length ≤ 8 * v.rowMap.length + 8 * v.rowMap.length
    by omega)).trans (grainsOf_add _ _)
  unfold TableVer.grains
  rw [hdim]
  omega

theorem le_foldl_add {α : Type} (f : α → Nat) {l : List α} {a : α} (h : a ∈ l) (n : Nat) : f a ≤ l.foldl (fun n x => n + f x) n := by
  have hbase (l : List α) (n : Nat) : n ≤ l.foldl (fun n x => n + f x) n := by
    induction l generalizing n with
    | nil => exact Nat.le_refl n
    | cons b l ih => exact (Nat.le_add_right n (f b)).trans (ih _)
  induction l generalizing n with
  | nil => cases h
  | cons b l ih =>
    rcases List.mem_cons.1 h with rfl | h
    · exact (Nat.le_add_left (f a) n).trans (hbase l _)
    · exact ih h _

/-- The grains of a table's version are among those of its job's objects. -/
theorem State.grains_le_objectGrains {s : State} {j h : Nat} {o : Table} {v : TableVer} (ho : s.table j h = some o) (hv : v ∈ o.versions) :
    v.grains ≤ s.objectGrains j := by
  have hver := le_foldl_add TableVer.grains hv 0
  have htable := le_foldl_add (fun e : Nat × Table => e.2.versions.foldl (fun n v => n + v.grains) 0) (mem_of_mget ho) 0
  unfold State.objectGrains
  dsimp only at htable ⊢
  omega

theorem State.roomAfter_of_le {s : State} {j had n more : Nat} (hhad : had ≤ s.objectGrains j) (hn : n ≤ had + more)
    (h : s.roomAfter j 0 more = true) : s.roomAfter j had n = true := by
  unfold State.roomAfter at h ⊢
  rw [decide_eq_true_eq] at h ⊢
  omega

/-! ## MIGRATE_ROWS (R317) -/

theorem eraseDups_of_nodup {l : List Nat} (h : l.Nodup) : l.eraseDups = l := by
  induction l with
  | nil => rfl
  | cons a l ih =>
    obtain ⟨ha, hl⟩ := List.nodup_cons.1 h
    have hfilter : l.filter (fun b => !b == a) = l := List.filter_eq_self.2 fun b hb => by
      simpa using fun hba : b = a => ha (hba ▸ hb)
    rw [List.eraseDups_cons, hfilter, ih hl]

theorem length_le_of_keys {α : Type} {m : Map α} {l : List Nat} (hnd : l.Nodup) (h : ∀ k ∈ l, ∃ x, mget m k = some x) : l.length ≤ m.length := by
  have hsub : l ⊆ m.map (·.1) := fun k hk => by
    obtain ⟨x, hx⟩ := h k hk
    exact List.mem_map.2 ⟨_, mem_of_mget hx, rfl⟩
  simpa using (hnd.subperm hsub).length_le

/-- The table with a version whose rows have started to migrate, and with the MIGRATE_ROWS that wait. -/
def Table.migrating (o : Table) (v : TableVer) (waits : List (DescCtx × Nat × List Nat × Bool × Bool)) : Table :=
  { o.setVer v with migWait := waits }

/-- Into T1 the rows start to migrate at once, where the job has room for them. -/
theorem exec_migrateRows {s : State} {job well : Nat} {d : Desc} {o : Table} {v : TableVer} {bs : List Byte} {rows : List Nat}
    (hs : s.Serves kMigrateRows job well d) (hb : (s.takenUp job well).bindTable job (dfld d 16 0 16) = .ok (o, v)) (htier : dfld d 56 0 2 = 1)
    (haddr : (s.takenUp job well).addrOk job d 24 (8 * dfld d 40 0 32) = true)
    (hf : (s.takenUp job well).fetch d 24 (8 * dfld d 40 0 32) = some bs)
    (hrows : rows = (List.range (dfld d 40 0 32)).map (fun k => at_ bs (8 * k) 8)) (hnodup : rows.Nodup)
    (hfree : ∀ r ∈ rows, ∃ e, mget v.rowMap r = some e ∧ e.migrating = none)
    (hroom : (s.takenUp job well).roomAfter job 0
      (grainsOf ((2 * v.rowMap.length + v.olds.length) * rowLen v.dim) + grainsOf (8 * v.rowMap.length)) = true) :
    ∃ waits, exec (.migrateRows job well d) s = .next (((s.takenUp job well).setTable job (dfld d 16 0 16) (o.migrating
      (rows.foldl (TableVer.startRow 1 0 (fld (s.reg (Reg.wlkJob job)) 32 16)) v) waits)).migLook job (dfld d 16 0 16)) := by
  obtain ⟨ho, hcur⟩ := State.bindTable_ok hb
  have hfound : rows.all (fun r => (mget v.rowMap r).isSome) = true := List.all_eq_true.2 fun r hr => by
    obtain ⟨e, he, -⟩ := hfree r hr
    simp [he]
  have hgo : (rows.filter (fun r => !(mget v.rowMap r).any (fun e => e.migrating.isSome))).eraseDups = rows := by
    have hidle : rows.filter (fun r => !(mget v.rowMap r).any (fun e => e.migrating.isSome)) = rows := List.filter_eq_self.2 fun r hr => by
      obtain ⟨e, he, hm⟩ := hfree r hr
      simp [he, hm]
    rw [hidle, eraseDups_of_nodup hnodup]
  have hlen := length_le_of_keys hnodup fun r hr => (hfree r hr).imp fun _ h => h.1
  have hfits := State.roomAfter_of_le (State.grains_le_objectGrains ho (Table.cur_mem hcur).1)
    (TableVer.startRows_grains 1 0 (fld (s.reg (Reg.wlkJob job)) 32 16) hlen) hroom
  unfold TableVer.startRow at hfits ⊢
  simp only [exec_eq_migrateRows, execMigrateRows, State.takeUp_serves hs, hb, htier, haddr, hf, ← hrows, hfound, hgo, hfits, State.takenUp_reg, ho,
    Bool.not_true, Bool.false_eq_true, if_false, if_true, one_ne_zero, OfNat.one_ne_ofNat, false_and]
  exact ⟨_, rfl⟩

/-! ## EMBED_DOCS (R319, R320) -/

/-- The token identifiers of a pretokenized document. -/
def docTokens (b : List Byte) : List Nat := (List.range (b.length / 4)).map (fun k => at_ b (4 * k) 4)

/-- Writing the vectors of documents leaves sessions and jobs. -/
theorem State.foldl_wr_same {α : Type} {f : State → α → State} (hf : ∀ t x, ∃ hbm a bs, f t x = t.wr hbm a bs) (l : List α) (s : State) :
    (l.foldl f s).sessions = s.sessions ∧ (l.foldl f s).jobs = s.jobs := by
  refine List.foldlRecOn (motive := fun t : State => t.sessions = s.sessions ∧ t.jobs = s.jobs) l f ⟨rfl, rfl⟩ fun t ht x _ => ?_
  obtain ⟨hbm, a, bs, hx⟩ := hf t x
  obtain ⟨q, m, r, h, e, -⟩ := t.wr_only hbm a bs
  rw [hx, e]
  exact ht

theorem exec_embedDocs {s : State} {job well : Nat} {d : Desc} {m : Model} {ls : List Byte} {texts : List (List Byte)} {n stride : Nat}
    {docs : List (Bool × Nat × Nat)} (hs : s.Serves kEmbedDocs job well d) (hn : n = dfld d 18 0 16)
    (hstride : stride = cdiv (16 + if bit d 137 then 4 * m.width else m.width + m.width / 32) 64 * 64)
    (hm : s.modelOf job (dfld d 16 0 8) = some m) (hdam : m.damaged = false) (henc : m.encoder = true) (hsome : n ≠ 0) (hmost : dfld d 20 0 17 ≤ 65536)
    (halign : daddr d 40 % 64 = 0) (hpre : bit d 136 = true) (hla : (s.takenUp job well).addrOk job d 32 (16 * n) = true)
    (hra : (s.takenUp job well).addrOk job d 40 (stride * n) = true) (hconf : (s.job job).conf = true → dhbm d 40 = true)
    (hf : (s.takenUp job well).fetch d 32 (16 * n) = some ls)
    (hdocs : docs = (List.range n).map (fun k =>
      (decide (2 ^ 63 ≤ at_ ls (16 * k) 8), at_ ls (16 * k) 8 % 2 ^ 63, 4 * at_ ls (16 * k + 8) 4)))
    (hda : ∀ x ∈ docs, (s.takenUp job well).badAddr job x.1 x.2.1 x.2.2 = false)
    (hread : docs.mapM (fun x => (s.takenUp job well).rd x.1 x.2.1 x.2.2) = some texts)
    (hvocab : ∀ b ∈ texts, ∀ k < b.length / 4, at_ b (4 * k) 4 < m.vocab) :
    ∃ t : State, exec (.embedDocs job well d) s = .next (t.complete (descCtx kEmbedDocs job well d) Code.ok) ∧ t.sessions = s.sessions ∧
      t.jobs = (s.takenUp job well).jobs := by
  subst hn hstride
  have hda' : docs.all (fun x => !(s.takenUp job well).badAddr job x.1 x.2.1 x.2.2) = true := List.all_eq_true.2 fun x hx => by rw [hda x hx]; rfl
  have hknown : (texts.map docTokens).any (fun ts => ts.any (fun t => decide (m.vocab ≤ t))) = false := by
    simpa [docTokens] using hvocab
  unfold docTokens at hknown
  simp only [exec_eq_embedDocs, execEmbedDocs, State.takeUp_serves hs, State.takenUp_modelOf, hm, hdam, henc, bne_iff_ne.2 hsome, hmost,
    beq_iff_eq.2 halign, hpre, hla, hra, State.takenUp_conf, bnot_or_of_imp hconf, hf, Bool.true_or, Bool.not_false, Bool.not_true, Bool.false_eq_true,
    if_true, if_false, decide_true, Bool.and_self, firstFail_pass, firstFail_nil, ← hdocs, hda', hread, hknown, Bool.and_false, Res.spoilIf_false]
  refine ⟨_, rfl, ?_⟩
  dsimp only
  simp only [State.countReg_eq]
  split
  · exact State.foldl_wr_same (fun _ _ => ⟨_, _, _, rfl⟩) _ _
  · exact State.foldl_wr_same (fun _ _ => ⟨_, _, _, rfl⟩) _ _

/-! ## The statement -/

theorem toNat_field32 (d : Desc) (byte lo : Nat) : (BitVec.ofNat 32 (dfld d byte lo 32)).toNat = dfld d byte lo 32 := by
  simp [dfld, fld]

/-- What the buffered items of a list of updates hold but for their gradients. -/
theorem State.ownItems_keys (s : State) (v : TableVer) (step cap : Nat) (lr : W32) (bs : List Byte) (n : Nat) :
    (s.ownItems v step cap lr bs n).map (fun i => (i.node, i.step, i.row, i.lr.toNat, i.ver)) =
      (((List.range n).map (fun k => at_ bs ((8 + 4 * v.dim) * k) 8)).filter (fun r => v.owner r == s.node)).map
        (fun r => (s.node, step, v.local_ r, lr.toNat, v.ver)) := by
  simp only [State.ownItems, updateKeys, List.filter_map, List.map_map]
  rfl

/-- A TABLE_STEP is applied at once when no mark is missing, and waits for the others otherwise. -/
theorem State.stepping_look {s : State} {j h : Nat} {o : Table} {v : TableVer} {c : DescCtx} {node step us : Nat} (hcur : o.cur = some v)
    (hf : o.failed.contains step = false) (hus : 0 < us) :
    ∃ t p, (s.setTable j h (o.stepping c node step (s.now + us))).stepLook j h = t ∧ t.table j h = some p ∧ p.marks = (node, step) :: o.marks ∧
      p.items = o.items ∧ p.versions = o.versions ∧
      p.stepWait = some (c, step, if v.nodes.all (fun n => ((node, step) :: o.marks).contains (n, step)) then none else some (s.now + us)) ∧
      t.sessions = s.sessions := by
  have ho := s.setTable_table j h (o.stepping c node step (s.now + us))
  by_cases hall : v.nodes.all (fun n => ((node, step) :: o.marks).contains (n, step)) = true
  · have hq := State.enqueue_objects ((s.setTable j h (o.stepping c node step (s.now + us))).setTable j h
      { o.stepping c node step (s.now + us) with stepWait := some (c, step, none) }) Cls.gather (applyCmd j h)
    exact ⟨_, _, State.stepLook_complete ho rfl hcur hf hall, (hq.table_eq j h).trans (State.setTable_table ..), rfl, rfl, rfl,
      by rw [if_pos hall], hq.sess⟩
  · exact ⟨_, _, State.stepLook_waits ho rfl hcur hf (Bool.eq_false_iff.2 hall) (Nat.lt_add_of_pos_right hus), ho, rfl, rfl, rfl,
      by rw [if_neg hall]; rfl, rfl⟩

/-- Settles O47: what each command makes of its table is named (`exec_loadTable`, `exec_tableSwap`, `exec_embedLookup`, …), and freeing what
nothing uses leaves the current version with its rows (`State.migLook_keeps`). -/
theorem tables : Obligations.Tables := by
  intro s job well d s0 h
  have hup := s.takenUp_objects job well
  refine ⟨fun im hotBytes hs => ?_, fun o y hs => ?_, fun o v hb => ⟨fun ob ib wb hs => ?_, fun bs hs => ?_, fun hs => ?_, fun bs hs => ?_⟩,
    fun m ls texts hs => ?_⟩
  · intro hot tier o rl loc hots tails cold v himage haddr hf h1 h2 hok hlocal hnodup htier hbusy hroom hplace
    obtain ⟨u, areas, hsame, hexec⟩ := exec_loadTable hs himage haddr hf rfl ⟨h1, h2⟩ hok hlocal hnodup htier hbusy hroom hplace
    exact ⟨_, _, _, hexec, State.setTable_table .., rfl, rfl, rfl, rfl, rfl, rfl, rfl, rfl, fun r hr => imageRows_row im tier _ hr, hsame.sess⟩
  · intro v ho hy
    exact ⟨_, _, exec_tableSwap hs ho hy, State.reapTable_table (State.setTable_table ..), rfl, rfl,
      fun w hw => Table.swapped_stays (List.mem_filter.1 hw).2, State.reapTable_same.1⟩
  · intro nb fmt off n idx hnb hq halign hoa hra hconf hof hrise hia hwa hif hwf hrows
    obtain ⟨t, htraffic, hexec⟩ := exec_embedLookup hs hb hnb hq halign hoa hra hconf hof rfl rfl hrise hia hwa hif hwf rfl hrows
    exact ⟨t, v.lookup job well d idx off wb, hexec, by rw [htraffic.lookups_eq]; exact State.addLookup_lookups .., rfl, rfl, rfl, rfl, rfl, rfl, rfl, rfl,
      (htraffic.table_eq job h).trans (State.setTable_table ..), htraffic.objects.sess, htraffic.hbm_eq⟩
  · intro step n item hnew haddr hf hrows hfit
    obtain ⟨t, htraffic, hexec⟩ := exec_tableUpdate hs hb rfl rfl hnew haddr hf hrows hfit
    refine ⟨t, _, hexec, (htraffic.table_eq job h).trans (State.setTable_table ..), rfl, List.take_left .., ?_, htraffic.objects.sess⟩
    rw [Table.buffered, List.drop_left, State.ownItems_keys, toNat_field32]
  · intro step c hgroup hwait hnext hf hus
    obtain ⟨u, htraffic, hexec⟩ := exec_tableStep hs hb hgroup hwait hnext
    obtain ⟨t, p, ht, hp, hmarks, hitems, hvers, hstep, hsess⟩ := State.stepping_look (s := u) (j := job) (h := h) (c := c) (node := s.node)
      (State.bindTable_ok hb).2 hf hus
    rw [htraffic.now_eq] at ht hstep
    exact ⟨t, p, hexec.trans (congrArg _ ht), hp, hmarks, hitems, hvers, hstep, hsess.trans htraffic.objects.sess⟩
  · intro htier n rows haddr hf _ hnodup hfree hroom
    obtain ⟨waits, hexec⟩ := exec_migrateRows hs hb htier haddr hf rfl hnodup hfree hroom
    obtain ⟨-, hcur⟩ := State.bindTable_ok hb
    obtain ⟨hmem, hc⟩ := Table.cur_mem hcur
    obtain ⟨-, -, -, hver⟩ := v.startRows_size 1 0 (fld (s.reg (Reg.wlkJob job)) 32 16) rows 1 0
    obtain ⟨p, x, hp, -, hx, hxver, hxrows⟩ := State.migLook_keeps
      (s0.setTable_table job h (o.migrating (rows.foldl (TableVer.startRow 1 0 (fld (s.reg (Reg.wlkJob job)) 32 16)) v) waits))
      (Table.mem_setVer hmem hver) (hc.trans (congrArg some hver.symm))
    refine ⟨_, p, x, hexec, hp, hx, hxver.trans hver, fun r hr => ?_, fun r hr => ?_, (State.migLook_sessions ..).trans hup.sess⟩
    · obtain ⟨e, he, -⟩ := hfree r hr
      obtain ⟨y, hy, hmig, hplace⟩ := v.startRows_row 1 0 _ rows hr he
      refine ⟨y, hxrows ▸ hy, hmig, ?_⟩
      rw [he]
      exact congrArg some hplace.symm
    · rw [hxrows]
      exact v.startRows_other 1 0 _ rows hr
  · intro mh n vec stride docs hm hdam henc hn hmost halign hpre hla hra hconf hf hda hread hvocab
    exact exec_embedDocs hs rfl rfl hm hdam henc hn hmost halign hpre hla hra hconf hf rfl hda hread hvocab

end Sys2Proof.Machine
end

section
/-!
SUPPORT. What engine accounting, a pump's work and a turn's change leave (12_jobs_slices_sharing, R335 to R339; 02_grains_and_tiers, R63, R64).
-/
namespace Sys2Proof.Machine

open Sys2Proof

/-! ## Accounting (R335, R336) -/

/-- A field as wide as its word is the word. -/
theorem setFld_word (x : W64) (n : Nat) : setFld x 0 64 (fld x 0 64 + n) = x + BitVec.ofNat 64 n := by
  apply BitVec.eq_of_toNat_eq
  have hx := x.isLt
  simp [setFld, fld, BitVec.toNat_add, BitVec.toNat_ofNat]

/-- What charging cycles can change: the job's account, a request's cycles, and the share-group table in HBM. -/
theorem State.account_only (s : State) (c j share req cyc : Nat) :
    ∃ rs q m r, s.account c j share req cyc =
      { s.setReg (Reg.acct j c) (s.reg (Reg.acct j c) + BitVec.ofNat 64 cyc) with reqs := rs, seqs := q, hbm := m, refreshing := r } := by
  unfold State.account
  rw [State.countReg_eq, setFld_word]
  dsimp only
  generalize s.setReg _ _ = u
  obtain ⟨rs, hreq⟩ : ∃ rs, (if req = 0 then u else u.modReq (req - 1) (fun r => { r with engineCyc := r.engineCyc + BitVec.ofNat 64 cyc })) =
      { u with reqs := rs } := by
    split
    · exact ⟨u.reqs, rfl⟩
    · exact ⟨_, rfl⟩
  rw [hreq]
  split
  · exact ⟨rs, u.seqs, u.hbm, u.refreshing, rfl⟩
  · obtain ⟨q, m, r, h, -⟩ := State.wrHbm_only { u with reqs := rs } _ _
    exact ⟨rs, q, m, r, h⟩

/-- What sharing out a turn's cycles can change: the cycles of requests. -/
theorem State.chargeSteps_only (s : State) (j cyc : Nat) : ∃ rs, s.chargeSteps j cyc = { s with reqs := rs } := by
  unfold State.chargeSteps
  extract_lets es rows parts rest shares
  split
  · exact ⟨s.reqs, rfl⟩
  · refine List.foldlRecOn (motive := fun t : State => ∃ rs, t = { s with reqs := rs }) shares _ ⟨s.reqs, rfl⟩ fun t ht p _ => ?_
    obtain ⟨rs, rfl⟩ := ht
    exact ⟨_, rfl⟩

/-- The end of a command frees the engine it ran on and charges its cycles to its job (R335). -/
theorem State.ended_charges {s : State} {cls inst : Nat} {x : EngCmd} (cyc : Nat) (hx : mget (s.pool cls).busy inst = some x) :
    ∃ u : State, s.ended cls inst cyc = some (x, u) ∧ mget (u.pool cls).busy inst = none ∧
      u.reg (Reg.acct x.job cls) = s.reg (Reg.acct x.job cls) + BitVec.ofNat 64 cyc ∧ u.sessions = s.sessions ∧ u.jobs = s.jobs := by
  unfold State.ended
  simp only [hx]
  generalize hp : (if x.pooled then _ else _ : Pool) = p
  have hbusy : mget p.busy inst = none := by
    subst hp
    split <;> simp
  obtain ⟨rs, q, m, r, h⟩ := (s.setPool cls p).account_only cls x.job x.share x.req cyc
  refine ⟨_, rfl, ?_⟩
  rw [h]
  refine ⟨?_, ?_, rfl, rfl⟩
  · simpa [State.pool, State.setPool, State.setReg] using hbusy
  · exact (State.reg_setReg ..).trans (if_pos rfl)

/-! ## Grains of a pump descriptor (R63, R64) -/

theorem State.spoilIf_pumpDescs (s : State) (on : Bool) (j : Nat) : (s.spoilIf on j).pumpDescs = s.pumpDescs := by
  unfold State.spoilIf
  split <;> rfl

theorem State.storeAt_pumpDescs (s : State) (j c a : Nat) (data : List Byte) : (s.storeAt j c a data).pumpDescs = s.pumpDescs := by
  have hcore (k : Core) : (s.setJobCore j c k).pumpDescs = s.pumpDescs := by
    obtain ⟨cs, gs, h⟩ := s.setJobCoreIf_only true j c k
    rw [if_pos rfl] at h
    rw [h]
  have hwake (t : State) : (t.wakeFor c).pumpDescs = t.pumpDescs := by
    unfold State.wakeFor
    dsimp only
    split <;> rfl
  exact (State.spoilIf_pumpDescs ..).trans ((hwake _).trans (hcore _))

theorem State.grainWrite_pumpDescs (s : State) (j : Nat) (a : W64) (bs : List Byte) : (s.grainWrite j a bs).pumpDescs = s.pumpDescs := by
  unfold State.grainWrite
  split
  · exact s.storeAt_pumpDescs _ _ _ _
  · obtain ⟨q, m, r, h, e, -⟩ := s.wr_only true (t1Hbm a) bs
    rw [State.spoilIf_pumpDescs, e]

/-- One more grain of a descriptor that has not stopped. -/
def pumpStep (j : Nat) (bs : List Byte) (checkOk : Bool) (r : State × PumpDesc) : State × PumpDesc :=
  if r.2.status ≠ 0 then r else r.1.pumpGrain j bs r.2 checkOk

theorem State.pumpRun_ok {s : State} {n : Nat} {x : PumpDesc} {p : Prog} {checkOk : Bool} {bs : List Byte} (hbs : bs = s.descBytes x p.ctx.job)
    (hok : s.descOk p bs = true) {t : State} {y : PumpDesc}
    (hrun : (List.range (min 64 (descCount bs - x.done))).foldl (fun r _ => pumpStep p.ctx.job bs checkOk r) (s, x) = (t, y)) :
    s.pumpRun n x p checkOk = { t with pumpDescs := mput t.pumpDescs n y } := by
  subst hbs
  unfold pumpStep at hrun
  simp only [State.pumpRun, hok, Bool.not_true, Bool.false_eq_true, if_false, hrun]

/-- A descriptor that breaks R64 stops with STATUS 2. -/
theorem State.pumpRun_bad {s : State} {n : Nat} {x : PumpDesc} {p : Prog} (checkOk : Bool) (hok : s.descOk p (s.descBytes x p.ctx.job) = false) :
    s.pumpRun n x p checkOk = { s with pumpDescs := mput s.pumpDescs n { x with status := 2 } } := by
  simp only [State.pumpRun, hok, Bool.not_false, if_true]

section
variable {s : State} {j : Nat} {bs : List Byte} {x : PumpDesc} {checkOk : Bool}

/-- A COPY without VERIFY writes the grain. -/
theorem pumpStep_copy (hx : x.status = 0) (hop : at_ bs 0 1 % 16 = 0) (hverify : (at_ bs 0 1).testBit 4 = false) :
    pumpStep j bs checkOk (s, x) = (s.grainWrite j (gPlus (BitVec.ofNat 64 (at_ bs 16 8)) x.done)
      (s.grainRead j (gPlus (BitVec.ofNat 64 (at_ bs 8 8)) x.done)), { x with done := x.done + 1 }) := by
  simp [pumpStep, State.pumpGrain, hx, hop, hverify]

/-- A checked grain that fails stops the descriptor with STATUS 1 and is counted (R49). -/
theorem pumpStep_fails (hx : x.status = 0) (hcheck : at_ bs 0 1 % 16 = 1 ∨ (at_ bs 0 1).testBit 4 = true)
    (hbad : checkOk = false ∨ grainSound false (s.grainRead j (gPlus (BitVec.ofNat 64 (at_ bs 8 8)) x.done)) = false) :
    pumpStep j bs checkOk (s, x) = (s.countChecks 2 0, { x with status := 1 }) := by
  have hc : (at_ bs 0 1 % 16 == 1 || (at_ bs 0 1).testBit 4) = true := by simpa using hcheck
  have hb : (checkOk && grainSound false (s.grainRead j (gPlus (BitVec.ofNat 64 (at_ bs 8 8)) x.done))) = false := by
    rwa [Bool.and_eq_false_iff]
  simp only [pumpStep, State.pumpGrain, hx, hc, hb, ne_eq, not_true_eq_false, if_false, Bool.not_false, Bool.and_self, if_true]

theorem pumpStep_stopped (hx : x.status ≠ 0) : pumpStep j bs checkOk (s, x) = (s, x) := if_pos hx

/-- A COPY without VERIFY goes on grain by grain. -/
theorem foldl_pumpStep_copy (hx : x.status = 0) (hop : at_ bs 0 1 % 16 = 0) (hverify : (at_ bs 0 1).testBit 4 = false) (l : List Nat) :
    ∃ t, l.foldl (fun r _ => pumpStep j bs checkOk r) (s, x) = (t, { x with done := x.done + l.length }) := by
  induction l generalizing s x with
  | nil => exact ⟨s, rfl⟩
  | cons i l ih =>
    rw [List.foldl_cons, pumpStep_copy hx hop hverify]
    generalize s.grainWrite _ _ _ = u
    obtain ⟨t, h⟩ := ih (s := u) (x := { x with done := x.done + 1 }) hx
    refine ⟨t, ?_⟩
    rw [h, List.length_cons, Nat.add_assoc, Nat.add_comm 1]

theorem foldl_pumpStep_stopped (hx : x.status ≠ 0) (l : List Nat) : l.foldl (fun r _ => pumpStep j bs checkOk r) (s, x) = (s, x) := by
  induction l with
  | nil => rfl
  | cons i l ih => rw [List.foldl_cons, pumpStep_stopped hx, ih]

end

/-! ## Switching groups (R339) -/

/-- What switching a group can change: cores, and the group. -/
theorem State.switchGroup_only (s : State) (g b : Nat) :
    ∃ cs saved, s.switchGroup g b = State.setGroup { s with cores := cs } g { s.group g with job := b, lastJob := b, saved := saved } := by
  have hcores (f : State → Nat → Core) (l : List Nat) : ∃ cs, l.foldl (fun t c => t.setCore c (f t c)) s = { s with cores := cs } :=
    List.foldlRecOn (motive := fun t : State => ∃ cs, t = { s with cores := cs }) l _ ⟨s.cores, rfl⟩ fun t ht c _ => by
      obtain ⟨cs, rfl⟩ := ht
      exact ⟨_, rfl⟩
  unfold State.switchGroup
  extract_lets x a shared saved mine t
  obtain ⟨cs, h⟩ := hcores (fun t c => { mgetD mine c {} with store := mergeStore shared (mgetD mine c {}).store (t.core c).store }) (groupCores g)
  exact ⟨cs, _, congrArg (fun u => State.setGroup u g { x with job := b, lastJob := b, saved := mput (mdel x.saved b) a saved }) h⟩

/-- Once a group has been switched to a job, switching others to it, or it again, leaves it with the job. -/
theorem State.foldl_switchGroup (s : State) (b : Nat) {g : Nat} {l : List Nat} (hg : g ∈ l) :
    ((l.foldl (fun s g => s.switchGroup g b) s).group g).job = b ∧ ((l.foldl (fun s g => s.switchGroup g b) s).group g).lastJob = b := by
  have hkeep (l : List Nat) (t : State) (ht : (t.group g).job = b ∧ (t.group g).lastJob = b) :
      ((l.foldl (fun s g => s.switchGroup g b) t).group g).job = b ∧ ((l.foldl (fun s g => s.switchGroup g b) t).group g).lastJob = b :=
    List.foldlRecOn (motive := fun t : State => (t.group g).job = b ∧ (t.group g).lastJob = b) l _ ht fun t ht k _ => by
      obtain ⟨cs, saved, h⟩ := t.switchGroup_only k b
      rw [h, State.group_setGroup]
      split
      · exact ⟨rfl, rfl⟩
      · exact ht
  obtain ⟨before, after, rfl⟩ := List.append_of_mem hg
  rw [List.foldl_append, List.foldl_cons]
  refine hkeep after _ ?_
  obtain ⟨cs, saved, h⟩ := (before.foldl (fun s g => s.switchGroup g b) s).switchGroup_only g b
  rw [h, State.group_setGroup, if_pos rfl]
  exact ⟨rfl, rfl⟩

theorem State.foldl_switchGroup_frame (s : State) (b : Nat) (l : List Nat) :
    (l.foldl (fun s g => s.switchGroup g b) s).sessions = s.sessions ∧ (l.foldl (fun s g => s.switchGroup g b) s).hbm = s.hbm :=
  List.foldlRecOn (motive := fun t : State => t.sessions = s.sessions ∧ t.hbm = s.hbm) l _ ⟨rfl, rfl⟩ fun t ht k _ => by
    obtain ⟨cs, saved, h⟩ := t.switchGroup_only k b
    rw [h]
    exact ht

end Sys2Proof.Machine
end

section
/-!
PROOF. Shapers, histograms, pumps, engine accounting and turns (12_jobs_slices_sharing, R335, R339 to R342; 02_grains_and_tiers, R63, R64):
obligation EnginesAndShapers.
-/
namespace Sys2Proof.Machine

open Sys2Proof

section
variable (s : State)

theorem exec_eq_shaperToken (kind : ShaperKind) (job idx : Nat) : exec (.shaperToken kind job idx) s = execShaperToken kind job idx s := rfl
theorem exec_eq_shaperCfgWrite (kind : ShaperKind) (job idx : Nat) (v : W64) :
    exec (.shaperCfgWrite kind job idx v) s = execShaperCfgWrite kind job idx v s := rfl
theorem exec_eq_histSample : exec .histSample s = execHistSample s := rfl
theorem exec_eq_snap (v : W64) : exec (.snap v) s = execSnap v s := rfl
theorem exec_eq_pumpTakeUp (pump : Nat) (ok : Bool) : exec (.pumpTakeUp pump ok) s = execPumpTakeUp pump ok s := rfl
theorem exec_eq_pumpDescriptorDone (pump : Nat) : exec (.pumpDescriptorDone pump) s = execPumpDescriptorDone pump s := rfl
theorem exec_eq_engineCommandEnd (cls inst cyc : Nat) (f : Bool) (r : List (Nat × List Byte)) :
    exec (.engineCommandEnd cls inst cyc f r) s = execEngineCommandEnd cls inst cyc f r s := rfl
theorem exec_eq_contextSwitch (g cyc : Nat) : exec (.contextSwitch g cyc) s = execContextSwitch g cyc s := rfl

end

/-! ## Shapers (R340, R341) -/

theorem exec_shaperToken {s : State} {kind : ShaperKind} {job idx : Nat} (hready : s.power.ready = true)
    (hon : bit (s.shaper (shaperKey kind job idx)).cfg 63 = true) :
    exec (.shaperToken kind job idx) s = .next (
      let x := s.shaper (shaperKey kind job idx)
      let t := (s.now - x.last) * x.rate + x.frac
      { s with
        shapers := mput s.shapers (shaperKey kind job idx) { x with
          bal := BitVec.ofInt 32 (max (min (x.bal.toInt + (t / 1000 : Nat)) (x.burst : Nat)) x.bal.toInt), last := s.now, frac := t % 1000 } }) := by
  simp only [exec_eq_shaperToken, execShaperToken, State.ifReady_ready hready, hon, Bool.not_true, Bool.false_eq_true, if_false]

theorem exec_shaperCfgWrite {s : State} (kind : ShaperKind) (job idx : Nat) {v : W64} (hup : s.regsUp = true) (hv : fld v 56 6 = 0) :
    exec (.shaperCfgWrite kind job idx v) s = .next { s with
      shapers := mput s.shapers (shaperKey kind job idx) { cfg := setFld v 62 1 0, bal := if bit v 62 then BitVec.ofNat 32 (fld v 32 24) else 0,
                                                           last := s.now, frac := 0 } } := by
  simp only [exec_eq_shaperCfgWrite, execShaperCfgWrite, State.ifUp_up hup, hv, ne_eq, not_true_eq_false, if_false]

/-! ## Histograms (R342) -/

/-- The histograms of a queue with one more sample, of a depth and an age. -/
def Hist.sampled (h : Hist) (p : Nat × Nat) : Hist :=
  { depth := mmod h.depth (histBin p.1) 0 (fun n => (n + 1) % 2 ^ 64), delay := mmod h.delay (histBin p.2) 0 (fun n => (n + 1) % 2 ^ 64) }

/-- A sample of one queue of a job, and of all its queues of a kind. -/
def State.sampleQueue (s : State) (kind j : Nat) (hs : Map Hist) (i : Nat) : Map Hist :=
  mput hs (qid kind j i) ((mgetD hs (qid kind j i) {}).sampled (s.queueSample kind j i))
def State.sampleKind (s : State) (j : Nat) (hs : Map Hist) (kind : Nat) : Map Hist :=
  (List.range (queueCount kind)).foldl (s.sampleQueue kind j) hs

/-- A device with one active job, which is not confidential, samples each of its queues. -/
theorem exec_histSample {s : State} {j : Nat} {x : Job} (hready : s.power.ready = true) (hon : fld (s.reg Reg.histCtl) 0 16 ≠ 0)
    (hjobs : s.jobs = [(j, x)]) (hactive : x.active = true) (hconf : x.conf = false) :
    exec .histSample s = .next { s with hists := (List.range 4).foldl (s.sampleKind j) s.hists } := by
  have hsampled : s.jobs.filter (fun e => e.2.active && !e.2.conf) = [(j, x)] := by simp [hjobs, hactive, hconf]
  simp only [exec_eq_histSample, execHistSample, State.ifReady_ready hready, if_neg hon, hsampled, List.foldl_cons, List.foldl_nil]
  refine congrArg _ (List.foldl_hom (fun hs : Map Hist => ({ s with hists := hs } : State)) fun hs kind => ?_)
  exact List.foldl_hom (fun hs : Map Hist => ({ s with hists := hs } : State)) fun _ _ => rfl

theorem State.sampleQueue_other (s : State) {kind j i k : Nat} (hs : Map Hist) (hk : k ≠ qid kind j i) :
    mgetD (s.sampleQueue kind j hs i) k {} = mgetD hs k {} := by
  rw [State.sampleQueue, mgetD_mput, if_neg hk]

theorem State.foldl_sampleQueue_other (s : State) {kind j k : Nat} {l : List Nat} (hs : Map Hist) (hk : ∀ i ∈ l, k ≠ qid kind j i) :
    mgetD (l.foldl (s.sampleQueue kind j) hs) k {} = mgetD hs k {} :=
  List.foldlRecOn (motive := fun m => mgetD m k {} = mgetD hs k {}) l _ rfl fun m hm i hi => (s.sampleQueue_other m (hk i hi)).trans hm

/-- Sampling the queues of a kind samples each one once. -/
theorem State.foldl_sampleQueue_own (s : State) {kind j i n : Nat} (hs : Map Hist) (hi : i < n) :
    mgetD ((List.range n).foldl (s.sampleQueue kind j) hs) (qid kind j i) {} =
      (mgetD hs (qid kind j i) {}).sampled (s.queueSample kind j i) := by
  have hinj {a b : Nat} (h : a ≠ b) : qid kind j a ≠ qid kind j b := by
    unfold qid
    omega
  induction n with
  | zero => exact absurd hi (Nat.not_lt_zero i)
  | succ n ih =>
    rw [List.range_succ, List.foldl_append, List.foldl_cons, List.foldl_nil]
    rcases Nat.lt_succ_iff_lt_or_eq.1 hi with hlt | rfl
    · rw [s.sampleQueue_other _ (hinj hlt.ne), ih hlt]
    · rw [State.sampleQueue, mgetD_mput, if_pos rfl, s.foldl_sampleQueue_other hs fun k hk => hinj (List.mem_range.1 hk).ne']

/-- Each submission well of the job is sampled once; the queues of other kinds have other keys (Table 12.9). -/
theorem State.sampled_well (s : State) (j : Nat) (hs : Map Hist) {i : Nat} (hi : i < 16) :
    mgetD ((List.range 4).foldl (s.sampleKind j) hs) (qid 0 j i) {} = (mgetD hs (qid 0 j i) {}).sampled (s.queueSample 0 j i) := by
  have hkind {kind : Nat} (h : kind ≠ 0) (m : Map Hist) : mgetD (s.sampleKind j m kind) (qid 0 j i) {} = mgetD m (qid 0 j i) {} := by
    refine s.foldl_sampleQueue_other m fun k _ => ?_
    simp only [qid, Nat.shiftLeft_eq]
    omega
  have h4 : List.range 4 = [0, 1, 2, 3] := rfl
  simp only [h4, List.foldl_cons, List.foldl_nil]
  rw [hkind three_ne_zero, hkind two_ne_zero, hkind one_ne_zero]
  exact s.foldl_sampleQueue_own hs hi

theorem exec_snap {s : State} {v : W64} (hup : s.regsUp = true) (h1 : fld v 34 30 = 0) (h2 : fld v 21 3 = 0) (hsnap : bit v 32 = true)
    (hi : fld v 16 5 < queueCount (fld v 30 2)) (hconf : (s.job (fld v 24 6)).conf = false) :
    exec (.snap v) s = .next (
      let q := qid (fld v 30 2) (fld v 24 6) (fld v 16 5)
      let h := mgetD s.hists q {}
      { s.setReg Reg.histCtl (BitVec.ofNat 64 (fld v 0 32)) with
        snapshot := (List.range 16).map (fun b => mgetD h.depth b 0) ++ (List.range 16).map (fun b => mgetD h.delay b 0)
        hists := if bit v 33 then mdel s.hists q else s.hists }) := by
  simp only [exec_eq_snap, execSnap, State.ifUp_up hup, h1, h2, hsnap, hi, State.setReg_job, hconf, ne_eq, not_true_eq_false, or_self, if_false,
    Bool.not_true, Bool.false_eq_true, decide_true, Bool.not_false, Bool.and_self, Bool.and_true, if_true, State.setReg_hists]
  split <;> rfl

/-! ## Pumps (R63, R64, R178, R228) -/

section
variable {s : State} {pump n : Nat} {e : EngCmd} {x : PumpDesc} {p : Prog} {ok : Bool} (hready : s.power.ready = true)
include hready

section
variable (hidle : mget (s.pool Cls.pump).busy pump = none) (he : mget ((s.pick Cls.pump pump).pool Cls.pump).busy pump = some e)
  (hwork : e.work = .pump n) (hx : mget (s.pick Cls.pump pump).pumpDescs n = some x) (hp : mget (s.pick Cls.pump pump).progs x.prog = some p)
include hidle he hwork hx hp

/-- A pump that no segment holds carries out what it takes up. -/
theorem exec_pumpTakeUp (hfree : s.descHeld x p = []) :
    exec (.pumpTakeUp pump ok) s = .next ((s.pick Cls.pump pump).pumpRun n { x with taken := true, waited := false } p ok) := by
  cases e
  subst hwork
  simp only [exec_eq_pumpTakeUp, execPumpTakeUp, State.ifReady_ready hready, hidle, Option.isSome_none, Bool.false_eq_true, if_false, he, hx, hp, hfree]

/-- A pump that a segment holds counts the access that waits, once (R228). -/
theorem exec_pumpTakeUp_held (hheld : s.descHeld x p ≠ []) (hwaited : x.waited = false) :
    exec (.pumpTakeUp pump ok) s =
      .next { s.countHeld (s.descHeld x p) with pumpDescs := mput s.pumpDescs n { x with waited := true } } := by
  obtain ⟨q, qs, hqs⟩ := List.exists_cons_of_ne_nil hheld
  cases e
  subst hwork
  simp only [exec_eq_pumpTakeUp, execPumpTakeUp, State.ifReady_ready hready, hidle, Option.isSome_none, Bool.false_eq_true, if_false, he, hx, hp, hqs,
    hwaited]

end

theorem exec_pumpDescriptorDone (he : mget (s.pool Cls.pump).busy pump = some e) (hwork : e.work = .pump n) (hx : mget s.pumpDescs n = some x)
    (hp : mget s.progs x.prog = some p) (hover : x.over (s.descBytes x p.ctx.job) = true) :
    exec (.pumpDescriptorDone pump) s = .next (s.descDone n x) := by
  cases e
  subst hwork
  simp only [exec_eq_pumpDescriptorDone, execPumpDescriptorDone, State.ifReady_ready hready, he, hx, hp, hover, if_true]

end

section
variable {s : State} {n : Nat} {y : PumpDesc} {p : Prog} {bs : List Byte} (hbs : bs = s.descBytes y p.ctx.job) (hok : s.descOk p bs = true)
  (hy : y.status = 0)
include hbs hok hy

/-- A COPY without VERIFY moves up to 64 grains, which DONE counts. -/
theorem State.pumpRun_copy (checkOk : Bool) (hop : at_ bs 0 1 % 16 = 0) (hverify : (at_ bs 0 1).testBit 4 = false) :
    ∃ t, s.pumpRun n y p checkOk = t ∧ mget t.pumpDescs n = some { y with done := y.done + min 64 (descCount bs - y.done) } ∧
      (min 64 (descCount bs - y.done) = 1 → t = { s.grainWrite p.ctx.job (gPlus (BitVec.ofNat 64 (at_ bs 16 8)) y.done)
        (s.grainRead p.ctx.job (gPlus (BitVec.ofNat 64 (at_ bs 8 8)) y.done)) with
          pumpDescs := mput s.pumpDescs n { y with done := y.done + min 64 (descCount bs - y.done) } }) := by
  obtain ⟨t, ht⟩ := foldl_pumpStep_copy (s := s) (j := p.ctx.job) (checkOk := checkOk) hy hop hverify
    (List.range (min 64 (descCount bs - y.done)))
  refine ⟨_, State.pumpRun_ok hbs hok ht, by simp, fun hone => ?_⟩
  rw [hone, List.range_one, List.foldl_cons, List.foldl_nil, pumpStep_copy hy hop hverify] at ht
  obtain ⟨rfl, -⟩ := Prod.mk.inj ht
  rw [State.grainWrite_pumpDescs, List.length_range]

/-- A grain that fails its check stops the descriptor before any later grain (R49, R63). -/
theorem State.pumpRun_fails {checkOk : Bool} (hcheck : at_ bs 0 1 % 16 = 1 ∨ (at_ bs 0 1).testBit 4 = true) (hleft : y.done < descCount bs)
    (hbad : checkOk = false ∨ grainSound false (s.grainRead p.ctx.job (gPlus (BitVec.ofNat 64 (at_ bs 8 8)) y.done)) = false) :
    s.pumpRun n y p checkOk = { s.countChecks 2 0 with pumpDescs := mput s.pumpDescs n { y with status := 1 } } := by
  obtain ⟨m, hm⟩ : ∃ m, min 64 (descCount bs - y.done) = m + 1 := ⟨min 64 (descCount bs - y.done) - 1, by omega⟩
  have hrun : (List.range (min 64 (descCount bs - y.done))).foldl (fun r _ => pumpStep p.ctx.job bs checkOk r) (s, y) =
      (s.countChecks 2 0, { y with status := 1 }) := by
    rw [hm, List.range_succ_eq_map, List.foldl_cons, pumpStep_fails hy hcheck hbad]
    exact foldl_pumpStep_stopped Nat.one_ne_zero _
  exact State.pumpRun_ok hbs hok hrun

end

/-! ## Engine commands and turns (R335, R339) -/

/-- The end of a command with no work of its own beside its accounting. -/
theorem exec_engineCommandEnd {s u : State} {cls inst cyc : Nat} {x : EngCmd} (f : Bool) (r : List (Nat × List Byte))
    (hready : s.power.ready = true) (hended : s.ended cls inst cyc = some (x, u)) (hwork : x.work = .sieve ∨ x.work = .passMap ∨ x.work = .turn) :
    exec (.engineCommandEnd cls inst cyc f r) s = .next (u.dispatch cls).looks := by
  have hplain : u.workEnded cls inst x f r = u := by
    unfold State.workEnded
    rcases hwork with h | h | h <;> rw [h]
  simp only [exec_eq_engineCommandEnd, execEngineCommandEnd, State.ifReady_ready hready, hended, hplain]

/-- A group of job `a` that another job has too, so that it is had by turns (R337). -/
def State.sharedGroup (s : State) (a g : Nat) : Bool :=
  (s.group g).job == a && (s.jobs.filter (fun e => e.2.active && e.2.slice.groups.getLsbD g)).length > 1

/-- The groups of the turn that ends on group `g` (R339). -/
def State.turnGroups (s : State) (a g : Nat) : List Nat := (List.range 64).filter (fun n => s.sharedGroup a n && (s.workOn a n || n == g))

/-- A job with work for group `g`. -/
def State.wantsTurn (s : State) (g j : Nat) : Bool := (s.job j).active && (s.job j).slice.groups.getLsbD g && s.workOn j g

/-- The pool of turns once job `a` has been charged the cycles of its turn, and the state with them in the job's account. -/
def State.turnPool (s : State) (a cyc : Nat) : Pool :=
  { s.pool Cls.cgrp with
    deficit := mput (s.pool Cls.cgrp).deficit a (mgetD (s.pool Cls.cgrp).deficit a 0 + (s.estimate Cls.cgrp a : Int) - (cyc : Int))
    est := mput (s.pool Cls.cgrp).est a cyc }
def State.turnCharged (s : State) (a cyc : Nat) : State := ((s.setPool Cls.cgrp (s.turnPool a cyc)).account Cls.cgrp a 0 0 cyc).chargeSteps a cyc

/-- The job that R335 picks for group `g`, and the pool after the pick. -/
def State.nextTurn (s : State) (a g cyc : Nat) : Option (Nat × Pool) :=
  (s.turnPool a cyc).serve (s.wantsTurn g) (fun j => (s.turnCharged a cyc).share j Cls.cgrp) (fun _ => (s.turnCharged a cyc).quant Cls.cgrp)
    (fun j => (s.turnCharged a cyc).estimate Cls.cgrp j) (64 * (((s.turnPool a cyc).deficit.map (fun e => e.2.natAbs)).foldl max 0 + 2) + 64)

theorem State.turnCharged_frame (s : State) (a cyc : Nat) :
    (s.turnCharged a cyc).sessions = s.sessions ∧ (s.turnCharged a cyc).jobs = s.jobs := by
  unfold State.turnCharged
  obtain ⟨rs, q, m, r, hacct⟩ := (s.setPool Cls.cgrp (s.turnPool a cyc)).account_only Cls.cgrp a 0 0 cyc
  obtain ⟨rs', hsteps⟩ := ((s.setPool Cls.cgrp (s.turnPool a cyc)).account Cls.cgrp a 0 0 cyc).chargeSteps_only a cyc
  rw [hsteps, hacct]
  exact ⟨rfl, rfl⟩

/-- At a turn's end the groups of the turn that the next job has too are switched to it together. -/
theorem exec_contextSwitch {s : State} {a g b cyc : Nat} {q : Pool} (hready : s.power.ready = true) (ha : (s.group g).job = a) (hheld : a ≠ 64)
    (hshared : s.sharedGroup a g = true) (hbound : s.atBoundary a (s.turnGroups a g) = true) (hany : (List.range 64).any (s.wantsTurn g) = true)
    (hnext : s.nextTurn a g cyc = some (b, q)) (hb : b ≠ a) :
    exec (.contextSwitch g cyc) s = .next (((s.turnGroups a g).filter (fun n => (s.job b).slice.groups.getLsbD n)).foldl
      (fun s g => s.switchGroup g b) ((s.turnCharged a cyc).setPool Cls.cgrp q)) := by
  obtain ⟨-, hjobs⟩ := s.turnCharged_frame a cyc
  have hjob : ((s.turnCharged a cyc).setPool Cls.cgrp q).job b = s.job b :=
    (State.setPool_job ..).trans (by simp only [State.job, hjobs])
  rw [← hjob]
  subst ha
  unfold State.sharedGroup at hshared
  unfold State.nextTurn State.wantsTurn State.turnCharged State.turnPool at hnext
  unfold State.turnGroups State.sharedGroup at hbound
  unfold State.wantsTurn at hany
  simp only [exec_eq_contextSwitch, execContextSwitch, State.ifReady_ready hready, hheld, hshared, hbound, hany, hnext, hb, Bool.true_eq_false, or_self,
    if_false, Bool.not_true, Bool.or_self, Bool.false_eq_true]
  unfold State.turnCharged State.turnPool State.turnGroups State.sharedGroup
  with_reducible rfl

/-! ## The obligation -/

/-- Settles O38: what each command leaves is named (`exec_shaperToken`, `exec_histSample`, `exec_pumpTakeUp`, …); a pump's work goes grain by grain
(`foldl_pumpStep_copy`), and a turn's end switches the group on which it ends among the others (`State.foldl_switchGroup`). -/
theorem enginesAndShapers : Obligations.EnginesAndShapers := by
  intro s
  refine ⟨fun kind job idx hready hon => exec_shaperToken hready hon, fun kind job idx v hup hv => exec_shaperCfgWrite kind job idx hup hv,
    fun j i x hready hon hjobs hactive hconf hi => ?_, fun v hup h1 h2 hsnap hi hconf => ?_, fun pump n e x p ok hready hidle he hwork hx hp => ?_,
    fun pump n e x p hready he hwork hx hp hover => exec_pumpDescriptorDone hready he hwork hx hp hover,
    fun cls inst cyc f r x hready hx hwork => ?_, fun g b cyc q hready => ?_⟩
  · have hqid : qid 0 j i = 2 ^ 8 * j + i := by simp only [qid, Nat.shiftLeft_eq]; omega
    refine ⟨_, exec_histSample hready hon hjobs hactive hconf, ?_, rfl, rfl, rfl⟩
    rw [← hqid]
    have hxj : s.job j = x := by simp [State.job, hjobs, mgetD, mget]
    simp only [State.sampled_well s j s.hists hi, Hist.sampled, mgetD_mmod, if_true, State.queueSample, hxj]
  · refine ⟨_, exec_snap hup h1 h2 hsnap hi hconf, rfl, fun hkeep => ?_, fun hclear => ?_, rfl⟩
    · exact if_neg (by simp [hkeep])
    · exact if_pos hclear
  · refine ⟨fun hfree hstatus => ?_, exec_pumpTakeUp_held hready hidle he hwork hx hp⟩
    have hexec := exec_pumpTakeUp (ok := ok) hready hidle he hwork hx hp hfree
    refine ⟨fun hok hop hverify => ?_, fun hok hcheck hleft hbad => ?_, fun hok => ?_⟩
    · obtain ⟨t, ht, hdone, hone⟩ := State.pumpRun_copy (y := { x with taken := true, waited := false }) rfl hok hstatus ok hop hverify
      exact ⟨t, hexec.trans (congrArg _ ht), hdone, hone⟩
    · exact hexec.trans (congrArg _ (State.pumpRun_fails (y := { x with taken := true, waited := false }) rfl hok hstatus hcheck hleft hbad))
    · exact hexec.trans (congrArg _ (State.pumpRun_bad ok hok))
  · obtain ⟨u, hended, hbusy, hacct, hsess, hjobs⟩ := State.ended_charges cyc hx
    exact ⟨u, exec_engineCommandEnd f r hready hended hwork, hbusy, hacct, hsess, hjobs⟩
  · intro a p p' held has mine s1 deep ha hg hheld hbound hany hnext hb hbg
    have hmine : g ∈ (s.turnGroups a g).filter (fun n => (s.job b).slice.groups.getLsbD n) := by
      refine List.mem_filter.2 ⟨List.mem_filter.2 ⟨List.mem_range.2 hg, ?_⟩, hbg⟩
      have hshared : s.sharedGroup a g = true := hheld
      simp [hshared]
    have hexec := exec_contextSwitch (a := a) hready rfl ha hheld hbound hany hnext hb
    obtain ⟨hjob, hlast⟩ := ((s.turnCharged a cyc).setPool Cls.cgrp q).foldl_switchGroup b hmine
    obtain ⟨hsess, hhbm⟩ := ((s.turnCharged a cyc).setPool Cls.cgrp q).foldl_switchGroup_frame b
      ((s.turnGroups a g).filter (fun n => (s.job b).slice.groups.getLsbD n))
    have hsame : ((s.turnCharged a cyc).setPool Cls.cgrp q).sessions = s.sessions :=
      (State.setPool_sessions ..).trans (s.turnCharged_frame a cyc).1
    exact ⟨_, hexec, hjob, hlast, hsess.trans hsame, hhbm.trans (State.setPool_hbm ..)⟩

end Sys2Proof.Machine
end

section
/-!
PROOF. Creating a job (12_jobs_slices_sharing, R323; 01_sessions, Table 1.12): a statement about every job number that fails, obligation Jobs.
-/
namespace Sys2Proof.Machine

open Sys2Proof

theorem exec_eq_create (job : Nat) (v : W64) (s : State) : exec (.create job v) s = execCreate job v s := rfl

/-- A key whose entries are all left out is not held. -/
theorem mget_filter_none {α : Type} {m : Map α} {q : Nat × α → Bool} {k : Nat} (h : ∀ x, q (k, x) = false) : mget (m.filter q) k = none := by
  induction m with
  | nil => rfl
  | cons e m ih =>
    obtain ⟨i, x⟩ := e
    rw [List.filter_cons]
    split
    next hq =>
      have hi : i ≠ k := by
        rintro rfl
        exact Bool.false_ne_true ((h x).symm.trans hq)
      rw [mget_cons, if_neg hi, ih]
    next => exact ih

/-- CREATE of a new job leaves each of the job's plain registers at its reset value. -/
theorem exec_create_regs {s : State} {j off : Nat} {v : W64} (hup : s.regsUp = true) (hnew : (s.job j).active = false)
    (hmay : (bit v 5 && s.sec.debugSeen) = false) (hoff : off ∈ jobRegOffsets j) :
    ∃ t : State, exec (.create j v) s = .next t ∧ t.reg off = regReset off := by
  simp only [exec_eq_create, execCreate, State.ifUp_up hup, hnew, hmay, Bool.false_eq_true, if_false]
  refine ⟨_, rfl, ?_⟩
  have hgone : mget (s.regs.filter (fun e => !(jobRegOffsets j).contains e.1)) off = none :=
    mget_filter_none fun x => by simpa using hoff
  exact congrArg (Option.getD · (regReset off)) hgone

/-- The device once its firmware runs, with no job. -/
def State.firmwareUp : State := { power := { level := none }, sec := { boot := 2 } }

/-- Refutes O43: the clause that CREATE leaves the job's SES_JOB_QUOTA at 0 lacks the hypothesis that the job is one of the 64 there are. The
register of a job 64 would stand where that of job 0's SES_JOB_TTL stands, which resets to 0x0000_0E10_0000_0E10. -/
theorem not_jobs : ¬ Obligations.Jobs := by
  intro hall
  obtain ⟨hcreate, -⟩ := hall State.firmwareUp 64
  obtain ⟨-, hmade⟩ := hcreate 0 rfl
  obtain ⟨t, ht, -, -, -, hquota, -⟩ := hmade rfl (.inl rfl)
  obtain ⟨u, hu, hreset⟩ := exec_create_regs (s := State.firmwareUp) (j := 64) (off := Reg.jobQuota 64) (v := 0) rfl rfl rfl (by decide)
  obtain rfl : t = u := by
    have h := ht.symm.trans hu
    injection h
  have hvalue : regReset (Reg.jobQuota 64) = 0x00000E1000000E10 := by decide
  exact absurd (hquota.symm.trans (hreset.trans hvalue)) (by decide)

end Sys2Proof.Machine
end

section
/-!
PROOF. The version 1 write (13_nolmus_fabric, R348; log entry 50): obligation NoOtherManual; and topology records (R352, R353): a statement about
every number of changes that fails, obligation FabricPorts.
-/
namespace Sys2Proof.Machine

open Sys2Proof

/-- Settles O13: what a version 1 write does stands in the other device's manual, so it is refused by name (log entry 50). -/
theorem noOtherManual : Obligations.NoOtherManual := by
  intro p s
  rfl

theorem exec_eq_topologyRecord (r : TopoRec) (s : State) : exec (.topologyRecord r) s = execTopologyRecord r s := rfl

theorem State.keepRecord_changes (s : State) (r : TopoRec) : (s.keepRecord r).fabric.changes = s.fabric.changes + 1 := rfl

/-- The first record of another device that reaches a device without an identifier, links and records of its own is kept, and no more happens. -/
theorem exec_topologyRecord_first {s : State} {r : TopoRec} (hup : s.regsUp = true) (htopo : s.fabric.topo = []) (hports : s.fabric.ports = [])
    (hnode : s.node = 0xFFFF) (hr : r.serial ≠ ownSerial) : exec (.topologyRecord r) s = .next ((s.keepRecord r).reroute) := by
  have hflood : (s.keepRecord r).flood Msg.topology (recordBytes r) = s.keepRecord r := by
    simp only [State.flood, State.keepRecord, hports, List.foldl_nil]
  have hkept : (s.keepRecord r).reroute.fabric.topo = [r] := by simp [State.reroute, State.keepRecord, htopo]
  have hown : (s.keepRecord r).reroute.checkOwnIdent = (s.keepRecord r).reroute := if_neg fun h => h.1 hnode
  have hnot : (s.keepRecord r).reroute.fabric.coordinator = false := by simp [Fabric.coordinator, hkept, hr]
  have hassign : (s.keepRecord r).reroute.assignIdents = (s.keepRecord r).reroute := if_pos (by rw [hnot]; rfl)
  simp only [exec_eq_topologyRecord, execTopologyRecord, State.ifUp_up hup, htopo, List.find?_nil, Option.any_none, Bool.false_eq_true, or_false,
    if_neg hr, hflood, hown, hassign]

/-- A device in firmware whose count of changes stands at its last value. -/
def State.changesFull : State := { State.firmwareUp with fabric := { changes := 0xFFFFFFFF } }

/-- Refutes O49: the clause that a newer record of another device raises the number of changes lacks the hypothesis that the 32-bit count is not at
its last value. From 0xFFFF_FFFF the first record takes it to 0. -/
theorem not_fabricPorts : ¬ Obligations.FabricPorts := by
  intro hall
  obtain ⟨-, -, -, -, hrecord, -⟩ := (hall State.changesFull).1 rfl
  let r : TopoRec := { serial := ownSerial + 1, node := 2, gen := 1, links := [] }
  have hr : r.serial ≠ ownSerial := Nat.succ_ne_self _
  obtain ⟨t, -, ht, -, -, -, -, hmore, -⟩ := (hrecord r).2 hr rfl rfl
  have hexec : exec (.topologyRecord r) State.changesFull = .next ((State.changesFull.keepRecord r).reroute) :=
    exec_topologyRecord_first rfl rfl rfl rfl hr
  obtain rfl : t = (State.changesFull.keepRecord r).reroute := by
    have h := ht.symm.trans hexec
    injection h
  have hwrapped : (State.changesFull.keepRecord r).reroute.fabric.changes = 0 := rfl
  rw [hwrapped] at hmore
  exact absurd hmore (by decide)

end Sys2Proof.Machine
end

section
/-!
SUPPORT. What packets that are placed, sent and leave can change (13_nolmus_fabric, R349 to R351, R356 to R360): the fabric's ports, numbers sent and
packets not acknowledged, engine work and shapers, and the count of what is dropped.
-/
namespace Sys2Proof.Machine

open Sys2Proof

/-! ## Packets leave one port (R350, R360) -/

/-- Some packets have left port `l` since `s`: no other port has changed, and with its queue as it was the port has its credits as they were. -/
structure State.Left (s t : State) (l : Nat) : Prop where
  rest : ∃ p h ps, t = { s with pools := p, shapers := h, fabric := { s.fabric with ports := ps } }
  others : ∀ k, k ≠ l → t.port k = s.port k
  queue : (t.port l).queue.Sublist (s.port l).queue
  credits : (t.port l).queue = (s.port l).queue → (t.port l).credits = (s.port l).credits

section
variable {s t u : State} {l : Nat}

theorem State.Left.refl (s : State) (l : Nat) : s.Left s l := ⟨⟨_, _, _, rfl⟩, fun _ _ => rfl, .refl _, fun _ => rfl⟩

theorem State.Left.trans (h : s.Left t l) (g : t.Left u l) : s.Left u l := by
  refine ⟨?_, fun k hk => (g.others k hk).trans (h.others k hk), g.queue.trans h.queue, fun hq => ?_⟩
  · obtain ⟨_, _, _, rfl⟩ := h.rest
    obtain ⟨_, _, _, rfl⟩ := g.rest
    exact ⟨_, _, _, rfl⟩
  · have hmid : (t.port l).queue = (s.port l).queue := h.queue.eq_of_length_le (hq ▸ g.queue.length_le)
    exact (g.credits (hq.trans hmid.symm)).trans (h.credits hmid)

/-- Engine work and shapers are no part of a port. -/
theorem State.Left.of_work (h : ∃ p q, t = { s with pools := p, shapers := q }) : s.Left t l := by
  obtain ⟨p, q, rfl⟩ := h
  exact ⟨⟨p, q, s.fabric.ports, rfl⟩, fun _ _ => rfl, .refl _, fun _ => rfl⟩

theorem State.leave_left {p : Packet} (hp : p ∈ (s.port l).queue) : s.Left (s.leave l p) l := by
  refine ⟨⟨_, _, _, rfl⟩, fun k hk => by simp [State.leave, hk], by simp [State.leave, List.erase_sublist], fun hq => ?_⟩
  have hlen : ((s.port l).queue.erase p).length = (s.port l).queue.length := by simpa [State.leave] using congrArg List.length hq
  have hpos := List.length_pos_of_mem hp
  rw [List.length_erase_of_mem hp] at hlen
  omega

end

/-- The loop that lets packets leave a port. -/
theorem State.egress_left (n : Nat) (s : State) (l : Nat) : s.Left (State.egress n s l) l := by
  induction n generalizing s with
  | zero => exact .refl s l
  | succ n ih =>
    rw [State.egress]
    dsimp only
    split
    next p hfree =>
      obtain ⟨vc, -, hvc⟩ := List.exists_of_findSome?_eq_some hfree
      have hp : p ∈ (s.port l).queue := by
        split at hvc
        · cases hvc
        next q hq =>
          split at hvc
          · cases hvc
            exact List.mem_of_find?_eq_some hq
          · cases hvc
      exact (State.leave_left hp).trans (ih _)
    · split
      · exact .refl s l
      · have hpick : s.Left (s.pick Cls.nlm l) l := .of_work (s.pick_only Cls.nlm l)
        split
        · split
          next p hp =>
            exact hpick.trans ((State.leave_left (List.mem_of_find?_eq_some hp)).trans (.of_work ⟨_, _, rfl⟩))
          · exact hpick
        · exact .refl s l

/-! ## Placing a packet (R356, R357) -/

/-- A packet for which no port is listed is dropped. -/
theorem State.place_dropped {s : State} {p : Packet} {job : Option Nat} {share : Nat} (h : s.choosePort (s.portsTo p.dst job) p = none) :
    s.place p job share = s.dropped 32 := by
  simp only [State.place, h]

/-- A packet waits at the end of the queue of the port chosen for it, and what may leave that port leaves. -/
theorem State.place_chosen {s : State} {p : Packet} {job : Option Nat} {share l : Nat} (h : s.choosePort (s.portsTo p.dst job) p = some l) :
    ∃ u, (s.setPort l { s.port l with queue := (s.port l).queue ++ [p] }).Left u l ∧ s.place p job share = u := by
  simp only [State.place, h]
  refine ⟨_, .trans ?_ (State.egress_left _ _ l), rfl⟩
  cases job with
  | none => exact .refl _ l
  | some j => exact .of_work (State.enqueue_only ..)

/-! ## Sending (R351, R357 to R359) -/

/-- Two states that differ in packets only: in what ports hold, in the numbers sent, in what is not acknowledged, in engine work and shapers, and in
registers. -/
def State.SameButPackets (s t : State) : Prop :=
  ∃ p h ps q u r, t = { s with pools := p, shapers := h, fabric := { s.fabric with ports := ps, sendSeq := q, unacked := u }, regs := r }

section
variable {s t u : State}

theorem State.SameButPackets.refl (s : State) : s.SameButPackets s := ⟨_, _, _, _, _, _, rfl⟩

theorem State.SameButPackets.trans (h : s.SameButPackets t) (g : t.SameButPackets u) : s.SameButPackets u := by
  obtain ⟨_, _, _, _, _, _, rfl⟩ := h
  obtain ⟨_, _, _, _, _, _, rfl⟩ := g
  exact ⟨_, _, _, _, _, _, rfl⟩

theorem State.SameButPackets.foldl {α : Type} {f : State → α → State} (hf : ∀ (s : State) (a : α), s.SameButPackets (f s a)) (l : List α)
    (s : State) : s.SameButPackets (l.foldl f s) :=
  List.foldlRecOn (motive := fun t => s.SameButPackets t) l f (.refl s) fun t ht a _ => ht.trans (hf t a)

theorem State.Left.packets {l : Nat} (h : s.Left t l) : s.SameButPackets t := by
  obtain ⟨_, _, _, rfl⟩ := h.rest
  exact ⟨_, _, _, _, _, _, rfl⟩

theorem State.SameButPackets.same (h : s.SameButPackets t) : s.SameSessions t := by obtain ⟨_, _, _, _, _, _, rfl⟩ := h; exact ⟨rfl, rfl⟩
theorem State.SameButPackets.sessions_eq (h : s.SameButPackets t) : t.sessions = s.sessions := h.same.sess
theorem State.SameButPackets.jobs_eq (h : s.SameButPackets t) : t.jobs = s.jobs := by obtain ⟨_, _, _, _, _, _, rfl⟩ := h; rfl
theorem State.SameButPackets.models_eq (h : s.SameButPackets t) : t.models = s.models := by obtain ⟨_, _, _, _, _, _, rfl⟩ := h; rfl
theorem State.SameButPackets.serving_eq (h : s.SameButPackets t) : t.serving = s.serving := by obtain ⟨_, _, _, _, _, _, rfl⟩ := h; rfl
theorem State.SameButPackets.hbm_eq (h : s.SameButPackets t) : t.hbm = s.hbm := by obtain ⟨_, _, _, _, _, _, rfl⟩ := h; rfl
theorem State.SameButPackets.held_eq (h : s.SameButPackets t) : t.fabric.held = s.fabric.held := by obtain ⟨_, _, _, _, _, _, rfl⟩ := h; rfl
theorem State.SameButPackets.colls_eq (h : s.SameButPackets t) : t.fabric.colls = s.fabric.colls := by obtain ⟨_, _, _, _, _, _, rfl⟩ := h; rfl
theorem State.SameButPackets.xfer_eq (h : s.SameButPackets t) (n : Nat) : t.xfer n = s.xfer n := by obtain ⟨_, _, _, _, _, _, rfl⟩ := h; rfl

end

theorem State.dropped_packets (s : State) (lo : Nat) : s.SameButPackets (s.dropped lo) := ⟨_, _, _, _, _, _, rfl⟩

theorem State.place_packets (s : State) (p : Packet) (job : Option Nat) (share : Nat) : s.SameButPackets (s.place p job share) := by
  cases h : s.choosePort (s.portsTo p.dst job) p with
  | none =>
    rw [State.place_dropped h]
    exact s.dropped_packets 32
  | some l =>
    obtain ⟨u, hu, e⟩ := State.place_chosen (share := share) h
    rw [e]
    exact .trans ⟨_, _, _, _, _, _, rfl⟩ hu.packets

/-- A packet that is placed waits for no acknowledgement yet. -/
@[simp] theorem State.place_unacked (s : State) (p : Packet) (job : Option Nat) (share : Nat) :
    (s.place p job share).fabric.unacked = s.fabric.unacked := by
  cases h : s.choosePort (s.portsTo p.dst job) p with
  | none =>
    rw [State.place_dropped h]
    rfl
  | some l =>
    obtain ⟨u, hu, e⟩ := State.place_chosen (share := share) h
    obtain ⟨_, _, _, rfl⟩ := hu.rest
    rw [e]
    rfl

theorem State.send_packets (s : State) (j vc type dst flow : Nat) (arg : W64) (data : List Byte) (share : Nat) :
    s.SameButPackets (s.send j vc type dst flow arg data share).1 := by
  unfold State.send
  dsimp only
  split
  · exact .refl s
  · refine .trans ?_ (State.place_packets _ _ _ _)
    split <;> exact ⟨_, _, _, _, _, _, rfl⟩

theorem State.sendGrain_packets (s : State) (j vc type dst flow : Nat) (arg : W64) (g : List Byte) (share : Nat) :
    s.SameButPackets (s.sendGrain j vc type dst flow arg g share) :=
  .foldl (fun s _ => s.send_packets ..) _ s

theorem State.sendColl_packets (s : State) (j h : Nat) (g : FabGroup) (share rank : Nat) (p : CollPacket) :
    s.SameButPackets (s.sendColl j h g share rank p) :=
  .foldl (fun s _ => s.send_packets ..) _ s

theorem State.own_packets (s : State) (j t dst type : Nat) (data : List Byte) : s.SameButPackets (s.own j t dst type data) := s.send_packets ..

theorem State.ownRaw_packets (s : State) (t dst type : Nat) (tag : W32) (data : List Byte) : s.SameButPackets (s.ownRaw t dst type tag data) :=
  .trans ⟨_, _, _, _, _, _, rfl⟩ (State.place_packets _ _ none 0)

section
variable (s : State) (j n dst type : Nat) (data : List Byte)

@[simp] theorem State.own_sessions : (s.own j n dst type data).sessions = s.sessions := (s.own_packets ..).sessions_eq
@[simp] theorem State.own_sess (k : Nat) : (s.own j n dst type data).sess k = s.sess k := (s.own_packets ..).same.sess_eq k
@[simp] theorem State.own_aux (k : Nat) : (s.own j n dst type data).aux k = s.aux k := (s.own_packets ..).same.aux_eq k
@[simp] theorem State.own_xfer (k : Nat) : (s.own j n dst type data).xfer k = s.xfer k := (s.own_packets ..).xfer_eq k
@[simp] theorem State.own_hbm : (s.own j n dst type data).hbm = s.hbm := (s.own_packets ..).hbm_eq

end

/-! ## Records leave the fabric alone (R505, R506) -/

theorem State.post_fabric (s : State) (j w : Nat) (x : Rec) : (s.post j w x).fabric = s.fabric := by
  obtain ⟨js, fs, q, m, r, h, e, -⟩ := s.post_only j w x
  rw [e]

section
variable (s : State) (i n status result req session : Nat)

@[simp] theorem State.sessEvent_xfer : (s.sessEvent i status result).xfer n = s.xfer n := by
  unfold State.sessEvent
  split
  · rfl
  · rw [State.xfer, State.event, State.post_fabric, State.xfer]

@[simp] theorem State.completeAny_xfer (c : Option DescCtx) : (s.complete? c status result req session).xfer n = s.xfer n := by
  cases c with
  | none => rfl
  | some c => rw [State.xfer, State.complete?, State.complete, State.record, State.post_fabric, State.xfer]

end

end Sys2Proof.Machine
end

section
/-!
PROOF. Acknowledgements, retransmission, peer extents, forwarding and credits (13_nolmus_fabric, R349 to R351, R356 to R358, R370;
02_grains_and_tiers, R72): obligation FabricPackets.
-/
namespace Sys2Proof.Machine

open Sys2Proof

section
variable (s : State)

theorem exec_eq_acknowledgement (node vc seq : Nat) : exec (.acknowledgement node vc seq) s = execAcknowledgement node vc seq s := rfl
theorem exec_eq_nack (node vc seq : Nat) : exec (.nack node vc seq) s = execNack node vc seq s := rfl
theorem exec_eq_retransmitTimer (node vc : Nat) : exec (.retransmitTimer node vc) s = execRetransmitTimer node vc s := rfl
theorem exec_eq_unreachable (node : Nat) : exec (.unreachable node) s = execUnreachable node s := rfl
theorem exec_eq_peerTierGrains (node : Nat) (tag : W32) (write : Bool) (addr : W64) (gs : List (List Byte)) (ttl : Nat) :
    exec (.peerTierGrains node tag write addr gs ttl) s = execPeerTierGrains node tag write addr gs ttl s := rfl
theorem exec_eq_peerFree (node : Nat) (addr : W64) : exec (.peerFree node addr) s = execPeerFree node addr s := rfl
theorem exec_eq_peerExtentExpiry (addr : W64) : exec (.peerExtentExpiry addr) s = execPeerExtentExpiry addr s := rfl
theorem exec_eq_packetForward (p : Packet) : exec (.packetForward p) s = execPacketForward p s := rfl
theorem exec_eq_creditGrant (port vc units : Nat) : exec (.creditGrant port vc units) s = execCreditGrant port vc units s := rfl

end

/-! ## Settling a packet (R351, R358) -/

/-- The packet of node `node` that an acknowledgement or a NACK on a channel names. -/
def State.unsettled (s : State) (node vc seq : Nat) : Option OutPkt :=
  s.fabric.unacked.find? (fun u => u.pkt.dst == node && u.pkt.vc == vc && u.pkt.seq == seq)

/-- The packet waits for its acknowledgement no more. -/
def State.forgetPkt (s : State) (u : OutPkt) : State := { s with fabric := { s.fabric with unacked := s.fabric.unacked.erase u } }

/-- The packet has been acknowledged, so its node is within reach. -/
def State.ackPkt (s : State) (node : Nat) (u : OutPkt) : State :=
  { s with fabric := { s.fabric with unacked := s.fabric.unacked.erase u, unreachable := s.fabric.unreachable.filter (· != node) } }

section
variable {s : State} {node vc seq : Nat} (hready : s.power.ready = true)
include hready

theorem exec_settle_none (h : s.unsettled node vc seq = none) :
    exec (.acknowledgement node vc seq) s = .next s ∧ exec (.nack node vc seq) s = .next s := by
  unfold State.unsettled at h
  simp only [exec_eq_acknowledgement, execAcknowledgement, exec_eq_nack, execNack, State.ifReady_ready hready, h, and_self]

theorem exec_nack {u : OutPkt} (h : s.unsettled node vc seq = some u) :
    exec (.nack node vc seq) s = .next (if u.pkt.type = Msg.send then (s.forgetPkt u).sendFails node (some seq) else s.forgetPkt u) := by
  unfold State.unsettled at h
  simp only [exec_eq_nack, execNack, State.ifReady_ready hready, h, State.forgetPkt]

theorem exec_acknowledgement {u : OutPkt} (h : s.unsettled node vc seq = some u) :
    exec (.acknowledgement node vc seq) s = .next (if u.pkt.type = Msg.send then
        (s.sendersTo node (some seq)).foldl (fun s e => (s.dropSend e.1 e.2.1 node (some seq)).endProg e.2.2.1) (s.ackPkt node u)
      else if u.pkt.type = Msg.peerFree then (s.ackPkt node u).peerSettled node (some u.pkt.arg) else s.ackPkt node u) := by
  unfold State.unsettled at h
  simp only [exec_eq_acknowledgement, execAcknowledgement, State.ifReady_ready hready, h]
  repeat' split
  all_goals rfl

end

/-! ## Retransmission (R351) -/

/-- A packet to `node` on a channel has waited 100 µs since it was last sent. -/
def State.resendDue (s : State) (node vc : Nat) (u : OutPkt) : Bool := u.pkt.dst == node && u.pkt.vc == vc && decide (u.last + 100 ≤ s.now)

/-- The state in which the packets that are due have been sent just now. -/
def State.resent (s : State) (node vc : Nat) : State :=
  { s with fabric := { s.fabric with unacked := s.fabric.unacked.map (fun u => if s.resendDue node vc u then { u with last := s.now } else u) } }

theorem exec_retransmitTimer {s : State} {node vc : Nat} (hready : s.power.ready = true) :
    exec (.retransmitTimer node vc) s = .next ((s.fabric.unacked.filter (s.resendDue node vc)).foldl
      (fun s u => s.place u.pkt (s.jobOfTag u.pkt.tag) u.share) (s.resent node vc)) := by
  have hmap : s.fabric.unacked.map (fun u => if (s.fabric.unacked.filter (s.resendDue node vc)).contains u then { u with last := s.now } else u) =
      s.fabric.unacked.map (fun u => if s.resendDue node vc u then { u with last := s.now } else u) :=
    List.map_congr_left fun u hu => by simp only [List.contains_iff_mem, List.mem_filter, hu, true_and]
  simp only [exec_eq_retransmitTimer, execRetransmitTimer, State.ifReady_ready hready]
  exact congrArg (fun l => Host.Outcome.next (List.foldl _ { s with fabric := { s.fabric with unacked := l } } _)) hmap

theorem State.resent_none {s : State} {node vc : Nat} (h : s.fabric.unacked.any (s.resendDue node vc) = false) : s.resent node vc = s := by
  have hmap : s.fabric.unacked.map (fun u => if s.resendDue node vc u then { u with last := s.now } else u) = s.fabric.unacked :=
    (List.map_congr_left fun u hu => if_neg (List.any_eq_false.1 h u hu)).trans (List.map_id' _)
  rw [State.resent, hmap]

/-! ## Peer extents (R72, R370) -/

section
variable {s : State} {node j : Nat} {tag : W32} {addr : W64} {gs : List (List Byte)} {ttl : Nat} {h : HeldExtent}

/-- The extent a holder keeps for another device. -/
def State.peerHeld (s : State) (node j : Nat) (tag : W32) (addr : W64) (gs : List (List Byte)) (ttl : Nat) : HeldExtent :=
  { owner := node, job := j, root := gMake 2 0 (gAddr addr % 2 ^ 32), count := gs.length, tag := tag, grains := gs
    expiry := if ttl = 0 then none else some (s.now + ttl) }

section
variable (hready : s.power.ready = true) (htag : s.jobOfTag tag = some j)
include hready htag

/-- A write of an extent at a free run of the cistern. -/
theorem exec_peerTierGrains_write (h0 : s.ftl.state ≠ 0) (h3 : s.ftl.state ≠ 3) (hnew : mget s.fabric.held (gAddr addr % 2 ^ 32) = none)
    (hfree : s.ftl.runFree (gAddr addr % 2 ^ 32) gs.length s.ftl.cisternRange.1 s.ftl.cisternRange.2 = true) :
    ∃ f, exec (.peerTierGrains node tag true addr gs ttl) s = .next { s with ftl := f, fabric := { s.fabric with
      held := mput s.fabric.held (gAddr addr % 2 ^ 32) (s.peerHeld node j tag addr gs ttl) } } := by
  simp only [exec_eq_peerTierGrains, execPeerTierGrains, State.ifReady_ready hready, htag, if_true, h0, h3, hnew, hfree, Option.isSome_none,
    Bool.false_eq_true, Bool.true_eq_false, or_self, if_false]
  exact ⟨_, rfl⟩

theorem exec_peerTierGrains_again (hheld : mget s.fabric.held (gAddr addr % 2 ^ 32) = some h) :
    exec (.peerTierGrains node tag true addr gs ttl) s = .next s := by
  simp only [exec_eq_peerTierGrains, execPeerTierGrains, State.ifReady_ready hready, htag, if_true, hheld, Option.isSome_some, true_or, or_true]

theorem exec_peerTierGrains_alien (hheld : mget s.fabric.held (gAddr addr % 2 ^ 32) = some h) (hne : h.tag ≠ tag) :
    exec (.peerTierGrains node tag false addr gs ttl) s = .next s := by
  simp only [exec_eq_peerTierGrains, execPeerTierGrains, State.ifReady_ready hready, htag, Bool.false_eq_true, if_false, hheld, ne_eq, hne,
    not_false_eq_true, if_true]

/-- A read of an extent by its own job is served in packets. -/
theorem exec_peerTierGrains_read (hheld : mget s.fabric.held (gAddr addr % 2 ^ 32) = some h) (heq : h.tag = tag) :
    ∃ t, exec (.peerTierGrains node tag false addr gs ttl) s = .next t ∧ s.SameButPackets t := by
  simp only [exec_eq_peerTierGrains, execPeerTierGrains, State.ifReady_ready hready, htag, Bool.false_eq_true, if_false, hheld, ne_eq, heq,
    not_true_eq_false]
  exact ⟨_, rfl, .foldl (fun s _ => s.sendGrain_packets ..) _ s⟩

end

/-- Freeing an extent that is held takes it, and no other, out of what is held. -/
theorem State.heldFree_frees (s : State) (key : Nat) (h : HeldExtent) : mget (s.heldFree key h).fabric.held key = none ∧
    (∀ k, k ≠ key → mget (s.heldFree key h).fabric.held k = mget s.fabric.held k) ∧ (s.heldFree key h).sessions = s.sessions := by
  obtain ⟨f, js, e⟩ := s.extentFree_only h.job h.root h.count
  rw [State.heldFree, e]
  exact ⟨by rw [mget_mdel, if_pos rfl], fun k hk => by rw [mget_mdel, if_neg hk], rfl⟩

section
variable (hready : s.power.ready = true) (hheld : mget s.fabric.held (gAddr addr % 2 ^ 32) = some h)
include hready hheld

theorem exec_peerFree : exec (.peerFree node addr) s = .next (if h.owner = node then s.heldFree (gAddr addr % 2 ^ 32) h else s) := by
  simp only [exec_eq_peerFree, execPeerFree, State.ifReady_ready hready, hheld]
  split <;> rfl

theorem exec_peerExtentExpiry_over {e : Nat} (he : h.expiry = some e) (hover : e ≤ s.now) :
    exec (.peerExtentExpiry addr) s = .next (s.heldFree (gAddr addr % 2 ^ 32) h) := by
  simp only [exec_eq_peerExtentExpiry, execPeerExtentExpiry, State.ifReady_ready hready, hheld, he, hover, if_true]

theorem exec_peerExtentExpiry_early (he : h.expiry.all (fun e => decide (s.now < e)) = true) : exec (.peerExtentExpiry addr) s = .next s := by
  simp only [exec_eq_peerExtentExpiry, execPeerExtentExpiry, State.ifReady_ready hready, hheld]
  cases hx : h.expiry with
  | none => rfl
  | some e =>
    have hlt : s.now < e := by simpa [hx] using he
    exact if_neg (Nat.not_le.2 hlt)

end

end

/-! ## Packets that pass through, and credits (R349, R350, R356, R357) -/

section
variable {s : State} (hup : s.regsUp = true)
include hup

theorem exec_packetForward {p : Packet} (hdst : p.dst ≠ s.node) (hhops : 1 < p.hops) :
    exec (.packetForward p) s = .next (s.place { p with hops := p.hops - 1 } none 0) := by
  simp only [exec_eq_packetForward, execPacketForward, State.ifUp_up hup, if_neg hdst, if_neg (Nat.not_le.2 hhops)]

/-- A port with a link takes the credits, and packets that waited for them leave. -/
theorem exec_creditGrant {port : Nat} (vc units : Nat) (hlink : (s.port port).state = PortState.up ∨ (s.port port).state = PortState.probation) :
    ∃ t, exec (.creditGrant port vc units) s = .next t ∧
      (s.setPort port { s.port port with credits := mput (s.port port).credits vc (mgetD (s.port port).credits vc 0 + units) }).Left t port := by
  have hgo : ¬ ((s.port port).state ≠ PortState.up ∧ (s.port port).state ≠ PortState.probation) := by tauto
  simp only [exec_eq_creditGrant, execCreditGrant, State.ifUp_up hup, if_neg hgo]
  exact ⟨_, rfl, State.egress_left ..⟩

end

/-- Settles O50: each event's state is named (`exec_acknowledgement`, `exec_retransmitTimer`, …); packets that are placed or sent leave all but
packets (`State.SameButPackets`), and those that leave a port change no other (`State.Left`). -/
theorem fabricPackets : Obligations.FabricPackets := by
  intro s
  refine ⟨fun hready => ⟨fun node vc seq => ⟨exec_settle_none hready, fun u hu => ⟨fun hns => ?_, fun hns hnf => ?_, fun hf => ?_,
    fun j c n rec hsend hone => ⟨?_, ?_⟩⟩⟩, fun node vc => ?_, fun node => ?_, fun node tag addr gs ttl j htag => ⟨fun h0 h3 hnew hfree => ?_,
    fun h hheld => ⟨exec_peerTierGrains_again hready htag hheld, exec_peerTierGrains_alien hready htag hheld, fun heq => ?_⟩⟩,
    fun node addr h hheld => ⟨fun hown => ?_, fun hown => ?_, fun e he hover => ?_, exec_peerExtentExpiry_early hready hheld⟩⟩,
    fun hup => ⟨fun p => ⟨fun hdst => ?_, fun hdst hhops => ?_, fun hdst hhops hnone => ?_, fun l hdst hhops hl => ?_⟩, fun port vc units => ⟨fun hu hp => ?_, fun hlink => ?_⟩⟩⟩
  · rw [exec_nack hready hu, if_neg hns]
    rfl
  · rw [exec_acknowledgement hready hu, if_neg hns, if_neg hnf]
    rfl
  · rw [exec_acknowledgement hready hu, if_neg (by rw [hf]; decide), if_pos hf]
    rfl
  · rw [exec_acknowledgement hready hu, if_pos hsend, hone]
    rfl
  · rw [exec_nack hready hu, if_pos hsend]
    rfl
  · have hpackets (t : State) : t.SameButPackets ((s.fabric.unacked.filter (s.resendDue node vc)).foldl
        (fun s u => s.place u.pkt (s.jobOfTag u.pkt.tag) u.share) t) := .foldl (fun s _ => s.place_packets ..) _ t
    refine ⟨_, exec_retransmitTimer hready, ?_, (hpackets _).sessions_eq, (hpackets _).jobs_eq, fun hnone => ?_⟩
    · exact List.foldlRecOn (motive := fun t : State => t.fabric.unacked = (s.resent node vc).fabric.unacked) _ _ rfl
        fun t ht u _ => (State.place_unacked ..).trans ht
    · have hnil : s.fabric.unacked.filter (s.resendDue node vc) = [] := List.filter_eq_nil_iff.2 (List.any_eq_false.1 hnone)
      rw [State.resent_none hnone, hnil]
      rfl
  · simp only [exec_eq_unreachable, execUnreachable, State.ifReady_ready hready]
    exact (apply_ite Host.Outcome.next _ _ _).symm
  · obtain ⟨f, hexec⟩ := exec_peerTierGrains_write (node := node) (ttl := ttl) hready htag h0 h3 hnew hfree
    exact ⟨_, _, hexec, by rw [mget_mput, if_pos rfl], rfl, rfl, rfl, rfl, rfl, rfl,
      fun k hk => by rw [mget_mput, if_neg hk], rfl⟩
  · obtain ⟨t, hexec, hsame⟩ := exec_peerTierGrains_read (node := node) (gs := gs) (ttl := ttl) hready htag hheld heq
    exact ⟨t, hexec, hsame.held_eq, hsame.sessions_eq⟩
  · exact ⟨_, (exec_peerFree hready hheld).trans (by rw [if_pos hown]), s.heldFree_frees _ h⟩
  · rw [exec_peerFree hready hheld, if_neg hown]
  · obtain ⟨hgone, -, hsess⟩ := s.heldFree_frees (gAddr addr % 2 ^ 32) h
    exact ⟨_, exec_peerExtentExpiry_over hready hheld he hover, hgone, hsess⟩
  · simp only [exec_eq_packetForward, execPacketForward, State.ifUp_up hup, if_pos hdst]
  · simp only [exec_eq_packetForward, execPacketForward, State.ifUp_up hup, if_neg hdst, if_pos hhops]
  · rw [exec_packetForward hup hdst hhops, State.place_dropped hnone]
  · obtain ⟨u, hleft, hplace⟩ := State.place_chosen (share := 0) hl
    have hsame := hleft.packets
    refine ⟨u, (exec_packetForward hup hdst hhops).trans (by rw [hplace]), by simpa using hleft.queue, fun k hk => ?_, hsame.sessions_eq, hsame.jobs_eq,
      hsame.hbm_eq⟩
    rw [hleft.others k hk, State.port_setPort, if_neg hk]
  · simp only [exec_eq_creditGrant, execCreditGrant, State.ifUp_up hup, if_pos (And.intro hu hp)]
  · obtain ⟨t, hexec, hleft⟩ := exec_creditGrant hup vc units hlink
    have hsame := hleft.packets
    refine ⟨t, hexec, by simpa using hleft.queue, fun hq => ?_, fun k hk => ?_, hsame.sessions_eq, hsame.jobs_eq⟩
    · rw [hleft.credits (by simpa using hq)]
      simp
    · rw [hleft.others k hk, State.port_setPort, if_neg hk]

end Sys2Proof.Machine
end

section
/-!
PROOF. Collective packets and their time limit (13_nolmus_fabric, R361 to R363; log entry 35): obligation Collectives.
-/
namespace Sys2Proof.Machine

open Sys2Proof

theorem exec_eq_collectivePacket (job group : Nat) (p : CollPacket) (s : State) :
    exec (.collectivePacket job group p) s = execCollectivePacket job group p s := rfl
theorem exec_eq_collectiveTimeout (job group seq : Nat) (s : State) :
    exec (.collectiveTimeout job group seq) s = execCollectiveTimeout job group seq s := rfl

/-! ## The way of a chunk around the ring (R362) -/

/-- The rank, counted from the chunk's number, at which a chunk starts, and the hops it makes among `n` members. -/
def collFirst (p : CollPacket) : Nat := if p.op = 2 then p.chunk else p.chunk + 1
def collLast (p : CollPacket) (n : Nat) : Nat := if p.op = 2 then n - 1 else 2 * n - 2

/-- This rank's part of the chunk that a packet brings. -/
def Coll.own (c : Coll) (p : CollPacket) (n : Nat) : List (BitVec 48) := (chunkRange c.part.length n p.chunk).map (fun k => c.part.getD k 0)

/-- The elements of a chunk once this rank has taken part. -/
def Coll.merged (c : Coll) (p : CollPacket) (n : Nat) : List (BitVec 48) :=
  if p.op ≠ 2 ∧ p.hop < n then p.elems.zipWith (collOp p.op) (c.own p n) else p.elems

/-- The collective with a chunk's total kept, where the packet brings one. -/
def Coll.taken (c : Coll) (p : CollPacket) (n : Nat) : Coll :=
  if p.op = 2 ∨ n - 1 ≤ p.hop then { c with done := mput c.done p.chunk (c.merged p n) } else c

/-- Every chunk's total is known. -/
def Coll.whole (c : Coll) (op n : Nat) : Bool := if op = 2 then !c.done.isEmpty else c.done.length == n

/-- The collective a packet of a group belongs to. -/
def Coll.hit (job group seq : Nat) (c : Coll) : Bool := c.job == job && c.group == group && c.seq == seq

theorem Coll.taken_op (c : Coll) (p : CollPacket) (n : Nat) : (c.taken p n).op = c.op := by
  unfold Coll.taken
  split <;> rfl

/-- The state that keeps what a packet left of its collective: nothing, when it is over. -/
def State.collKept (s : State) (job group : Nat) (c : Coll) (p : CollPacket) (n : Nat) : State :=
  let rest := s.fabric.colls.filter (fun x => !Coll.hit job group p.seq x)
  { s with fabric := { s.fabric with colls := if (c.taken p n).whole p.op n then rest else rest ++ [c.taken p n] } }

/-- The state in which the chunk is on its way to the next rank, unless it has been around. -/
def State.collPassed (s : State) (job group : Nat) (g : FabGroup) (c : Coll) (p : CollPacket) : State :=
  let u := s.collKept job group c p g.nodes.length
  if p.hop < collLast p g.nodes.length then
    u.sendColl job group g (u.stepShare (mgetD u.serving group {}).entries) (s.rank g + 1) { p with hop := p.hop + 1, elems := c.merged p g.nodes.length }
  else u

section
variable {s : State} {job group : Nat} {g : FabGroup} {c : Coll} {p : CollPacket}

theorem State.collPassed_packets : (s.collKept job group c p g.nodes.length).SameButPackets (s.collPassed job group g c p) := by
  unfold State.collPassed
  dsimp only
  split
  · exact State.sendColl_packets ..
  · exact .refl _

theorem State.collTake_passes (hop : p.op = c.op) (hchunk : p.chunk < g.nodes.length) (hrank : (collFirst p + p.hop) % g.nodes.length = s.rank g)
    (hlow : 1 ≤ p.hop) (hhigh : p.hop ≤ collLast p g.nodes.length) :
    s.collTake job group g c p = if (c.taken p g.nodes.length).whole p.op g.nodes.length then
      (s.collPassed job group g c p).collDone job group c.op ((c.taken p g.nodes.length).done.flatMap (·.2)) else s.collPassed job group g c p := by
  have hgo : ¬ (p.op ≠ c.op ∨ g.nodes.length ≤ p.chunk ∨
      (collFirst p + p.hop) % g.nodes.length ≠ s.rank g ∨ p.hop = 0 ∨ collLast p g.nodes.length < p.hop) := by
    simp only [hop, hrank]
    omega
  rw [← Coll.taken_op c p g.nodes.length]
  exact if_neg hgo

/-- The step that waits for a collective goes on only where the group's model runs one in parts. -/
theorem State.collDone_idle {model op : Nat} {total : List (BitVec 48)} (h : s.modelOf job model = none ∨
    (mgetD s.serving model {}).running = false ∨ (mgetD s.serving model {}).sharded = false) : s.collDone job model op total = s := by
  unfold State.collDone
  dsimp only
  split
  next m hm =>
    have hidle : ((mgetD s.serving model {}).running && (mgetD s.serving model {}).sharded) = false := by
      rcases h with h | h | h
      · simp [hm] at h
      · simp [h]
      · simp [h]
    exact if_pos (by rw [hidle]; rfl)
  · rfl

/-- A collective of a group without a model fails alone. -/
theorem State.collFail_bare (h : s.modelOf job group = none) : s.collFail job group =
    { s with fabric := { s.fabric with colls := s.fabric.colls.filter (fun c => !(c.job == job && c.group == group)) } } := by
  have hnone : (State.modelOf { s with fabric := { s.fabric with colls := s.fabric.colls.filter (fun c => !(c.job == job && c.group == group)) } }
    job group).isNone = true := Option.isNone_iff_eq_none.2 h
  exact if_pos hnone

/-! ## Packets and the time limit (R361, R363) -/

section
variable (hready : s.power.ready = true)
include hready

theorem exec_collectivePacket : exec (.collectivePacket job group p) s = .next (s.collPacket job group p) := by
  rw [exec_eq_collectivePacket, execCollectivePacket, State.ifReady_ready hready]

theorem exec_collectiveTimeout {seq : Nat} (hc : s.fabric.colls.find? (Coll.hit job group seq) = some c) :
    exec (.collectiveTimeout job group seq) s = .next (if c.deadline ≤ s.now then s.collFail job group else s) := by
  unfold Coll.hit at hc
  simp only [exec_eq_collectiveTimeout, execCollectiveTimeout, State.ifReady_ready hready, hc]
  exact (apply_ite Host.Outcome.next _ _ _).symm

end

section
variable (hg : mget (s.job job).fabGroups group = some g)
include hg

theorem State.collPacket_alien (hd : p.digest ≠ g.digest) : s.collPacket job group p = s.collFail job group := by
  simp only [State.collPacket, hg, ne_eq, hd, not_false_eq_true, if_true]

theorem State.collPacket_unknown (hd : p.digest = g.digest) (hc : s.fabric.colls.find? (Coll.hit job group p.seq) = none) :
    s.collPacket job group p = if p.seq < g.next then s else { s with fabric := { s.fabric with early := s.fabric.early ++ [(job, group, p)] } } := by
  unfold Coll.hit at hc
  simp only [State.collPacket, hg, ne_eq, hd, not_true_eq_false, if_false, hc]

theorem State.collPacket_found (hd : p.digest = g.digest) (hc : s.fabric.colls.find? (Coll.hit job group p.seq) = some c) :
    s.collPacket job group p = s.collTake job group g c p := by
  unfold Coll.hit at hc
  simp only [State.collPacket, hg, ne_eq, hd, not_true_eq_false, if_false, hc]

end

end

/-- Settles O53: a packet of a collective in progress is taken (`State.collTake_passes`), and passing the chunk on leaves all but packets; what the
model does with packets that come early or too late rests on log entry 35. -/
theorem collectives : Obligations.Collectives := by
  refine ⟨fun a b => ⟨rfl, rfl⟩, fun s job group hready => ⟨fun g p hg => ⟨fun hd => ?_, fun hd hc => ?_, fun c hd hc hop => ?_⟩,
    fun seq c hc => ⟨fun hdue => ?_, fun hearly => ?_⟩, fun hm => ?_⟩⟩
  · rw [exec_collectivePacket hready, State.collPacket_alien hg hd]
  · rw [exec_collectivePacket hready, State.collPacket_unknown hg hd hc]
  · intro n first last hchunk hrank hlow hhigh own elems c' ended
    have hsame : (s.collKept job group c p g.nodes.length).SameButPackets (s.collPassed job group g c p) := State.collPassed_packets
    refine ⟨s.collPassed job group g c p, ?_, ?_, fun hlast => ?_, hsame.sessions_eq, hsame.jobs_eq, hsame.serving_eq, hsame.hbm_eq,
      fun op total hidle => ⟨hsame.models_eq, State.collDone_idle ?_⟩⟩
    · rw [exec_collectivePacket hready, State.collPacket_found hg hd hc, State.collTake_passes hop hchunk hrank hlow hhigh]
      rfl
    · rw [hsame.colls_eq]
      have hkept : (s.collKept job group c p g.nodes.length).fabric.colls = if ended then s.fabric.colls.filter (fun x => !Coll.hit job group p.seq x)
          else s.fabric.colls.filter (fun x => !Coll.hit job group p.seq x) ++ [c'] := rfl
      rw [hkept]
      split
      · exact (List.append_nil _).symm
      · rfl
    · have hstay : s.collPassed job group g c p = s.collKept job group c p g.nodes.length := if_neg (by rw [hlast]; exact lt_irrefl _)
      rw [hstay]
      rfl
    · rw [State.modelOf, hsame.models_eq, hsame.serving_eq]
      exact hidle
  · rw [exec_collectiveTimeout hready hc, if_pos hdue]
  · rw [exec_collectiveTimeout hready hc, if_neg (Nat.not_le.2 hearly)]
  · rw [State.collFail_bare hm]
    exact ⟨rfl, rfl⟩

end Sys2Proof.Machine
end

section
/-!
PROOF. Ownership transfers on the receiving device (13_nolmus_fabric, R364 to R368, R372, R373): obligation OwnershipReceived.
-/
namespace Sys2Proof.Machine

open Sys2Proof

section
variable (n : Nat) (s : State)

theorem exec_eq_handoffOut (m : HandoffMsg) : exec (.handoffOut n m) s = execHandoffOut n m s := rfl
theorem exec_eq_handoffGrain (k : Nat) (res : Landing) (g : XferGrain) : exec (.handoffGrain n k res g) s = execHandoffGrain n k res g s := rfl
theorem exec_eq_ready : exec (.ready n) s = execReady n s := rfl
theorem exec_eq_notMine : exec (.notMine n) s = execNotMine n s := rfl
theorem exec_eq_relinquished (epoch : Nat) : exec (.relinquished n epoch) s = execRelinquished n epoch s := rfl
theorem exec_eq_query (epoch : Nat) : exec (.query n epoch) s = execQuery n epoch s := rfl
theorem exec_eq_reclaimed (epoch : Nat) : exec (.reclaimed n epoch) s = execReclaimed n epoch s := rfl
theorem exec_eq_abort : exec (.abort n) s = execAbort n s := rfl
theorem exec_eq_orphanTimer : exec (.orphanTimer n) s = execOrphanTimer n s := rfl
theorem exec_eq_phaseTimer : exec (.phaseTimer n) s = execPhaseTimer n s := rfl

end

/-! ## What is recorded of a transfer (R365) -/

/-- The record of a transfer that is refused: what it held is freed. -/
def Xfer.refused (x : Xfer) : Xfer := { x with phase := .refused, grains := [], reqGrain := none, root := gAbsent }

section
variable {s : State} {n : Nat}

theorem State.refuseXfer_known {x : Xfer} (hx : s.xfer n = some x) :
    (s.refuseXfer n).xfer n = some x.refused ∧ (s.refuseXfer n).sessions = s.sessions := by
  simp only [State.refuseXfer, hx]
  split <;> exact ⟨by rw [State.xfer_setXfer, if_pos rfl]; rfl, rfl⟩

theorem State.refuseXfer_unknown (hx : s.xfer n = none) :
    ((s.refuseXfer n).xfer n).map (·.phase) = some .refused ∧ (s.refuseXfer n).sessions = s.sessions := by
  simp only [State.refuseXfer, hx]
  exact ⟨by simp, rfl⟩

/-- A transfer that is refused ends up so, whether it was known or not. -/
theorem State.refuseXfer_phase (s : State) (n : Nat) :
    ((s.refuseXfer n).xfer n).map (·.phase) = some .refused ∧ (s.refuseXfer n).sessions = s.sessions := by
  cases hx : s.xfer n with
  | none => exact State.refuseXfer_unknown hx
  | some x =>
    obtain ⟨h, hs⟩ := State.refuseXfer_known hx
    exact ⟨by rw [h]; rfl, hs⟩

end

theorem State.answerQuery_packets (s : State) (n type : Nat) : s.SameButPackets (s.answerQuery n type) := by
  unfold State.answerQuery
  repeat' split
  · exact State.own_packets ..
  · exact State.ownRaw_packets ..
  · exact State.ownRaw_packets ..

theorem State.resendFrees_none {s : State} (h : s.fabric.peerFrees = []) : s.resendFrees = s := by
  have hmap (f : PeerFree → PeerFree) : s.fabric.peerFrees.map f = s.fabric.peerFrees := by rw [h]; rfl
  have hfilter (p : PeerFree → Bool) : s.fabric.peerFrees.filter p = [] := by rw [h]; rfl
  unfold State.resendFrees
  rw [hmap, hfilter]
  rfl

/-! ## HANDOFF_OUT (R365, R366) -/

section
variable {s : State} {n : Nat} {m : HandoffMsg} (hready : s.power.ready = true) (hx : s.xfer n = none)
include hready hx

theorem exec_handoffOut_noJob (htag : s.jobOfTag m.tag = none) :
    exec (.handoffOut n m) s = .next ((s.refuseXfer n).ownRaw n m.sender Msg.refused m.tag [BitVec.ofNat 8 Reason.noJob]) := by
  simp only [exec_eq_handoffOut, execHandoffOut, State.ifReady_ready hready, hx, Option.isSome_none, Bool.false_eq_true, if_false, htag]

/-- A transfer whose model the job does not have is refused; looking for its place draws free values only. -/
theorem exec_handoffOut_noModel {j : Nat} (htag : s.jobOfTag m.tag = some j) (hmodel : s.modelByDigest j m.modelDigest m.pairs = none) :
    ∃ k, exec (.handoffOut n m) s =
      .next (((s.drawnTo k).refuseXfer n).own j n m.sender Msg.refused [BitVec.ofNat 8 Reason.noModel]) := by
  simp only [exec_eq_handoffOut, execHandoffOut, State.ifReady_ready hready, hx, Option.isSome_none, Bool.false_eq_true, if_false, htag]
  generalize hplace : (if toCistern m = true then s.extentPlace j 2 0 m.grains else (Except.ok gAbsent, s)) = place
  obtain ⟨k, hk⟩ : ∃ k, place.2 = s.drawnTo k := by
    subst hplace
    split
    · exact s.extentPlace_only ..
    · exact ⟨s.freeCtr, rfl⟩
  obtain ⟨root, u⟩ := place
  subst hk
  have hnone : ((s.drawnTo k).modelByDigest j m.modelDigest m.pairs).isSome = false := Option.isSome_eq_false_iff.2 (Option.isNone_iff_eq_none.2 hmodel)
  simp only [hnone, firstFail_fail]
  exact ⟨k, rfl⟩

/-- The record of a transfer that is taken up. -/
def inboundXfer (m : HandoffMsg) (j now : Nat) : Xfer :=
  { outbound := false, session := 0, epoch := m.epoch, peer := m.sender, phase := .receiving, since := now, offeredAt := now, queries := 0, waitIn := false
    total := m.grains, got := 0, msg := some m, grains := [], carry := {}, reqGrain := none, job := j, req := 0, ctx := none, turn := none
    phaseUs := m.phaseUs, root := gAbsent }

/-- A transfer to T1 that passes every check is taken up and answered READY. -/
theorem exec_handoffOut_accepts {j : Nat} (htag : s.jobOfTag m.tag = some j) (hmodel : (s.modelByDigest j m.modelDigest m.pairs).isSome = true)
    (hadapter : m.adapter = 0xFFFF ∨ ((s.job j).adapterCurrent m.adapter).isSome = true) (hlen : s.sessions.length < 2 ^ 24)
    (hquota : s.sessCount j < fld (s.reg (Reg.jobQuota j)) 0 25) (hxfers : s.fabric.xfers.length < 65536) (ht1 : toCistern m = false)
    (hroom : s.t1Room j m.grains = true) (hring : m.carried = true → ((s.job j).compWell m.cwell).ring.isSome = true) :
    exec (.handoffOut n m) s = .next ((s.setXfer n (inboundXfer m j s.now)).own j n m.sender Msg.ready []) := by
  have ha : (m.adapter == 0xFFFF || ((s.job j).adapterCurrent m.adapter).isSome) = true := by simpa using hadapter
  have hr : (!m.carried || ((s.job j).compWell m.cwell).ring.isSome) = true := by
    cases hc : m.carried with
    | false => rfl
    | true => simp [hring hc]
  have habsent : ¬ gTier gAbsent = 2 := by decide
  simp only [exec_eq_handoffOut, execHandoffOut, State.ifReady_ready hready, hx, Option.isSome_none, Bool.false_eq_true, if_false, htag, ht1, hmodel, ha,
    hlen, hquota, hroom, hxfers, hr, decide_true, Bool.and_self, Bool.false_or, firstFail_pass, firstFail_nil, habsent]
  rfl

end

/-! ## HANDOFF_GRAIN (R49, R365) -/

@[simp] theorem State.drawnTo_modelByDigest (s : State) (n j : Nat) (digest : BitVec 256) (pairs : Nat) :
    (s.drawnTo n).modelByDigest j digest pairs = s.modelByDigest j digest pairs := rfl

/-- A grain that is placed keeps all but its address. -/
theorem State.placeAll_one (s : State) (j pairs tier : Nat) (near : List SGrain) (g : SGrain) :
    ∃ a n, s.placeAll j pairs tier near [g] [] = ([{ g with addr := a }], s.drawnTo n) := by
  simp only [State.placeAll, State.draw_eq]
  split
  · exact ⟨_, _, rfl⟩
  · exact ⟨_, _, rfl⟩

/-- A grain of a transfer as it is kept: at the transfer's epoch, where it was placed. -/
def arrivedGrain (g : SGrain) (m : HandoffMsg) (a : W64) : SGrain := { g with epoch := m.epoch, addr := a }

/-- The transfer with one more grain. -/
def Xfer.withGrain (x : Xfer) (g : SGrain) : Xfer := { x with grains := x.grains ++ [g], got := x.got + 1 }

section
variable {s : State} {n : Nat} {x : Xfer} {m : HandoffMsg}

section
variable (hready : s.power.ready = true) (hx : s.xfer n = some x) (hin : x.outbound = false) (hphase : x.phase = .receiving) (hmsg : x.msg = some m)
include hready hx hmsg

theorem exec_handoffGrain_other {k : Nat} (res : Landing) (g : XferGrain) (hk : k ≠ x.got) : exec (.handoffGrain n k res g) s = .next s := by
  simp only [exec_eq_handoffGrain, execHandoffGrain, State.ifReady_ready hready, hx, hmsg, ne_eq, hk, not_false_eq_true, or_true, if_true]

include hin hphase

theorem exec_handoffGrain_damaged (g : XferGrain) : exec (.handoffGrain n x.got .damaged g) s = .next (s.countReg Reg.checkStat 0 32 2) := by
  simp only [exec_eq_handoffGrain, execHandoffGrain, State.ifReady_ready hready, hx, hmsg, hin, hphase, Bool.false_eq_true, ne_eq, not_true_eq_false,
    or_self, if_false, if_true, reduceCtorEq]

/-- An intact KV grain of a transfer to T1 is kept; with the last one the session is entered. -/
theorem exec_handoffGrain_kept (g : SGrain) (ht1 : toCistern m = false) (hcarried : m.carried = false) :
    ∃ a k, exec (.handoffGrain n x.got .ok (.kv g)) s =
      .next (let y := x.withGrain (arrivedGrain g m a)
        if x.total ≤ x.got + 1 then ((s.drawnTo k).setXfer n y).enterSession n y m else (s.drawnTo k).setXfer n y) := by
  obtain ⟨a, k, hplaced⟩ := s.placeAll_one x.job m.pairs 1 x.grains { g with epoch := m.epoch }
  refine ⟨a, k, ?_⟩
  simp only [exec_eq_handoffGrain, execHandoffGrain, State.ifReady_ready hready, hx, hmsg, hin, hphase, Bool.false_eq_true, ne_eq, not_true_eq_false,
    or_self, if_false, reduceCtorEq, State.placeArrived, ht1, List.map_cons, List.map_nil, hplaced, hcarried, true_or, and_true,
    Xfer.withGrain, arrivedGrain]
  split <;> rfl

end

/-- Entering a session in T1 (R365): the entry says what the message said, at the new epoch and unsettled; no other entry changes. -/
theorem State.enterSession_enters {i h : Nat} {md : Model} (ht1 : toCistern m = false) (hcarried : m.carried = false)
    (hfree : mfree s.sessions (Config.freeNat s.freeCtr % 2 ^ 24) (2 ^ 24) = some i) (hmodel : s.modelByDigest x.job m.modelDigest m.pairs = some (h, md)) :
    let t := s.enterSession n x m
    (t.sess i).state = stateOfCode m.srcState ∧ (t.sess i).job = x.job ∧ (t.sess i).model = h ∧ (t.sess i).ownerEpoch = m.epoch ∧
      (t.sess i).len = m.len ∧ (t.sess i).retained = m.retained ∧ (t.sess i).seed = m.seed ∧ (t.sess i).scounter = m.scounter ∧
      (t.sess i).toolp = m.toolp ∧ (t.aux i).unsettled = true ∧ (t.xfer n).map (fun y => (y.phase, y.session)) = some (.entered, i) ∧
      (∀ k, k ≠ i → t.sess k = s.sess k) := by
  simp only [State.enterSession, State.draw_eq, State.drawnTo_sessions, hfree, State.drawnTo_modelByDigest, hmodel, ht1, hcarried, Bool.false_eq_true,
    if_false, Bool.not_false, if_true]
  generalize hmaps : State.withMaps _ _ _ _ _ _ _ = maps
  obtain ⟨k, hk⟩ : ∃ k, maps.2 = _ := hmaps ▸ State.withMaps_only ..
  rw [hk]
  generalize hu : State.setXfer _ n _ = u
  have hsame := u.sessEvent_same i Code.handoffArrived i
  simp only [State.own_sess, State.own_aux, State.own_xfer, hsame.sess_eq, hsame.aux_eq, State.sessEvent_xfer]
  subst hu
  simp +contextual

end

/-! ## An entered transfer, and one that is still received (R365, R367, R368, R372, R373) -/

section
variable {s : State} {n : Nat} {x : Xfer} (hready : s.power.ready = true) (hx : s.xfer n = some x) (hin : x.outbound = false)
include hready hx hin

section
variable (hphase : x.phase = .entered)
include hphase

theorem exec_relinquished_settles :
    exec (.relinquished n x.epoch) s = .next ((s.modAux x.session (fun a => { a with unsettled := false })).delXfer n) := by
  simp only [exec_eq_relinquished, execRelinquished, State.ifReady_ready hready, hx, hin, hphase, Bool.false_eq_true, if_false, and_self, if_true]

theorem exec_query_mine : exec (.query n x.epoch) s = .next (s.answerQuery n Msg.mine) := by
  simp only [exec_eq_query, execQuery, State.ifReady_ready hready, hx, hin, hphase, Bool.false_eq_true, if_false, true_or, and_self, if_true]

omit hin in
theorem exec_abort_entered : exec (.abort n) s = .next s := by
  simp only [exec_eq_abort, execAbort, State.ifReady_ready hready, hx, hphase, or_true, if_true]

omit hin hphase in
theorem exec_reclaimed_old {epoch : Nat} (h : epoch ≤ (s.sess x.session).ownerEpoch) : exec (.reclaimed n epoch) s = .next s := by
  simp only [exec_eq_reclaimed, execReclaimed, State.ifReady_ready hready, hx, h, or_true, if_true]

theorem exec_reclaimed_loses {epoch : Nat} (h : (s.sess x.session).ownerEpoch < epoch) :
    exec (.reclaimed n epoch) s = .next (((s.loseClaim x.session).own x.job n x.peer Msg.relinquished (leBytes 4 epoch)).delXfer n) := by
  simp only [exec_eq_reclaimed, execReclaimed, State.ifReady_ready hready, hx, hin, hphase, Bool.false_eq_true, ne_eq, not_true_eq_false,
    Nat.not_le.2 h, or_self, if_false]

theorem exec_orphanTimer_entered (hfrees : s.fabric.peerFrees = []) (hdue : x.since + s.orphanUs ≤ s.now) :
    exec (.orphanTimer n) s =
      .next ((s.setXfer n { x with since := s.now }).own x.job n x.peer Msg.handoffIn (leBytes 4 x.epoch ++ leBytes 4 x.session)) := by
  simp only [exec_eq_orphanTimer, execOrphanTimer, State.ifReady_ready hready, State.resendFrees_none hfrees, hx, if_neg (Nat.not_lt.2 hdue), hin,
    Bool.false_eq_true, if_false, hphase, if_true]

end

section
variable (hphase : x.phase = .receiving)
include hphase

theorem exec_abort_refuses : exec (.abort n) s = .next (s.refuseXfer n) := by
  simp only [exec_eq_abort, execAbort, State.ifReady_ready hready, hx, hin, hphase, Bool.false_eq_true, reduceCtorEq, or_self, if_false]

theorem exec_query_refuses (epoch : Nat) : exec (.query n epoch) s = .next ((s.answerQuery n Msg.notMine).refuseXfer n) := by
  simp only [exec_eq_query, execQuery, State.ifReady_ready hready, hx, hin, hphase, Bool.false_eq_true, reduceCtorEq, false_and, if_false]

theorem exec_phaseTimer_refuses (hcarried : x.msg.any (·.carried) = true)
    (hdue : x.offeredAt + (if x.phaseUs = 0 then 20000 else x.phaseUs) ≤ s.now) : exec (.phaseTimer n) s = .next (s.refuseXfer n) := by
  simp only [exec_eq_phaseTimer, execPhaseTimer, State.ifReady_ready hready, hx, Nat.not_lt.2 hdue, hin, Bool.false_eq_true, if_false, hphase, hcarried,
    and_self, if_true]

end

end

/-! ## A transfer that is not known (R365) -/

section
variable {s : State} {n : Nat} (hready : s.power.ready = true) (hx : s.xfer n = none)
include hready hx

theorem exec_query_unknown (epoch : Nat) : exec (.query n epoch) s = .next ((s.answerQuery n Msg.notMine).refuseXfer n) := by
  simp only [exec_eq_query, execQuery, State.ifReady_ready hready, hx]

theorem exec_ready_unknown : exec (.ready n) s = .next s := by
  simp only [exec_eq_ready, execReady, State.ifReady_ready hready, hx]

theorem exec_notMine_unknown : exec (.notMine n) s = .next s := by
  simp only [exec_eq_notMine, execNotMine, State.ifReady_ready hready, hx]

theorem exec_relinquished_unknown (epoch : Nat) : exec (.relinquished n epoch) s = .next s := by
  simp only [exec_eq_relinquished, execRelinquished, State.ifReady_ready hready, hx]

end

/-- Settles O52: each message's state is named (`exec_handoffOut_accepts`, `exec_handoffGrain_kept`, …); the last grain enters the session under a
number that was free (`mfree_exists`, `State.enterSession_enters`), and messages sent leave all but packets. -/
theorem ownershipReceived : Obligations.OwnershipReceived := by
  intro s hready
  refine ⟨fun n m hx => ⟨exec_handoffOut_noJob hready hx, fun j htag hmodel => ?_,
      fun j htag hmodel hadapter hlen hquota hxfers ht1 hroom hring => ?_⟩,
    fun n x m hx hin hphase hmsg ht1 hcarried => ⟨fun g k hk => exec_handoffGrain_other hready hx hmsg .ok g hk,
      exec_handoffGrain_damaged hready hx hin hphase hmsg, fun g hmore => ?_, fun g h md hlast hmodel hlen => ?_⟩,
    fun n x hx hin => ⟨fun hphase => ⟨exec_relinquished_settles hready hx hin hphase, exec_query_mine hready hx hin hphase,
      exec_abort_entered hready hx hphase, fun _ => exec_reclaimed_old hready hx, fun _ => exec_reclaimed_loses hready hx hin hphase,
      exec_orphanTimer_entered hready hx hin hphase⟩, fun hphase => ?_⟩,
    fun n epoch hx => ⟨?_, exec_ready_unknown hready hx, exec_notMine_unknown hready hx, exec_relinquished_unknown hready hx epoch⟩⟩
  · obtain ⟨k, hexec⟩ := exec_handoffOut_noModel hready hx htag hmodel
    obtain ⟨hrefused, hsess⟩ := (s.drawnTo k).refuseXfer_phase n
    exact ⟨_, hexec, by rw [State.own_xfer, hrefused], by rw [State.own_sessions, hsess]; rfl⟩
  · exact ⟨_, inboundXfer m j s.now, exec_handoffOut_accepts hready hx htag hmodel hadapter hlen hquota hxfers ht1 hroom hring, by simp,
      rfl, rfl, rfl, rfl, rfl, rfl, rfl, rfl, by simp, by simp⟩
  · obtain ⟨a, k, hexec⟩ := exec_handoffGrain_kept hready hx hin hphase hmsg g ht1 hcarried
    rw [if_neg (Nat.not_le.2 hmore)] at hexec
    exact ⟨_, x.withGrain (arrivedGrain g m a), hexec, by simp, rfl, by simp [Xfer.withGrain], by simp [Xfer.withGrain],
      by simp [Xfer.withGrain, arrivedGrain], rfl⟩
  · obtain ⟨a, k, hexec⟩ := exec_handoffGrain_kept hready hx hin hphase hmsg g ht1 hcarried
    rw [if_pos hlast.ge] at hexec
    obtain ⟨i, hfree, hi, hnone⟩ := mfree_exists s.sessions (Config.freeNat k % 2 ^ 24) hlen
    exact ⟨_, i, hexec, by simp [State.sess, mgetD, hnone], hi, State.enterSession_enters ht1 hcarried hfree hmodel⟩
  · intro off
    have hrefused (u : State) (hu : s.SameButPackets u) : off (.next (u.refuseXfer n)) := by
      obtain ⟨h, hsess⟩ := State.refuseXfer_known ((hu.xfer_eq n).trans hx)
      exact ⟨_, x.refused, rfl, h, rfl, rfl, hin, hsess.trans hu.sessions_eq⟩
    refine ⟨?_, ?_, fun hcarried hdue => ?_⟩
    · rw [exec_abort_refuses hready hx hin hphase]
      exact hrefused s (.refl s)
    · rw [exec_query_refuses hready hx hin hphase]
      exact hrefused _ (s.answerQuery_packets n Msg.notMine)
    · rw [exec_phaseTimer_refuses hready hx hin hphase hcarried hdue]
      exact hrefused s (.refl s)
  · obtain ⟨hrefused, hsess⟩ := (s.answerQuery n Msg.notMine).refuseXfer_phase n
    exact ⟨_, exec_query_unknown hready hx epoch, hrefused, hsess.trans (s.answerQuery_packets n Msg.notMine).sessions_eq⟩

end Sys2Proof.Machine
end

section
/-!
PROOF. Ownership transfers on the sending device (13_nolmus_fabric, R364, R365, R367, R368, R371 to R373, Table 13.9): obligation OwnershipSent.
-/
namespace Sys2Proof.Machine

open Sys2Proof

section
variable (n : Nat) (s : State)

theorem exec_eq_splitTurn (job well : Nat) (d : Desc) : exec (.splitTurn job well d) s = execSplitTurn job well d s := rfl
theorem exec_eq_refused (reason : Nat) : exec (.refused n reason) s = execRefused n reason s := rfl
theorem exec_eq_handoffIn (epoch index : Nat) : exec (.handoffIn n epoch index) s = execHandoffIn n epoch index s := rfl
theorem exec_eq_mine : exec (.mine n) s = execMine n s := rfl

end

/-! ## A session goes back, or is handed over (R365) -/

section
variable {s : State} {i : Nat}

theorem State.backToSource_same {m : Move} (hm : (s.aux i).move = some m) :
    (s.backToSource i).sess i = { s.sess i with state := m.src, toolp := if m.src = .parked then (s.sess i).toolp else false } ∧
      (s.backToSource i).aux i = { s.aux i with move := none } := by
  simp only [State.backToSource, hm]
  simp

theorem State.backToSource_others (s : State) (i : Nat) : s.OthersStand (s.backToSource i) i := by
  unfold State.backToSource
  split
  · exact (State.SameSessions.refl s).others
  · exact (s.setSess_others i _).trans (State.modAux_others _ i _)

@[simp] theorem State.backToSource_xfer (s : State) (i n : Nat) : (s.backToSource i).xfer n = s.xfer n := by
  unfold State.backToSource
  split <;> rfl

/-- A session that is handed over is FREE; no other session changes. -/
theorem State.handedOver_frees (s : State) (i : Nat) :
    ((s.handedOver i).sess i).state = .free ∧ ∀ k, k ≠ i → (s.handedOver i).sess k = s.sess k := by
  unfold State.handedOver
  extract_lets x freed released done
  have hsame : s.SameSessions done := by
    have hreleased : s.SameSessions released := by
      unfold released
      split
      · exact (s.extentFree_same _ _ _).trans (freed.peerRelease_same _ _ _)
      · exact s.extentFree_same _ _ _
    exact hreleased.trans <| (released.dropMoveWork_same i).trans <| .foldl _ (fun s c => s.complete_same c _ _ _ _) _ _
  have hgone (k : Nat) : (done.without i).sess k = if k = i then {} else s.sess k := by rw [State.without_sess, hsame.sess_eq]
  exact ⟨congrArg Session.state ((hgone i).trans (if_pos rfl)), fun k hk => (hgone k).trans (if_neg hk)⟩

end

/-! ## Messages about an outbound transfer (R365, R367, R371 to R373) -/

section
variable {s : State} {n : Nat} {x : Xfer} (hready : s.power.ready = true) (hx : s.xfer n = some x) (hout : x.outbound = true)
include hready hx hout

theorem exec_mine_waits : exec (.mine n) s = .next (s.setXfer n { x with waitIn := true, queries := 0 }) := by
  simp only [exec_eq_mine, execMine, State.ifReady_ready hready, hx, hout, if_true]

section
variable (hphase : x.phase = .offered)
include hphase

theorem exec_ready_sends (hturn : x.turn = none) :
    exec (.ready n) s = .next ((s.setXfer n { x with phase := .sending }).enqueueMove x.session x.total) := by
  simp [exec_eq_ready, execReady, State.ifReady_ready hready, hx, hout, hphase, hturn]

theorem exec_ready_splits {e : Desc} {c : DescCtx} (hturn : x.turn = some e) (hctx : x.ctx = some c) :
    exec (.ready n) s = .next (s.readySplit n x c e) := by
  simp [exec_eq_ready, execReady, State.ifReady_ready hready, hx, hout, hphase, hturn, hctx]

theorem exec_refused_returns (reason : Nat) : exec (.refused n reason) s =
    .next ((((s.dropMoveWork x.session).backToSource x.session).delXfer n).complete? x.ctx Code.handoffRefused reason 0 x.session) := by
  simp [exec_eq_refused, execRefused, State.ifReady_ready hready, hx, hout, hphase, State.xferDone]

end

theorem exec_handoffIn_over {m : Move} (epoch index : Nat) (hst : (s.sess x.session).state = .moving) (hm : (s.aux x.session).move = some m)
    (hkind : m.kind = .handoff) (hab : m.abandoned = false) (hturn : x.turn = none) (hphase : x.phase ≠ .reclaimed) :
    exec (.handoffIn n epoch index) s = .next ((((s.handedOver x.session).own x.job n x.peer Msg.relinquished (leBytes 4 epoch)).delXfer n).complete?
      x.ctx Code.ok index 0 x.session) := by
  simp [exec_eq_handoffIn, execHandoffIn, State.ifReady_ready hready, hx, hout, hphase, hturn, hst, hm, hkind, hab, State.xferDone]

theorem exec_handoffIn_reclaimed (epoch index : Nat) (hphase : x.phase = .reclaimed) : exec (.handoffIn n epoch index) s =
    .next (s.own x.job n x.peer Msg.reclaimed (leBytes 4 (s.sess x.session).ownerEpoch)) := by
  simp [exec_eq_handoffIn, execHandoffIn, State.ifReady_ready hready, hx, hout, hphase]

theorem exec_relinquished_forgets (epoch : Nat) (hphase : x.phase = .reclaimed) : exec (.relinquished n epoch) s = .next (s.delXfer n) := by
  simp [exec_eq_relinquished, execRelinquished, State.ifReady_ready hready, hx, hout, hphase]

theorem exec_handoffIn_carried {a : ReqAux} (epoch index : Nat) (hphase : x.phase = .sending ∨ x.phase = .sent) (hturn : x.turn.isSome = true)
    (ha : s.raux? x.req = some a) (hown : a.xfer = n) : exec (.handoffIn n epoch index) s =
      .next (((s.handedCarried x index).own x.job n x.peer Msg.relinquished (leBytes 4 epoch)).delXfer n) := by
  have hne : x.phase ≠ .reclaimed := by rcases hphase with h | h <;> simp [h]
  simp [exec_eq_handoffIn, execHandoffIn, State.ifReady_ready hready, hx, hout, hphase, hne, hturn, ha, hown]

theorem exec_notMine_reclaims (hphase : x.phase ≠ .reclaimed) : exec (.notMine n) s = .next (s.reclaim n x) := by
  simp [exec_eq_notMine, execNotMine, State.ifReady_ready hready, hx, hout, hphase]

section
variable (hfrees : s.fabric.peerFrees = []) (hphase : x.phase ≠ .reclaimed) (hwait : x.waitIn = false) (hdue : x.since + s.orphanUs ≤ s.now)
include hfrees hphase hwait hdue

theorem exec_orphanTimer_reclaims (hlast : s.queryMax ≤ x.queries) : exec (.orphanTimer n) s = .next (s.reclaim n x) := by
  simp [exec_eq_orphanTimer, execOrphanTimer, State.ifReady_ready hready, State.resendFrees_none hfrees, hx, Nat.not_lt.2 hdue, hout, hphase, hwait, hlast]

theorem exec_orphanTimer_asks (hmore : x.queries < s.queryMax) : exec (.orphanTimer n) s =
    .next ((s.setXfer n { x with queries := x.queries + 1, since := s.now }).own x.job n x.peer Msg.query (leBytes 4 x.epoch)) := by
  simp [exec_eq_orphanTimer, execOrphanTimer, State.ifReady_ready hready, State.resendFrees_none hfrees, hx, Nat.not_lt.2 hdue, hout, hphase, hwait,
    Nat.not_le.2 hmore]

end

theorem exec_phaseTimer_splits (hturn : x.turn.isSome = true) (hphase : x.phase = .sending ∨ x.phase = .sent)
    (hdue : x.since + (if x.phaseUs = 0 then 20000 else x.phaseUs) ≤ s.now) : exec (.phaseTimer n) s = .next (s.splitBack n x true) := by
  simp only [exec_eq_phaseTimer, execPhaseTimer, State.ifReady_ready hready, hx, hout, if_true, Nat.not_lt.2 hdue, if_false, hturn, hphase, and_self]

end

/-! ## Reclaiming (R367, R373) -/

section
variable {s : State} {n : Nat} {x : Xfer}

theorem State.reclaim_split (hturn : x.turn.isSome = true) (hphase : x.phase ≠ .offered) : s.reclaim n x = s.splitBack n x true :=
  if_pos ⟨hturn, hphase⟩

/-- A reclaimed session is back in its source state at the next epoch; no other session changes. -/
theorem State.reclaim_goesBack {m : Move} (hturn : x.turn = none ∨ x.phase = .offered) (hm : (s.aux x.session).move = some m)
    (hdam : (s.aux x.session).damaged = false) (hclosing : (s.aux x.session).closing = []) :
    ((s.reclaim n x).sess x.session).state = m.src ∧ ((s.reclaim n x).sess x.session).ownerEpoch = x.epoch + 1 ∧
      ((s.reclaim n x).xfer n).map (·.phase) = some .reclaimed ∧ ∀ k, k ≠ x.session → (s.reclaim n x).sess k = s.sess k := by
  have hwhole : ¬ (x.turn.isSome = true ∧ x.phase ≠ .offered) := by
    rcases hturn with h | h <;> simp [h]
  unfold State.reclaim
  rw [if_neg hwhole]
  extract_lets dropped renewed answered told
  have hmove : (dropped.aux x.session).move = some m := hm
  obtain ⟨hsess, haux⟩ := State.backToSource_same hmove
  have hanswered : renewed.SameSessions answered := renewed.completeAny_same _ _ _ _ _
  have htold : renewed.SameSessions told := hanswered.trans (answered.sessEvent_same _ _ _)
  have hrenewed : renewed.aux x.session = { s.aux x.session with move := none } := haux
  have hwell : ¬ (answered.aux x.session).damaged = true := by rw [hanswered.aux_eq, hrenewed]; simp [hdam]
  have hnone : (told.aux x.session).closing.isEmpty = true := by rw [htold.aux_eq, hrenewed]; simp [hclosing]
  rw [if_neg hwell, if_pos hnone]
  refine ⟨?_, ?_, ?_, fun k hk => ?_⟩
  · rw [htold.sess_eq]
    simp [renewed, hsess]
  · rw [htold.sess_eq]
    simp [renewed]
  · have hxfer : told.xfer n = (dropped.backToSource x.session).xfer n := by simp [told, answered, State.xferDone, renewed]
    rw [hxfer, State.backToSource_xfer]
    simp [dropped]
  · rw [htold.sess_eq]
    simp only [renewed, State.modSess_eq, State.sess_setSess, if_neg hk]
    exact (dropped.backToSource_others x.session).sess k hk

end

/-! ## SPLIT_TURN (R371, R532, R533) -/

/-- Forgetting an abandoned move leaves the session's entry. -/
theorem State.dropAbandoned_sess (s : State) (i : Nat) : (s.dropAbandoned i).sess i = s.sess i := by
  cases hm : (s.aux i).move with
  | none => rw [State.dropAbandoned_none hm]
  | some m =>
    cases hab : m.abandoned with
    | false => simp [State.dropAbandoned, hm, hab]
    | true => exact (State.dropAbandoned_ends hm hab).1

/-- A session is offered under a new transfer at the next epoch. -/
theorem State.offer_offers (s : State) (i node : Nat) (c : DescCtx) (src : SState) (e : Desc) (cwell phaseUs rows : Nat) :
    ∃ k r, (s.offer i node c src (some e) cwell phaseUs rows).xfer k = some r ∧ r.outbound = true ∧ r.session = i ∧
      r.epoch = (s.sess i).ownerEpoch + 1 ∧ r.peer = node ∧ r.phase = .offered ∧ r.ctx = some c ∧ r.turn = some e ∧
      ((s.aux i).move = none → (s.offer i node c src (some e) cwell phaseUs rows).sessions = s.sessions) := by
  unfold State.offer
  simp only [State.nextTransfer, State.own_xfer, State.xfer_setXfer, State.own_sessions, State.setXfer_sessions]
  exact ⟨_, _, if_pos rfl, rfl, rfl, congrArg (·.ownerEpoch + 1) (s.dropAbandoned_sess i), rfl, rfl, rfl, rfl,
    fun hm => by rw [State.dropAbandoned_none hm]⟩

/-- The turn image that a SPLIT_TURN reads. -/
def turnImage (bs : List Byte) : Desc := BitVec.ofNat 512 (leNat bs)

/-- The image is one of a TOOL_RETURN. -/
def imageTool (e : Desc) : Bool := dfld e 0 0 16 == 0x0103

/-- A SPLIT_TURN of session `i` that is served, names a turn image of that session, and has a node with a route for it; the session has no other
transfer. -/
structure State.SplitServes (s : State) (job well i : Nat) (d e : Desc) (bs : List Byte) : Prop where
  serves : s.Serves kSplitTurn job well d
  session : dfld d 16 0 24 = i
  names : (s.takenUp job well).Names job i
  inHbm : (s.named job well i).addrOk job d 24 64 = true
  image : (s.named job well i).fetch d 24 64 = some bs
  reads : turnImage bs = e
  kind : dfld e 0 0 16 = 0x0102 ∨ (dfld e 0 0 16 = 0x0103 ∧ bit e 367 = false)
  same : dfld e 16 0 24 = i
  fields : onlyFields e (imageFields (imageTool e)) = true
  route : (s.named job well i).routeErr job (dfld d 20 0 16) = none
  settled : ((s.named job well i).aux i).unsettled = false
  room : (s.named job well i).fabric.xfers.length < 65536
  single : (s.named job well i).outXfer i = none

/-- The idle state that a split turn of the session returns to, if Table 1.3 has a row for it. -/
def State.splitPrior (s : State) (i : Nat) (tool : Bool) : Option SState := if (s.sess i).state = .moving then none else s.turnState i tool

/-- A turn image that R533 accepts offers its session, with the turn. -/
theorem exec_splitTurn {s : State} {job well i : Nat} {d e : Desc} {bs : List Byte} {u : TurnIn} (h : s.SplitServes job well i d e bs)
    (hcheck : (s.turnStart job well i).turnCheck job i (dfld e 0 0 16) e ((s.turnStart job well i).splitPrior i (imageTool e)).isSome
      (Config.freeNat (s.named job well i).freeCtr % 65536) true = { got := .ok u, spoilt := false }) :
    exec (.splitTurn job well d) s = .next ((s.turnStart job well i).offer i (dfld d 20 0 16) (descCtx kSplitTurn job well d)
      ((s.turnStart job well i).sess i).state (some e) (dfld e 44 0 4) (dfld d 32 0 32) (u.tokens.length - 1)) := by
  obtain ⟨hserves, rfl, hnames, hhbm, himage, rfl, hkind, hsame, hfields, hroute, hsettled, hroom, hsingle⟩ := h
  have hnamed : ((s.takenUp job well).opened (dfld d 16 0 24)).touch (dfld d 16 0 24) = s.named job well (dfld d 16 0 24) := rfl
  have hgood : ¬ (dfld (turnImage bs) 0 0 16 ≠ 0x0102 ∧ dfld (turnImage bs) 0 0 16 ≠ 0x0103 ∨ dfld (turnImage bs) 16 0 24 ≠ dfld d 16 0 24 ∨
      imageTool (turnImage bs) = true ∧ bit (turnImage bs) 367 = true) := by
    rcases hkind with h | ⟨h, hb⟩
    · simp [h, hsame, imageTool]
    · simp [h, hsame, hb]
  have hfree : ¬ (((s.turnStart job well (dfld d 16 0 24)).aux (dfld d 16 0 24)).unsettled = true ∨
      65536 ≤ (s.turnStart job well (dfld d 16 0 24)).fabric.xfers.length ∨
      ((s.turnStart job well (dfld d 16 0 24)).outXfer (dfld d 16 0 24)).isSome = true) := by
    rintro (hu | hx | ho)
    · exact Bool.false_ne_true (hsettled.symm.trans hu)
    · exact absurd hx (Nat.not_le.2 hroom)
    · exact Option.some_ne_none _ ((Option.some_get ho).trans hsingle)
  simp only [turnImage, imageTool, State.splitPrior, State.turnStart] at hgood hfree hcheck hfields ⊢
  simp only [exec_eq_splitTurn, execSplitTurn, State.takeUp_serves hserves]
  rw [State.withSession_names hnames]
  simp only [if_true, hnamed, hhbm, Bool.not_true, Bool.false_eq_true, if_false, himage, if_neg hgood, hroute, State.draw_eq]
  generalize hg : State.turnCheck _ _ _ _ _ _ _ _ = out
  obtain rfl : out = { got := .ok u, spoilt := false } := hg.symm.trans hcheck
  simp only [if_neg hfree, hfields, Bool.not_true, Bool.or_false, Res.spoilIf_false]

/-- A split turn is offered under a new transfer at the next epoch. -/
def State.SplitOffered (s : State) (job well i : Nat) (d e : Desc) : Prop :=
  ∃ (t : State) (k : Nat) (r : Xfer), exec (.splitTurn job well d) s = .next t ∧ t.xfer k = some r ∧ r.outbound = true ∧ r.session = i ∧
    r.epoch = ((s.named job well i).sess i).ownerEpoch + 1 ∧ r.peer = dfld d 20 0 16 ∧ r.phase = .offered ∧
    r.ctx = some (descCtx kSplitTurn job well d) ∧ r.turn = some e ∧
    (((s.named job well i).aux i).move = none → t.sessions = (s.named job well i).sessions)

theorem exec_splitTurn_offers {s : State} {job well i : Nat} {d e : Desc} {bs : List Byte} {u : TurnIn} (h : s.SplitServes job well i d e bs)
    (hcheck : (s.turnStart job well i).turnCheck job i (dfld e 0 0 16) e ((s.turnStart job well i).splitPrior i (imageTool e)).isSome
      (Config.freeNat (s.named job well i).freeCtr % 65536) true = { got := .ok u, spoilt := false }) : s.SplitOffered job well i d e := by
  obtain ⟨k, r, hoffer⟩ := (s.turnStart job well i).offer_offers i (dfld d 20 0 16) (descCtx kSplitTurn job well d)
    ((s.turnStart job well i).sess i).state e (dfld e 44 0 4) (dfld d 32 0 32) (u.tokens.length - 1)
  exact ⟨_, k, r, exec_splitTurn h hcheck, hoffer⟩

/-- The plain case of a turn image: what `State.PlainTurn` asks of a turn, except for the completion ring, which is the other device's (R371). -/
structure State.PlainImage (s : State) (job i : Nat) (e : Desc) (m : Model) (v : ByteVer) (ids : List Byte) : Prop where
  here : s.gone i = false
  noGrammar : (s.sess i).grammar = 0
  noAdapter : (s.sess i).adapter = 0xFFFF
  defaultBlock : dfld e 48 0 64 = 0
  maxNew : dfld e 24 0 21 ≠ 0
  spec : dfld e 16 28 3 ≤ 4
  noTools : dfld e 44 16 16 = 0
  model : s.modelOf job (s.sess i).model = some m
  modelWhole : m.damaged = false
  image : m.digest = (s.aux i).modelDigest
  vocab : (mget (s.job job).vocabs (s.sess i).model).bind ByteObj.cur = some v
  vocabWhole : v.damaged = false
  clear : (s.job job).conf = false
  preTokenized : bit e 365 = true
  count : 1 ≤ dfld e 40 0 32
  inHbm : s.addrOk job e 32 (4 * dfld e 40 0 32) = true
  text : s.fetch e 32 (4 * dfld e 40 0 32) = some ids
  inVocab : ∀ k < dfld e 40 0 32, at_ ids (4 * k) 4 < vocabSize v.image
  length : (s.sess i).len + dfld e 40 0 32 ≤ 2 ^ 20
  reqRoom : s.liveReqs < 65536
  quota : s.reqCount job < fld (s.reg (Reg.jobQuota job)) 32 17

section
variable {s : State} {job well i : Nat} {d e : Desc} {m : Model} {v : ByteVer} {bs ids : List Byte}

/-- Drawing a free value leaves a turn image plain. -/
theorem State.PlainImage.drawnTo (h : s.PlainImage job i e m v ids) (n : Nat) : (s.drawnTo n).PlainImage job i e m v ids := { h with }

/-- A plain turn image passes every check of a split turn. -/
theorem State.turnCheck_plainImage (h : s.PlainImage job i e m v ids) (kind start : Nat) :
    ∃ u, s.turnCheck job i kind e true start true = { got := .ok u, spoilt := false } := by
  obtain ⟨r, hfree, -⟩ := s.freeReq_exists start h.reqRoom
  have hn : ids.length / 4 = dfld e 40 0 32 := by rw [State.fetch_length h.text]; omega
  have hpre : bit e (8 * 44 + 13) = true := h.preTokenized
  have hgrammar : s.turnGrammar job i defaultParams = some none := by simp [State.turnGrammar, defaultParams, h.noGrammar]
  have htext : s.turnText job i kind e = .ok ids := by simp [State.turnText, hpre, h.clear, h.text]
  have himage : s.otherImage job i = false := by simp [State.otherImage, h.model, h.image]
  have hvocab : ((List.range (dfld e 40 0 32)).map (fun k => at_ ids (4 * k) 4)).any (fun t => decide (vocabSize v.image ≤ t)) = false := by
    simpa using h.inVocab
  have hsome : ((List.range (dfld e 40 0 32)).map (fun k => at_ ids (4 * k) 4)).isEmpty = false := by
    have := h.count
    simp; omega
  have hmax : (dfld e 24 0 21 != 0) = true := by simpa using h.maxNew
  have hlen : (s.sess i).len + dfld e 40 0 32 ≤ 1048576 := h.length
  simp [State.turnCheck, hpre, h.clear, h.inHbm, h.defaultBlock, hgrammar, htext, himage, hmax, h.spec, h.noTools, h.here, h.model, h.modelWhole,
    h.noAdapter, h.vocab, h.vocabWhole, hfree, hn, hvocab, hsome, hlen, h.quota]

theorem State.splitPrior_idle {tool : Bool} (h : (s.sess i).state = if tool then .toolWait else .open) : (s.splitPrior i tool).isSome = true := by
  have hidle : (s.sess i).state ≠ .moving := by rw [h]; cases tool <;> simp
  rw [State.splitPrior, if_neg hidle, State.turnState_idle h]
  rfl

/-- A plain turn image of an idle session is offered. -/
theorem exec_splitTurn_plain (h : s.SplitServes job well i d e bs)
    (hst : ((s.named job well i).sess i).state = if imageTool e then .toolWait else .open) (hplain : (s.named job well i).PlainImage job i e m v ids) :
    s.SplitOffered job well i d e := by
  obtain ⟨u, hcheck⟩ := State.turnCheck_plainImage (hplain.drawnTo ((s.named job well i).freeCtr + 1)) (dfld e 0 0 16)
    (Config.freeNat (s.named job well i).freeCtr % 65536)
  have hprior : ((s.turnStart job well i).splitPrior i (imageTool e)).isSome = true := State.splitPrior_idle hst
  refine exec_splitTurn_offers h (u := u) ?_
  rw [hprior]
  exact hcheck

end

/-! ## The outcomes of an outbound transfer -/

section
variable {s : State} {n : Nat} {x : Xfer} (hready : s.power.ready = true) (hx : s.xfer n = some x) (hout : x.outbound = true)
include hready hx hout

/-- REFUSED returns the session to its source state and forgets the transfer; no other session changes. -/
theorem exec_refused_settles (hphase : x.phase = .offered) (reason : Nat) :
    ∃ t : State, exec (.refused n reason) s = .next (t.complete? x.ctx Code.handoffRefused reason 0 x.session) ∧ t.xfer n = none ∧
      (∀ m : Move, (s.aux x.session).move = some m → (t.sess x.session).state = m.src ∧ (t.aux x.session).move = none) ∧
      ∀ k, k ≠ x.session → t.sess k = s.sess k := by
  refine ⟨_, exec_refused_returns hready hx hout hphase reason, by simp, fun m hm => ?_, fun k hk => ?_⟩
  · obtain ⟨hsess, haux⟩ := State.backToSource_same (s := s.dropMoveWork x.session) (m := m) hm
    exact ⟨congrArg Session.state hsess, congrArg SessAux.move haux⟩
  · exact ((s.dropMoveWork x.session).backToSource_others x.session).sess k hk

/-- HANDOFF_IN frees the session that moves and forgets the transfer; no other session changes. -/
theorem exec_handoffIn_settles {m : Move} (epoch index : Nat) (hst : (s.sess x.session).state = .moving) (hm : (s.aux x.session).move = some m)
    (hkind : m.kind = .handoff) (hab : m.abandoned = false) (hturn : x.turn = none) (hphase : x.phase ≠ .reclaimed) :
    ∃ t : State, exec (.handoffIn n epoch index) s = .next (t.complete? x.ctx Code.ok index 0 x.session) ∧ (t.sess x.session).state = .free ∧
      t.xfer n = none ∧ ∀ k, k ≠ x.session → (t.sess k).state = (s.sess k).state := by
  obtain ⟨hfree, hother⟩ := s.handedOver_frees x.session
  refine ⟨_, exec_handoffIn_over hready hx hout epoch index hst hm hkind hab hturn hphase, ?_, by simp, fun k hk => ?_⟩
  · simpa using hfree
  · simpa using congrArg Session.state (hother k hk)

/-- The orphan timer asks again before the last query. -/
theorem exec_orphanTimer_queries (hfrees : s.fabric.peerFrees = []) (hphase : x.phase ≠ .reclaimed) (hwait : x.waitIn = false)
    (hdue : x.since + s.orphanUs ≤ s.now) (hmore : x.queries < s.queryMax) :
    ∃ t : State, exec (.orphanTimer n) s = .next t ∧ t.xfer n = some { x with queries := x.queries + 1, since := s.now } ∧ t.sessions = s.sessions :=
  ⟨_, exec_orphanTimer_asks hready hx hout hfrees hphase hwait hdue hmore, by simp, by simp⟩

end

/-- Settles O51: a split turn that passes its checks is offered (`exec_splitTurn_offers`, `exec_splitTurn_plain`), and each message or timer of an
outbound transfer is the lemma about it. -/
theorem ownershipSent : Obligations.OwnershipSent := by
  unfold Obligations.OwnershipSent
  refine fun s => ⟨?_, fun hready n x hx hout => ?_⟩
  · intro job well d bs s0 i s1 e tool s2 prior offered hserves hnames hhbm hfetch hkind hsame hfields hroute hsettled hroom hsingle
    have hsplit : s.SplitServes job well i d e bs :=
      ⟨hserves, rfl, hnames, hhbm, hfetch, rfl, hkind, hsame, hfields, hroute, hsettled, hroom, hsingle⟩
    refine ⟨fun u hcheck => exec_splitTurn_offers hsplit hcheck, ?_⟩
    intro m v ids len hst hhere hgrammar hadapter hblock hmax hspec hnoTools hmodel hwhole himage hvocab hvocabWhole hclear hids hcount hinHbm htext
      hinVocab hlength hreqRoom hquota
    exact exec_splitTurn_plain hsplit hst ⟨hhere, hgrammar, hadapter, hblock, hmax, hspec, hnoTools, hmodel, hwhole, himage, hvocab, hvocabWhole,
      hclear, hids, hcount, hinHbm, htext, hinVocab, hlength, hreqRoom, hquota⟩
  · refine ⟨fun hphase => ⟨exec_ready_sends hready hx hout hphase, fun e c => exec_ready_splits hready hx hout hphase,
      exec_refused_settles hready hx hout hphase⟩, fun epoch index => ⟨fun m => exec_handoffIn_settles hready hx hout epoch index,
      fun hphase => ⟨exec_handoffIn_reclaimed hready hx hout epoch index hphase, exec_relinquished_forgets hready hx hout epoch hphase⟩,
      fun a => exec_handoffIn_carried hready hx hout epoch index⟩, exec_mine_waits hready hx hout, ?_, ?_,
      exec_orphanTimer_queries hready hx hout, exec_phaseTimer_splits hready hx hout⟩
    · intro m hphase hturn hm hdam hclosing back
      have hback := State.reclaim_goesBack (n := n) hturn hm hdam hclosing
      exact ⟨⟨_, exec_notMine_reclaims hready hx hout hphase, hback⟩,
        fun hfrees hdue hwait hlast => ⟨_, exec_orphanTimer_reclaims hready hx hout hfrees hphase hwait hdue hlast, hback⟩⟩
    · intro hturn hoffered hphase
      rw [exec_notMine_reclaims hready hx hout hphase, State.reclaim_split hturn hoffered]

end Sys2Proof.Machine
end

section
/-!
SUPPORT. Operations of the flash (14_flash_cistern): moving grains and erasing the blocks they left change no mapping; closing a stripe maps the client
grains in it; making trims durable and failing a move leave the flash and the pins.
-/
namespace Sys2Proof.Machine

open Sys2Proof

/-! ## Operations that only move grains (R383, R389 to R393) -/

/-- Two states of the flash that differ only in where grains wait and lie: the same mapping, sequence number, state, retired blocks and failed dies. -/
structure Ftl.OnlyMoves (f g : Ftl) : Prop where
  map : g.map = f.map
  seq : g.seq = f.seq
  state : g.state = f.state
  stopped : g.stopped = f.stopped
  retired : g.retired = f.retired
  failedDies : g.failedDies = f.failedDies
  blocks : ∀ k, (g.block k).retired = (f.block k).retired

/-- The same, with the same blocks chosen for an erase: what handing grains to a stream can change. -/
structure Ftl.HandsOn (f g : Ftl) : Prop extends Ftl.OnlyMoves f g where
  eraseBlocks : g.eraseBlocks = f.eraseBlocks

section
variable {f g h : Ftl}

theorem Ftl.OnlyMoves.refl (f : Ftl) : f.OnlyMoves f := ⟨rfl, rfl, rfl, rfl, rfl, rfl, fun _ => rfl⟩

theorem Ftl.OnlyMoves.trans (a : f.OnlyMoves g) (b : g.OnlyMoves h) : f.OnlyMoves h :=
  ⟨b.map.trans a.map, b.seq.trans a.seq, b.state.trans a.state, b.stopped.trans a.stopped, b.retired.trans a.retired,
    b.failedDies.trans a.failedDies, fun k => (b.blocks k).trans (a.blocks k)⟩

theorem Ftl.OnlyMoves.foldl {α : Type} {r : Ftl → α → Ftl} (hr : ∀ (f : Ftl) (a : α), f.OnlyMoves (r f a)) (l : List α) (f : Ftl) :
    f.OnlyMoves (l.foldl r f) :=
  List.foldlRecOn (motive := fun g => f.OnlyMoves g) l r (.refl f) fun g hg a _ => hg.trans (hr g a)

theorem Ftl.HandsOn.refl (f : Ftl) : f.HandsOn f := ⟨.refl f, rfl⟩

theorem Ftl.HandsOn.trans (a : f.HandsOn g) (b : g.HandsOn h) : f.HandsOn h :=
  ⟨a.toOnlyMoves.trans b.toOnlyMoves, b.eraseBlocks.trans a.eraseBlocks⟩

end

/-- An update of one block that leaves whether it is retired leaves that of every block. -/
theorem mmod_retired {r : Block → Block} (hr : ∀ b, (r b).retired = b.retired) (m : Map Block) (i k : Nat) :
    (mgetD (mmod m i {} r) k {}).retired = (mgetD m k {}).retired := by
  rw [mgetD_mmod]
  split
  next h => rw [hr, h]
  next => rfl

theorem foldl_mmod_retired {r : Block → Block} (hr : ∀ b, (r b).retired = b.retired) (is : List Nat) (m : Map Block) (k : Nat) :
    (mgetD (is.foldl (fun m i => mmod m i {} r) m) k {}).retired = (mgetD m k {}).retired :=
  List.foldlRecOn (motive := fun (n : Map Block) => (mgetD n k {}).retired = (mgetD m k {}).retired) is _ rfl fun n hn i _ =>
    (mmod_retired hr n i k).trans hn

section
variable {f g : Ftl} {stream die n : Nat} {sb : SuperBlock}

theorem Ftl.openNew_handsOn (h : f.openNew stream die = some (n, sb, g)) : f.HandsOn g := by
  unfold Ftl.openNew at h
  rw [Option.map_eq_some_iff] at h
  obtain ⟨bs, -, h⟩ := h
  cases h
  exact ⟨⟨rfl, rfl, rfl, rfl, rfl, rfl, foldl_mmod_retired (r := fun b => { b with owner := f.nextSuper }) (fun _ => rfl) bs f.blocks⟩, rfl⟩

theorem Ftl.target_handsOn (h : f.target stream = some (n, sb, g)) : f.HandsOn g := by
  obtain ⟨i, -, hi⟩ := List.exists_of_findSome?_eq_some h
  dsimp only at hi
  split at hi
  · split at hi
    · cases hi
      exact .refl f
    · cases hi
  · exact Ftl.openNew_handsOn hi

end

theorem Ftl.fill_handsOn (n stream now : Nat) (f : Ftl) : f.HandsOn (Ftl.fill n stream now f) := by
  induction n generalizing f with
  | zero => exact .refl f
  | succ n ih =>
    rw [Ftl.fill]
    split
    · exact .refl f
    · split
      · exact .refl f
      · split
        · exact .refl f
        next k sb g h =>
          refine .trans ?_ (ih _)
          exact (Ftl.target_handsOn h).trans ⟨⟨rfl, rfl, rfl, rfl, rfl, rfl, fun _ => rfl⟩, rfl⟩

section
variable (f : Ftl)

theorem Ftl.enqueue_handsOn (stream now : Nat) (gs : List (Nat × Nat × Nat)) : f.HandsOn (f.enqueue stream now gs) := by
  refine .trans ?_ (Ftl.fill_handsOn _ stream now _)
  exact ⟨⟨rfl, rfl, rfl, rfl, rfl, rfl, fun _ => rfl⟩, rfl⟩

theorem Ftl.countReads_handsOn (lgns : List Nat) : f.HandsOn (f.countReads lgns) := by
  refine ⟨⟨rfl, rfl, rfl, rfl, rfl, rfl, fun k => ?_⟩, rfl⟩
  refine List.foldlRecOn (motive := fun (m : Map Block) => (mgetD m k {}).retired = (f.block k).retired) lgns _ rfl fun m hm l _ => ?_
  split
  · exact hm
  · exact (mmod_retired (r := fun b => { b with reads := b.reads + 1 }) (fun _ => rfl) m _ k).trans hm

theorem Ftl.relocate_handsOn (now : Nat) (blocks : List Nat) : f.HandsOn (f.relocate now blocks) :=
  (f.countReads_handsOn _).trans (Ftl.enqueue_handsOn _ 2 now _)

theorem Ftl.erase_handsOn (blocks : List Nat) : f.HandsOn (f.erase blocks) :=
  ⟨⟨rfl, rfl, rfl, rfl, rfl, rfl, foldl_mmod_retired (r := fun b => { b with erases := b.erases + 1, reads := 0, owner := 0 })
    (fun _ => rfl) blocks f.blocks⟩, rfl⟩

end

/-! ## Erasing what holds no valid grain any more (R389, R392) -/

/-- A victim superblock is erased and forgotten once it holds no valid grain. -/
def Ftl.reapVictim (f : Ftl) (n : Nat) : Ftl :=
  match mget f.supers n with
  | none => { f with victims := f.victims.filter (· != n) }
  | some sb =>
    if (f.validIn sb.blocks).isEmpty then { f.erase sb.blocks with supers := mdel f.supers n, victims := f.victims.filter (· != n) } else f

/-- A chosen block is erased, and no longer chosen, once it holds no valid grain. -/
def Ftl.reapBlock (f : Ftl) (k : Nat) : Ftl :=
  if (f.validIn [k]).isEmpty then
    { f.erase [k] with eraseBlocks := f.eraseBlocks.filter (· != k)
                       blocks := mmod (f.erase [k]).blocks k {} (fun b => { b with retired := (f.block k).retired }) }
  else f

/-- Every victim goes first, then every chosen block. -/
theorem Ftl.reap_eq (f : Ftl) :
    f.reap = (f.victims.foldl Ftl.reapVictim f).eraseBlocks.foldl Ftl.reapBlock (f.victims.foldl Ftl.reapVictim f) := rfl

section
variable (f : Ftl)

theorem Ftl.reapVictim_handsOn (n : Nat) : f.HandsOn (f.reapVictim n) := by
  unfold Ftl.reapVictim
  split
  · exact ⟨⟨rfl, rfl, rfl, rfl, rfl, rfl, fun _ => rfl⟩, rfl⟩
  · split
    · exact (f.erase_handsOn _).trans ⟨⟨rfl, rfl, rfl, rfl, rfl, rfl, fun _ => rfl⟩, rfl⟩
    · exact .refl f

theorem Ftl.reapVictims_handsOn (l : List Nat) : f.HandsOn (l.foldl Ftl.reapVictim f) :=
  List.foldlRecOn (motive := fun g => f.HandsOn g) l _ (.refl f) fun g hg n _ => hg.trans (g.reapVictim_handsOn n)

theorem Ftl.reapBlock_onlyMoves (k : Nat) : f.OnlyMoves (f.reapBlock k) := by
  unfold Ftl.reapBlock
  split
  · refine ⟨rfl, rfl, rfl, rfl, rfl, rfl, fun i => ?_⟩
    refine Eq.trans ?_ ((f.erase_handsOn [k]).blocks i)
    unfold Ftl.block
    rw [mgetD_mmod]
    split
    next h =>
      subst h
      exact ((f.erase_handsOn [i]).blocks i).symm
    next => rfl
  · exact .refl f

theorem Ftl.reap_onlyMoves : f.OnlyMoves f.reap := by
  rw [Ftl.reap_eq]
  exact (f.reapVictims_handsOn f.victims).toOnlyMoves.trans (.foldl Ftl.reapBlock_onlyMoves _ _)

/-- A block that is chosen for an erase, or that no superblock owns, is so still after one block has been seen to. -/
theorem Ftl.reapBlock_chosen {i : Nat} (k : Nat) (h : i ∈ f.eraseBlocks ∨ (f.block i).owner = 0) :
    i ∈ (f.reapBlock k).eraseBlocks ∨ ((f.reapBlock k).block i).owner = 0 := by
  unfold Ftl.reapBlock
  split
  · by_cases hi : i = k
    · right
      subst hi
      simp [Ftl.block, Ftl.erase, mgetD_mmod]
    · refine h.imp (fun hin => by simp [hin, hi]) (fun hown => ?_)
      simpa [Ftl.block, Ftl.erase, mgetD_mmod, hi] using hown
  · exact h

/-- A block chosen for an erase is still chosen, or no superblock owns it, once what can be erased is. -/
theorem Ftl.reap_chosen {i : Nat} (h : i ∈ f.eraseBlocks) : i ∈ f.reap.eraseBlocks ∨ (f.reap.block i).owner = 0 := by
  rw [Ftl.reap_eq]
  refine List.foldlRecOn (motive := fun (g : Ftl) => i ∈ g.eraseBlocks ∨ (g.block i).owner = 0) _ _ (.inl ?_) fun g hg k _ => g.reapBlock_chosen k hg
  rw [(f.reapVictims_handsOn f.victims).eraseBlocks]
  exact h

/-- Reporting objects completes them, and hands on the first grains of extents whose other grains are there. -/
theorem Ftl.report_onlyMoves (now : Nat) : f.OnlyMoves (f.report now) := by
  refine Ftl.OnlyMoves.foldl (fun g e => ?_) f.objects f
  have hobj (m : Map FlashObj) : g.OnlyMoves { g with objects := m } := ⟨rfl, rfl, rfl, rfl, rfl, rfl, fun _ => rfl⟩
  dsimp only
  split
  · exact .refl g
  · split
    · split
      · exact hobj _
      · split
        · exact (hobj _).trans (Ftl.enqueue_handsOn _ _ now _).toOnlyMoves
        · exact .refl g
    · split
      · exact hobj _
      · exact .refl g

end

/-! ## Closing a stripe (R381 to R384) -/

/-- Putting a grain in place unmaps none, and maps a client grain. -/
theorem Ftl.settle_only (f : Ftl) (sb : SuperBlock) (i : Nat) (g : Nat × Nat × Nat) (pad : Bool) :
    ∃ p m, f.settle sb i g pad = { f with phys := p, map := m } ∧ (∀ l, (mget f.map l).isSome = true → (mget m l).isSome = true) ∧
      (pad = false → g.2.2 = 0 → (mget m g.1).isSome = true) := by
  have hput (e : W32) (l : Nat) (h : (mget f.map l).isSome = true) : (mget (mput f.map g.1 e) l).isSome = true := by
    rw [mget_mput]
    split
    · rfl
    · exact h
  unfold Ftl.settle
  dsimp only
  split
  next hpad => exact ⟨_, f.map, rfl, fun _ => id, fun h => by simp [hpad] at h⟩
  · split
    · exact ⟨_, _, rfl, hput _, fun _ _ => by simp⟩
    next hold =>
      split
      · exact ⟨_, f.map, rfl, fun _ => id, fun _ h => absurd h hold⟩
      · split
        · exact ⟨_, _, rfl, hput _, fun _ h => absurd h hold⟩
        · exact ⟨_, f.map, rfl, fun _ => id, fun _ h => absurd h hold⟩

/-- Place `i` of a stripe is filled: by the grain that stands there, or by padding. -/
def Ftl.settleAt (sb : SuperBlock) (f : Ftl) (i : Nat) : Ftl :=
  match sb.fill[i]? with
  | some g => f.settle sb i g (g.2.1 == 0x100)
  | none => f.settle sb i (0, 0, 0) true

theorem Ftl.settleAt_only (f : Ftl) (sb : SuperBlock) (i : Nat) :
    ∃ p m, Ftl.settleAt sb f i = { f with phys := p, map := m } ∧ (∀ l, (mget f.map l).isSome = true → (mget m l).isSome = true) ∧
      (∀ g, sb.fill[i]? = some g → g.2.1 ≠ 0x100 → g.2.2 = 0 → (mget m g.1).isSome = true) := by
  unfold Ftl.settleAt
  split
  next g hg =>
    obtain ⟨p, m, h, hkeep, hmap⟩ := f.settle_only sb i g (g.2.1 == 0x100)
    refine ⟨p, m, h, hkeep, fun g' hg' hkind hnew => ?_⟩
    cases hg.symm.trans hg'
    exact hmap (by simpa using hkind) hnew
  next hnone =>
    obtain ⟨p, m, h, hkeep, -⟩ := f.settle_only sb i (0, 0, 0) true
    exact ⟨p, m, h, hkeep, fun g hg => by simp [hnone] at hg⟩

/-- The places of a stripe one after the other: every client grain in them is mapped. -/
theorem Ftl.settleAll_only (is : List Nat) (f : Ftl) (sb : SuperBlock) :
    ∃ p m, is.foldl (Ftl.settleAt sb) f = { f with phys := p, map := m } ∧ (∀ l, (mget f.map l).isSome = true → (mget m l).isSome = true) ∧
      (∀ i ∈ is, ∀ g, sb.fill[i]? = some g → g.2.1 ≠ 0x100 → g.2.2 = 0 → (mget m g.1).isSome = true) := by
  induction is generalizing f with
  | nil => exact ⟨f.phys, f.map, rfl, fun _ => id, fun i hi => absurd hi List.not_mem_nil⟩
  | cons i is ih =>
    obtain ⟨p, m, h, hkeep, hmap⟩ := f.settleAt_only sb i
    obtain ⟨p', m', h', hkeep', hmap'⟩ := ih { f with phys := p, map := m }
    refine ⟨p', m', by rw [List.foldl_cons, h, h'], fun l hl => hkeep' l (hkeep l hl), fun j hj g hg hkind hnew => ?_⟩
    obtain rfl | hj := List.mem_cons.1 hj
    · exact hkeep' _ (hmap g hg hkind hnew)
    · exact hmap' j hj g hg hkind hnew

/-- Closing a stripe raises the sequence number, and maps every client grain in it. -/
theorem Ftl.closeStripe_maps (f : Ftl) (n : Nat) (sb : SuperBlock) :
    f.seq < (f.closeStripe n sb).seq ∧
      (sb.fill.length ≤ stripeGrains → ∀ g ∈ sb.fill, g.2.2 = 0 → g.2.1 ≠ 0x100 → (mget (f.closeStripe n sb).map g.1).isSome = true) := by
  obtain ⟨p, m, h, -, hmap⟩ := Ftl.settleAll_only (List.range stripeGrains) { f with seq := f.seq + 1 } sb
  have hclose : ∃ d q, f.closeStripe n sb = { f with phys := p, map := m, seq := f.seq + 1 + d, supers := q } := by
    unfold Ftl.closeStripe
    dsimp only
    generalize hk : List.foldl _ _ (List.range stripeGrains) = k
    obtain rfl : k = { f with phys := p, map := m, seq := f.seq + 1 } := hk.symm.trans h
    split
    · exact ⟨summaryStripes, _, rfl⟩
    · exact ⟨0, _, rfl⟩
  obtain ⟨d, q, hclose⟩ := hclose
  rw [hclose]
  refine ⟨by dsimp only; omega, fun hlen g hg hnew hkind => ?_⟩
  obtain ⟨i, hi, hgi⟩ := List.getElem_of_mem hg
  exact hmap i (List.mem_range.2 (hi.trans_le hlen)) g (hgi ▸ List.getElem?_eq_getElem hi) hkind hnew

/-- What follows the close of a stripe only moves grains; the sessions and the jobs stand. -/
theorem State.stripeClosed_moves {s : State} {stream die n : Nat} {sb : SuperBlock} (h : s.ftl.openSuper stream die = some (n, sb)) :
    (s.ftl.closeStripe n sb).OnlyMoves (s.stripeClosed stream die).ftl ∧ (s.stripeClosed stream die).sessions = s.sessions ∧
      (s.stripeClosed stream die).jobs = s.jobs := by
  have hmoves : (s.ftl.closeStripe n sb).OnlyMoves ((((s.ftl.closeStripe n sb).report s.now).reap).enqueue stream s.now []) :=
    (Ftl.report_onlyMoves _ s.now).trans ((Ftl.reap_onlyMoves _).trans (Ftl.enqueue_handsOn _ _ _ _).toOnlyMoves)
  unfold State.stripeClosed
  rw [h]
  dsimp only
  simp only [State.countReg_eq, State.setReg_ftl, State.setReg_sessions, State.setReg_jobs, and_self, and_true]
  exact hmoves

/-! ## Trims that become durable leave the flash (R387) -/

/-- Two states with the same flash, requests and pins. -/
structure State.SameFlash (s t : State) : Prop where
  ftl : t.ftl = s.ftl
  reqs : t.reqs = s.reqs
  pins : t.pins = s.pins

section
variable {s t u : State}

theorem State.SameFlash.refl (s : State) : s.SameFlash s := ⟨rfl, rfl, rfl⟩

theorem State.SameFlash.trans (h : s.SameFlash t) (g : t.SameFlash u) : s.SameFlash u :=
  ⟨g.ftl.trans h.ftl, g.reqs.trans h.reqs, g.pins.trans h.pins⟩

theorem State.SameFlash.foldl {α : Type} {f : State → α → State} (hf : ∀ (s : State) (a : α), s.SameFlash (f s a)) (l : List α) (s : State) :
    s.SameFlash (l.foldl f s) :=
  List.foldlRecOn (motive := fun t => s.SameFlash t) l f (.refl s) fun t ht a _ => ht.trans (hf t a)

end

section
variable (s : State)

theorem State.complete_sameFlash (c : DescCtx) (status result req session : Nat) : s.SameFlash (s.complete c status result req session) := by
  obtain ⟨js, fs, q, m, r, h, e, -⟩ := s.complete_only c status result req session
  rw [e]
  exact ⟨rfl, rfl, rfl⟩

theorem State.opened_sameFlash (i : Nat) : s.SameFlash (s.opened i) := by
  obtain ⟨a, q, m, r, g, c, b, h⟩ := s.opened_only i
  rw [h]
  exact ⟨rfl, rfl, rfl⟩

theorem State.settle_sameFlash (i : Nat) : s.SameFlash (s.settle i) := by
  unfold State.settle
  dsimp only
  split
  · refine (s.opened_sameFlash i).trans (.trans (t := (s.opened i).without i) ⟨rfl, rfl, rfl⟩ ?_)
    exact .foldl (fun t c => t.complete_sameFlash c Code.ok 0 0 i) _ _
  · exact .refl s

theorem State.trimsDurable_sameFlash : s.SameFlash s.trimsDurable :=
  .foldl (fun t _ => .trans (t := t.modAux _ _) ⟨rfl, rfl, rfl⟩ (State.settle_sameFlash _ _)) _ s

end

/-- With no session waiting for its trims, their becoming durable changes nothing more. -/
theorem State.trimsDurable_none {s : State} (h : s.sessAux.all (fun e => !e.2.waitTrim) = true) : s.trimsDurable = s := by
  have hnone : s.sessAux.filter (fun e => e.2.waitTrim) = [] := by simpa [List.filter_eq_nil_iff] using h
  rw [State.trimsDurable, hnone]
  rfl

/-! ## A move that fails leaves the pins (R78) -/

section
variable (s : State)

theorem State.completeAny_pins (c : Option DescCtx) (status result req session : Nat) :
    (s.complete? c status result req session).pins = s.pins := by
  cases c with
  | none => rfl
  | some c => exact (s.complete_sameFlash c status result req session).pins

theorem State.sessEvent_pins (i status result : Nat) : (s.sessEvent i status result).pins = s.pins := by
  unfold State.sessEvent
  split
  · rfl
  · obtain ⟨js, fs, q, m, r, h, e, -⟩ := s.post_only (s.sess i).job (s.sess i).eventWell _
    rw [State.event, e]

theorem State.freeDest_pins (i : Nat) (m : Move) : (s.freeDest i m).pins = s.pins := by
  unfold State.freeDest
  dsimp only
  split
  · obtain ⟨f, js, h⟩ := s.extentFree_only (s.sess i).job m.dest (extentLen (s.pairs i) m.retained)
    rw [h]
  · split
    · unfold State.peerRelease
      dsimp only
      generalize hu : State.send _ _ _ _ _ _ _ _ _ = u
      obtain ⟨q, h, f, r, e⟩ := hu ▸ State.send_only _ _ _ _ _ _ _ _ _
      rw [e]
    · rfl

theorem State.enqueueMove_pins (i count : Nat) : (s.enqueueMove i count).pins = s.pins := by
  obtain ⟨f, p, h, b, r, e⟩ := s.enqueueMove_only i count
  rw [e]
  rfl

theorem State.placeUp_pins (i : Nat) (m : Move) : (s.placeUp i m).pins = s.pins := by
  unfold State.placeUp
  dsimp only
  rw [State.enqueueMove_pins]
  generalize hdata : s.placeAll _ _ _ _ _ _ = data
  obtain ⟨n, hn⟩ : ∃ n, data.2 = s.drawnTo n := hdata ▸ s.placeAll_only _ _ _ _ _ _
  rw [hn]
  generalize hmaps : (s.drawnTo n).withMaps _ _ _ _ _ _ = maps
  obtain ⟨n', hn'⟩ : ∃ n', maps.2 = s.drawnTo n' := hmaps ▸ (s.drawnTo n).withMaps_only _ _ _ _ _ _
  rw [hn']
  rfl

theorem State.retryUp_pins (j : Nat) : (s.retryUp j).pins = s.pins := by
  refine List.foldlRecOn (motive := fun (t : State) => t.pins = s.pins) _ _ rfl fun t ht e _ => ?_
  dsimp only
  split
  · exact ht
  · split
    · exact ht
    · split
      · exact (t.placeUp_pins _ _).trans ht
      · split
        · exact ht
        · exact (State.completeAny_pins _ _ _ _ _ _).trans ht

theorem State.moveFails_pins (i code : Nat) (damaged : Bool) : (s.moveFails i code damaged).pins = s.pins := by
  unfold State.moveFails
  extract_lets x
  split
  · rfl
  · split
    · rfl
    next m _ _ =>
      extract_lets freed back failed told
      have htold : told.pins = failed.pins := by
        unfold told
        split
        · exact failed.completeAny_pins _ _ _ _ _
        · exact failed.sessEvent_pins _ _ _
        · exact (State.sessEvent_pins _ _ _ _).trans (failed.completeAny_pins _ _ _ _ _)
      calc (told.retryUp x.job).pins = told.pins := told.retryUp_pins _
        _ = failed.pins := htold
        _ = freed.pins := rfl
        _ = s.pins := (s.dropMoveWork i).freeDest_pins i m

end

end Sys2Proof.Machine
end

section
/-!
PROOF. Stripes, trims, collection, failures and power fail (14_flash_cistern, R382 to R387, R389 to R393, R395, R396; Table 14.4): obligation
FlashEvents.
-/
namespace Sys2Proof.Machine

open Sys2Proof

/-! ## What the flash events run -/

section
variable (s : State)

theorem exec_eq_stripeClose (stream die : Nat) : exec (.stripeClose stream die) s = execStripeClose stream die s := rfl
theorem exec_eq_stripePadTimer (stream die : Nat) : exec (.stripePadTimer stream die) s = execStripePadTimer stream die s := rfl
theorem exec_eq_trimJournalWrite : exec .trimJournalWrite s = execTrimJournalWrite s := rfl
theorem exec_eq_garbageCollection : exec .garbageCollection s = execGarbageCollection s := rfl
theorem exec_eq_readRefresh (ch die plane block : Nat) : exec (.readRefresh ch die plane block) s = execReadRefresh ch die plane block s := rfl
theorem exec_eq_eraseFail (ch die plane block : Nat) : exec (.eraseFail ch die plane block) s = execEraseFail ch die plane block s := rfl
theorem exec_eq_pageProgramFail (ch die plane block page : Nat) :
    exec (.pageProgramFail ch die plane block page) s = execPageProgramFail ch die plane block page s := rfl
theorem exec_eq_dieFail (ch die : Nat) : exec (.dieFail ch die) s = execDieFail ch die s := rfl
theorem exec_eq_powerFailWarning (us : Nat) : exec (.powerFailWarning us) s = execPowerFailWarning us s := rfl
theorem exec_eq_powerFailClear : exec .powerFailClear s = execPowerFailClear s := rfl

end

theorem State.ifUp_down {s : State} (h : s.regsUp = false) (r : Res) : s.ifUp r = .next s := if_neg (by simp [h])

/-! ## Stripes (R383, R384) -/

section
variable {s : State} (hup : s.regsUp = true)
include hup

section
variable {stream die n : Nat} {sb : SuperBlock} (hopen : s.ftl.openSuper stream die = some (n, sb)) (hgo : s.ftl.stopped = false)
include hopen hgo

/-- STRIPE_CLOSE closes a full stripe, and no other. -/
theorem exec_stripeClose : exec (.stripeClose stream die) s =
    .next (if sb.fill.length = stripeGrains then (s.stripeClosed stream die).looks else s) := by
  rw [exec_eq_stripeClose, execStripeClose, State.ifUp_up hup, hopen]
  dsimp only
  by_cases hfull : sb.fill.length = stripeGrains
  · rw [if_pos ⟨hfull, hgo⟩, if_pos hfull]
  · rw [if_neg fun h => hfull h.1, if_neg hfull]

/-- STRIPE_PAD_TIMER closes a partly filled stripe that has waited, and no other. -/
theorem exec_stripePadTimer : exec (.stripePadTimer stream die) s =
    .next (if sb.fill ≠ [] ∧ fld (s.reg Reg.ftlRdCtl) 32 16 ≤ s.now - sb.filledAt then (s.stripeClosed stream die).looks else s) := by
  rw [exec_eq_stripePadTimer, execStripePadTimer, State.ifUp_up hup, hopen]
  dsimp only
  by_cases hdue : sb.fill ≠ [] ∧ fld (s.reg Reg.ftlRdCtl) 32 16 ≤ s.now - sb.filledAt
  · rw [if_pos ⟨hdue.1, hdue.2, hgo⟩, if_pos hdue]
  · rw [if_neg fun h => hdue ⟨h.1, h.2.1⟩, if_neg hdue]

end

/-- TRIM_JOURNAL_WRITE makes the waiting trims durable (R387). -/
theorem exec_trimJournalWrite : ∃ t : State, exec .trimJournalWrite s = .next t ∧ t.ftl.durable = s.ftl.durable ++ s.ftl.trims ∧
    t.ftl.trims = [] ∧ t.ftl.map = s.ftl.map ∧ t.reqs = s.reqs ∧ (s.sessAux.all (fun e => !e.2.waitTrim) = true → t.sessions = s.sessions) := by
  let u : State := { s with ftl := { s.ftl with durable := s.ftl.durable ++ s.ftl.trims, trims := [] } }
  have hflash : u.SameFlash u.trimsDurable := u.trimsDurable_sameFlash
  refine ⟨u.trimsDurable, by rw [exec_eq_trimJournalWrite, execTrimJournalWrite, State.ifUp_up hup], ?_, ?_, ?_, hflash.reqs, fun hnone => ?_⟩
  · rw [hflash.ftl]
  · rw [hflash.ftl]
  · rw [hflash.ftl]
  · rw [State.trimsDurable_none (s := u) hnone]

/-! ## Collection and refresh (R389, R392) -/

/-- Collection changes the flash alone, and no mapping in it. -/
theorem exec_garbageCollection_moves : ∃ f : Ftl, exec .garbageCollection s = .next { s with ftl := f } ∧ f.map = s.ftl.map ∧
    (64 ≤ s.ftl.freeSupers ∨ s.ftl.stopped = true → f = s.ftl) := by
  rw [exec_eq_garbageCollection, execGarbageCollection, State.ifUp_up hup]
  dsimp only
  split
  · exact ⟨s.ftl, rfl, rfl, fun _ => rfl⟩
  next hgo =>
    split
    · exact ⟨s.ftl, rfl, rfl, fun _ => rfl⟩
    next n _ sb _ =>
      let chosen : Ftl := { s.ftl with victims := s.ftl.victims ++ [n] }
      have hmoves : chosen.OnlyMoves (chosen.relocate s.now sb.blocks).reap :=
        (chosen.relocate_handsOn s.now sb.blocks).toOnlyMoves.trans (Ftl.reap_onlyMoves _)
      exact ⟨_, rfl, hmoves.map, fun hstop => absurd (.inr hstop) hgo⟩

/-- A refresh changes the flash alone, and no mapping in it; a block that it takes up waits for its erase, or is erased. -/
theorem exec_readRefresh_moves (ch die plane block : Nat) :
    let k := blockKey ch die plane block
    ∃ f : Ftl, exec (.readRefresh ch die plane block) s = .next { s with ftl := f } ∧ f.map = s.ftl.map ∧
      (2 ≤ s.ftl.state → s.ftl.stopped = false → s.ftl.victims.contains (s.ftl.block k).owner = false → s.ftl.eraseBlocks.contains k = false →
        k ∈ f.eraseBlocks ∨ (f.block k).owner = 0) := by
  intro k
  rw [exec_eq_readRefresh, execReadRefresh, State.ifUp_up hup]
  dsimp only
  split
  next hstay =>
    refine ⟨s.ftl, rfl, rfl, fun hstate hgo hvictim hchosen => ?_⟩
    obtain h | h | h | h := hstay
    · omega
    · simp [hgo] at h
    · exact absurd h (by rw [hvictim]; simp)
    · exact absurd h (by rw [hchosen]; simp)
  · let chosen : Ftl := { s.ftl with eraseBlocks := s.ftl.eraseBlocks ++ [k] }
    have hhands : chosen.HandsOn (chosen.relocate s.now [k]) := chosen.relocate_handsOn s.now [k]
    refine ⟨_, rfl, (hhands.toOnlyMoves.trans (Ftl.reap_onlyMoves _)).map, fun _ _ _ _ => Ftl.reap_chosen _ ?_⟩
    rw [hhands.eraseBlocks]
    simp [chosen]

end

/-! ## Failures (R391, R393) -/

/-- A block of the flash `f` is retired in `g`: the reserve shrinks by one, and below 4 % of the raw capacity an ONLINE flash is READONLY. -/
structure Ftl.Retires (f g : Ftl) (k : Nat) : Prop where
  block : (g.block k).retired = true
  retired : g.retired = f.retired + 1
  map : g.map = f.map
  state : f.state = 2 → g.state = if (totalBlocks * 12 / 100 - (f.retired + 1)) * 100 < 4 * totalBlocks then 3 else 2

theorem Ftl.wear_eq (f : Ftl) : f.wear = { f with state := if f.state = 2 ∧ f.reserveLeft * 100 < 4 * totalBlocks then 3 else f.state } := by
  unfold Ftl.wear
  split <;> rfl

theorem Ftl.retire_retires {f : Ftl} {k : Nat} (h : (f.block k).retired = false) : f.Retires (f.retire k) k := by
  unfold Ftl.retire
  rw [if_neg (by simp [h]), Ftl.wear_eq]
  exact ⟨by simp [Ftl.block, mgetD_mmod], rfl, rfl, fun hstate => by simp only [Ftl.reserveLeft, hstate, true_and]⟩

/-- What only moves grains before a block is retired does not bear on what its retirement says. -/
theorem Ftl.OnlyMoves.retire {f g : Ftl} {k : Nat} (h : f.OnlyMoves g) (hk : (f.block k).retired = false) : f.Retires (g.retire k) k := by
  obtain ⟨hblock, hretired, hmap, hstate⟩ := Ftl.retire_retires ((h.blocks k).trans hk)
  refine ⟨hblock, by rw [hretired, h.retired], hmap.trans h.map, fun hf => ?_⟩
  rw [hstate (h.state.trans hf), h.retired]

section
variable {s : State} (hup : s.regsUp = true)
include hup

section
variable {ch die plane block : Nat} (hstate : 2 ≤ s.ftl.state) (hgood : (s.ftl.block (blockKey ch die plane block)).retired = false)
include hstate hgood

/-- ERASE_FAIL retires its block at once. -/
theorem exec_eraseFail_retires : ∃ f : Ftl, exec (.eraseFail ch die plane block) s = .next { s with ftl := f } ∧
    s.ftl.Retires f (blockKey ch die plane block) := by
  rw [exec_eq_eraseFail, execEraseFail, State.ifUp_up hup, if_neg (by omega)]
  exact ⟨_, rfl, Ftl.retire_retires hgood⟩

/-- PAGE_PROGRAM_FAIL hands the page's grains and the block's valid ones on, and retires the block. -/
theorem exec_pageProgramFail_retires (page : Nat) : ∃ f : Ftl, exec (.pageProgramFail ch die plane block page) s = .next { s with ftl := f } ∧
    s.ftl.Retires f (blockKey ch die plane block) := by
  rw [exec_eq_pageProgramFail, execPageProgramFail, State.ifUp_up hup]
  extract_lets f k again relocated
  rw [if_neg (Nat.not_lt.2 hstate)]
  have hagain : f.OnlyMoves again := by
    unfold again
    split
    · exact .refl f
    · split
      · exact .refl f
      · exact ⟨rfl, rfl, rfl, rfl, rfl, rfl, fun _ => rfl⟩
  have hmoves : f.OnlyMoves relocated := hagain.trans (again.relocate_handsOn s.now [k]).toOnlyMoves
  exact ⟨_, rfl, hmoves.retire hgood⟩

end

/-- DIE_FAIL marks a die of the flash failed and takes it out of service; no mapping changes. -/
theorem exec_dieFail_marks {ch die : Nat} (hstate : s.ftl.state ≠ 0) (hch : ch < 32) (hdie : die < 16) (hgood : s.ftl.dieFailed ch die = false) :
    ∃ t : State, exec (.dieFail ch die) s = .next t ∧ t.ftl.map = s.ftl.map ∧ t.sessions = s.sessions ∧
      (if die < Config.flashDies then t.ftl.dieFailed ch die = true ∧ (mget t.errs.units (unitKey .die (16 * ch + die))).map (·.state) = some 1
       else t = s) := by
  refine ⟨s.dieFail ch die, by rw [exec_eq_dieFail, execDieFail, State.ifUp_up hup], ?_⟩
  unfold State.dieFail
  extract_lets f failed
  by_cases hhas : die < Config.flashDies
  · rw [if_neg (by simp [f, hstate, hch, hhas, hgood]), if_pos hhas]
    have hmoves : failed.OnlyMoves (failed.enqueue 2 s.now (failed.validOnDie ch die)) := (failed.enqueue_handsOn 2 s.now _).toOnlyMoves
    refine ⟨hmoves.map, rfl, ?_, by simp⟩
    rw [Ftl.dieFailed, hmoves.failedDies]
    simp [failed, hdie]
  · rw [if_pos (.inr (.inr (.inl (Nat.le_of_not_lt hhas)))), if_neg hhas]
    exact ⟨rfl, rfl, rfl⟩

end

/-! ## Power fail (R395, R396) -/

section
variable (f : Ftl) (moves : List (Nat × Nat))

/-- The close of Table 14.4 leaves no grain in a stripe. -/
theorem Ftl.powerClose_fill : ∀ e ∈ (f.powerClose moves).supers, e.2.fill = [] := by
  intro e he
  obtain ⟨o, -, rfl⟩ := List.mem_map.1 he
  dsimp only
  split
  next hempty => exact List.isEmpty_iff.1 hempty
  next => rfl

/-- The close of Table 14.4 drops the extents of the moves in progress. -/
theorem Ftl.powerClose_objects {m : Nat × Nat} (hm : m ∈ moves) : ∀ e ∈ (f.powerClose moves).objects, e.1 ≠ m.1 := by
  intro e he heq
  have hkept := (List.mem_filter.1 he).2
  simp only [Bool.not_eq_true', List.any_eq_false, beq_iff_eq] at hkept
  exact hkept m hm heq.symm

end

section
variable {s : State}

/-- POWER_FAIL_WARNING stops writes, closes the stripes, makes the trims durable, drops the extents of moves in progress and counts. -/
theorem exec_powerFailWarning_closes (us : Nat) (hstate : 2 ≤ s.ftl.state) (hpower : s.power.state ≠ .off) :
    ∃ t : State, exec (.powerFailWarning us) s = .next t ∧ t.pins = { s.pins with pwrFail := false } ∧ t.reqs = s.reqs ∧
      t.ftl = { s.ftl.powerClose (s.flashMoves.map (·.2)) with pfSeen := true, pfCount := min 65535 (s.ftl.pfCount + 1), pfUs := min us 1700 } := by
  have hgo : ¬ (s.ftl.state < 2 ∨ s.power.state = .off) := by
    rintro (h | h)
    · omega
    · exact hpower h
  exact ⟨_, if_neg hgo, (State.trimsDurable_sameFlash _).pins, (State.trimsDurable_sameFlash _).reqs, (State.trimsDurable_sameFlash _).ftl⟩

/-- POWER_FAIL_CLEAR sets the pin; writes that were stopped resume. -/
theorem exec_powerFailClear_resumes (hstop : s.ftl.stopped = true) :
    ∃ t : State, exec .powerFailClear s = .next t ∧ t.pins.pwrFail = true ∧ t.ftl.stopped = false := by
  rw [exec_eq_powerFailClear]
  unfold execPowerFailClear
  extract_lets pins high lost failed old f
  rw [if_neg (by simp [high, hstop])]
  have hpins : failed.pins = high.pins :=
    List.foldlRecOn (motive := fun (t : State) => t.pins = high.pins) lost _ rfl fun t ht _ _ => (State.moveFails_pins _ _ _ _).trans ht
  have hresumed : f.OnlyMoves ((List.range 3).foldl (fun f st => f.enqueue st failed.now []) f) :=
    .foldl (fun g st => (g.enqueue_handsOn st failed.now []).toOnlyMoves) _ f
  exact ⟨_, rfl, by dsimp only; rw [hpins], hresumed.stopped⟩

theorem exec_powerFailClear_running (hgo : s.ftl.stopped = false) :
    exec .powerFailClear s = .next { s with pins := { s.pins with pwrFail := true } } := by
  rw [exec_eq_powerFailClear, execPowerFailClear]
  exact if_pos (by simp [hgo])

end

/-! ## The obligation -/

/-- Settles O56: a stripe that is closed maps its client grains (`Ftl.closeStripe_maps`), and all else that is done to the flash only moves grains
(`Ftl.OnlyMoves`); trims that become durable leave the flash (`State.trimsDurable_sameFlash`), and the close at a power-fail warning is
`Ftl.powerClose`. -/
theorem flashEvents : Obligations.FlashEvents := by
  unfold Obligations.FlashEvents
  refine fun s => ⟨fun hup => ⟨?_, exec_trimJournalWrite hup, ?_, ?_, fun ch die => exec_dieFail_marks hup⟩, ?_, ?_,
    exec_powerFailClear_resumes, exec_powerFailClear_running⟩
  · intro stream die n sb hopen hgo u
    obtain ⟨hmoves, hsess, hjobs⟩ := State.stripeClosed_moves hopen
    obtain ⟨hseq, hmaps⟩ := s.ftl.closeStripe_maps n sb
    have hclose := exec_stripeClose hup hopen hgo
    have htimer := exec_stripePadTimer hup hopen hgo
    refine ⟨fun hfull => by rw [hclose, if_pos hfull], fun hfull => by rw [hclose, if_neg hfull],
      fun hsome hdue => by rw [htimer, if_pos ⟨hsome, hdue⟩], fun hearly => by rw [htimer, if_neg fun h => Nat.not_le.2 hearly h.2],
      fun hlen => ⟨fun g hg hnew hkind => ?_, ?_, hsess, hjobs⟩⟩
    · rw [hmoves.map]
      exact hmaps hlen g hg hnew hkind
    · rw [hmoves.seq]
      exact hseq
  · obtain ⟨f, hexec, hmap, hstay⟩ := exec_garbageCollection_moves hup
    exact ⟨_, hexec, hmap, rfl, rfl, fun h => by rw [hstay h]⟩
  · intro ch die plane block k
    refine ⟨?_, fun hstate hgood => ?_⟩
    · obtain ⟨f, hexec, hmap, hchosen⟩ := exec_readRefresh_moves hup ch die plane block
      exact ⟨_, hexec, hmap, rfl, hchosen⟩
    · intro bad
      have hbad {f : Ftl} (h : s.ftl.Retires f k) : bad { s with ftl := f } := ⟨h.block, h.retired, h.map, rfl, h.state⟩
      refine ⟨?_, fun page => ?_⟩
      · obtain ⟨f, hexec, hretires⟩ := exec_eraseFail_retires hup hstate hgood
        exact ⟨_, hexec, hbad hretires⟩
      · obtain ⟨f, hexec, hretires⟩ := exec_pageProgramFail_retires hup hstate hgood page
        exact ⟨_, hexec, hbad hretires⟩
  · intro hdown a b c d e
    exact ⟨State.ifUp_down hdown _, State.ifUp_down hdown _, State.ifUp_down hdown _, State.ifUp_down hdown _, State.ifUp_down hdown _⟩
  · intro us hstate hpower
    obtain ⟨t, hexec, hpins, hreqs, hftl⟩ := exec_powerFailWarning_closes us hstate hpower
    refine ⟨t, hexec, by rw [hpins], ?_⟩
    dsimp only at hftl
    rw [hftl]
    exact ⟨rfl, rfl, rfl, rfl, rfl, rfl, rfl, fun m hm => s.ftl.powerClose_objects (s.flashMoves.map (·.2)) (List.mem_map_of_mem hm),
      s.ftl.powerClose_fill (s.flashMoves.map (·.2)), hreqs⟩

end Sys2Proof.Machine
end

section
/-!
SUPPORT. What the commands of checkpoints and restores leave alone: sessions, requests and HBM; fields of words; host memory as it is read back.
-/
namespace Sys2Proof.Machine

open Sys2Proof

/-! ## What the commands of checkpoints and restores run -/

section
variable (s : State) (job well : Nat) (d : Desc)

theorem exec_eq_checkpoint : exec (.checkpoint job well d) s = execCheckpoint job well d s := rfl
theorem exec_eq_preemptNotice : exec (.preemptNotice job well d) s = execPreemptNotice job well d s := rfl
theorem exec_eq_restore : exec (.restore job well d) s = execRestore job well d s := rfl
theorem exec_eq_ckptFree : exec (.ckptFree job well d) s = execCkptFree job well d s := rfl
theorem exec_eq_ckptEntries (rank : Nat) (xs : List ShardEntry) (ys : List SessRecord) :
    exec (.ckptEntries job rank xs ys) s = execCkptEntries job rank xs ys s := rfl
theorem exec_eq_commitNotice : exec (.commitNotice job) s = execCommitNotice job s := rfl
theorem exec_eq_abortNotice (code : Nat) : exec (.abortNotice job code) s = execAbortNotice job code s := rfl
theorem exec_eq_ckptBudget : exec (.ckptBudget job) s = execCkptBudget job s := rfl
theorem exec_eq_commitNoticeTimeout : exec (.commitNoticeTimeout job) s = execCommitNoticeTimeout job s := rfl

end

/-! ## Operations that leave sessions, requests and HBM alone -/

/-- Two states with the same sessions, the same requests and the same HBM. -/
structure State.SameWork (s t : State) : Prop where
  sess : t.sessions = s.sessions
  reqs : t.reqs = s.reqs
  hbm : t.hbm = s.hbm

section
variable {s t u : State}

theorem State.SameWork.refl (s : State) : s.SameWork s := ⟨rfl, rfl, rfl⟩

theorem State.SameWork.trans (h : s.SameWork t) (g : t.SameWork u) : s.SameWork u :=
  ⟨g.sess.trans h.sess, g.reqs.trans h.reqs, g.hbm.trans h.hbm⟩

theorem State.SameWork.foldl {α : Type} {f : State → α → State} (hf : ∀ (s : State) (a : α), s.SameWork (f s a)) (l : List α) (s : State) :
    s.SameWork (l.foldl f s) :=
  List.foldlRecOn (motive := fun t => s.SameWork t) l f (.refl s) fun t ht a _ => ht.trans (hf t a)

theorem State.SameButPackets.work (h : s.SameButPackets t) : s.SameWork t := by
  obtain ⟨_, _, _, _, _, _, rfl⟩ := h
  exact ⟨rfl, rfl, rfl⟩

end

section
variable (s : State) (j : Nat)

theorem State.peerRelease_work (i : Nat) (a : W64) : s.SameWork (s.peerRelease i j a) := by
  unfold State.peerRelease
  dsimp only
  refine .trans ?_ (State.send_packets ..).work
  exact ⟨rfl, rfl, rfl⟩

/-- Freeing what a checkpoint has written gives back flash, host memory and room at a peer only. -/
theorem State.ckptDrop_work (k : Ckpt) : s.SameWork (s.ckptDrop j k) := by
  have hfree (o : Nat × Nat) (t : State) : t.SameWork
      (if k.target = 2 then t.flashFree o.1 o.2
        else if k.target = 3 then t.t3Give j k.dest o.1
        else t.peerRelease (2 ^ 24) j (gMake 4 k.dest (2 ^ 43 + o.1))) := by
    split
    · exact ⟨rfl, rfl, rfl⟩
    · split
      · exact ⟨rfl, rfl, rfl⟩
      · exact t.peerRelease_work j _ _
  unfold State.ckptDrop
  extract_lets freed
  have hfreed : s.SameWork freed := .foldl (fun t o => hfree o t) k.objects s
  split
  · exact hfreed.trans ⟨rfl, rfl, rfl⟩
  · exact hfreed

theorem State.ckptTell_packets (k : Ckpt) (what code : Nat) (data : List Byte) : s.SameButPackets (s.ckptTell j k what code data) :=
  .foldl (fun s _ => s.send_packets ..) _ s

/-- Rank 0 of a group of one tells nobody. -/
theorem State.ckptTell_alone {k : Ckpt} (hrank : k.rank = 0) (hgroup : k.group = 0) (what code : Nat) (data : List Byte) :
    s.ckptTell j k what code data = s := by
  simp [State.ckptTell, State.ckptNodes, hrank, hgroup]

end

/-! ## Starting the programs that wait touches cores, groups and programs (R148, R150) -/

/-- Two states that differ in cores, groups and programs only. -/
def State.SameButCores (s t : State) : Prop := ∃ cs gs ps, t = { s with cores := cs, groups := gs, progs := ps }

section
variable {s t u : State}

theorem State.SameButCores.trans (h : s.SameButCores t) (g : t.SameButCores u) : s.SameButCores u := by
  obtain ⟨_, _, _, rfl⟩ := h
  obtain ⟨_, _, _, rfl⟩ := g
  exact ⟨_, _, _, rfl⟩

theorem State.SameButCores.foldl {α : Type} {f : State → α → State} (hf : ∀ (s : State) (a : α), s.SameButCores (f s a)) (l : List α)
    (s : State) : s.SameButCores (l.foldl f s) :=
  List.foldlRecOn (motive := fun t => s.SameButCores t) l f ⟨_, _, _, rfl⟩ fun t ht a _ => ht.trans (hf t a)

theorem State.SameButCores.work (h : s.SameButCores t) : s.SameWork t := by
  obtain ⟨_, _, _, rfl⟩ := h
  exact ⟨rfl, rfl, rfl⟩

theorem State.SameButCores.jobs (h : s.SameButCores t) : t.jobs = s.jobs := by
  obtain ⟨_, _, _, rfl⟩ := h
  rfl

end

theorem State.setJobCore_cores (s : State) (j c : Nat) (k : Core) : s.SameButCores (s.setJobCore j c k) := by
  obtain ⟨cs, gs, h⟩ := s.setJobCoreIf_only true j c k
  exact ⟨cs, gs, s.progs, h⟩

theorem State.startProg_cores (s : State) (n : Nat) (p : Prog) : s.SameButCores (s.startProg n p) := by
  unfold State.startProg
  dsimp only
  refine .trans ?_ ⟨_, _, _, rfl⟩
  refine .trans (.trans (.foldl (fun t g => ⟨_, _, _, rfl⟩) _ s) (.foldl (fun t l => t.setJobCore_cores _ _ _) _ _)) (.foldl (fun t g => ?_) _ _)
  split <;> exact ⟨_, _, _, rfl⟩

theorem State.startProgs_cores (s : State) : s.SameButCores s.startProgs := by
  refine .foldl (fun t e => ?_) _ s
  dsimp only
  split
  · exact ⟨_, _, _, rfl⟩
  · exact t.startProg_cores e.1 e.2

/-! ## Fields of a word -/

theorem fld_eq_extract {n : Nat} (x : BitVec n) (lo w : Nat) : fld x lo w = (x.extractLsb' lo w).toNat := by
  rw [BitVec.extractLsb'_toNat, fld]

/-- Bit `i` of a word one of whose fields has been replaced. -/
theorem getLsbD_setFld {n : Nat} (x : BitVec n) (lo w v i : Nat) :
    (setFld x lo w v).getLsbD i = if lo ≤ i ∧ i < lo + w then decide (i < n) && v.testBit (i - lo) else x.getLsbD i := by
  have hpast : i < n ∨ x.getLsbD i = false := by
    by_cases hn : i < n
    · exact .inl hn
    · exact .inr (BitVec.getLsbD_of_ge x i (Nat.not_lt.1 hn))
  simp only [setFld, BitVec.getLsbD_or, BitVec.getLsbD_and, BitVec.getLsbD_not, BitVec.getLsbD_ofNat, Nat.testBit_shiftLeft,
    Nat.testBit_two_pow_sub_one, Nat.testBit_mod_two_pow]
  grind

/-- A field reads as it was last written. -/
theorem fld_setFld_same {n : Nat} (x : BitVec n) {lo w : Nat} (v : Nat) (h : lo + w ≤ n) : fld (setFld x lo w v) lo w = v % 2 ^ w := by
  rw [fld_eq_extract, ← BitVec.toNat_ofNat]
  congr 1
  refine BitVec.eq_of_getLsbD_eq fun i hi => ?_
  simp only [BitVec.getLsbD_extractLsb', getLsbD_setFld, BitVec.getLsbD_ofNat]
  grind

/-- Writing a field leaves the fields beside it. -/
theorem fld_setFld_other {n : Nat} (x : BitVec n) {lo w lo' w' : Nat} (v : Nat) (h : lo + w ≤ lo' ∨ lo' + w' ≤ lo) :
    fld (setFld x lo' w' v) lo w = fld x lo w := by
  rw [fld_eq_extract, fld_eq_extract]
  congr 1
  refine BitVec.eq_of_getLsbD_eq fun i hi => ?_
  simp only [BitVec.getLsbD_extractLsb', getLsbD_setFld, if_neg (show ¬ (lo' ≤ lo + i ∧ lo + i < lo' + w') by omega)]

/-! ## Host memory as it is read back

A byte of host memory that is not listed cannot be read, so a byte written is always listed, in canonical form or not. -/

theorem Memory.find_set_host (m : List Host.Cell) (a x : Nat) (b : Byte) :
    Memory.find (Memory.set none m a b) x = if x = a then some b else Memory.find m x := by
  induction m with
  | nil => simp [Memory.set, Memory.find]
  | cons c m ih =>
    obtain hlt | heq | hgt := Nat.lt_trichotomy a c.1
    · simp only [Memory.set, Memory.find]; grind [Memory.find]
    · simp only [Memory.set, Memory.find]; grind [Memory.find]
    · simp only [Memory.set, Memory.find]; grind [Memory.find]

theorem Memory.find_write_host (m : List Host.Cell) (a x : Nat) (bs : List Byte) :
    Memory.find (Memory.write none m a bs) x = if a ≤ x ∧ x < a + bs.length then bs[x - a]? else Memory.find m x := by
  induction bs generalizing m a with
  | nil => rw [Memory.write, List.length_nil, if_neg (by omega)]
  | cons b bs ih =>
    rw [Memory.write, ih, Memory.find_set_host, List.length_cons]
    obtain hlt | rfl | hgt := Nat.lt_trichotomy x a
    · rw [if_neg (by omega), if_neg (by omega), if_neg (by omega)]
    · simp
    · obtain ⟨n, rfl⟩ := Nat.exists_eq_add_of_lt hgt
      simp only [show a + n + 1 - (a + 1) = n by omega, show a + n + 1 - a = n + 1 by omega, show a + n + 1 ≠ a by omega, if_false,
        List.getElem?_cons_succ]
      grind

theorem mapM_eq_some_map {α β : Type} {f : α → Option β} {g : α → β} {l : List α} (h : ∀ x ∈ l, f x = some (g x)) : l.mapM f = some (l.map g) := by
  induction l with
  | nil => rfl
  | cons x l ih =>
    obtain ⟨hx, hl⟩ := List.forall_mem_cons.1 h
    simp [List.mapM_cons, hx, ih hl]

/-- A run of host memory reads as it was written. -/
theorem Memory.readAll_write_host (m : List Host.Cell) (a : Nat) {bs : List Byte} {off n : Nat} (h : off + n ≤ bs.length) :
    Memory.readAll (Memory.write none m a bs) (a + off) n = some ((bs.drop off).take n) := by
  unfold Memory.readAll
  rw [mapM_eq_some_map (g := fun i => bs.getD (off + i) 0)]
  · refine congrArg some (List.ext_getElem (by simp; omega) fun i hi hi' => ?_)
    rw [List.length_map, List.length_range] at hi
    simp [List.getElem?_eq_getElem (show off + i < bs.length by omega)]
  · intro i hi
    rw [List.mem_range] at hi
    rw [Memory.find_write_host, if_pos (by omega), Nat.add_assoc, Nat.add_sub_cancel_left,
      List.getElem?_eq_getElem (show off + i < bs.length by omega)]
    simp [List.getElem?_eq_getElem (show off + i < bs.length by omega)]
end Sys2Proof.Machine
end

section
/-!
SUPPORT. How a checkpoint goes on and ends (15_checkpoint_restore, R411, R413; Tables 15.5, 15.6).
-/
namespace Sys2Proof.Machine

open Sys2Proof

/-! ## How a checkpoint ends (R411, R413) -/

/-- A checkpoint that fails gets its code; the job then has none in progress, and sessions and requests are as they were. -/
theorem State.ckptFail_ends {s : State} {j : Nat} {k : Ckpt} (h : (s.job j).ckpt = some k) (code : Nat) (tell : Bool) :
    ∃ t : State, s.ckptFail j code tell = t.complete k.ctx code ∧ (t.job j).ckpt = none ∧ t.sessions = s.sessions ∧ t.reqs = s.reqs := by
  unfold State.ckptFail
  rw [h]
  dsimp -zeta only
  extract_lets dropped ended counted told
  have hended : (dropped.modJob j (fun x => { x with ckpt := none })).SameButCores ended := State.startProgs_cores _
  have htold : counted.SameButPackets told := by
    unfold told
    split
    · exact counted.ckptTell_packets j k 2 code []
    · exact .refl counted
  have hwork : s.SameWork told :=
    (s.ckptDrop_work j k).trans <| .trans (t := dropped.modJob j fun x => { x with ckpt := none }) ⟨rfl, rfl, rfl⟩ <|
      hended.work.trans <| .trans (t := counted) ⟨rfl, rfl, rfl⟩ htold.work
  refine ⟨told, rfl, ?_, hwork.sess, hwork.reqs⟩
  have hjobs : told.jobs = (dropped.modJob j (fun x => { x with ckpt := none })).jobs := htold.jobs_eq.trans hended.jobs
  simp [State.job, hjobs, State.setJob]

/-- A checkpoint of job `j` is committed in `t`: the job has none in progress, and CKP_JOB_STAT holds the step and the code OK. -/
structure State.CkptCommitted (s t : State) (j : Nat) (k : Ckpt) : Prop where
  work : s.SameWork t
  host : t.host = s.host
  job : t.job j = { s.job j with ckpt := none }
  step : fld (t.reg (Reg.ckpJobStat j)) 0 32 = fld k.step 0 32
  code : fld (t.reg (Reg.ckpJobStat j)) 32 16 = Code.ok

theorem State.ckptCommit_ends (s : State) (j : Nat) (k : Ckpt) (a : Nat) :
    ∃ t : State, s.ckptCommit j k a = t.complete k.ctx Code.ok a ∧ s.CkptCommitted t j k := by
  have hreg : Reg.ckpJobStat j ≠ Reg.ckpStat := by unfold Reg.ckpJobStat Reg.ckpStat; omega
  refine ⟨_, rfl, ⟨rfl, rfl, rfl⟩, rfl, ?_, ?_, ?_⟩
  · simp [State.ckptStat]
  · simp only [State.countReg_eq, State.reg_setReg, if_neg hreg, State.ckptStat, if_true]
    rw [fld_setFld_other _ _ (by omega), fld_setFld_same _ _ (by omega)]
    exact Nat.mod_eq_of_lt (Nat.mod_lt _ (by decide))
  · simp only [State.countReg_eq, State.reg_setReg, if_neg hreg, State.ckptStat, if_true]
    rw [fld_setFld_same _ _ (by omega)]
    rfl

/-- The state with the checkpoint `k` of job `j` in progress. -/
def State.putCkpt (s : State) (j : Nat) (k : Ckpt) : State := s.modJob j (fun x => { x with ckpt := some k })

@[simp] theorem State.putCkpt_job (s : State) (j : Nat) (k : Ckpt) : (s.putCkpt j k).job j = { s.job j with ckpt := some k } := by
  simp [State.putCkpt]

theorem State.putCkpt_work (s : State) (j : Nat) (k : Ckpt) : s.SameWork (s.putCkpt j k) := ⟨rfl, rfl, rfl⟩

theorem State.putCkpt_host (s : State) (j : Nat) (k : Ckpt) : (s.putCkpt j k).host = s.host := rfl

/-- A checkpoint whose manifest has been written at `a`. -/
def Ckpt.written (k : Ckpt) (a : Nat) : Ckpt := { k with manifest := some a, peerDone := false }

/-! ## How far a checkpoint gets that has nothing left to read (Table 15.6) -/

section
variable {s : State} {j : Nat} {k : Ckpt} (h : (s.job j).ckpt = some k) (hlist : k.list = []) (htables : k.tables = [])
include h hlist htables

/-- It waits until what it has written is durable. -/
theorem State.ckptLook_writing (n : Nat) (hdur : s.ckptDurable k = false) : State.ckptLook (n + 1) s j = s := by
  simp [State.ckptLook, h, hlist, htables, hdur]

variable (hdur : s.ckptDurable k = true) (hrank : k.rank = 0)
include hdur hrank

/-- Rank 0 waits for the entries of every other member. -/
theorem State.ckptLook_lacks (n : Nat) (hlacks : ∃ r < (s.ckptNodes j k).length, r ≠ 0 ∧ r ∉ k.ranks) : State.ckptLook (n + 1) s j = s := by
  obtain ⟨r, hr, h0, hnot⟩ := hlacks
  simp only [State.ckptLook, h, hlist, htables, hdur, hrank, List.isEmpty_nil, List.find?_nil, Bool.not_true, Bool.false_and, Bool.false_eq_true,
    Bool.or_self, if_false, ne_eq, not_true_eq_false]
  exact if_pos (List.any_eq_true.2 ⟨r, List.mem_range.2 hr, by simp [h0, hnot]⟩)

variable (hgroup : k.group = 0)
include hgroup

/-- A device alone writes the manifest. -/
theorem State.ckptLook_writes (n : Nat) (hman : k.manifest = none) {a : Nat} {k' : Ckpt} {u : State}
    (hput : s.ckptPut j k (s.manifest j k) true = .ok (a, k', u)) :
    State.ckptLook (n + 1) s j = State.ckptLook n (u.putCkpt j (k'.written a)) j := by
  rw [State.ckptLook]
  simp [h, hlist, htables, hdur, hrank, hman, hput, State.ckptNodes, hgroup, State.ckptSet, State.putCkpt, Ckpt.written]

/-- A device alone whose manifest is durable commits. -/
theorem State.ckptLook_commits (n : Nat) {a : Nat} (hman : k.manifest = some a) : State.ckptLook (n + 1) s j = s.ckptCommit j k a := by
  rw [State.ckptLook]
  simp [h, hlist, htables, hdur, hrank, hman, State.ckptNodes, hgroup, s.ckptTell_alone j hrank hgroup]

end

/-! ## The manifest (Table 15.5) -/

@[simp] theorem sub_length (bs : List Byte) (off n : Nat) : (sub bs off n).length = n := by
  simp [sub, zeros]

/-- A manifest without entries is its header and its signature. -/
theorem State.manifest_length (s : State) (j : Nat) {k : Ckpt} (hshards : k.shards = []) (hsess : k.sessions = []) :
    (s.manifest j k).length = 128 + if k.sign then sigLen else 0 := by
  unfold State.manifest
  extract_lets body off len head digest
  have hbody : body = [] := by simp [body, hshards, hsess, sortBy]
  have hhead : (head digest).length = 128 := by
    clear_value digest
    simp only [head, List.length_append, leBytes_length]
    split <;> simp [zeros]
  rw [List.length_append, List.length_append, hhead, hbody]
  split <;> simp

theorem State.manifest_head (s : State) (j : Nat) (k : Ckpt) :
    ∃ flags rest, s.manifest j k = leBytes 4 0x4E414D43 ++ flags ++ (leBytes 8 k.id.toNat ++ leBytes 8 k.step.toNat) ++ rest ∧ flags.length = 4 := by
  unfold State.manifest
  extract_lets body off len head digest
  simp only [head, List.append_assoc]
  exact ⟨_, _, rfl, rfl⟩

end Sys2Proof.Machine
end

section
/-!
SUPPORT. How a checkpoint with nothing to wait for begins (15_checkpoint_restore, R401, R405, R407; Table 15.2).
-/
namespace Sys2Proof.Machine

open Sys2Proof

/-! ## Beginning a checkpoint with nothing to wait for (R401, R405, R407) -/

/-- The descriptor is for this device alone and names no adapters, tables, sessions or tensor list; its job has no checkpoint in progress. -/
structure State.AsksBare (s : State) (job : Nat) (d : Desc) (preempt : Bool) : Prop where
  idle : (s.job job).ckpt = none
  budget : preempt = true → dfld d 36 0 32 ≠ 0
  count : dfld d 48 0 17 ≤ 65536
  alone : dfld d 34 0 8 = 0
  noList : dfld d 40 0 64 = 0
  noAdapters : bit d 259 = false
  noTables : bit d 260 = false
  noSessions : bit d 261 = false

/-- The checkpoint that such a descriptor begins. -/
def State.bareCkpt (s : State) (c : DescCtx) (d : Desc) : Ckpt :=
  { ctx := c, id := BitVec.ofNat 64 (dfld d 16 0 64), step := BitVec.ofNat 64 (dfld d 24 0 64), target := dfld d 32 0 3, dest := dfld d 52 0 16
    off := dfld d 56 0 28, man := dfld d 54 0 16, group := 0, rank := 0
    deadline := if dfld d 36 0 32 = 0 then none else some (s.now + dfld d 36 0 32), sign := bit d 262
    progs := (s.progs.filter (fun e => e.2.ctx.job == c.job)).map (·.1), list := [], tables := [], next := dfld d 56 0 28 + dfld d 54 0 16
    shards := [], sessions := [], objects := [], ranks := [], sentAt := none, manifest := none, peerDone := false }

/-- Job `job` has begun the checkpoint `k` since `s`: it is quiesced if the notice says so, and nothing but its place in host memory is taken. -/
structure State.CkptBegun (s u : State) (job : Nat) (k : Ckpt) (preempt : Bool) : Prop where
  work : s.SameWork u
  ftl : u.ftl = s.ftl
  free : u.freeCtr = s.freeCtr
  ckpt : (u.job job).ckpt = some k
  quiesced : (u.job job).quiesced = ((s.job job).quiesced || preempt)
  regions : ∀ n r, mget (s.job job).regions n = some r → ∃ r', mget (u.job job).regions n = some r' ∧ r'.at_ = r.at_

/-- The state in which such a descriptor's checkpoint begins. -/
def State.beginBare (s : State) (c : DescCtx) (d : Desc) (preempt : Bool) : State :=
  let k := s.bareCkpt c d
  let t := s.modJob c.job (fun x => { x with ckpt := some k, quiesced := x.quiesced || preempt })
  let u := if dfld d 32 0 3 = 3 then t.t3Take c.job (dfld d 52 0 16) (dfld d 56 0 28) (dfld d 54 0 16) else t
  u.modJob c.job (fun x => { x with ckpt := some k })

theorem State.beginBare_begun (s : State) (c : DescCtx) (d : Desc) (preempt : Bool) :
    s.CkptBegun (s.beginBare c d preempt) c.job (s.bareCkpt c d) preempt := by
  unfold State.beginBare
  dsimp only
  split
  · refine ⟨⟨rfl, rfl, rfl⟩, rfl, rfl, by simp, by simp [State.t3Take], fun n r hr => ?_⟩
    simp only [State.t3Take, State.modJob_eq, State.job_setJob, if_true, mget_mchange, hr]
    split
    next hn => subst hn; simp only [hr, Option.map_some]; exact ⟨_, rfl, rfl⟩
    next => exact ⟨r, rfl, rfl⟩
  · exact ⟨⟨rfl, rfl, rfl⟩, rfl, rfl, by simp, by simp, fun n r hr => ⟨r, by simpa using hr, rfl⟩⟩

/-- The target that a descriptor names, and the place of the manifest there (Table 15.2, R61). -/
inductive State.TargetFits (s : State) (job : Nat) (d : Desc) : Prop where
  | flash (target : dfld d 32 0 3 = 2) (dest : dfld d 52 0 16 = 0) (man : dfld d 54 0 16 = 0) (off : dfld d 56 0 28 = 0)
  | host (target : dfld d 32 0 3 = 3) (low : 1 ≤ dfld d 54 0 16) (high : dfld d 54 0 16 ≤ 4096) (conf : (s.job job).conf = false) {r : T3Region}
      (region : mget (s.job job).regions (dfld d 52 0 16) = some r) (free : r.runFree (dfld d 56 0 28) (dfld d 54 0 16) = true)

theorem State.checkpoint_bare {s : State} {c : DescCtx} {d : Desc} {preempt : Bool} (hbare : s.AsksBare c.job d preempt)
    (hfits : s.TargetFits c.job d) (herr : s.targetErr c.job (dfld d 32 0 3) (dfld d 52 0 16) = none) :
    s.checkpoint c d preempt = .next (State.ckptLook 8 (s.beginBare c d preempt) c.job) := by
  obtain ⟨hidle, hbudget, hcount, halone, hlist, hadapters, htables, hsessions⟩ := hbare
  have hbudget' : (!preempt || dfld d 36 0 32 != 0) = true := bnot_or_of_imp fun h => bne_iff_ne.2 (hbudget h)
  unfold State.checkpoint State.tensorList State.ckptGroup
  cases hfits with
  | flash htarget hdest hman hoff =>
    rw [htarget, hdest] at herr
    simp only [hidle, hbudget', hcount, halone, hlist, hadapters, htables, hsessions, htarget, hdest, hman, hoff, herr, Option.isNone_none,
      firstFail_pass, firstFail_nil, List.filter_cons, List.filter_nil, List.any_nil, Option.orElse, bne_self_eq_false, beq_self_eq_true,
      Nat.reduceBneDiff, Nat.reduceLeDiff, Nat.reduceEqDiff, le_refl, and_self, and_false, decide_true, Bool.and_self, Bool.not_true, Bool.or_true,
      Bool.true_or, Bool.false_eq_true, if_true, if_false]
    simp only [State.beginBare, State.bareCkpt, htarget, hdest, hman, hoff, Nat.reduceEqDiff, if_false]
    rfl
  | host htarget hlow hhigh hconf hregion hfree =>
    rw [htarget] at herr
    simp only [hidle, hbudget', hcount, halone, hlist, hadapters, htables, hsessions, htarget, hlow, hhigh, hconf, hregion, hfree, herr,
      Option.isNone_none, firstFail_pass, firstFail_nil, List.filter_cons, List.filter_nil, List.any_nil, Option.orElse, bne_self_eq_false,
      Nat.reduceLeDiff, Nat.reduceEqDiff, and_self, false_and, decide_true, Bool.and_self, Bool.not_true, Bool.false_or, Bool.false_eq_true,
      if_true, if_false]
    simp only [State.beginBare, State.bareCkpt, htarget, if_true]
    rfl

end Sys2Proof.Machine
end

section
/-!
SUPPORT. Where a manifest is written: flash, and host memory (15_checkpoint_restore, R405, R410, R411).
-/
namespace Sys2Proof.Machine

open Sys2Proof

/-! ## Records leave all of a job but its wells (R505) -/

/-- Every job stands in `t` as in `s` but for its wells, and so do the registers and the flash. -/
structure State.SameButWells (s t : State) : Prop where
  job : ∀ i, ∃ sw cw, t.job i = { s.job i with sw := sw, cw := cw }
  regs : t.regs = s.regs
  ftl : t.ftl = s.ftl
  sess : t.sessions = s.sessions
  reqs : t.reqs = s.reqs

section
variable {s t u : State}

theorem State.SameButWells.refl (s : State) : s.SameButWells s := ⟨fun i => ⟨(s.job i).sw, (s.job i).cw, rfl⟩, rfl, rfl, rfl, rfl⟩

theorem State.SameButWells.trans (h : s.SameButWells t) (g : t.SameButWells u) : s.SameButWells u := by
  refine ⟨fun i => ?_, g.regs.trans h.regs, g.ftl.trans h.ftl, g.sess.trans h.sess, g.reqs.trans h.reqs⟩
  obtain ⟨sw, cw, ht⟩ := h.job i
  obtain ⟨sw', cw', hu⟩ := g.job i
  exact ⟨sw', cw', by rw [hu, ht]⟩

/-- An update of one job that leaves all of it but its wells. -/
theorem State.SameButWells.of_put {j : Nat} {x : Job} (hj : t.jobs = mput s.jobs j x) (hx : ∃ sw cw, x = { s.job j with sw := sw, cw := cw })
    (hr : t.regs = s.regs) (hf : t.ftl = s.ftl) (hs : t.sessions = s.sessions) (hq : t.reqs = s.reqs) : s.SameButWells t := by
  refine ⟨fun i => ?_, hr, hf, hs, hq⟩
  rw [State.job, hj, mgetD_mput]
  split
  next hi => exact hi ▸ hx
  next => exact ⟨(s.job i).sw, (s.job i).cw, rfl⟩

theorem State.wr_wells (s : State) (hbm : Bool) (a : Nat) (bs : List Byte) : s.SameButWells (s.wr hbm a bs) := by
  obtain ⟨q, m, r, h, e, -⟩ := s.wr_only hbm a bs
  rw [e]
  exact ⟨fun i => ⟨(s.job i).sw, (s.job i).cw, rfl⟩, rfl, rfl, rfl, rfl⟩

theorem State.coalesce_wells (s : State) (j w : Nat) : s.SameButWells (s.coalesce j w) := by
  unfold State.coalesce
  dsimp only
  split
  · exact .of_put rfl ⟨_, _, rfl⟩ rfl rfl rfl rfl
  · exact .refl s

theorem State.drain_wells (n : Nat) (s : State) (j w : Nat) : s.SameButWells (State.drain n s j w) := by
  induction n generalizing s with
  | zero => exact .refl s
  | succ n ih =>
    rw [State.drain]
    dsimp only
    split
    · exact .refl s
    · split
      · refine .trans ?_ ((State.coalesce_wells _ j w).trans (ih _))
        refine (s.wr_wells _ _ _).trans (.of_put rfl ?_ rfl rfl rfl rfl)
        split <;> exact ⟨_, _, rfl⟩
      · exact .refl s

theorem State.complete_wells (s : State) (c : DescCtx) (status result req session : Nat) : s.SameButWells (s.complete c status result req session) := by
  refine .trans ?_ (State.drain_wells _ _ _ _)
  exact .of_put rfl ⟨_, _, rfl⟩ rfl rfl rfl rfl

end

section
variable {s t : State} (h : s.SameButWells t) (i : Nat)
include h

theorem State.SameButWells.ckpt_eq : (t.job i).ckpt = (s.job i).ckpt := by obtain ⟨sw, cw, e⟩ := h.job i; rw [e]
theorem State.SameButWells.quiesced_eq : (t.job i).quiesced = (s.job i).quiesced := by obtain ⟨sw, cw, e⟩ := h.job i; rw [e]
theorem State.SameButWells.reg_eq : t.reg i = s.reg i := by simp only [State.reg, h.regs]

end

/-! ## The manifest is written -/

/-- Whether the general-object region has a place for some grains depends on the flash alone, and taking it leaves all but the flash. -/
theorem State.generalPlace_some {s u : State} {j i n : Nat} {bs cs : List Byte} (hplace : (s.generalPlace j n bs).isSome = true)
    (hftl : u.ftl = s.ftl) (hfree : u.freeCtr = s.freeCtr) :
    ∃ a v, u.generalPlace i n cs = some (a, v) ∧ u.SameWork v ∧ v.jobs = u.jobs := by
  unfold State.generalPlace at hplace ⊢
  rw [hftl]
  split at hplace
  · cases hplace
  next hgood =>
    rw [if_neg hgood]
    rw [Option.isSome_map] at hplace
    obtain ⟨a, ha⟩ := Option.isSome_iff_exists.1 hplace
    simp only [State.draw, hfree, hftl] at ha ⊢
    rw [ha]
    exact ⟨a, _, rfl, ⟨rfl, rfl, rfl⟩, rfl⟩

/-- A manifest without entries takes one grain, or three with its signature. -/
theorem State.manifest_grains (s : State) (j : Nat) {k : Ckpt} (hshards : k.shards = []) (hsess : k.sessions = []) :
    grainsOf (s.manifest j k).length = if k.sign then 3 else 1 := by
  rw [s.manifest_length j hshards hsess]
  split <;> rfl

section
variable (s : State) (a : Nat) (bs : List Byte)

theorem State.wr_host : (s.wr false a bs).host = Memory.write none s.host a bs := rfl
theorem State.wr_host_job (j : Nat) : (s.wr false a bs).job j = s.job j := rfl
theorem State.wr_host_work : s.SameWork (s.wr false a bs) := ⟨rfl, rfl, rfl⟩

end

/-- A checkpoint that has one run more, of `n` grains at `a`. -/
def Ckpt.withRun (k : Ckpt) (a n : Nat) : Ckpt := { k with objects := k.objects ++ [(a, n)] }

section
variable {s : State} {j : Nat} {k : Ckpt} {bytes : List Byte}

theorem State.ckptPut_flash {man : Bool} {a : Nat} {v : State} (htarget : k.target = 2) (hgood : s.ftl.state ≠ 3)
    (hplace : s.generalPlace j (grainsOf bytes.length) (padTo 16384 bytes) = some (a, v)) :
    s.ckptPut j k bytes man = .ok (a, k.withRun a (grainsOf bytes.length), v) := by
  simp only [State.ckptPut, htarget, hgood, hplace, if_true, if_false, Ckpt.withRun]

/-- In host memory a manifest lies at T3_OFF. -/
theorem State.ckptPut_host {r : T3Region} (htarget : k.target = 3) (hregion : mget (s.job j).regions k.dest = some r)
    (hsize : grainsOf bytes.length ≤ k.man) :
    s.ckptPut j k bytes true = .ok (k.off, k, s.wr false (r.at_ k.off) (padTo 16384 bytes)) := by
  simp only [State.ckptPut, htarget, hregion, Nat.not_lt.2 hsize, if_true, if_false, Nat.reduceEqDiff]

end

section
variable {s u : State} {c : DescCtx} {d : Desc} {preempt : Bool} (hbegun : s.CkptBegun u c.job (s.bareCkpt c d) preempt)
include hbegun

/-- The manifest goes to flash. -/
theorem State.CkptBegun.writes_flash (htarget : dfld d 32 0 3 = 2) (hgood : s.ftl.state ≠ 3)
    (hplace : (s.generalPlace c.job (if bit d 262 then 3 else 1) []).isSome = true) :
    ∃ a n w, State.ckptLook 8 u c.job = State.ckptLook 7 w c.job ∧ s.SameWork w ∧ (w.job c.job).quiesced = ((s.job c.job).quiesced || preempt) ∧
      (w.job c.job).ckpt = some (((s.bareCkpt c d).withRun a n).written a) := by
  have hgrains : grainsOf (u.manifest c.job (s.bareCkpt c d)).length = if bit d 262 then 3 else 1 := u.manifest_grains c.job rfl rfl
  obtain ⟨a, v, hv, hwork, hjobs⟩ := State.generalPlace_some (i := c.job) (cs := padTo 16384 (u.manifest c.job (s.bareCkpt c d))) hplace
    hbegun.ftl hbegun.free
  rw [← hgrains] at hv
  have hput := State.ckptPut_flash (k := s.bareCkpt c d) (man := true) htarget (hbegun.ftl ▸ hgood) hv
  have hdur : u.ckptDurable (s.bareCkpt c d) = true := by simp [State.ckptDurable, State.bareCkpt, htarget]
  have hjob : v.job c.job = u.job c.job := by simp only [State.job, hjobs]
  refine ⟨a, grainsOf (u.manifest c.job (s.bareCkpt c d)).length, _, State.ckptLook_writes hbegun.ckpt rfl rfl hdur rfl rfl 7 rfl hput,
    (hbegun.work.trans hwork).trans (v.putCkpt_work _ _), ?_, ?_⟩
  · rw [State.putCkpt_job, hjob, ← hbegun.quiesced]
  · rw [State.putCkpt_job]

/-- The manifest goes to host memory, where it is durable at once: the checkpoint is committed. -/
theorem State.CkptBegun.commits_host {r : T3Region} (htarget : dfld d 32 0 3 = 3) (hsize : (if bit d 262 then 3 else 1) ≤ dfld d 54 0 16)
    (hregion : mget (s.job c.job).regions (dfld d 52 0 16) = some r) :
    ∃ w t, State.ckptLook 8 u c.job = t.complete c Code.ok (dfld d 56 0 28) ∧
      w.CkptCommitted t c.job ((s.bareCkpt c d).written (dfld d 56 0 28)) ∧ s.SameWork w ∧
      (w.job c.job).quiesced = ((s.job c.job).quiesced || preempt) ∧
      w.host = Memory.write none u.host (r.at_ (dfld d 56 0 28)) (padTo 16384 (u.manifest c.job (s.bareCkpt c d))) := by
  obtain ⟨r', hr', hat⟩ := hbegun.regions _ r hregion
  have hhost : (s.bareCkpt c d).target = 3 := htarget
  have hgrains : grainsOf (u.manifest c.job (s.bareCkpt c d)).length ≤ (s.bareCkpt c d).man := (u.manifest_grains c.job rfl rfl).trans_le hsize
  have hput := State.ckptPut_host hhost hr' hgrains
  rw [hat, show (s.bareCkpt c d).off = dfld d 56 0 28 from rfl] at hput
  rw [State.ckptLook_writes hbegun.ckpt rfl rfl (by simp [State.ckptDurable, hhost]) rfl rfl 7 rfl hput]
  generalize hw : State.putCkpt _ _ _ = w
  have hjob : w.job c.job = { u.job c.job with ckpt := some ((s.bareCkpt c d).written (dfld d 56 0 28)) } := by
    rw [← hw, State.putCkpt_job, State.wr_host_job]
  rw [State.ckptLook_commits (k := (s.bareCkpt c d).written (dfld d 56 0 28)) (by rw [hjob]) rfl rfl
    (by simp [State.ckptDurable, Ckpt.written, hhost]) rfl rfl 6 rfl]
  obtain ⟨t, ht, hend⟩ := w.ckptCommit_ends c.job ((s.bareCkpt c d).written (dfld d 56 0 28)) (dfld d 56 0 28)
  refine ⟨w, t, ht, hend, ?_, ?_, ?_⟩
  · rw [← hw]
    exact hbegun.work.trans ((u.wr_host_work _ _).trans (State.putCkpt_work _ _ _))
  · rw [hjob, ← hbegun.quiesced]
  · rw [← hw, State.putCkpt_host, State.wr_host]

end

theorem toNat_field64 (d : Desc) (byte lo : Nat) : (BitVec.ofNat 64 (dfld d byte lo 64)).toNat = dfld d byte lo 64 := by
  simp [dfld, fld]

/-- What host memory reads where a manifest has been written (Table 15.5): MAGIC, CKPT_ID and STEP. -/
theorem State.read_manifest {t u : State} {j a : Nat} {k : Ckpt} {m : List Host.Cell}
    (h : t.host = Memory.write none m a (padTo 16384 (u.manifest j k))) :
    t.rd false a 4 = some (leBytes 4 0x4E414D43) ∧ t.rd false (a + 8) 16 = some (leBytes 8 k.id.toNat ++ leBytes 8 k.step.toNat) := by
  obtain ⟨flags, rest, hhead, hflags⟩ := u.manifest_head j k
  rw [hhead, padTo, List.append_assoc _ rest] at h
  generalize rest ++ zeros _ = rest at h
  have hread {off n : Nat} := Memory.readAll_write_host m a (bs := leBytes 4 0x4E414D43 ++ flags ++ (leBytes 8 k.id.toNat ++ leBytes 8 k.step.toNat) ++ rest)
    (off := off) (n := n)
  simp only [State.rd, Bool.false_eq_true, if_false, h]
  constructor
  · refine (hread (off := 0) (by simp)).trans ?_
    rw [List.drop_zero, List.append_assoc, List.append_assoc, List.take_left' (by simp)]
  · rw [hread (by simp; omega), List.append_assoc, List.drop_left' (by simp [hflags]), List.take_left' (by simp)]

section
variable {s : State} {c : DescCtx} {d : Desc} {preempt : Bool} (hbare : s.AsksBare c.job d preempt)
include hbare

/-- In flash the manifest is waited for until it is durable. -/
theorem State.checkpoint_flash (htarget : dfld d 32 0 3 = 2) (hdest : dfld d 52 0 16 = 0) (hman : dfld d 54 0 16 = 0)
    (hoff : dfld d 56 0 28 = 0) (herr : s.targetErr c.job 2 0 = none) (hgood : s.ftl.state ≠ 3)
    (hplace : (s.generalPlace c.job (if bit d 262 then 3 else 1) []).isSome = true) :
    ∃ t : State, s.checkpoint c d preempt = .next t ∧ t.sessions = s.sessions ∧ t.reqs = s.reqs ∧
      (t.job c.job).quiesced = ((s.job c.job).quiesced || preempt) ∧
      ((∃ p : Ckpt, (t.job c.job).ckpt = some p ∧ p.ctx = c ∧ p.manifest.isSome = true ∧ p.id = BitVec.ofNat 64 (dfld d 16 0 64) ∧
          p.step = BitVec.ofNat 64 (dfld d 24 0 64) ∧ p.shards = [] ∧ p.sessions = []) ∨
        ((t.job c.job).ckpt = none ∧ fld (t.reg (Reg.ckpJobStat c.job)) 32 16 = Code.ok)) := by
  rw [State.checkpoint_bare hbare (.flash htarget hdest hman hoff) (by rw [htarget, hdest]; exact herr)]
  obtain ⟨a, n, w, hlook, hwork, hquiesced, hckpt⟩ := (s.beginBare_begun c d preempt).writes_flash htarget hgood hplace
  rw [hlook]
  cases hdur : w.ckptDurable (((s.bareCkpt c d).withRun a n).written a) with
  | false =>
    rw [State.ckptLook_writing hckpt rfl rfl 6 hdur]
    exact ⟨w, rfl, hwork.sess, hwork.reqs, hquiesced, .inl ⟨_, hckpt, rfl, rfl, rfl, rfl, rfl, rfl⟩⟩
  | true =>
    rw [State.ckptLook_commits hckpt rfl rfl hdur rfl rfl 6 rfl]
    obtain ⟨t, ht, hend⟩ := w.ckptCommit_ends c.job (((s.bareCkpt c d).withRun a n).written a) a
    have hwells := t.complete_wells (((s.bareCkpt c d).withRun a n).written a).ctx Code.ok a 0 0
    rw [ht]
    refine ⟨_, rfl, (hwells.sess.trans hend.work.sess).trans hwork.sess, (hwells.reqs.trans hend.work.reqs).trans hwork.reqs, ?_, .inr ⟨?_, ?_⟩⟩
    · rw [hwells.quiesced_eq, hend.job, ← hquiesced]
    · rw [hwells.ckpt_eq, hend.job]
    · rw [hwells.reg_eq, hend.code]

/-- In host memory the manifest is durable at once, and the checkpoint is committed. -/
theorem State.checkpoint_host {r : T3Region} (htarget : dfld d 32 0 3 = 3) (hconf : (s.job c.job).conf = false)
    (hsize : (if bit d 262 then 3 else 1) ≤ dfld d 54 0 16) (hmost : dfld d 54 0 16 ≤ 4096) (herr : s.targetErr c.job 3 (dfld d 52 0 16) = none)
    (hregion : mget (s.job c.job).regions (dfld d 52 0 16) = some r) (hrun : r.runFree (dfld d 56 0 28) (dfld d 54 0 16) = true) :
    ∃ t : State, s.checkpoint c d preempt = .next (t.complete c Code.ok (dfld d 56 0 28)) ∧ t.sessions = s.sessions ∧ t.reqs = s.reqs ∧
      (t.job c.job).ckpt = none ∧ (t.job c.job).quiesced = ((s.job c.job).quiesced || preempt) ∧
      t.rd false (r.at_ (dfld d 56 0 28)) 4 = some (leBytes 4 0x4E414D43) ∧
      t.rd false (r.at_ (dfld d 56 0 28) + 8) 16 = some (leBytes 8 (dfld d 16 0 64) ++ leBytes 8 (dfld d 24 0 64)) ∧
      fld (t.reg (Reg.ckpJobStat c.job)) 0 32 = dfld d 24 0 32 ∧ t.hbm = s.hbm := by
  have hlow : 1 ≤ dfld d 54 0 16 := by split at hsize <;> omega
  rw [State.checkpoint_bare hbare (.host htarget hlow hmost hconf hregion hrun) (by rw [htarget]; exact herr)]
  obtain ⟨w, t, hlook, hend, hwork, hquiesced, hhost⟩ := (s.beginBare_begun c d preempt).commits_host htarget hsize hregion
  rw [hlook]
  obtain ⟨hmagic, hids⟩ := State.read_manifest (hend.host.trans hhost)
  refine ⟨t, rfl, hend.work.sess.trans hwork.sess, hend.work.reqs.trans hwork.reqs, ?_, ?_, hmagic, ?_, ?_, hend.work.hbm.trans hwork.hbm⟩
  · rw [hend.job]
  · rw [hend.job, ← hquiesced]
  · rw [hids]
    exact congrArg some (congrArg₂ _ (congrArg _ (toNat_field64 d 16 0)) (congrArg _ (toNat_field64 d 24 0)))
  · rw [hend.step]
    simp [Ckpt.written, State.bareCkpt, dfld, fld]

end

end Sys2Proof.Machine
end

section
/-!
PROOF. Checkpoints: their commands, messages and timers (15_checkpoint_restore, R401, R402, R405 to R407, R410, R411, R413; log entry 38):
obligation Checkpoints.
-/
namespace Sys2Proof.Machine

open Sys2Proof

/-! ## The commands of checkpoints -/

/-- The kind of a checkpoint's descriptor. -/
def ckptKind (preempt : Bool) : Kind := if preempt then kPreemptNotice else kCheckpoint

theorem exec_ckpt {s : State} {job well : Nat} {d : Desc} {preempt : Bool} (hs : s.Serves (ckptKind preempt) job well d) :
    exec (if preempt then .preemptNotice job well d else .checkpoint job well d) s =
      (s.takenUp job well).checkpoint (descCtx (ckptKind preempt) job well d) d preempt := by
  cases preempt with
  | false =>
    rw [if_neg Bool.false_ne_true, exec_eq_checkpoint, execCheckpoint]
    exact State.takeUp_serves hs
  | true =>
    rw [if_pos rfl, exec_eq_preemptNotice, execPreemptNotice]
    exact State.takeUp_serves hs

/-- A job has at most one checkpoint in progress (R405). -/
theorem State.checkpoint_busy {s : State} {c : DescCtx} (d : Desc) (preempt : Bool) (h : (s.job c.job).ckpt.isSome = true) :
    s.checkpoint c d preempt = .next (s.complete c Code.ckptBusy) := by
  unfold State.checkpoint
  have hbusy : (s.job c.job).ckpt.isNone = false := by rw [Option.isNone_eq_false_iff]; exact h
  simp only [hbusy, firstFail_fail]

section
variable (s : State) (j w : Nat)

@[simp] theorem State.takenUp_ckpt : ((s.takenUp j w).job j).ckpt = (s.job j).ckpt := by rw [State.takenUp_job]; rfl
@[simp] theorem State.takenUp_quiesced : ((s.takenUp j w).job j).quiesced = (s.job j).quiesced := by rw [State.takenUp_job]; rfl

end

/-- A descriptor is as bare when it has been taken up. -/
theorem State.AsksBare.takenUp {s : State} {job : Nat} {d : Desc} {preempt : Bool} (h : s.AsksBare job d preempt) (well : Nat) :
    (s.takenUp job well).AsksBare job d preempt :=
  { h with idle := (s.takenUp_ckpt job well).trans h.idle }

/-- A session is captured as a parked extent in the cistern; its entry stays as it is (R401, R402). -/
theorem State.ckptSession_flash {s u : State} {j i : Nat} {k : Ckpt} {toolp : Bool} {root : W64} (htarget : k.target = 2)
    (hplace : s.extentPlace j 2 0 (extentLen (s.pairs i) (s.sess i).retained) = (.ok root, u)) :
    ∃ (k' : Ckpt) (t : State) (r : SessRecord), s.ckptSession j k i toolp = .ok (k', t) ∧ k'.sessions = k.sessions ++ [r] ∧ r.index = i ∧
      r.rank = k.rank ∧ r.grains = extentLen (s.pairs i) (s.sess i).retained ∧ r.modelDigest = (s.aux i).modelDigest ∧ r.addr = gAddr root ∧
      k'.shards = k.shards ∧ t.sessions = s.sessions ∧ t.sessAux = s.sessAux := by
  obtain ⟨n, hn⟩ := s.extentPlace_only j 2 0 (extentLen (s.pairs i) (s.sess i).retained)
  obtain rfl : u = s.drawnTo n := by rw [← hn, hplace]
  unfold State.ckptSession
  simp only [htarget, if_true, hplace]
  exact ⟨_, _, _, rfl, rfl, rfl, rfl, rfl, rfl, rfl, rfl, rfl, rfl⟩

/-- A checkpoint with the entries of member `rank`. -/
def Ckpt.joined (k : Ckpt) (rank : Nat) (xs : List ShardEntry) (ys : List SessRecord) : Ckpt :=
  { k with ranks := rank :: k.ranks, shards := k.shards ++ xs, sessions := k.sessions ++ ys }

section
variable {s : State} {job : Nat} (hready : s.power.ready = true)
include hready

section
variable (hnone : (s.job job).ckpt = none)
include hnone

theorem exec_ckpt_none (code rank : Nat) (xs : List ShardEntry) (ys : List SessRecord) :
    exec (.ckptEntries job rank xs ys) s = .next s ∧ exec (.commitNotice job) s = .next s ∧ exec (.abortNotice job code) s = .next s ∧
      exec (.ckptBudget job) s = .next s ∧ exec (.commitNoticeTimeout job) s = .next s := by
  rw [exec_eq_ckptEntries, exec_eq_commitNotice, exec_eq_abortNotice, exec_eq_ckptBudget, exec_eq_commitNoticeTimeout, execCkptEntries,
    execCommitNotice, execAbortNotice, execCkptBudget, execCommitNoticeTimeout]
  simp only [State.ifReady_ready hready, hnone, and_self]

end

variable {k : Ckpt} (hk : (s.job job).ckpt = some k)
include hk

/-- Rank 0 keeps the entries of a member whose entries it lacked, and waits on for those of another (R411). -/
theorem exec_ckptEntries_kept {rank : Nat} (xs : List ShardEntry) (ys : List SessRecord) (hroot : k.rank = 0) (hlist : k.list = [])
    (htables : k.tables = []) (hdur : s.ckptDurable k = true) (h0 : rank ≠ 0) (hlt : rank < (s.ckptNodes job k).length) (hnew : rank ∉ k.ranks)
    (hlacks : ∃ r < (s.ckptNodes job k).length, r ≠ 0 ∧ r ≠ rank ∧ r ∉ k.ranks) :
    exec (.ckptEntries job rank xs ys) s = .next (s.putCkpt job (k.joined rank xs ys)) := by
  obtain ⟨r, hr, hr0, hne, hnot⟩ := hlacks
  have hnodes : (s.putCkpt job (k.joined rank xs ys)).ckptNodes job (k.joined rank xs ys) = s.ckptNodes job k := by
    unfold State.ckptNodes
    rw [State.putCkpt_job]
    rfl
  rw [exec_eq_ckptEntries, execCkptEntries, State.ifReady_ready hready]
  simp only [hk]
  rw [if_neg (by rw [hroot]; exact h0), if_neg (by simp [hroot, hlt, hnew])]
  refine congrArg Host.Outcome.next (State.ckptLook_lacks (s := s.putCkpt job (k.joined rank xs ys)) (k := k.joined rank xs ys) ?_ hlist htables
    hdur hroot _ ⟨r, ?_, hr0, ?_⟩)
  · rw [State.putCkpt_job]
  · rw [hnodes]
    exact hr
  · simp [Ckpt.joined, hne, hnot]

/-- A member that has sent its entries completes on the commit notice (R411). -/
theorem exec_commitNotice_commits (hmember : k.rank ≠ 0) (hsent : k.sentAt.isSome = true) :
    ∃ t : State, exec (.commitNotice job) s = .next (t.complete k.ctx Code.ok) ∧ s.CkptCommitted t job k := by
  rw [exec_eq_commitNotice, execCommitNotice, State.ifReady_ready hready]
  obtain ⟨t, ht, hend⟩ := s.ckptCommit_ends job k 0
  simp only [hk, hmember, hsent, ne_eq, not_false_eq_true, and_self, if_true]
  exact ⟨t, congrArg _ ht, hend⟩

/-- A failure is told as the checkpoint's member and rank require (R413). -/
theorem exec_abortNotice (code : Nat) : exec (.abortNotice job code) s = .next (s.ckptFail job code (k.rank == 0)) := by
  rw [exec_eq_abortNotice, execAbortNotice, State.ifReady_ready hready, hk]

theorem exec_ckptBudget {due : Nat} (hdue : k.deadline = some due) :
    exec (.ckptBudget job) s = .next (if s.now < due then s else if s.rootLost job k then s.ckptFail job Code.ckptGroupFailed false
      else s.ckptFail job Code.ckptBudget true) := by
  rw [exec_eq_ckptBudget, execCkptBudget, State.ifReady_ready hready]
  simp only [hk, hdue]
  split
  · rfl
  · split <;> rfl

theorem exec_commitNoticeTimeout {sent : Nat} (hnever : k.deadline = none) (hsent : k.sentAt = some sent) (hlost : s.rootLost job k = true)
    (hover : sent + ((mget (s.job job).fabGroups k.group).map (·.collUs)).getD 10000 ≤ s.now) :
    exec (.commitNoticeTimeout job) s = .next (s.ckptFail job Code.ckptGroupFailed false) := by
  rw [exec_eq_commitNoticeTimeout, execCommitNoticeTimeout, State.ifReady_ready hready]
  simp only [hk, hnever, hsent, hlost, hover, and_self, if_true]

end

/-! ## The obligation -/

/-- Settles O54: a bare checkpoint begins (`State.checkpoint_bare`) and writes its manifest (`State.checkpoint_flash`, `State.checkpoint_host`); a
session is captured by `State.ckptSession_flash`; each message and timer ends the checkpoint by `State.ckptCommit_ends` or `State.ckptFail_ends`. -/
theorem checkpoints : Obligations.Checkpoints := by
  unfold Obligations.Checkpoints
  refine ⟨?_, fun s j i k toolp root u => State.ckptSession_flash, ?_⟩
  · intro s job well d preempt k s0 c e target grains hs
    have he : e = s0.checkpoint c d preempt := exec_ckpt hs
    refine ⟨fun hbusy => ?_, fun hidle hbudget hcount halone hlist ha ht hse => ⟨?_, ?_⟩⟩
    · rw [he]
      exact State.checkpoint_busy d preempt ((congrArg _ (s.takenUp_ckpt job well)).trans hbusy)
    · intro htarget hdest hman hoff herr hgood hplace
      have hbare : s0.AsksBare c.job d preempt := State.AsksBare.takenUp ⟨hidle, hbudget, hcount, halone, hlist, ha, ht, hse⟩ well
      obtain ⟨t, h, hsess, hreqs, hquiesced, hend⟩ := State.checkpoint_flash hbare htarget hdest hman hoff herr hgood hplace
      exact ⟨t, he.trans h, hsess, hreqs, hquiesced.trans (congrArg (· || preempt) (s.takenUp_quiesced job well)), hend⟩
    · intro r off htarget hconf hsize hmost herr hregion hrun
      have hbare : s0.AsksBare c.job d preempt := State.AsksBare.takenUp ⟨hidle, hbudget, hcount, halone, hlist, ha, ht, hse⟩ well
      obtain ⟨t, h, hsess, hreqs, hnone, hquiesced, hrest⟩ := State.checkpoint_host hbare htarget ((s.takenUp_conf job well).trans hconf) hsize hmost
        herr ((congrArg (mget · _) (s.takenUp_regions job well)).trans hregion) hrun
      exact ⟨t, he.trans h, hsess, hreqs, hnone, hquiesced.trans (congrArg (· || preempt) (s.takenUp_quiesced job well)), hrest⟩
  · intro s job hready
    refine ⟨exec_ckpt_none hready, fun k hk => ?_⟩
    intro ends
    have hfail (code : Nat) (tell : Bool) : ends (.next (s.ckptFail job code tell)) code := by
      obtain ⟨t, ht, hrest⟩ := State.ckptFail_ends hk code tell
      exact ⟨t, congrArg _ ht, hrest⟩
    refine ⟨fun rank xs ys hroot hlist htables hdur h0 hlt hnew hlacks =>
        exec_ckptEntries_kept hready hk xs ys hroot hlist htables hdur h0 hlt hnew hlacks, fun hmember hsent => ?_, fun code => ?_,
      fun due hdue => ⟨fun hearly => ?_, fun hover hroot => ?_, fun hover hroot => ?_⟩, fun sent hnever hsent hlost hover => ?_⟩
    · obtain ⟨t, ht, hend⟩ := exec_commitNotice_commits hready hk hmember hsent
      exact ⟨t, ht, by rw [hend.job], hend.step, hend.code, hend.work.sess⟩
    · rw [exec_abortNotice hready hk]
      exact hfail code _
    · rw [exec_ckptBudget hready hk hdue, if_pos hearly]
    · rw [exec_ckptBudget hready hk hdue, if_neg (Nat.not_lt.2 hover), hroot, if_neg Bool.false_ne_true]
      exact hfail _ _
    · rw [exec_ckptBudget hready hk hdue, if_neg (Nat.not_lt.2 hover), hroot, if_pos rfl]
      exact hfail _ _
    · rw [exec_commitNoticeTimeout hready hk hnever hsent hlost hover]
      exact hfail _ _

end Sys2Proof.Machine
end

section
/-!
SUPPORT. Reading a checkpoint back: what reading changes, and the checks that a restore passes (15_checkpoint_restore, R415).
-/
namespace Sys2Proof.Machine

open Sys2Proof

/-! ## Reading leaves all but free values and the flash's counts of reads (R415) -/

/-- Two states that differ in free values and in the flash only. -/
def State.SameButReads (s t : State) : Prop := ∃ n f, t = { s with freeCtr := n, ftl := f }

section
variable {s t u : State}

theorem State.SameButReads.refl (s : State) : s.SameButReads s := ⟨_, _, rfl⟩

theorem State.SameButReads.trans (h : s.SameButReads t) (g : t.SameButReads u) : s.SameButReads u := by
  obtain ⟨_, _, rfl⟩ := h
  obtain ⟨_, _, rfl⟩ := g
  exact ⟨_, _, rfl⟩

section
variable (h : s.SameButReads t)
include h

theorem State.SameButReads.work : s.SameWork t := by obtain ⟨_, _, rfl⟩ := h; exact ⟨rfl, rfl, rfl⟩
theorem State.SameButReads.seqs_eq : t.seqs = s.seqs := by obtain ⟨_, _, rfl⟩ := h; rfl
theorem State.SameButReads.job_eq (j : Nat) : t.job j = s.job j := by obtain ⟨_, _, rfl⟩ := h; rfl
theorem State.SameButReads.node_eq : t.node = s.node := by obtain ⟨_, _, rfl⟩ := h; rfl

end

variable {j g n : Nat} {p : Nat × Nat × Nat} {b : List Byte}

theorem State.srcRead_reads (h : s.srcRead j p g n = .ok (b, u)) : s.SameButReads u := by
  unfold State.srcRead at h
  split at h
  · split at h
    · cases h
    · split at h
      · cases h
      · cases h
        exact .refl _
  · split at h
    · split at h
      · cases h
      · split at h
        · cases h
        · cases h
          exact ⟨_, _, rfl⟩
    · split at h
      · cases h
      · cases h
        exact ⟨_, _, rfl⟩

/-- Reading several runs reads each of them. -/
theorem State.srcAll_reads {xs : List ((Nat × Nat × Nat) × Nat × Nat)} {bs : List (List Byte)} (h : s.srcAll j xs = .ok (bs, u)) :
    bs.length = xs.length ∧ s.SameButReads u := by
  suffices hfold : ∀ (xs : List ((Nat × Nat × Nat) × Nat × Nat)) (r : Except Nat (List (List Byte) × State)),
      xs.foldl (fun r x => match r with
        | .error e => .error e
        | .ok (bs, s) => match s.srcRead j x.1 x.2.1 x.2.2 with
          | .error e => .error e
          | .ok (b, s) => .ok (bs ++ [b], s)) r = .ok (bs, u) →
      ∃ bs0 t, r = .ok (bs0, t) ∧ bs.length = bs0.length + xs.length ∧ t.SameButReads u by
    obtain ⟨bs0, t, hr, hlen, hreads⟩ := hfold xs _ h
    cases hr
    exact ⟨by simpa using hlen, hreads⟩
  intro xs
  induction xs with
  | nil =>
    rintro r rfl
    exact ⟨bs, u, rfl, rfl, .refl u⟩
  | cons x xs ih =>
    intro r hr
    obtain ⟨bs1, t1, h1, hlen, hreads⟩ := ih _ hr
    dsimp only at h1
    split at h1
    · cases h1
    next r bs0 t =>
      split at h1
      · cases h1
      next b v hb =>
        cases h1
        exact ⟨bs0, t, rfl, by simp at hlen ⊢; omega, (State.srcRead_reads hb).trans hreads⟩

theorem State.readManifest_reads {sig : Bool} (h : s.readManifest j p g sig = .ok (b, u)) : s.SameButReads u := by
  unfold State.readManifest at h
  split at h
  · cases h
  next hhead =>
    split at h
    · cases h
    · split at h
      · cases h
      next hbody =>
        repeat' split at h
        all_goals cases h
        exact (State.srcRead_reads hhead).trans (State.srcRead_reads hbody)

end

/-! ## The checks of a restore (R415, R416) -/

/-- A tensor list that is well formed is what the descriptor asks for. -/
theorem State.tensorList_read {s : State} {c : DescCtx} {d : Desc} {b n : Nat} {lb : List Byte} {es : List (List Byte)}
    (hes : es = if dfld d b 0 64 = 0 then [] else (List.range n).map (fun i => sub lb (128 * i) 128))
    (hlist : dfld d b 0 64 ≠ 0 → s.addrOk c.job d b (128 * n) = true ∧ s.fetch d b (128 * n) = some lb)
    (hform : ∀ e ∈ es, listReserved e = true ∧ listOk e = true ∧ s.badAddr c.job true (listAddr e) (listPiece e).len = false)
    (body : List (List Byte) → Res) : s.tensorList c d b n body = body es := by
  unfold State.tensorList
  split at hes
  next hnone => rw [if_pos hnone, hes]
  next hsome =>
    obtain ⟨haddr, hfetch⟩ := hlist hsome
    have hres : es.all listReserved = true := List.all_eq_true.2 fun e he => (hform e he).1
    have hok : es.all listOk = true := List.all_eq_true.2 fun e he => (hform e he).2.1
    have hplace : es.any (fun e => s.badAddr c.job true (listAddr e) (listPiece e).len) = false :=
      List.any_eq_false.2 fun e he => by rw [(hform e he).2.2]; exact Bool.false_ne_true
    simp only [hsome, if_false, haddr, hfetch, ← hes, hres, hok, hplace, Bool.not_true, Bool.false_eq_true, Res.spoilIf_false]

/-- Shards that are all of the manifest's step and intact are handed on. -/
theorem State.restoreRead_intact {s u1 u2 : State} {c : DescCtx} {d : Desc} {smap man : List Byte} {ps : List (Nat × Nat × Nat)}
    {heads all : List (List Byte)}
    (hps : (manifestShards man).mapM (fun e => mapPlace (sub smap (16 * e.rank) 16)) = some ps)
    (hheads : s.srcAll c.job (((manifestShards man).zip ps).map (fun e => (e.2, e.1.addr, 192))) = .ok (heads, u1))
    (hsteps : ∀ h ∈ heads, at_ h 8 8 = at_ man 16 8) (hsess : manifestSess man = [])
    (hall : u1.srcAll c.job (((manifestShards man).zip ps).map (fun e => (e.2, e.1.addr, e.1.len))) = .ok (all, u2))
    (hgood : ∀ e ∈ (manifestShards man).zip all, sha256 e.2 = e.1.digest ∧ shardOk e.2 = true ∧ at_ e.2 16 8 = e.1.tensor.toNat)
    (body : List (List Byte) → List (List (List Byte)) → State → Res) : s.restoreRead c d smap man body = body all [] u2 := by
  have hmixed : (heads.zipIdx).filterMap (fun h => if at_ h.1 8 8 = at_ man 16 8 then none else some (h.2, at_ h.1 8 8)) = [] :=
    List.filterMap_eq_nil_iff.2 (List.forall_mem_zipIdx'.2 fun i hi => if_pos (hsteps heads[i] (List.getElem_mem hi)))
  have hbad : (((manifestShards man).zip all).zipIdx).filterMap (fun e =>
      if sha256 e.1.2 = e.1.1.digest ∧ shardOk e.1.2 = true ∧ at_ e.1.2 16 8 = e.1.1.tensor.toNat then none else some (e.2, at_ e.1.2 8 8)) = [] :=
    List.filterMap_eq_nil_iff.2 (List.forall_mem_zipIdx'.2 fun i hi => if_pos (hgood _ (List.getElem_mem hi)))
  have hlen : all.take (manifestShards man).length = all := by
    refine List.take_of_length_le ?_
    rw [(State.srcAll_reads hall).1, List.length_map, List.length_zip]
    exact min_le_left ..
  unfold State.restoreRead
  simp only [hps, hsess, List.mapM_nil, Option.pure_def, hheads, hmixed, List.zip_nil_left, List.map_nil, List.append_nil, hall, hlen, hbad, List.isEmpty_nil,
    Bool.not_true, Bool.false_eq_true, if_false, List.filterMap_nil, List.zipIdx_nil, List.zip_nil_right]

end Sys2Proof.Machine
end

section
/-!
SUPPORT. Restores: writing the destinations, ending, and RESTORE itself (15_checkpoint_restore, R415 to R418; log entry 38).
-/
namespace Sys2Proof.Machine

open Sys2Proof

/-! ## Writes leave all but memory -/

/-- Two states that differ in memory, and in what bank sequencers hold for it, only. -/
def State.SameButMemory (s t : State) : Prop := ∃ q m r h, t = { s with seqs := q, hbm := m, refreshing := r, host := h }

section
variable {s t u : State}

theorem State.SameButMemory.refl (s : State) : s.SameButMemory s := ⟨_, _, _, _, rfl⟩

theorem State.SameButMemory.trans (h : s.SameButMemory t) (g : t.SameButMemory u) : s.SameButMemory u := by
  obtain ⟨_, _, _, _, rfl⟩ := h
  obtain ⟨_, _, _, _, rfl⟩ := g
  exact ⟨_, _, _, _, rfl⟩

theorem State.SameButMemory.foldl {α : Type} {f : State → α → State} (hf : ∀ (s : State) (a : α), s.SameButMemory (f s a)) (l : List α) (s : State) :
    s.SameButMemory (l.foldl f s) :=
  List.foldlRecOn (motive := fun t => s.SameButMemory t) l f (.refl s) fun t ht a _ => ht.trans (hf t a)

theorem State.wr_memory (s : State) (hbm : Bool) (a : Nat) (bs : List Byte) : s.SameButMemory (s.wr hbm a bs) := by
  obtain ⟨q, m, r, h, e, -⟩ := s.wr_only hbm a bs
  exact ⟨q, m, r, h, e⟩

end

/-! ## The destinations of a restore (R416) -/

/-- What a write puts in HBM reads back. -/
theorem Memory.read_write {m : List Host.Cell} (h : Memory.wf (some 0) m = true) (a : Nat) (bs : List Byte) :
    Memory.read (Memory.write (some 0) m a bs) a bs.length = bs := by
  refine List.ext_getElem (by simp [Memory.read]) fun i hi hi' => ?_
  simp only [Memory.read, List.getElem_map, List.getElem_range]
  rw [Memory.get_write h, if_pos ⟨Nat.le_add_right .., by omega⟩, Nat.add_sub_cancel_left, List.getElem?_eq_getElem hi', Option.getD_some]

/-- A write to HBM is done at once while no segment holds a bank set (R228). -/
theorem State.wr_hbm_idle {s : State} (h : s.seqs.all (fun q => !q.2.holds) = true) (a : Nat) (bs : List Byte) :
    (s.wr true a bs).hbm = Memory.write (some 0) s.hbm a bs := by
  unfold State.wr State.wrHbm
  simp only [if_true, h]

/-- Filled destinations, each with its address. -/
theorem mapM_map_zipWith {α β γ : Type} {f : α → Option β} (g : α → β → γ) {l : List α} {ys : List β} (h : l.mapM f = some ys) :
    l.mapM (fun e => (f e).map (g e)) = some (List.zipWith g l ys) := by
  induction l generalizing ys with
  | nil =>
    obtain rfl : [] = ys := by simpa using h
    rfl
  | cons x l ih =>
    rw [List.mapM_cons] at h
    obtain ⟨y, hy, h⟩ := Option.bind_eq_some_iff.1 h
    obtain ⟨zs, hzs, h⟩ := Option.bind_eq_some_iff.1 h
    obtain rfl : y :: zs = ys := by simpa using h
    simp [List.mapM_cons, hy, ih hzs]

/-- A destination's payload, with its address. -/
def fillRun (e b : List Byte) : Nat × List Byte := (listAddr e, b)

/-- The state once the payloads of a restore's tensor list are written. -/
def State.filledAt (s : State) (fs : List (Nat × List Byte)) : State := fs.foldl (fun s f => s.wr true f.1 f.2) s

theorem State.filledAt_memory (s : State) (fs : List (Nat × List Byte)) : s.SameButMemory (s.filledAt fs) := by
  unfold State.filledAt
  refine .foldl (fun t f => ?_) fs s
  exact t.wr_memory true f.1 f.2

theorem State.filledAt_reads {s : State} (hwf : Memory.wf (some 0) s.hbm = true) (hidle : s.seqs.all (fun q => !q.2.holds) = true) (a : Nat)
    (b : List Byte) : (s.filledAt [(a, b)]).rd true a b.length = some b := by
  show some (Memory.read (s.wr true a b).hbm a b.length) = some b
  rw [State.wr_hbm_idle hidle, Memory.read_write hwf]

/-- Reading a restore's source and writing its destinations changes memory, free values and the flash's counts only. -/
theorem State.filledAt_work {s u t : State} {es fills : List (List Byte)} (hreads : s.SameButReads u)
    (hwork : (u.filledAt (List.zipWith fillRun es fills)).SameWork t) :
    t.sessions = s.sessions ∧ t.reqs = s.reqs ∧
      (∀ e b : List Byte, es = [e] → fills = [b] → Memory.wf (some 0) s.hbm = true → s.seqs.all (fun q => !q.2.holds) = true →
        t.rd true (listAddr e) b.length = some b) ∧
      (es = [] → t.hbm = s.hbm) := by
  obtain ⟨_, _, _, _, hfilled⟩ := u.filledAt_memory (List.zipWith fillRun es fills)
  refine ⟨?_, ?_, ?_, ?_⟩
  · rw [hwork.sess, hfilled]
    exact hreads.work.sess
  · rw [hwork.reqs, hfilled]
    exact hreads.work.reqs
  · rintro e b rfl rfl hwf hidle
    rw [← hreads.work.hbm] at hwf
    rw [← hreads.seqs_eq] at hidle
    rw [← State.filledAt_reads hwf hidle (listAddr e) b]
    exact congrArg (fun m => some (Memory.read m (listAddr e) b.length)) hwork.hbm
  · rintro rfl
    exact hwork.hbm.trans hreads.work.hbm

/-! ## The end of a restore (R416 to R418) -/

section
variable {s : State} {j : Nat} {r : Restore}

theorem State.restoreDone_bare (ha : r.adapters = []) (ht : r.tables = []) (hs : r.sessions = []) (hreport : r.report = none) :
    s.restoreDone j r = s.complete r.ctx Code.ok := by
  unfold State.restoreDone
  rw [ha, ht, hs, hreport]
  cases r.mapping <;> rfl

/-- A job's one restore, which waits for no copy and brings nothing but tensors, completes at once. -/
theorem State.restoreLook_bare (hr : (s.job j).restores = [r]) (ho : r.objects = []) (ha : r.adapters = []) (ht : r.tables = []) (hs : r.sessions = [])
    (hreport : r.report = none) : ∃ t : State, s.restoreLook j = t.complete r.ctx Code.ok ∧ s.SameWork t := by
  unfold State.restoreLook
  simp only [hr, ho, List.all_nil, List.filter_cons, if_true, List.filter_nil, List.isEmpty_cons, Bool.false_eq_true, if_false, List.foldl_cons,
    List.foldl_nil, State.restoreDone_bare ha ht hs hreport]
  exact ⟨_, rfl, rfl, rfl, rfl⟩

theorem State.restoreLook_begun (hnone : (s.job j).restores = []) (ho : r.objects = []) (ha : r.adapters = []) (ht : r.tables = [])
    (hs : r.sessions = []) (hreport : r.report = none) :
    ∃ t : State, (s.modJob j (fun x => { x with restores := x.restores ++ [r] })).restoreLook j = t.complete r.ctx Code.ok ∧ s.SameWork t := by
  have hone : ((s.modJob j (fun x => { x with restores := x.restores ++ [r] })).job j).restores = [r] := by
    rw [State.modJob_eq, State.job_setJob, if_pos rfl, hnone]
    rfl
  obtain ⟨t, hlook, hwork⟩ := State.restoreLook_bare hone ho ha ht hs hreport
  exact ⟨t, hlook, hwork.sess, hwork.reqs, hwork.hbm⟩

/-- The sessions of a restore become current; its mapping list and its report are written and nothing else. -/
theorem State.restoreDone_session {old i : Nat} {x : Session} {a : SessAux} (ha : r.adapters = []) (ht : r.tables = [])
    (hs : r.sessions = [(old, i, x, a)]) : ∃ t : State, s.restoreDone j r = t.complete r.ctx Code.ok ∧ t.sess i = x ∧ t.aux i = a ∧
      (∀ k, k ≠ i → t.sess k = s.sess k) ∧ t.jobs = s.jobs := by
  unfold State.restoreDone
  rw [ha, ht, hs]
  refine ⟨_, rfl, ?_⟩
  have hkept : ∀ t : State, ((s.setSess i x).setAux i a).SameButMemory t →
      t.sess i = x ∧ t.aux i = a ∧ (∀ k, k ≠ i → t.sess k = s.sess k) ∧ t.jobs = s.jobs := by
    rintro t ⟨q, m, rf, h, rfl⟩
    have hsess (k : Nat) : ((s.setSess i x).setAux i a).sess k = if k = i then x else s.sess k := s.sess_setSess i k x
    have haux (k : Nat) : ((s.setSess i x).setAux i a).aux k = if k = i then a else (s.setSess i x).aux k := (s.setSess i x).aux_setAux i k a
    exact ⟨(hsess i).trans (if_pos rfl), (haux i).trans (if_pos rfl), fun k hk => (hsess k).trans (if_neg hk), rfl⟩
  refine hkept _ ?_
  have hmapping : ((s.setSess i x).setAux i a).SameButMemory (match r.mapping with
      | none => (s.setSess i x).setAux i a
      | some (hbm, b) => ([(old, i, x, a)].zipIdx).foldl (fun s (e : (Nat × Nat × Session × SessAux) × Nat) =>
          s.wr hbm (b + 8 * e.2) (leBytes 4 e.1.1 ++ leBytes 4 e.1.2.1)) ((s.setSess i x).setAux i a)) := by
    cases r.mapping with
    | none => exact .refl _
    | some p => exact .foldl (fun t e => t.wr_memory _ _ _) _ _
  refine .trans hmapping ?_
  cases r.report with
  | none => exact .refl _
  | some p => exact State.wr_memory ..

/-- The adapter of a restore becomes the handle's current version, under its next number. -/
theorem State.restoreDone_adapter {h : Nat} {v : AdapterVer} (ha : r.adapters = [(h, v)]) (ht : r.tables = []) (hs : r.sessions = [])
    (hreport : r.report = none) :
    let o := mgetD (s.job j).adapters h { current := none, last := 0, versions := [] }
    ∃ t : State, s.restoreDone j r = t.complete r.ctx Code.ok ∧ t.sessions = s.sessions ∧ mget (t.job j).adapters h =
      some { current := some (o.last % 0xFFFF + 1), last := o.last % 0xFFFF + 1, versions := o.inUse ++ [{ v with ver := o.last % 0xFFFF + 1 }] } := by
  intro o
  unfold State.restoreDone
  rw [ha, ht, hs, hreport]
  refine ⟨_, rfl, ?_⟩
  cases r.mapping <;> exact ⟨rfl, by simp [o]⟩

/-- A table with a restored version, current to the manifest's step (log entry 38). -/
def Table.restored (o : Table) (v : TableVer) (step : Nat) : Table :=
  let n := o.last % 0xFFFF + 1
  { o with current := some n, last := n, versions := o.versions ++ [{ v with ver := n, fresh := false }], doneStep := some step,
           applied := some step }

/-- The table of a restore becomes the handle's current version, current to the manifest's step. -/
theorem State.restoreDone_table {h step : Nat} {v : TableVer} (ha : r.adapters = []) (ht : r.tables = [(h, v, step)]) (hs : r.sessions = [])
    (hreport : r.report = none) :
    ∃ (t : State) (o : Table) (y : TableVer), s.restoreDone j r = t.complete r.ctx Code.ok ∧ t.sessions = s.sessions ∧ t.table j h = some o ∧
      o.current = some y.ver ∧ y ∈ o.versions ∧ y.rowMap = v.rowMap ∧ y.fresh = false ∧ o.doneStep = some step ∧ o.applied = some step := by
  have hdone : s.restoreDone j r =
      ((s.setTable j h (((s.table j h).getD emptyTable).restored v step)).reapTable j h).complete r.ctx Code.ok := by
    unfold State.restoreDone
    rw [ha, ht, hs, hreport]
    cases r.mapping <;> rfl
  generalize (s.table j h).getD emptyTable = o at hdone
  refine ⟨_, _, _, hdone, State.reapTable_same.1, State.reapTable_table (State.setTable_table ..), rfl,
    List.mem_filter.2 ⟨List.mem_map_of_mem (List.mem_append_right _ (List.mem_singleton_self _)), ?_⟩, rfl, rfl, rfl, rfl⟩
  simp [Table.stays, Table.restored]

end

/-! ## RESTORE (R415, R416) -/

section
variable {s : State} {job well : Nat} {d : Desc} {smap : List Byte} {p : Nat × Nat × Nat} {g : Nat × List Nat}
  (hs : s.Serves kRestore job well d) (haddr : (s.takenUp job well).addrOk job d 24 1024 = true)
  (hsmap : (s.takenUp job well).fetch d 24 1024 = some smap) (hplace : mapPlace (sub smap (16 * dfld d 18 0 6) 16) = some p)
  (hgroup : (s.takenUp job well).ckptGroup job (dfld d 16 0 8) = .ok g) (hcount : dfld d 40 0 17 ≤ 65536) (halign : daddr d 48 % 64 = 0)
include hs haddr hsmap hplace hgroup hcount halign

/-- A manifest that fails its checks ends the restore with its code. -/
theorem exec_restore_refused {e : Nat} (hlist : dfld d 32 0 64 = 0)
    (hman : (s.takenUp job well).readManifest job p (dfld d 20 0 32) (bit d 139) = .error e) :
    exec (.restore job well d) s = .next ((s.takenUp job well).complete (descCtx kRestore job well d) e) := by
  rw [exec_eq_restore, execRestore, State.takeUp_serves hs]
  have hform : ¬(dfld d 40 0 17 > 65536 ∨ daddr d 48 % 64 ≠ 0) := by omega
  simp only [haddr, hsmap, hgroup, hplace, hman, hform, State.tensorList, hlist, Bool.not_true, Bool.false_eq_true, if_false, if_true]

/-- A restore of tensors alone writes its destinations and completes (R416). -/
theorem exec_restore_bare {es all fills : List (List Byte)} {man : List Byte} {u0 u2 : State}
    (hlist : ∀ body : List (List Byte) → Res, (s.takenUp job well).tensorList (descCtx kRestore job well d) d 32 (dfld d 40 0 17) body = body es)
    (hman : (s.takenUp job well).readManifest job p (dfld d 20 0 32) (bit d 139) = .ok (man, u0))
    (hreport : dfld d 48 0 64 = 0) (hmapping : dfld d 56 0 64 = 0)
    (hread : ∀ body : List (List Byte) → List (List (List Byte)) → State → Res,
      u0.restoreRead (descCtx kRestore job well d) d smap man body = body all [] u2)
    (hfills : es.mapM (fun e => (listPiece e).filled (all.map readPiece)) = some fills)
    (hadapters : bit d 136 = false) (htables : bit d 137 = false) (hsess : bit d 138 = false) (hnone : (u2.job job).restores = []) :
    ∃ t : State, exec (.restore job well d) s = .next (t.complete (descCtx kRestore job well d) Code.ok) ∧
      (u2.filledAt (List.zipWith fillRun es fills)).SameWork t := by
  rw [exec_eq_restore, execRestore, State.takeUp_serves hs]
  have hform : ¬(dfld d 40 0 17 > 65536 ∨ daddr d 48 % 64 ≠ 0) := by omega
  have hdest : es.mapM (fun e => ((listPiece e).filled (all.map readPiece)).map (fun b => (listAddr e, b))) = some (List.zipWith fillRun es fills) :=
    mapM_map_zipWith fillRun hfills
  simp only [haddr, hsmap, hgroup, hplace, hman, hform, hlist, hread, hdest, hreport, hmapping, hadapters, htables, hsess, collect, ne_eq,
    not_true_eq_false, false_and, or_self, Bool.not_true, Bool.false_eq_true, if_false, if_true, List.foldl_nil]
  obtain ⟨_, _, _, _, hkept⟩ := u2.filledAt_memory (List.zipWith fillRun es fills)
  have hjob : ((u2.filledAt (List.zipWith fillRun es fills)).job job).restores = [] := by
    rw [hkept]
    exact hnone
  obtain ⟨t, ht, hwork⟩ := State.restoreLook_begun (r := Restore.mk (descCtx kRestore job well d) _ _ _ _ _ _ _ _) hjob rfl rfl rfl rfl rfl
  exact ⟨t, congrArg _ ht, hwork⟩

end

end Sys2Proof.Machine
end

section
/-!
PROOF. CKPT_FREE, and restores as a whole (15_checkpoint_restore, R414 to R418): obligation Restores.
-/
namespace Sys2Proof.Machine

open Sys2Proof

/-! ## Restores in progress while a descriptor is taken up (R414) -/

/-- A value put under a key, of which a test says what it said of the key's old one, leaves the test of some value. -/
theorem any_mput {α : Type} {P : α → Bool} {m : Map α} {i : Nat} {v : α} (h : P v = ((mget m i).map P).getD false) :
    (mput m i v).any (fun e => P e.2) = m.any (fun e => P e.2) := by
  induction m with
  | nil => simpa [mput] using h
  | cons e m ih =>
    obtain ⟨k, w⟩ := e
    by_cases hk : i = k
    · simp [mput, mget, hk] at h ⊢
      simp [h]
    · rw [mget, if_neg hk] at h
      rw [mput, if_neg hk]
      split
      · rw [List.any_cons, h]
        cases hm : mget m i with
        | none => rfl
        | some x =>
          cases hx : P x with
          | false => simp [hx]
          | true =>
            have hmem : m.any (fun e => P e.2) = true := List.any_eq_true.2 ⟨(i, x), mem_of_mget hm, hx⟩
            rw [List.any_cons, hmem]
            simp [hx]
      · rw [List.any_cons, List.any_cons, ih h]

/-- Does a restore in progress read the checkpoint whose manifest stands at a place? -/
def State.restoring (s : State) (place : Nat × Nat × Nat) : Bool := s.jobs.any (fun e => e.2.restores.any (fun r => r.place == place))

section
variable (s : State) (j w : Nat)

@[simp] theorem State.takenUp_restores : ((s.takenUp j w).job j).restores = (s.job j).restores := by rw [State.takenUp_job]; rfl

@[simp] theorem State.takenUp_restoring (place : Nat × Nat × Nat) : (s.takenUp j w).restoring place = s.restoring place := by
  refine any_mput (P := fun x : Job => x.restores.any (fun r => r.place == place)) ?_
  show (s.job j).restores.any _ = _
  unfold State.job mgetD
  cases mget s.jobs j <;> rfl

end

/-! ## CKPT_FREE (R414) -/

/-- Free a run of a checkpoint when it lies on this device. -/
def State.ckptFreeRun (s : State) (node j : Nat) (q : Nat × Nat × Nat) (a n : Nat) : State :=
  if !(q.1 == 3 || q.2.1 == node) then s else if q.1 = 3 then s.t3Give j q.2.1 (q.2.2 + a) else s.flashFree a n

/-- Free a shard or extent that a manifest lists under a rank, where the shard map places that rank. -/
def State.ckptFreeEntry (s : State) (node j : Nat) (smap : List Byte) (rank a n : Nat) : State :=
  match mapPlace (sub smap (16 * rank) 16) with
  | some q => s.ckptFreeRun node j q a n
  | none => s

/-- The state once a checkpoint's manifest, shards and extents are freed. -/
def State.ckptFreed (s : State) (node j : Nat) (smap man : List Byte) (p : Nat × Nat × Nat) (g : Nat) : State :=
  (manifestSess man).foldl (fun s e => s.ckptFreeEntry node j smap e.rank e.addr e.grains)
    ((manifestShards man).foldl (fun s e => s.ckptFreeEntry node j smap e.rank e.addr (grainsOf e.len))
      (s.ckptFreeRun node j p g (grainsOf man.length)))

/-- What a step of a fold does stays done when every step keeps it. -/
theorem foldl_of_mem {α β : Type} {P : β → Prop} {f : β → α → β} (hkeep : ∀ b a, P b → P (f b a)) {l : List α} {a : α} (ha : a ∈ l)
    (hdo : ∀ b, P (f b a)) (b : β) : P (l.foldl f b) := by
  obtain ⟨l₁, l₂, rfl⟩ := List.append_of_mem ha
  rw [List.foldl_append, List.foldl_cons]
  exact List.foldlRecOn (motive := P) l₂ f (hdo _) fun b hb a _ => hkeep b a hb

section
variable {s : State} {node j : Nat} {q : Nat × Nat × Nat} {a n x : Nat} {smap : List Byte} {rank : Nat}

theorem State.ckptFreeRun_work : s.SameWork (s.ckptFreeRun node j q a n) := by
  unfold State.ckptFreeRun
  split
  · exact .refl s
  · split
    · exact ⟨rfl, rfl, rfl⟩
    · exact ⟨rfl, rfl, rfl⟩

theorem State.ckptFreeRun_keeps (h : mget s.ftl.objects x = none) : mget (s.ckptFreeRun node j q a n).ftl.objects x = none := by
  unfold State.ckptFreeRun
  split
  · exact h
  · split
    · exact h
    · show mget (mdel s.ftl.objects a) x = none
      rw [mget_mdel, h, ite_self]

/-- A run in this device's flash is freed. -/
theorem State.ckptFreeRun_frees (hflash : q.1 = 2) (hhere : q.2.1 = node) : mget (s.ckptFreeRun node j q a n).ftl.objects a = none := by
  unfold State.ckptFreeRun
  rw [if_neg (by simp [hhere]), if_neg (by omega)]
  exact (mget_mdel ..).trans (if_pos rfl)

theorem State.ckptFreeEntry_work : s.SameWork (s.ckptFreeEntry node j smap rank a n) := by
  unfold State.ckptFreeEntry
  split
  · exact State.ckptFreeRun_work
  · exact .refl s

theorem State.ckptFreeEntry_keeps (h : mget s.ftl.objects x = none) : mget (s.ckptFreeEntry node j smap rank a n).ftl.objects x = none := by
  unfold State.ckptFreeEntry
  split
  · exact State.ckptFreeRun_keeps h
  · exact h

theorem State.ckptFreeEntry_frees (hq : mapPlace (sub smap (16 * rank) 16) = some q) (hflash : q.1 = 2) (hhere : q.2.1 = node) :
    mget (s.ckptFreeEntry node j smap rank a n).ftl.objects a = none := by
  unfold State.ckptFreeEntry
  rw [hq]
  exact State.ckptFreeRun_frees hflash hhere

variable {man : List Byte} {p : Nat × Nat × Nat} {g : Nat}

theorem State.ckptFreed_work : s.SameWork (s.ckptFreed node j smap man p g) := by
  unfold State.ckptFreed
  refine .trans ?_ (.foldl (fun t e => t.ckptFreeEntry_work) _ _)
  refine .trans ?_ (.foldl (fun t e => t.ckptFreeEntry_work) _ _)
  exact State.ckptFreeRun_work

theorem State.ckptFreed_manifest (hflash : p.1 = 2) (hhere : p.2.1 = node) : mget (s.ckptFreed node j smap man p g).ftl.objects g = none := by
  unfold State.ckptFreed
  refine List.foldlRecOn (motive := fun t : State => mget t.ftl.objects g = none) _ _ ?_ fun t ht e _ => State.ckptFreeEntry_keeps ht
  refine List.foldlRecOn (motive := fun t : State => mget t.ftl.objects g = none) _ _ ?_ fun t ht e _ => State.ckptFreeEntry_keeps ht
  exact State.ckptFreeRun_frees hflash hhere

theorem State.ckptFreed_shard {e : ShardEntry} (he : e ∈ manifestShards man) (hq : mapPlace (sub smap (16 * e.rank) 16) = some q) (hflash : q.1 = 2)
    (hhere : q.2.1 = node) : mget (s.ckptFreed node j smap man p g).ftl.objects e.addr = none := by
  unfold State.ckptFreed
  refine List.foldlRecOn (motive := fun t : State => mget t.ftl.objects e.addr = none) _ _ ?_ fun t ht e _ => State.ckptFreeEntry_keeps ht
  exact foldl_of_mem (P := fun t : State => mget t.ftl.objects e.addr = none) (fun t x ht => State.ckptFreeEntry_keeps ht) he
    (fun t => State.ckptFreeEntry_frees hq hflash hhere) _

theorem State.ckptFreed_session {e : SessRecord} (he : e ∈ manifestSess man) (hq : mapPlace (sub smap (16 * e.rank) 16) = some q) (hflash : q.1 = 2)
    (hhere : q.2.1 = node) : mget (s.ckptFreed node j smap man p g).ftl.objects e.addr = none := by
  unfold State.ckptFreed
  exact foldl_of_mem (P := fun t : State => mget t.ftl.objects e.addr = none) (fun t x ht => State.ckptFreeEntry_keeps ht) he
    (fun t => State.ckptFreeEntry_frees hq hflash hhere) _

end

section
variable {s : State} {job well : Nat} {d : Desc} {smap : List Byte} {p : Nat × Nat × Nat}
  (hs : s.Serves kCkptFree job well d) (haddr : (s.takenUp job well).addrOk job d 24 1024 = true)
  (hsmap : (s.takenUp job well).fetch d 24 1024 = some smap) (hplace : mapPlace (sub smap (16 * dfld d 18 0 6) 16) = some p)
include hs haddr hsmap hplace

/-- A checkpoint that a restore reads is not freed. -/
theorem exec_ckptFree_busy (hread : s.restoring (p.1, p.2.1, p.2.2 + dfld d 20 0 32) = true) :
    exec (.ckptFree job well d) s = .next ((s.takenUp job well).complete (descCtx kCkptFree job well d) Code.ckptBusy) := by
  have hbusy := (s.takenUp_restoring job well _).trans hread
  unfold State.restoring at hbusy
  rw [exec_eq_ckptFree, execCkptFree, State.takeUp_serves hs]
  simp only [haddr, hsmap, hplace, hbusy, Bool.not_true, Bool.false_eq_true, if_false, if_true]

/-- A checkpoint that no restore reads is freed. -/
theorem exec_ckptFree_frees {man : List Byte} {u : State} (hread : s.restoring (p.1, p.2.1, p.2.2 + dfld d 20 0 32) = false)
    (hman : (s.takenUp job well).readManifest job p (dfld d 20 0 32) false = .ok (man, u)) :
    exec (.ckptFree job well d) s =
      .next ((u.ckptFreed u.node job smap man p (dfld d 20 0 32)).complete (descCtx kCkptFree job well d) Code.ok) := by
  have hfree := (s.takenUp_restoring job well _).trans hread
  unfold State.restoring at hfree
  rw [exec_eq_ckptFree, execCkptFree, State.takeUp_serves hs]
  simp only [haddr, hsmap, hplace, hfree, hman, Bool.not_true, Bool.false_eq_true, if_false]
  rfl

end

/-! ## The obligation -/

/-- Settles O55: the checks of a RESTORE pass or refuse (`exec_restore_refused`, `State.tensorList_read`, `State.restoreRead_intact`) and its tensors
are written (`exec_restore_bare`); what its copies wait for becomes current (`State.restoreDone_session` and its kin); CKPT_FREE answers by
`exec_ckptFree_busy` or frees (`State.ckptFreed`). -/
theorem restores : Obligations.Restores := by
  unfold Obligations.Restores
  intro s
  refine ⟨?_, fun j r => ⟨fun old i x a => State.restoreDone_session, fun h v => State.restoreDone_adapter, fun h step v => State.restoreDone_table⟩⟩
  intro job well d smap p s0 haddr hsmap hplace
  refine ⟨?_, ?_⟩
  · intro hs g hgroup hcount halign c n
    refine ⟨fun e => exec_restore_refused hs haddr hsmap hplace hgroup hcount halign, ?_⟩
    intro lb man u0 u1 u2 ps qs heads all fills es hlb hform hman hreport hmapping hps _ hheads hsteps hsess hall hgood hfills ha ht hse hnone
    have hreads : s0.SameButReads u2 :=
      (State.readManifest_reads hman).trans ((State.srcAll_reads hheads).2.trans (State.srcAll_reads hall).2)
    have hnone2 : (u2.job job).restores = [] := by
      rw [hreads.job_eq]
      exact (s.takenUp_restores job well).trans hnone
    obtain ⟨t, hexec, hwork⟩ := exec_restore_bare hs haddr hsmap hplace hgroup hcount halign (State.tensorList_read rfl hlb hform) hman hreport
      hmapping (State.restoreRead_intact hps hheads hsteps hsess hall hgood) hfills ha ht hse hnone2
    exact ⟨t, hexec, State.filledAt_work (s := s0) hreads hwork⟩
  · intro hs c g read
    refine ⟨exec_ckptFree_busy hs haddr hsmap hplace, fun man u hread hman => ?_⟩
    have hreads := State.readManifest_reads hman
    have hwork : s0.SameWork (u.ckptFreed u.node job smap man p g) := hreads.work.trans State.ckptFreed_work
    have hnode : s.node = u.node := hreads.node_eq.symm
    rw [hnode]
    exact ⟨_, exec_ckptFree_frees hs haddr hsmap hplace hread hman, hwork.sess, hwork.reqs, hwork.hbm, State.ckptFreed_manifest,
      fun e q => State.ckptFreed_shard, fun e q => State.ckptFreed_session⟩

end Sys2Proof.Machine
end
